-- ==== Sys2Proof/Word.lean ====
section
/-!
DEFINITION. The word types of the Kraunros 960 and their plainest arithmetic (00 R2; 04 R39).
-/
namespace Sys2Proof

/-- One byte of memory. -/
abbrev Byte := BitVec 8

/-- A 32-bit value: an instruction word, the value of a lane register, a bench register. -/
abbrev Word := BitVec 32

/-- A 64-bit value: a register pair, a virtual address, a packet field. -/
abbrev DWord := BitVec 64

/-- A predicate word, p0 in bit 0 (R20). -/
abbrev Preds := BitVec 96

end Sys2Proof
end

