-- ==== Sys2Proof/Syntax.lean ====
section
/-!
DEFINITION. The instructions of the Kraunros 960: one constructor for each row of the opcode table (04 R50, R57; 95).
A Plimus-D form (…D) holds the fields of its base word, a Plimus-L form (…L) those of its doubleword with register
numbers of 8 bits (R47). What surrounds every instruction alike, its guard and an L extension's wait mask and LAND bit
(R46, R51), is its `Prefix`, which the issuing unit holds while it issues. The constructors without a text are the events
of the module: whole, indivisible steps of its engines, schedulers, firmware and host; the state holds their arguments.
-/
namespace Sys2Proof

/-- What goes before an instruction's own fields: the guard's predicate number and its negation (R46, R51), and WMASK
and LAND of an L extension word (R46). A D base word has no WMASK and no LAND of its own. -/
structure Prefix where
  wait  : BitVec 8
  guard : BitVec 7
  neg   : Bool
  land  : Bool
  deriving DecidableEq, Repr

/-- The prefix of an unguarded instruction: its guard is p0, which reads 1 (R20). -/
def Prefix.plain : Prefix := { wait := 0, guard := 0, neg := false, land := false }

/-- A unit that issues: a sub-gang of a bound gang (R24), or a bin of loose fibres, which a handler fibre is alone in (R28, R284). -/
inductive UnitKind where
  | gang (gang sub : Nat)
  | bin (bin : Nat)
  deriving DecidableEq, Repr

/-- A unit of a crew, the crew named by its place in the list of crews. -/
structure UnitId where
  crew : Nat
  kind : UnitKind
  deriving DecidableEq, Repr

/-- A unit of hardware that a self-test names (R346). -/
inductive HwUnit where
  | core (n : Nat)
  | sequencer (n : Nat)
  | nearBank (stack channel : Nat)
  | l2Way (die way : Nat)
  | dramRow (pa : Nat)
  | commandCore (n : Nat)
  | strait (compute base : Nat)
  deriving DecidableEq, Repr

/-- The instructions and events, one constructor for each row of the opcode table. -/
inductive Instr where
  /-- Writes the sign-extended imm19 with S = 0 in every live fibre of the sub-gang (R64). -/
  | moviD (d : BitVec 6) (i : BitVec 19)
  /-- Writes imm19[12:0] into bits [31:19] of d; the other bits and S are unchanged (R64). -/
  | movhiD (d : BitVec 6) (i : BitVec 13)
  /-- Copies register a to d, keeping S or clearing it (R64). -/
  | movD (d : BitVec 6) (a : BitVec 6) (s : BitVec 3)
  /-- Reads a special register into d with S = 0 (R65). -/
  | sreadD (d : BitVec 6) (x : BitVec 9)
  /-- Privileged write of the low or high half of the core cycle counter, from the highest active lane (R66). -/
  | swriteD (a : BitVec 6) (x : BitVec 9)
  /-- Issues the following instruction count times, with stepped register numbers (R56). -/
  | repD (c : BitVec 6) (d : BitVec 2) (a : BitVec 2) (b : BitVec 2) (e : BitVec 2)
  /-- Branches the active lanes to a PC-relative target; the sub-gang splits when only some lanes take it (R68). -/
  | braD (o : BitVec 21)
  /-- Branches as BRA and writes the link to v7 (R68). -/
  | callD (o : BitVec 21)
  /-- Indirect jump or call to a per-lane target, after checking alignment, translation and LAND in every lane (R69). -/
  | brxD (a : BitVec 6) (c : BitVec 1)
  /-- Branches each active lane to its link; a trap-return link resumes the faulting gang (R70). -/
  | retD (a : BitVec 6)
  /-- Creates one loose fibre per active lane, waiting until its blocks can be granted (R73). -/
  | forkD (a : BitVec 6) (n : BitVec 4)
  /-- Creates loose fibres if they can be granted now, and reports success in a predicate (R73). -/
  | forkTryD (p : BitVec 6) (a : BitVec 6) (n : BitVec 4)
  /-- Raises a precise TRAP fault carrying its code (R72). -/
  | trapD (x : BitVec 9)
  /-- Raises a precise SYSC fault carrying its service code (R72). -/
  | syscD (x : BitVec 9)
  /-- Integer add: wrapping, 64-bit or saturating (R74). -/
  | iaddD (d : BitVec 6) (a : BitVec 6) (b : BitVec 6) (s : BitVec 3)
  /-- Integer subtract: wrapping, 64-bit or saturating (R74). -/
  | isubD (d : BitVec 6) (a : BitVec 6) (b : BitVec 6) (s : BitVec 3)
  /-- Integer multiply giving the low, high or 64-bit product (R75). -/
  | imulD (d : BitVec 6) (a : BitVec 6) (b : BitVec 6) (s : BitVec 3)
  /-- Integer multiply-add with addend d (R75). -/
  | imadD (d : BitVec 6) (a : BitVec 6) (b : BitVec 6)
  /-- Integer division truncating toward zero, without traps (R76). -/
  | idivD (d : BitVec 6) (a : BitVec 6) (b : BitVec 6) (s : BitVec 3)
  /-- Integer remainder with the sign of the dividend (R76). -/
  | iremD (d : BitVec 6) (a : BitVec 6) (b : BitVec 6) (s : BitVec 3)
  /-- Signed or unsigned minimum (R77). -/
  | iminD (d : BitVec 6) (a : BitVec 6) (b : BitVec 6) (s : BitVec 3)
  /-- Signed or unsigned maximum (R77). -/
  | imaxD (d : BitVec 6) (a : BitVec 6) (b : BitVec 6) (s : BitVec 3)
  /-- Bitwise AND (R78). -/
  | andD (d : BitVec 6) (a : BitVec 6) (b : BitVec 6)
  /-- Bitwise OR (R78). -/
  | orD (d : BitVec 6) (a : BitVec 6) (b : BitVec 6)
  /-- Bitwise XOR (R78). -/
  | xorD (d : BitVec 6) (a : BitVec 6) (b : BitVec 6)
  /-- Bitwise a AND NOT b (R78). -/
  | andnD (d : BitVec 6) (a : BitVec 6) (b : BitVec 6)
  /-- Shift left by a register count, 32- or 64-bit (R79). -/
  | shlD (d : BitVec 6) (a : BitVec 6) (b : BitVec 6) (s : BitVec 3)
  /-- Logical or arithmetic shift right, 32- or 64-bit (R79). -/
  | shrD (d : BitVec 6) (a : BitVec 6) (b : BitVec 6) (s : BitVec 3)
  /-- Rotate left by a register count (R79). -/
  | rotlD (d : BitVec 6) (a : BitVec 6) (b : BitVec 6)
  /-- Bit-field extract, zero- or sign-extended (R80). -/
  | bfxD (d : BitVec 6) (a : BitVec 6) (b : BitVec 6) (s : BitVec 3)
  /-- Adds a sign-extended imm9 (R74). -/
  | iaddiD (d : BitVec 6) (a : BitVec 6) (i : BitVec 9)
  /-- AND with a sign-extended imm9 (R78). -/
  | andiD (d : BitVec 6) (a : BitVec 6) (i : BitVec 9)
  /-- OR with a sign-extended imm9 (R78). -/
  | oriD (d : BitVec 6) (a : BitVec 6) (i : BitVec 9)
  /-- XOR with a sign-extended imm9 (R78). -/
  | xoriD (d : BitVec 6) (a : BitVec 6) (i : BitVec 9)
  /-- Shift left by an immediate count (R79). -/
  | shliD (d : BitVec 6) (a : BitVec 6) (i : BitVec 5)
  /-- Shift right by an immediate count, logical or arithmetic (R79). -/
  | shriD (d : BitVec 6) (a : BitVec 6) (h : BitVec 1) (i : BitVec 5)
  /-- Multiply by a sign-extended imm9, low 32 bits (R75). -/
  | imuliD (d : BitVec 6) (a : BitVec 6) (i : BitVec 9)
  /-- Computes a + (b << s) (R81). -/
  | leaD (d : BitVec 6) (a : BitVec 6) (b : BitVec 6) (s : BitVec 3)
  /-- Inserts a bit field into d (R80). -/
  | bfiD (d : BitVec 6) (a : BitVec 6) (b : BitVec 6)
  /-- Counts the set bits (R81). -/
  | popcD (d : BitVec 6) (a : BitVec 6)
  /-- Counts the leading zeros (R81). -/
  | clzD (d : BitVec 6) (a : BitVec 6)
  /-- Reverses the bit order (R81). -/
  | brevD (d : BitVec 6) (a : BitVec 6)
  /-- Integer absolute value modulo 2^32 (R81). -/
  | iabsD (d : BitVec 6) (a : BitVec 6)
  /-- Selects a or b by a predicate p0-p7 (R81). -/
  | selD (d : BitVec 6) (a : BitVec 6) (b : BitVec 6) (s : BitVec 3)
  /-- Signed or equality integer compare into a predicate (R82). -/
  | icmpD (p : BitVec 7) (a : BitVec 6) (b : BitVec 6) (c : BitVec 2)
  /-- Unsigned integer compare into a predicate (R82). -/
  | icmpuD (p : BitVec 7) (a : BitVec 6) (b : BitVec 6) (c : BitVec 2)
  /-- FP32 add, rounded once in the encoded mode (R213). -/
  | faddD (d : BitVec 6) (a : BitVec 6) (b : BitVec 6) (s : BitVec 3)
  /-- FP32 subtract, rounded once (R213). -/
  | fsubD (d : BitVec 6) (a : BitVec 6) (b : BitVec 6) (s : BitVec 3)
  /-- FP32 multiply, rounded once (R213). -/
  | fmulD (d : BitVec 6) (a : BitVec 6) (b : BitVec 6) (s : BitVec 3)
  /-- Fused FP32 multiply-add with addend d (R213). -/
  | ffmaD (d : BitVec 6) (a : BitVec 6) (b : BitVec 6) (s : BitVec 3)
  /-- FP32 minimum, NaN-propagating or number-preferring (R215). -/
  | fminD (d : BitVec 6) (a : BitVec 6) (b : BitVec 6) (s : BitVec 3)
  /-- FP32 maximum, NaN-propagating or number-preferring (R215). -/
  | fmaxD (d : BitVec 6) (a : BitVec 6) (b : BitVec 6) (s : BitVec 3)
  /-- FP32 compare into a predicate (R216). -/
  | fcmpD (p : BitVec 7) (a : BitVec 6) (b : BitVec 6) (c : BitVec 2)
  /-- FP32 compare into pd, with the OR of the sources' S into pd + 1 (R217). -/
  | fcmpxD (p : BitVec 7) (a : BitVec 6) (b : BitVec 6) (c : BitVec 2)
  /-- Correctly rounded special function of a (R218). -/
  | fspfD (d : BitVec 6) (a : BitVec 6) (s : BitVec 3)
  /-- Sign manipulation: abs, neg, nabs or copysign (R219). -/
  | fsgnD (d : BitVec 6) (a : BitVec 6) (b : BitVec 6) (s : BitVec 3)
  /-- Packed BF16 or FP16 add (R220). -/
  | hadd2D (d : BitVec 6) (a : BitVec 6) (b : BitVec 6) (s : BitVec 3)
  /-- Packed BF16 or FP16 multiply (R220). -/
  | hmul2D (d : BitVec 6) (a : BitVec 6) (b : BitVec 6) (s : BitVec 3)
  /-- Packed fused multiply-add with addend d (R220). -/
  | hfma2D (d : BitVec 6) (a : BitVec 6) (b : BitVec 6) (s : BitVec 3)
  /-- Packed NaN-propagating minimum or maximum (R221). -/
  | hmnx2D (d : BitVec 6) (a : BitVec 6) (b : BitVec 6) (y : BitVec 1) (t : BitVec 1)
  /-- Format conversion, carried or final (R224). -/
  | cvtD (d : BitVec 6) (a : BitVec 6) (f : BitVec 3) (h : BitVec 3) (m : BitVec 3)
  /-- Inserts the low byte or half of a into d (R225). -/
  | pkbD (d : BitVec 6) (a : BitVec 6) (w : BitVec 1) (n : BitVec 2)
  /-- Copies a value, with its S, from another lane of the tile (R88). -/
  | shflD (d : BitVec 6) (a : BitVec 6) (b : BitVec 6) (s : BitVec 3)
  /-- OR of a predicate over the tile, with a mismatch predicate (R89). -/
  | vanyD (p : BitVec 7) (q : BitVec 7) (r : BitVec 7)
  /-- AND of a predicate over the tile, with a mismatch predicate (R89). -/
  | vallD (p : BitVec 7) (q : BitVec 7) (r : BitVec 7)
  /-- Ballot of a predicate over the tile into d (R90). -/
  | vbalD (d : BitVec 6) (p : BitVec 7)
  /-- Reduction across the tile in a fixed tree (R91). -/
  | redlD (d : BitVec 6) (a : BitVec 6) (s : BitVec 3)
  /-- Sets the partition code of the active fibres (R87). -/
  | setpartD (x : BitVec 9)
  /-- Predicate AND (R83). -/
  | pandD (p : BitVec 7) (q : BitVec 7) (r : BitVec 7)
  /-- Predicate OR (R83). -/
  | porD (p : BitVec 7) (q : BitVec 7) (r : BitVec 7)
  /-- Predicate XOR (R83). -/
  | pxorD (p : BitVec 7) (q : BitVec 7) (r : BitVec 7)
  /-- Predicate AND NOT (R83). -/
  | pandnD (p : BitVec 7) (q : BitVec 7) (r : BitVec 7)
  /-- Reads a predicate word into d (R84). -/
  | prdD (d : BitVec 6) (x : BitVec 9)
  /-- Writes a predicate word from a (R84). -/
  | pwrD (a : BitVec 6) (x : BitVec 9)
  /-- Copies S of a into a predicate (R85). -/
  | stkrdD (p : BitVec 7) (a : BitVec 6)
  /-- Clears, sets or ORs the S of d (R85). -/
  | stksetD (d : BitVec 6) (a : BitVec 6) (x : BitVec 9)
  /-- Global load with the chosen size and cache mode (R163). -/
  | ldD (d : BitVec 6) (a : BitVec 6) (z : BitVec 3) (m : BitVec 2) (o : BitVec 4)
  /-- Global store of the value without S (R164). -/
  | stD (d : BitVec 6) (a : BitVec 6) (z : BitVec 3) (m : BitVec 2) (o : BitVec 4)
  /-- Scratchpad load: plain, wait-full or consume (R168). -/
  | ldsD (d : BitVec 6) (a : BitVec 6) (z : BitVec 3) (m : BitVec 2) (o : BitVec 4)
  /-- Scratchpad store: plain, fill or wait-empty then fill (R168). -/
  | stsD (d : BitVec 6) (a : BitVec 6) (z : BitVec 3) (m : BitVec 2) (o : BitVec 4)
  /-- Acquire load of the encoded scope (R169). -/
  | ldaqD (d : BitVec 6) (a : BitVec 6) (z : BitVec 3) (k : BitVec 3) (o : BitVec 3)
  /-- Release store of the encoded scope (R169). -/
  | strlD (d : BitVec 6) (a : BitVec 6) (z : BitVec 3) (k : BitVec 3) (o : BitVec 3)
  /-- Global 32-bit read-modify-write at the home slice (R170). -/
  | atomD (d : BitVec 6) (a : BitVec 6) (b : BitVec 6) (s : BitVec 3)
  /-- Scratchpad 32-bit read-modify-write (R170). -/
  | atomsD (d : BitVec 6) (a : BitVec 6) (b : BitVec 6) (s : BitVec 3)
  /-- Full, acquire or release fence of a scope, optionally observing the gang's tokens first (R171). -/
  | fenceD (e : BitVec 1) (k : BitVec 2) (c : BitVec 3)
  /-- Prefetches a line into L1 or L2; never faults (R165). -/
  | prefD (a : BitVec 6) (m : BitVec 2) (o : BitVec 4)
  /-- Prefetches instruction lines at a target; never faults on the target (R173). -/
  | iprefD (o : BitVec 21)
  /-- Queries the translation, executor and generation of a VA without faulting (R110). -/
  | xlqD (d : BitVec 6) (a : BitVec 6)
  /-- Stores the register image, value and S (R166). -/
  | stxD (d : BitVec 6) (a : BitVec 6) (m : BitVec 2) (o : BitVec 4)
  /-- Restores a register's value and S from an image (R166). -/
  | ldxD (d : BitVec 6) (a : BitVec 6) (m : BitVec 2) (o : BitVec 4)
  /-- Final conversion of a carried value and store, as one instruction (R167). -/
  | stcD (d : BitVec 6) (a : BitVec 6) (f : BitVec 3) (e : BitVec 3) (o : BitVec 3)
  /-- Starts an asynchronous copy per lane on a token (R182). -/
  | cpaD (a : BitVec 6) (b : BitVec 6) (n : BitVec 2) (t : BitVec 3) (s : BitVec 4)
  /-- Waits until the named tokens are complete, then observes them (R185). -/
  | waittD (k : BitVec 8)
  /-- Tests whether a token is complete or pending, without waiting (R186). -/
  | tokqD (p : BitVec 7) (a : BitVec 6) (c : BitVec 2)
  /-- Issues an E4M3 matrix product into a tile on a token (R237). -/
  | mmaf8aD (a : BitVec 6) (t : BitVec 3)
  /-- Issues an E5M2 matrix product into a tile (R237). -/
  | mmaf8bD (a : BitVec 6) (t : BitVec 3)
  /-- Issues a scaled MK8 matrix product, capturing the scale bytes from registers (R236). -/
  | mmak8D (a : BitVec 6) (b : BitVec 6) (n : BitVec 2) (t : BitVec 3)
  /-- Issues a BF16 matrix product into a tile (R237). -/
  | mmab16D (a : BitVec 6) (t : BitVec 3)
  /-- Issues an FP16 matrix product into a tile (R237). -/
  | mmah16D (a : BitVec 6) (t : BitVec 3)
  /-- Issues an INT8 matrix product into an INT32 tile (R237). -/
  | mmai8D (a : BitVec 6) (t : BitVec 3)
  /-- Reads and converts one accumulator element per lane (R241). -/
  | accrdD (d : BitVec 6) (a : BitVec 6) (f : BitVec 3) (e : BitVec 3)
  /-- Writes a register value with its S to an accumulator element (R242). -/
  | accwrD (d : BitVec 6) (a : BitVec 6)
  /-- Zeroes a whole tile with S = 0 (R243). -/
  | acczD (n : BitVec 7)
  /-- Issues a store of a whole tile with final conversion, on a token (R244). -/
  | accstD (a : BitVec 6) (t : BitVec 3)
  /-- Placed integer line operation, run at the destination's executor (R112). -/
  | pliD (d : BitVec 6) (a : BitVec 6) (b : BitVec 6) (s : BitVec 3)
  /-- Placed FP32 line operation (R112). -/
  | plfD (d : BitVec 6) (a : BitVec 6) (b : BitVec 6) (s : BitVec 3)
  /-- Contributes a value to a reduce-state element at its executor (R114). -/
  | plredD (d : BitVec 6) (a : BitVec 6) (s : BitVec 3)
  /-- Grows the windows by n blocks, waiting for a grant (R261). -/
  | regacqWaitD (n : BitVec 4)
  /-- Grows the windows if a grant is possible now; reports the result in a predicate (R261). -/
  | regacqTryD (p : BitVec 6) (n : BitVec 4)
  /-- Shrinks the windows by n blocks (R262). -/
  | regrelD (n : BitVec 4)
  /-- Records a crew migration request for a core kind (R257). -/
  | migrD (k : BitVec 1)
  /-- Arrives at a crew barrier and waits for its phase (R174). -/
  | barD (n : BitVec 4)
  /-- Arrives at a scratchpad barrier object as a release read-modify-write (R177). -/
  | arvD (d : BitVec 6) (a : BitVec 6) (b : BitVec 6)
  /-- Waits until a barrier object's phase differs from the given parity (R178). -/
  | awtD (d : BitVec 6) (a : BitVec 6) (b : BitVec 6)
  /-- Reads a bench register (R180). -/
  | brdD (d : BitVec 6) (k : BitVec 6)
  /-- Writes a bench register from the highest active lane (R180). -/
  | bwrD (a : BitVec 6) (k : BitVec 6)
  /-- Atomic read-modify-write on a bench register (R180). -/
  | batomD (d : BitVec 6) (a : BitVec 6) (o : BitVec 3) (k : BitVec 6)
  /-- Reads a word of the launch's feature view (R330). -/
  | featqD (d : BitVec 6) (x : BitVec 9)
  /-- Draws work ranges from a counter record, lane by lane (R117). -/
  | chunkD (d : BitVec 6) (a : BitVec 6)
  /-- Plimus-L form of MOVI (R64). -/
  | moviL (d : BitVec 8) (i : BitVec 19)
  /-- Plimus-L form of MOVHI (R64). -/
  | movhiL (d : BitVec 8) (i : BitVec 13)
  /-- Plimus-L form of MOV (R64). -/
  | movL (d : BitVec 8) (a : BitVec 8) (s : BitVec 3)
  /-- Plimus-L form of SREAD (R65). -/
  | sreadL (d : BitVec 8) (x : BitVec 9)
  /-- Plimus-L form of SWRITE (R66). -/
  | swriteL (a : BitVec 8) (x : BitVec 9)
  /-- Plimus-L form of REP, with a step for the addend c (R56). -/
  | repL (c : BitVec 6) (d : BitVec 2) (a : BitVec 2) (b : BitVec 2) (e : BitVec 2)
  /-- Plimus-L form of BRA (R68). -/
  | braL (o : BitVec 21)
  /-- Plimus-L form of CALL (R68). -/
  | callL (o : BitVec 21)
  /-- Plimus-L form of BRX (R69). -/
  | brxL (a : BitVec 8) (c : BitVec 1)
  /-- Plimus-L form of RET (R70). -/
  | retL (a : BitVec 8)
  /-- Plimus-L form of plain FORK (R73). -/
  | forkL (a : BitVec 8) (n : BitVec 4)
  /-- Plimus-L form of FORK.try, with the result predicate in DH:d (R73). -/
  | forkTryL (p : BitVec 8) (a : BitVec 8) (n : BitVec 4)
  /-- Plimus-L form of TRAP (R72). -/
  | trapL (x : BitVec 9)
  /-- Plimus-L form of SYSC (R72). -/
  | syscL (x : BitVec 9)
  /-- Plimus-L form of IADD (R74). -/
  | iaddL (d : BitVec 8) (a : BitVec 8) (b : BitVec 8) (s : BitVec 3)
  /-- Plimus-L form of ISUB (R74). -/
  | isubL (d : BitVec 8) (a : BitVec 8) (b : BitVec 8) (s : BitVec 3)
  /-- Plimus-L form of IMUL (R75). -/
  | imulL (d : BitVec 8) (a : BitVec 8) (b : BitVec 8) (s : BitVec 3)
  /-- Plimus-L form of IMAD, with a free addend c (R75). -/
  | imadL (d : BitVec 8) (a : BitVec 8) (b : BitVec 8) (c : BitVec 8)
  /-- Plimus-L form of IDIV (R76). -/
  | idivL (d : BitVec 8) (a : BitVec 8) (b : BitVec 8) (s : BitVec 3)
  /-- Plimus-L form of IREM (R76). -/
  | iremL (d : BitVec 8) (a : BitVec 8) (b : BitVec 8) (s : BitVec 3)
  /-- Plimus-L form of IMIN (R77). -/
  | iminL (d : BitVec 8) (a : BitVec 8) (b : BitVec 8) (s : BitVec 3)
  /-- Plimus-L form of IMAX (R77). -/
  | imaxL (d : BitVec 8) (a : BitVec 8) (b : BitVec 8) (s : BitVec 3)
  /-- Plimus-L form of AND (R78). -/
  | andL (d : BitVec 8) (a : BitVec 8) (b : BitVec 8)
  /-- Plimus-L form of OR (R78). -/
  | orL (d : BitVec 8) (a : BitVec 8) (b : BitVec 8)
  /-- Plimus-L form of XOR (R78). -/
  | xorL (d : BitVec 8) (a : BitVec 8) (b : BitVec 8)
  /-- Plimus-L form of ANDN (R78). -/
  | andnL (d : BitVec 8) (a : BitVec 8) (b : BitVec 8)
  /-- Plimus-L form of SHL (R79). -/
  | shlL (d : BitVec 8) (a : BitVec 8) (b : BitVec 8) (s : BitVec 3)
  /-- Plimus-L form of SHR (R79). -/
  | shrL (d : BitVec 8) (a : BitVec 8) (b : BitVec 8) (s : BitVec 3)
  /-- Plimus-L form of ROTL (R79). -/
  | rotlL (d : BitVec 8) (a : BitVec 8) (b : BitVec 8)
  /-- Plimus-L form of BFX (R80). -/
  | bfxL (d : BitVec 8) (a : BitVec 8) (b : BitVec 8) (s : BitVec 3)
  /-- Plimus-L form of IADDI (R74). -/
  | iaddiL (d : BitVec 8) (a : BitVec 8) (i : BitVec 9)
  /-- Plimus-L form of ANDI (R78). -/
  | andiL (d : BitVec 8) (a : BitVec 8) (i : BitVec 9)
  /-- Plimus-L form of ORI (R78). -/
  | oriL (d : BitVec 8) (a : BitVec 8) (i : BitVec 9)
  /-- Plimus-L form of XORI (R78). -/
  | xoriL (d : BitVec 8) (a : BitVec 8) (i : BitVec 9)
  /-- Plimus-L form of SHLI (R79). -/
  | shliL (d : BitVec 8) (a : BitVec 8) (i : BitVec 5)
  /-- Plimus-L form of SHRI (R79). -/
  | shriL (d : BitVec 8) (a : BitVec 8) (h : BitVec 1) (i : BitVec 5)
  /-- Plimus-L form of IMULI (R75). -/
  | imuliL (d : BitVec 8) (a : BitVec 8) (i : BitVec 9)
  /-- Plimus-L form of LEA (R81). -/
  | leaL (d : BitVec 8) (a : BitVec 8) (b : BitVec 8) (s : BitVec 3)
  /-- Plimus-L form of BFI (R80). -/
  | bfiL (d : BitVec 8) (a : BitVec 8) (b : BitVec 8)
  /-- Plimus-L form of POPC (R81). -/
  | popcL (d : BitVec 8) (a : BitVec 8)
  /-- Plimus-L form of CLZ (R81). -/
  | clzL (d : BitVec 8) (a : BitVec 8)
  /-- Plimus-L form of BREV (R81). -/
  | brevL (d : BitVec 8) (a : BitVec 8)
  /-- Plimus-L form of IABS (R81). -/
  | iabsL (d : BitVec 8) (a : BitVec 8)
  /-- Plimus-L form of SEL (R81). -/
  | selL (d : BitVec 8) (a : BitVec 8) (b : BitVec 8) (s : BitVec 3)
  /-- Plimus-L form of ICMP (R82). -/
  | icmpL (p : BitVec 7) (a : BitVec 8) (b : BitVec 8) (c : BitVec 2)
  /-- Plimus-L form of ICMPU (R82). -/
  | icmpuL (p : BitVec 7) (a : BitVec 8) (b : BitVec 8) (c : BitVec 2)
  /-- Plimus-L form of FADD (R213). -/
  | faddL (d : BitVec 8) (a : BitVec 8) (b : BitVec 8) (s : BitVec 3)
  /-- Plimus-L form of FSUB (R213). -/
  | fsubL (d : BitVec 8) (a : BitVec 8) (b : BitVec 8) (s : BitVec 3)
  /-- Plimus-L form of FMUL (R213). -/
  | fmulL (d : BitVec 8) (a : BitVec 8) (b : BitVec 8) (s : BitVec 3)
  /-- Plimus-L form of FFMA, with a free addend c (R213). -/
  | ffmaL (d : BitVec 8) (a : BitVec 8) (b : BitVec 8) (s : BitVec 3) (c : BitVec 8)
  /-- Plimus-L form of FMIN (R215). -/
  | fminL (d : BitVec 8) (a : BitVec 8) (b : BitVec 8) (s : BitVec 3)
  /-- Plimus-L form of FMAX (R215). -/
  | fmaxL (d : BitVec 8) (a : BitVec 8) (b : BitVec 8) (s : BitVec 3)
  /-- Plimus-L form of FCMP (R216). -/
  | fcmpL (p : BitVec 7) (a : BitVec 8) (b : BitVec 8) (c : BitVec 2)
  /-- Plimus-L form of FCMPX (R217). -/
  | fcmpxL (p : BitVec 7) (a : BitVec 8) (b : BitVec 8) (c : BitVec 2)
  /-- Plimus-L form of FSPF (R218). -/
  | fspfL (d : BitVec 8) (a : BitVec 8) (s : BitVec 3)
  /-- Plimus-L form of FSGN (R219). -/
  | fsgnL (d : BitVec 8) (a : BitVec 8) (b : BitVec 8) (s : BitVec 3)
  /-- Plimus-L form of HADD2 (R220). -/
  | hadd2L (d : BitVec 8) (a : BitVec 8) (b : BitVec 8) (s : BitVec 3)
  /-- Plimus-L form of HMUL2 (R220). -/
  | hmul2L (d : BitVec 8) (a : BitVec 8) (b : BitVec 8) (s : BitVec 3)
  /-- Plimus-L form of HFMA2, with a free addend c (R220). -/
  | hfma2L (d : BitVec 8) (a : BitVec 8) (b : BitVec 8) (s : BitVec 3) (c : BitVec 8)
  /-- Plimus-L form of HMNX2 (R221). -/
  | hmnx2L (d : BitVec 8) (a : BitVec 8) (b : BitVec 8) (y : BitVec 1) (t : BitVec 1)
  /-- Plimus-L form of CVT (R224). -/
  | cvtL (d : BitVec 8) (a : BitVec 8) (f : BitVec 3) (h : BitVec 3) (m : BitVec 3)
  /-- Plimus-L form of PKB (R225). -/
  | pkbL (d : BitVec 8) (a : BitVec 8) (w : BitVec 1) (n : BitVec 2)
  /-- Plimus-L form of SHFL (R88). -/
  | shflL (d : BitVec 8) (a : BitVec 8) (b : BitVec 8) (s : BitVec 3)
  /-- Plimus-L form of VANY (R89). -/
  | vanyL (p : BitVec 7) (q : BitVec 7) (r : BitVec 7)
  /-- Plimus-L form of VALL (R89). -/
  | vallL (p : BitVec 7) (q : BitVec 7) (r : BitVec 7)
  /-- Plimus-L form of VBAL (R90). -/
  | vbalL (d : BitVec 8) (p : BitVec 7)
  /-- Plimus-L form of REDL (R91). -/
  | redlL (d : BitVec 8) (a : BitVec 8) (s : BitVec 3)
  /-- Plimus-L form of SETPART (R87). -/
  | setpartL (x : BitVec 9)
  /-- Plimus-L form of PAND (R83). -/
  | pandL (p : BitVec 7) (q : BitVec 7) (r : BitVec 7)
  /-- Plimus-L form of POR (R83). -/
  | porL (p : BitVec 7) (q : BitVec 7) (r : BitVec 7)
  /-- Plimus-L form of PXOR (R83). -/
  | pxorL (p : BitVec 7) (q : BitVec 7) (r : BitVec 7)
  /-- Plimus-L form of PANDN (R83). -/
  | pandnL (p : BitVec 7) (q : BitVec 7) (r : BitVec 7)
  /-- Plimus-L form of PRD (R84). -/
  | prdL (d : BitVec 8) (x : BitVec 9)
  /-- Plimus-L form of PWR (R84). -/
  | pwrL (a : BitVec 8) (x : BitVec 9)
  /-- Plimus-L form of STKRD (R85). -/
  | stkrdL (p : BitVec 7) (a : BitVec 8)
  /-- Plimus-L form of STKSET (R85). -/
  | stksetL (d : BitVec 8) (a : BitVec 8) (x : BitVec 9)
  /-- Plimus-L form of LD (R163). -/
  | ldL (d : BitVec 8) (a : BitVec 8) (z : BitVec 3) (m : BitVec 2) (o : BitVec 4)
  /-- Plimus-L form of ST (R164). -/
  | stL (d : BitVec 8) (a : BitVec 8) (z : BitVec 3) (m : BitVec 2) (o : BitVec 4)
  /-- Plimus-L form of LDS (R168). -/
  | ldsL (d : BitVec 8) (a : BitVec 8) (z : BitVec 3) (m : BitVec 2) (o : BitVec 4)
  /-- Plimus-L form of STS (R168). -/
  | stsL (d : BitVec 8) (a : BitVec 8) (z : BitVec 3) (m : BitVec 2) (o : BitVec 4)
  /-- Plimus-L form of LDAQ (R169). -/
  | ldaqL (d : BitVec 8) (a : BitVec 8) (z : BitVec 3) (k : BitVec 3) (o : BitVec 3)
  /-- Plimus-L form of STRL (R169). -/
  | strlL (d : BitVec 8) (a : BitVec 8) (z : BitVec 3) (k : BitVec 3) (o : BitVec 3)
  /-- Plimus-L form of ATOM (R170). -/
  | atomL (d : BitVec 8) (a : BitVec 8) (b : BitVec 8) (s : BitVec 3)
  /-- Plimus-L form of ATOMS (R170). -/
  | atomsL (d : BitVec 8) (a : BitVec 8) (b : BitVec 8) (s : BitVec 3)
  /-- Plimus-L form of FENCE (R171). -/
  | fenceL (e : BitVec 1) (k : BitVec 2) (c : BitVec 3)
  /-- Plimus-L form of PREF (R165). -/
  | prefL (a : BitVec 8) (m : BitVec 2) (o : BitVec 4)
  /-- Plimus-L form of IPREF (R173). -/
  | iprefL (o : BitVec 21)
  /-- Plimus-L form of XLQ (R110). -/
  | xlqL (d : BitVec 8) (a : BitVec 8)
  /-- Plimus-L form of STX (R166). -/
  | stxL (d : BitVec 8) (a : BitVec 8) (m : BitVec 2) (o : BitVec 4)
  /-- Plimus-L form of LDX (R166). -/
  | ldxL (d : BitVec 8) (a : BitVec 8) (m : BitVec 2) (o : BitVec 4)
  /-- Plimus-L form of STC (R167). -/
  | stcL (d : BitVec 8) (a : BitVec 8) (f : BitVec 3) (e : BitVec 3) (o : BitVec 3)
  /-- Plimus-L form of CPA (R182). -/
  | cpaL (a : BitVec 8) (b : BitVec 8) (n : BitVec 2) (t : BitVec 3) (s : BitVec 4)
  /-- Plimus-L form of WAITT (R185). -/
  | waittL (k : BitVec 8)
  /-- Plimus-L form of TOKQ (R186). -/
  | tokqL (p : BitVec 7) (a : BitVec 6) (c : BitVec 2)
  /-- Plimus-L form of MMAF8A (R237). -/
  | mmaf8aL (a : BitVec 8) (t : BitVec 3)
  /-- Plimus-L form of MMAF8B (R237). -/
  | mmaf8bL (a : BitVec 8) (t : BitVec 3)
  /-- Plimus-L form of MMAK8 (R236). -/
  | mmak8L (a : BitVec 8) (b : BitVec 8) (n : BitVec 2) (t : BitVec 3)
  /-- Plimus-L form of MMAB16 (R237). -/
  | mmab16L (a : BitVec 8) (t : BitVec 3)
  /-- Plimus-L form of MMAH16 (R237). -/
  | mmah16L (a : BitVec 8) (t : BitVec 3)
  /-- Plimus-L form of MMAI8 (R237). -/
  | mmai8L (a : BitVec 8) (t : BitVec 3)
  /-- Plimus-L form of ACCRD (R241). -/
  | accrdL (d : BitVec 8) (a : BitVec 8) (f : BitVec 3) (e : BitVec 3)
  /-- Plimus-L form of ACCWR (R242). -/
  | accwrL (d : BitVec 8) (a : BitVec 8)
  /-- Plimus-L form of ACCZ (R243). -/
  | acczL (n : BitVec 7)
  /-- Plimus-L form of ACCST (R244). -/
  | accstL (a : BitVec 8) (t : BitVec 3)
  /-- Plimus-L form of PLI (R112). -/
  | pliL (d : BitVec 8) (a : BitVec 8) (b : BitVec 8) (s : BitVec 3)
  /-- Plimus-L form of PLF (R112). -/
  | plfL (d : BitVec 8) (a : BitVec 8) (b : BitVec 8) (s : BitVec 3)
  /-- Plimus-L form of PLRED (R114). -/
  | plredL (d : BitVec 8) (a : BitVec 8) (s : BitVec 3)
  /-- Plimus-L form of REGACQ.wait (R261). -/
  | regacqWaitL (n : BitVec 4)
  /-- Plimus-L form of REGACQ.try, with the result predicate in DH:d (R261). -/
  | regacqTryL (p : BitVec 8) (n : BitVec 4)
  /-- Plimus-L form of REGREL (R262). -/
  | regrelL (n : BitVec 4)
  /-- Plimus-L form of MIGR (R257). -/
  | migrL (k : BitVec 1)
  /-- Plimus-L form of BAR (R174). -/
  | barL (n : BitVec 4)
  /-- Plimus-L form of ARV (R177). -/
  | arvL (d : BitVec 8) (a : BitVec 8) (b : BitVec 8)
  /-- Plimus-L form of AWT (R178). -/
  | awtL (d : BitVec 8) (a : BitVec 8) (b : BitVec 8)
  /-- Plimus-L form of BRD (R180). -/
  | brdL (d : BitVec 8) (k : BitVec 6)
  /-- Plimus-L form of BWR (R180). -/
  | bwrL (a : BitVec 8) (k : BitVec 6)
  /-- Plimus-L form of BATOM (R180). -/
  | batomL (d : BitVec 8) (a : BitVec 8) (o : BitVec 3) (k : BitVec 6)
  /-- Plimus-L form of FEATQ (R330). -/
  | featqL (d : BitVec 8) (x : BitVec 9)
  /-- Plimus-L form of CHUNK (R117). -/
  | chunkL (d : BitVec 8) (a : BitVec 8)
  /-- L-only dovetail marker; updates the fibre's dovetail marker, or stops the fibre under a pending migration request (R260). -/
  | dvtL (k : BitVec 11)
  /-- Plimus-D no-operation; has no effect (R64). -/
  | nopD
  /-- Ends the fibres of the active lanes and returns their window blocks (R71). -/
  | endD
  /-- Waits for the gang's engine operations, then invalidates the instruction cache (R172). -/
  | ifenceD
  /-- Privileged: advances the address-space generation at every die and waits for it (R107). -/
  | genbumpD
  /-- Privileged: checkpoints the crew without moving it (R298). -/
  | ckptD
  /-- Privileged: ends the launch with cause HALT (R299). -/
  | haltD
  /-- Plimus-L doubleword form of NOP (R64). -/
  | nopL
  /-- Plimus-L form of END (R71). -/
  | endL
  /-- Plimus-L form of IFENCE (R172). -/
  | ifenceL
  /-- Plimus-L form of GENBUMP (R107). -/
  | genbumpL
  /-- Plimus-L form of CKPT (R298). -/
  | ckptL
  /-- Plimus-L form of HALT (R299). -/
  | haltL
  /-- Control enters a D clause; the header and the clause's base words are checked before any instruction issues (R41). -/
  | clauseEntry
  /-- A gang waiting on tokens, by WAITT or a clause or extension wait, resumes once they are complete (R43). -/
  | tokenWaitResume
  /-- Returned blocks let pending REGACQ.wait and waiting FORK requests be granted in arrival order (R35). -/
  | registerGrant
  /-- When every gang is stalled on register grants and nothing returns blocks, the fault is raised on the oldest requester's crew (R36). -/
  | regDeadlock
  /-- A bin that has not changed for 256 core cycles becomes eligible to issue (R28). -/
  | binAgeExpiry
  /-- The oldest eligible bin of loose fibres issues as a gang (R28). -/
  | binIssue
  /-- A freed active slot goes to the ready pending gang that has waited through the most swaps (R276). -/
  | gangSlotSwap
  /-- An engine writes the destination bytes of an owned line, and the accesses held at the home are then performed (R153). -/
  | engineLineWrite
  /-- An engine writes a scratchpad granule and sets it full, as one step (R154). -/
  | scratchGranuleLanding
  /-- Every lane copy of a CPA has written, and its token count falls (R182). -/
  | copyComplete
  /-- A copy access fails after retirement; its lanes are abandoned and the fault is attached to the token (R183). -/
  | deferredCopyFault
  /-- The matrix engine adds one K-block's contributions into the tile (R237). -/
  | mmaBlockAdd
  /-- The engine converts and writes one row of the tile (R244). -/
  | accstRowWrite
  /-- An access reaches a base die or the I/O die, which accepts it only when its generation tag is current (R105). -/
  | homeAccessArrival
  /-- An accepted line part is computed at its executor and written atomically (R112). -/
  | placedPartExecute
  /-- PLRED partials are merged into the element at eviction or before another kind of access (R114). -/
  | reduceStateMerge
  /-- Every die holds the new generation and old-generation accesses have drained, so GENBUMP completes (R107). -/
  | genbumpComplete
  /-- A write arriving through a Tchikinar port is performed at its home as a system-scope release of the sender (R150). -/
  | portWriteArrival
  /-- A read arriving through a port is performed without passing earlier writes of that port (R150). -/
  | portReadArrival
  /-- An ATOM from a peer is performed at the L2 home, atomically for both modules (R149). -/
  | peerAtomArrival
  /-- Writes the fault record and creates the privileged handler fibre, one fault per crew at a time (R284). -/
  | faultDelivery
  /-- Stops every crew of the launch, drops unplaced crews and sets the signal to the ending cause (R288). -/
  | launchEndWithCause
  /-- Firmware stops a crew at its stopping points, saves it and releases its resources (R289). -/
  | preemption
  /-- Checks the saved context, then restores it on a fitting core and reissues saved engine records (R290). -/
  | crewRestore
  /-- Firmware takes a checkpoint of a crew on request, without moving it (R298). -/
  | firmwareCheckpoint
  /-- When every live fibre is stopped at a dovetail point, the crew is saved, placed on the requested kind and mapped (R258). -/
  | migration
  /-- An instruction unsupported on a stack sequencer moves the whole crew to a density core (R265). -/
  | returnTrap
  /-- The placer chooses the next queue and places a crew on a fitting core (R273). -/
  | crewPlacement
  /-- A core's scratchpad and L1 split changes once outstanding fills or allocations allow (R124). -/
  | carveOutChange
  /-- A write to a queue's notify register records the value and wakes the queue (R304). -/
  | notify
  /-- A command core acquires the header at the read index, reads the body and writes VALID back as 0 (R304). -/
  | packetTake
  /-- A validated LAUNCH packet starts, in index order and after any barrier (R302). -/
  | launch
  /-- A CMDBLOCK packet starts and runs its command list (R316). -/
  | cmdblock
  /-- A command-block COPY writes its destination from its source (R316). -/
  | copy
  /-- A command-block FILL writes a 32-bit word over its destination (R316). -/
  | fill
  /-- A SIGNAL packet adds to or sets a signal as a system-scope release (R315). -/
  | signal
  /-- A WAITSIG packet acquires its signal and waits for the condition (R318). -/
  | waitsig
  /-- After a write to a watched signal's line, the WAITSIG condition is evaluated again (R318). -/
  | waitsigReevaluate
  /-- A NOP packet completes at start (R315). -/
  | nopPacket
  /-- After the last crew ends and its engines complete, the signal is decremented as a system-scope release (R305). -/
  | launchCompletionSignal
  /-- The THAW control bit clears FROZEN and resumes processing at the read index (R311). -/
  | thaw
  /-- The ABANDON control bit ends a stalled command block or a waiting WAITSIG (R311). -/
  | abandon
  /-- A write to a graph's kick register applies its patches, re-validates the nodes and starts a replay (R320). -/
  | graphKick
  /-- A completed node fills its results, empties its inputs and may complete the replay (R320). -/
  | graphNodeCompletion
  /-- At a comparison point both copies' signatures are compared, and one buffer drains on a match (R341). -/
  | pairComparison
  /-- A protected launch stops, restores its snapshot, bumps the generation and restarts (R344). -/
  | protectedRollback
  /-- Firmware takes a unit out of service after a logged error, tests it and fences it or returns it (R346). -/
  | unitSelfTest
  /-- Firmware lowers or raises an island's clock (R352). -/
  | islandClockChange
  /-- The host sets the module's power cap through a firmware service (R353). -/
  | powerCapSet
  /-- A die at its thermal limit makes the always-on domain pre-empt every resident crew (R353). -/
  | thermalLimit
  /-- The security processor produces a signed attestation report for a nonce (R349). -/
  | attestationReport
  /-- The security processor generates an ASID's key when the ASID is initialised, and destroys it on release (R350). -/
  | asidKeyInit
  /-- A write to a bring-up base register, ignored once LOCK is set (R356). -/
  | baseRegisterWrite
  /-- A write to a register that has no behaviour of its own (R356). -/
  | registerWrite
  /-- Module reset ends every launch without signalling it and clears fences, clocks and locks (R358). -/
  | moduleReset
  /-- After reset, images are verified, links trained and bound, tables written and ASIDs initialised (R357). -/
  | bringUp
  /-- A die that reached its thermal limit has cooled, so the always-on domain lets placement and the resumption of saved crews start again (R353). -/
  | dieCooled
  /-- The host's acknowledgement of a write, or the response to a read or atomic sent through an aperture, arrives back at a Tchikinar port (R150). -/
  | hostAcknowledgement
  /-- Privileged software registers a graph object in a graph slot, and every node template is validated against the owning queue, or the slot stays unregistered (R319). -/
  | graphRegistration
  deriving DecidableEq, Repr

end Sys2Proof
end

