-- ==== Sys2Proof/Decode.lean ====
section
/-!
DEFINITION. Decoding and encoding of Plimus-D base words, Plimus-L doublewords and D clause headers (04 R39 to R60).
Decoding is total: a word is an instruction or is rejected by name. Whether an instruction's sub-values and ranges are
legal is told by `Instr.subFault`; such a word raises its fault when it issues (R59).
-/
namespace Sys2Proof

/-- The two encoding faults of R59 that one word can raise. -/
inductive EncFault where
  | illegalOp
  | illegalField
  deriving DecidableEq, Repr

/-- Bits `[lo + len - 1 : lo]` of a word (R2). -/
def fld (w : Word) (lo len : Nat) : BitVec len := BitVec.ofNat len (w.toNat / 2 ^ lo)

/-- An 8-bit register number from its two high bits and its six low bits (R46). -/
def reg8 (hi : BitVec 2) (lo : BitVec 6) : BitVec 8 := BitVec.ofNat 8 (hi.toNat * 64 + lo.toNat)

/-- ILLEGAL-OP when the condition holds. -/
def opIf (c : Prop) [Decidable c] : Option EncFault := if c then some .illegalOp else none

/-- ILLEGAL-FIELD when the condition holds. -/
def fieldIf (c : Prop) [Decidable c] : Option EncFault := if c then some .illegalField else none

/-- The first of two checks that fails. -/
def orElse (x y : Option EncFault) : Option EncFault := if x.isSome then x else y

/-- The combinations for which CVT exists (R222): source, destination, mode. -/
def cvtExists (src dst mode : Nat) : Bool :=
  if mode = 7 then false
  else if dst = 0 then mode ≠ 0
  else if dst = 7 then mode ≠ 0 && src ≠ 7
  else src ≠ dst


/-- What a word's sub-values and number ranges raise when it issues: ILLEGAL-OP first, then ILLEGAL-FIELD (R57 to R60).
An event has no encoding and raises nothing. -/
def Instr.subFault : Instr → Option EncFault
  | .nopD => none
  | .moviD _ _ => none
  | .movhiD _ _ => none
  | .movD _ _ s => opIf (1 < s.toNat)
  | .sreadD _ x => fieldIf (21 < x.toNat)
  | .swriteD _ x => fieldIf (x.toNat ≠ 19 ∧ x.toNat ≠ 20)
  | .repD _ _ _ _ e => fieldIf (e.toNat ≠ 0)
  | .braD _ => none
  | .callD _ => none
  | .brxD _ _ => none
  | .retD _ => none
  | .forkD _ n => opIf (n.toNat = 0)
  | .forkTryD p _ n => orElse (opIf (n.toNat = 0)) (fieldIf (p.toNat = 0))
  | .endD => none
  | .trapD _ => none
  | .syscD _ => none
  | .iaddD _ _ _ s => opIf (3 < s.toNat)
  | .isubD _ _ _ s => opIf (3 < s.toNat)
  | .imulD _ _ _ s => opIf (3 < s.toNat)
  | .imadD _ _ _ => none
  | .idivD _ _ _ s => opIf (1 < s.toNat)
  | .iremD _ _ _ s => opIf (1 < s.toNat)
  | .iminD _ _ _ s => opIf (1 < s.toNat)
  | .imaxD _ _ _ s => opIf (1 < s.toNat)
  | .andD _ _ _ => none
  | .orD _ _ _ => none
  | .xorD _ _ _ => none
  | .andnD _ _ _ => none
  | .shlD _ _ _ s => opIf (1 < s.toNat)
  | .shrD _ _ _ s => opIf (3 < s.toNat)
  | .rotlD _ _ _ => none
  | .bfxD _ _ _ s => opIf (1 < s.toNat)
  | .iaddiD _ _ _ => none
  | .andiD _ _ _ => none
  | .oriD _ _ _ => none
  | .xoriD _ _ _ => none
  | .shliD _ _ _ => none
  | .shriD _ _ _ _ => none
  | .imuliD _ _ _ => none
  | .leaD _ _ _ _ => none
  | .bfiD _ _ _ => none
  | .popcD _ _ => none
  | .clzD _ _ => none
  | .brevD _ _ => none
  | .iabsD _ _ => none
  | .selD _ _ _ _ => none
  | .icmpD p _ _ _ => fieldIf (95 < p.toNat)
  | .icmpuD p _ _ c => orElse (opIf (1 < c.toNat)) (fieldIf (95 < p.toNat))
  | .faddD _ _ _ s => opIf (4 < s.toNat)
  | .fsubD _ _ _ s => opIf (4 < s.toNat)
  | .fmulD _ _ _ s => opIf (4 < s.toNat)
  | .ffmaD _ _ _ s => opIf (4 < s.toNat)
  | .fminD _ _ _ s => opIf (1 < s.toNat)
  | .fmaxD _ _ _ s => opIf (1 < s.toNat)
  | .fcmpD p _ _ _ => fieldIf (95 < p.toNat)
  | .fcmpxD p _ _ _ => fieldIf (p.toNat = 0 ∨ 94 < p.toNat)
  | .fspfD _ _ _ => none
  | .fsgnD _ _ b s => orElse (opIf (3 < s.toNat)) (fieldIf (s.toNat ≠ 3 ∧ b.toNat ≠ 0))
  | .hadd2D _ _ _ _ => none
  | .hmul2D _ _ _ _ => none
  | .hfma2D _ _ _ _ => none
  | .hmnx2D _ _ _ _ _ => none
  | .cvtD _ _ f h m => opIf (¬ cvtExists f.toNat h.toNat m.toNat)
  | .pkbD _ _ w n => opIf (w = 1#1 ∧ n.toNat % 2 = 1)
  | .shflD _ _ _ s => opIf (3 < s.toNat)
  | .vanyD p q r => fieldIf (95 < p.toNat ∨ 95 < q.toNat ∨ 95 < r.toNat)
  | .vallD p q r => fieldIf (95 < p.toNat ∨ 95 < q.toNat ∨ 95 < r.toNat)
  | .vbalD _ p => fieldIf (95 < p.toNat)
  | .redlD _ _ _ => none
  | .setpartD x => opIf (4 < x.toNat)
  | .pandD p q r => fieldIf (95 < p.toNat ∨ 95 < q.toNat ∨ 95 < r.toNat)
  | .porD p q r => fieldIf (95 < p.toNat ∨ 95 < q.toNat ∨ 95 < r.toNat)
  | .pxorD p q r => fieldIf (95 < p.toNat ∨ 95 < q.toNat ∨ 95 < r.toNat)
  | .pandnD p q r => fieldIf (95 < p.toNat ∨ 95 < q.toNat ∨ 95 < r.toNat)
  | .prdD _ x => opIf (2 < x.toNat)
  | .pwrD _ x => opIf (2 < x.toNat)
  | .stkrdD p _ => fieldIf (95 < p.toNat)
  | .stksetD _ a x => orElse (opIf (2 < x.toNat)) (fieldIf (x.toNat ≠ 2 ∧ a.toNat ≠ 0))
  | .ldD _ _ z m _ => opIf (z.toNat = 7 ∨ m.toNat = 3)
  | .stD _ _ z m _ => opIf (4 < z.toNat ∨ m.toNat = 3)
  | .ldsD _ _ z m _ => opIf (z.toNat = 7 ∨ m.toNat = 3)
  | .stsD _ _ z m _ => opIf (4 < z.toNat ∨ m.toNat = 3)
  | .ldaqD _ _ z k _ => orElse (opIf (z.toNat ≠ 2 ∧ z.toNat ≠ 3)) (fieldIf (5 < k.toNat))
  | .strlD _ _ z k _ => orElse (opIf (z.toNat ≠ 2 ∧ z.toNat ≠ 3)) (fieldIf (5 < k.toNat))
  | .atomD _ _ _ _ => none
  | .atomsD _ _ _ _ => none
  | .fenceD _ k c => orElse (opIf (k.toNat = 3)) (fieldIf (5 < c.toNat))
  | .ifenceD => none
  | .prefD _ m _ => opIf (m.toNat = 3)
  | .iprefD _ => none
  | .xlqD _ _ => none
  | .stxD _ _ m _ => opIf (m.toNat = 3)
  | .ldxD _ _ m _ => opIf (m.toNat = 3)
  | .stcD _ _ _ e _ => opIf (e.toNat = 0 ∨ e.toNat = 7)
  | .cpaD _ _ n _ s => opIf (n.toNat = 3 ∨ 3 < s.toNat)
  | .waittD _ => none
  | .tokqD p a c => orElse (opIf (1 < c.toNat)) (fieldIf (7 < a.toNat ∨ 95 < p.toNat))
  | .mmaf8aD _ _ => none
  | .mmaf8bD _ _ => none
  | .mmak8D _ _ _ _ => none
  | .mmab16D _ _ => none
  | .mmah16D _ _ => none
  | .mmai8D _ _ => none
  | .accrdD _ _ f e => opIf (e.toNat = 7 ∨ (e.toNat = 0 ∧ (f.toNat = 0 ∨ f.toNat = 7)))
  | .accwrD _ _ => none
  | .acczD _ => none
  | .accstD _ _ => none
  | .pliD _ _ b s => fieldIf (5 < s.toNat ∧ b.toNat ≠ 0)
  | .plfD _ _ b s => fieldIf (5 < s.toNat ∧ b.toNat ≠ 0)
  | .plredD _ _ _ => none
  | .regacqWaitD n => opIf (n.toNat = 0)
  | .regacqTryD p n => orElse (opIf (n.toNat = 0)) (fieldIf (p.toNat = 0))
  | .regrelD n => opIf (n.toNat = 0)
  | .migrD _ => none
  | .barD _ => none
  | .arvD _ _ _ => none
  | .awtD _ _ _ => none
  | .brdD _ _ => none
  | .bwrD _ _ => none
  | .batomD _ _ _ _ => none
  | .featqD _ x => opIf (15 < x.toNat)
  | .genbumpD => none
  | .ckptD => none
  | .haltD => none
  | .chunkD _ _ => none
  | .nopL => none
  | .moviL _ _ => none
  | .movhiL _ _ => none
  | .movL _ _ s => opIf (1 < s.toNat)
  | .sreadL _ x => fieldIf (21 < x.toNat)
  | .swriteL _ x => fieldIf (x.toNat ≠ 19 ∧ x.toNat ≠ 20)
  | .repL _ _ _ _ _ => none
  | .braL o => fieldIf (o.toNat % 2 = 1)
  | .callL o => fieldIf (o.toNat % 2 = 1)
  | .brxL _ _ => none
  | .retL _ => none
  | .forkL _ n => opIf (n.toNat = 0)
  | .forkTryL p _ n => orElse (opIf (n.toNat = 0)) (fieldIf (p.toNat = 0 ∨ 95 < p.toNat))
  | .endL => none
  | .trapL _ => none
  | .syscL _ => none
  | .iaddL _ _ _ s => opIf (3 < s.toNat)
  | .isubL _ _ _ s => opIf (3 < s.toNat)
  | .imulL _ _ _ s => opIf (3 < s.toNat)
  | .imadL _ _ _ _ => none
  | .idivL _ _ _ s => opIf (1 < s.toNat)
  | .iremL _ _ _ s => opIf (1 < s.toNat)
  | .iminL _ _ _ s => opIf (1 < s.toNat)
  | .imaxL _ _ _ s => opIf (1 < s.toNat)
  | .andL _ _ _ => none
  | .orL _ _ _ => none
  | .xorL _ _ _ => none
  | .andnL _ _ _ => none
  | .shlL _ _ _ s => opIf (1 < s.toNat)
  | .shrL _ _ _ s => opIf (3 < s.toNat)
  | .rotlL _ _ _ => none
  | .bfxL _ _ _ s => opIf (1 < s.toNat)
  | .iaddiL _ _ _ => none
  | .andiL _ _ _ => none
  | .oriL _ _ _ => none
  | .xoriL _ _ _ => none
  | .shliL _ _ _ => none
  | .shriL _ _ _ _ => none
  | .imuliL _ _ _ => none
  | .leaL _ _ _ _ => none
  | .bfiL _ _ _ => none
  | .popcL _ _ => none
  | .clzL _ _ => none
  | .brevL _ _ => none
  | .iabsL _ _ => none
  | .selL _ _ _ _ => none
  | .icmpL p _ _ _ => fieldIf (95 < p.toNat)
  | .icmpuL p _ _ c => orElse (opIf (1 < c.toNat)) (fieldIf (95 < p.toNat))
  | .faddL _ _ _ s => opIf (4 < s.toNat)
  | .fsubL _ _ _ s => opIf (4 < s.toNat)
  | .fmulL _ _ _ s => opIf (4 < s.toNat)
  | .ffmaL _ _ _ s _ => opIf (4 < s.toNat)
  | .fminL _ _ _ s => opIf (1 < s.toNat)
  | .fmaxL _ _ _ s => opIf (1 < s.toNat)
  | .fcmpL p _ _ _ => fieldIf (95 < p.toNat)
  | .fcmpxL p _ _ _ => fieldIf (p.toNat = 0 ∨ 94 < p.toNat)
  | .fspfL _ _ _ => none
  | .fsgnL _ _ b s => orElse (opIf (3 < s.toNat)) (fieldIf (s.toNat ≠ 3 ∧ b.toNat ≠ 0))
  | .hadd2L _ _ _ _ => none
  | .hmul2L _ _ _ _ => none
  | .hfma2L _ _ _ _ _ => none
  | .hmnx2L _ _ _ _ _ => none
  | .cvtL _ _ f h m => opIf (¬ cvtExists f.toNat h.toNat m.toNat)
  | .pkbL _ _ w n => opIf (w = 1#1 ∧ n.toNat % 2 = 1)
  | .shflL _ _ _ s => opIf (3 < s.toNat)
  | .vanyL p q r => fieldIf (95 < p.toNat ∨ 95 < q.toNat ∨ 95 < r.toNat)
  | .vallL p q r => fieldIf (95 < p.toNat ∨ 95 < q.toNat ∨ 95 < r.toNat)
  | .vbalL _ p => fieldIf (95 < p.toNat)
  | .redlL _ _ _ => none
  | .setpartL x => opIf (4 < x.toNat)
  | .pandL p q r => fieldIf (95 < p.toNat ∨ 95 < q.toNat ∨ 95 < r.toNat)
  | .porL p q r => fieldIf (95 < p.toNat ∨ 95 < q.toNat ∨ 95 < r.toNat)
  | .pxorL p q r => fieldIf (95 < p.toNat ∨ 95 < q.toNat ∨ 95 < r.toNat)
  | .pandnL p q r => fieldIf (95 < p.toNat ∨ 95 < q.toNat ∨ 95 < r.toNat)
  | .prdL _ x => opIf (2 < x.toNat)
  | .pwrL _ x => opIf (2 < x.toNat)
  | .stkrdL p _ => fieldIf (95 < p.toNat)
  | .stksetL _ a x => orElse (opIf (2 < x.toNat)) (fieldIf (x.toNat ≠ 2 ∧ a.toNat ≠ 0))
  | .ldL _ _ z m _ => opIf (z.toNat = 7 ∨ m.toNat = 3)
  | .stL _ _ z m _ => opIf (4 < z.toNat ∨ m.toNat = 3)
  | .ldsL _ _ z m _ => opIf (z.toNat = 7 ∨ m.toNat = 3)
  | .stsL _ _ z m _ => opIf (4 < z.toNat ∨ m.toNat = 3)
  | .ldaqL _ _ z k _ => orElse (opIf (z.toNat ≠ 2 ∧ z.toNat ≠ 3)) (fieldIf (5 < k.toNat))
  | .strlL _ _ z k _ => orElse (opIf (z.toNat ≠ 2 ∧ z.toNat ≠ 3)) (fieldIf (5 < k.toNat))
  | .atomL _ _ _ _ => none
  | .atomsL _ _ _ _ => none
  | .fenceL _ k c => orElse (opIf (k.toNat = 3)) (fieldIf (5 < c.toNat))
  | .ifenceL => none
  | .prefL _ m _ => opIf (m.toNat = 3)
  | .iprefL o => fieldIf (o.toNat % 2 = 1)
  | .xlqL _ _ => none
  | .stxL _ _ m _ => opIf (m.toNat = 3)
  | .ldxL _ _ m _ => opIf (m.toNat = 3)
  | .stcL _ _ _ e _ => opIf (e.toNat = 0 ∨ e.toNat = 7)
  | .cpaL _ _ n _ s => opIf (n.toNat = 3 ∨ 3 < s.toNat)
  | .waittL _ => none
  | .tokqL p a c => orElse (opIf (1 < c.toNat)) (fieldIf (7 < a.toNat ∨ 95 < p.toNat))
  | .mmaf8aL _ _ => none
  | .mmaf8bL _ _ => none
  | .mmak8L _ _ _ _ => none
  | .mmab16L _ _ => none
  | .mmah16L _ _ => none
  | .mmai8L _ _ => none
  | .accrdL _ _ f e => opIf (e.toNat = 7 ∨ (e.toNat = 0 ∧ (f.toNat = 0 ∨ f.toNat = 7)))
  | .accwrL _ _ => none
  | .acczL _ => none
  | .accstL _ _ => none
  | .pliL _ _ b s => fieldIf (5 < s.toNat ∧ b.toNat ≠ 0)
  | .plfL _ _ b s => fieldIf (5 < s.toNat ∧ b.toNat ≠ 0)
  | .plredL _ _ _ => none
  | .regacqWaitL n => opIf (n.toNat = 0)
  | .regacqTryL p n => orElse (opIf (n.toNat = 0)) (fieldIf (p.toNat = 0 ∨ 95 < p.toNat))
  | .regrelL n => opIf (n.toNat = 0)
  | .migrL _ => none
  | .dvtL _ => none
  | .barL _ => none
  | .arvL _ _ _ => none
  | .awtL _ _ _ => none
  | .brdL _ _ => none
  | .bwrL _ _ => none
  | .batomL _ _ _ _ => none
  | .featqL _ x => opIf (15 < x.toNat)
  | .genbumpL => none
  | .ckptL => none
  | .haltL => none
  | .chunkL _ _ => none
  | .clauseEntry => none
  | .tokenWaitResume => none
  | .registerGrant => none
  | .regDeadlock => none
  | .binAgeExpiry => none
  | .binIssue => none
  | .gangSlotSwap => none
  | .engineLineWrite => none
  | .scratchGranuleLanding => none
  | .copyComplete => none
  | .deferredCopyFault => none
  | .mmaBlockAdd => none
  | .accstRowWrite => none
  | .homeAccessArrival => none
  | .placedPartExecute => none
  | .reduceStateMerge => none
  | .genbumpComplete => none
  | .portWriteArrival => none
  | .portReadArrival => none
  | .peerAtomArrival => none
  | .faultDelivery => none
  | .launchEndWithCause => none
  | .preemption => none
  | .crewRestore => none
  | .firmwareCheckpoint => none
  | .migration => none
  | .returnTrap => none
  | .crewPlacement => none
  | .carveOutChange => none
  | .notify => none
  | .packetTake => none
  | .launch => none
  | .cmdblock => none
  | .copy => none
  | .fill => none
  | .signal => none
  | .waitsig => none
  | .waitsigReevaluate => none
  | .nopPacket => none
  | .launchCompletionSignal => none
  | .thaw => none
  | .abandon => none
  | .graphKick => none
  | .graphNodeCompletion => none
  | .pairComparison => none
  | .protectedRollback => none
  | .unitSelfTest => none
  | .islandClockChange => none
  | .powerCapSet => none
  | .thermalLimit => none
  | .attestationReport => none
  | .asidKeyInit => none
  | .baseRegisterWrite => none
  | .registerWrite => none
  | .moduleReset => none
  | .bringUp => none
  | .dieCooled => none
  | .hostAcknowledgement => none
  | .graphRegistration => none

/-- A word that the opcode map makes row `i`, or how it is rejected: ILLEGAL-OP where a sub-value of it is
reserved, else ILLEGAL-FIELD for a nonzero must-be-zero field (R58, R59, R60). -/
def accept (i : Instr) (opOk fieldOk : Bool) : Except EncFault Instr :=
  if opOk && fieldOk then .ok i
  else if !opOk || i.subFault == some .illegalOp then .error .illegalOp
  else .error .illegalField

/-- Majors 0x00 to 0x0F in Plimus-D (R57). -/
def decodeD0 (w : Word) : Nat → Except EncFault Instr
  | 1 => accept (.nopD) (true) (fld w 0 21 == 0)
  | 2 => accept (.moviD (fld w 19 6) (fld w 0 19)) (true) (true)
  | 3 => accept (.movhiD (fld w 19 6) (fld w 0 13)) (true) (fld w 13 6 == 0)
  | 4 => accept (.movD (fld w 15 6) (fld w 9 6) (fld w 0 3)) (true) (fld w 3 6 == 0)
  | 5 => accept (.sreadD (fld w 15 6) (fld w 0 9)) (true) (fld w 9 6 == 0)
  | 6 => accept (.swriteD (fld w 9 6) (fld w 0 9)) (true) (fld w 15 6 == 0)
  | 7 => accept (.repD (fld w 15 6) (fld w 13 2) (fld w 11 2) (fld w 9 2) (fld w 7 2)) (true) (fld w 21 4 == 0 && fld w 0 7 == 0)
  | 8 => accept (.braD (fld w 0 21)) (true) (true)
  | 9 => accept (.callD (fld w 0 21)) (true) (true)
  | 10 => accept (.brxD (fld w 9 6) (fld w 0 1)) (true) (fld w 15 6 == 0 && fld w 1 8 == 0)
  | 11 => accept (.retD (fld w 9 6)) (true) (fld w 15 6 == 0 && fld w 0 9 == 0)
  | 12 => if fld w 4 1 == 1 then accept (.forkTryD (fld w 15 6) (fld w 9 6) (fld w 0 4)) (true) (fld w 5 4 == 0)
    else accept (.forkD (fld w 9 6) (fld w 0 4)) (true) (fld w 15 6 == 0 && fld w 5 4 == 0)
  | 13 => accept (.endD) (true) (fld w 0 21 == 0)
  | 14 => accept (.trapD (fld w 0 9)) (true) (fld w 9 12 == 0)
  | 15 => accept (.syscD (fld w 0 9)) (true) (fld w 9 12 == 0)
  | _ => .error .illegalOp

/-- Majors 0x10 to 0x1F in Plimus-D (R57). -/
def decodeD1 (w : Word) : Nat → Except EncFault Instr
  | 16 => accept (.iaddD (fld w 15 6) (fld w 9 6) (fld w 3 6) (fld w 0 3)) (true) (true)
  | 17 => accept (.isubD (fld w 15 6) (fld w 9 6) (fld w 3 6) (fld w 0 3)) (true) (true)
  | 18 => accept (.imulD (fld w 15 6) (fld w 9 6) (fld w 3 6) (fld w 0 3)) (true) (true)
  | 19 => accept (.imadD (fld w 15 6) (fld w 9 6) (fld w 3 6)) (fld w 0 3 == 0) (true)
  | 20 => accept (.idivD (fld w 15 6) (fld w 9 6) (fld w 3 6) (fld w 0 3)) (true) (true)
  | 21 => accept (.iremD (fld w 15 6) (fld w 9 6) (fld w 3 6) (fld w 0 3)) (true) (true)
  | 22 => accept (.iminD (fld w 15 6) (fld w 9 6) (fld w 3 6) (fld w 0 3)) (true) (true)
  | 23 => accept (.imaxD (fld w 15 6) (fld w 9 6) (fld w 3 6) (fld w 0 3)) (true) (true)
  | 24 => accept (.andD (fld w 15 6) (fld w 9 6) (fld w 3 6)) (true) (fld w 0 3 == 0)
  | 25 => accept (.orD (fld w 15 6) (fld w 9 6) (fld w 3 6)) (true) (fld w 0 3 == 0)
  | 26 => accept (.xorD (fld w 15 6) (fld w 9 6) (fld w 3 6)) (true) (fld w 0 3 == 0)
  | 27 => accept (.andnD (fld w 15 6) (fld w 9 6) (fld w 3 6)) (true) (fld w 0 3 == 0)
  | 28 => accept (.shlD (fld w 15 6) (fld w 9 6) (fld w 3 6) (fld w 0 3)) (true) (true)
  | 29 => accept (.shrD (fld w 15 6) (fld w 9 6) (fld w 3 6) (fld w 0 3)) (true) (true)
  | 30 => accept (.rotlD (fld w 15 6) (fld w 9 6) (fld w 3 6)) (true) (fld w 0 3 == 0)
  | 31 => accept (.bfxD (fld w 15 6) (fld w 9 6) (fld w 3 6) (fld w 0 3)) (true) (true)
  | _ => .error .illegalOp

/-- Majors 0x20 to 0x2F in Plimus-D (R57). -/
def decodeD2 (w : Word) : Nat → Except EncFault Instr
  | 32 => accept (.iaddiD (fld w 15 6) (fld w 9 6) (fld w 0 9)) (true) (true)
  | 33 => accept (.andiD (fld w 15 6) (fld w 9 6) (fld w 0 9)) (true) (true)
  | 34 => accept (.oriD (fld w 15 6) (fld w 9 6) (fld w 0 9)) (true) (true)
  | 35 => accept (.xoriD (fld w 15 6) (fld w 9 6) (fld w 0 9)) (true) (true)
  | 36 => accept (.shliD (fld w 15 6) (fld w 9 6) (fld w 0 5)) (true) (fld w 5 4 == 0)
  | 37 => accept (.shriD (fld w 15 6) (fld w 9 6) (fld w 5 1) (fld w 0 5)) (true) (fld w 6 3 == 0)
  | 38 => accept (.imuliD (fld w 15 6) (fld w 9 6) (fld w 0 9)) (true) (true)
  | 39 => accept (.leaD (fld w 15 6) (fld w 9 6) (fld w 3 6) (fld w 0 3)) (true) (true)
  | 40 => accept (.bfiD (fld w 15 6) (fld w 9 6) (fld w 3 6)) (true) (fld w 0 3 == 0)
  | 41 => accept (.popcD (fld w 15 6) (fld w 9 6)) (true) (fld w 0 9 == 0)
  | 42 => accept (.clzD (fld w 15 6) (fld w 9 6)) (true) (fld w 0 9 == 0)
  | 43 => accept (.brevD (fld w 15 6) (fld w 9 6)) (true) (fld w 0 9 == 0)
  | 44 => accept (.iabsD (fld w 15 6) (fld w 9 6)) (true) (fld w 0 9 == 0)
  | 45 => accept (.selD (fld w 15 6) (fld w 9 6) (fld w 3 6) (fld w 0 3)) (true) (true)
  | 46 => accept (.icmpD (fld w 14 7) (fld w 8 6) (fld w 2 6) (fld w 0 2)) (true) (true)
  | 47 => accept (.icmpuD (fld w 14 7) (fld w 8 6) (fld w 2 6) (fld w 0 2)) (true) (true)
  | _ => .error .illegalOp

/-- Majors 0x30 to 0x3F in Plimus-D (R57). -/
def decodeD3 (w : Word) : Nat → Except EncFault Instr
  | 48 => accept (.faddD (fld w 15 6) (fld w 9 6) (fld w 3 6) (fld w 0 3)) (true) (true)
  | 49 => accept (.fsubD (fld w 15 6) (fld w 9 6) (fld w 3 6) (fld w 0 3)) (true) (true)
  | 50 => accept (.fmulD (fld w 15 6) (fld w 9 6) (fld w 3 6) (fld w 0 3)) (true) (true)
  | 51 => accept (.ffmaD (fld w 15 6) (fld w 9 6) (fld w 3 6) (fld w 0 3)) (true) (true)
  | 52 => accept (.fminD (fld w 15 6) (fld w 9 6) (fld w 3 6) (fld w 0 3)) (true) (true)
  | 53 => accept (.fmaxD (fld w 15 6) (fld w 9 6) (fld w 3 6) (fld w 0 3)) (true) (true)
  | 54 => accept (.fcmpD (fld w 14 7) (fld w 8 6) (fld w 2 6) (fld w 0 2)) (true) (true)
  | 55 => accept (.fcmpxD (fld w 14 7) (fld w 8 6) (fld w 2 6) (fld w 0 2)) (true) (true)
  | 56 => accept (.fspfD (fld w 15 6) (fld w 9 6) (fld w 0 3)) (true) (fld w 3 6 == 0)
  | 57 => accept (.fsgnD (fld w 15 6) (fld w 9 6) (fld w 3 6) (fld w 0 3)) (true) (true)
  | 58 => accept (.hadd2D (fld w 15 6) (fld w 9 6) (fld w 3 6) (fld w 0 3)) (true) (true)
  | 59 => accept (.hmul2D (fld w 15 6) (fld w 9 6) (fld w 3 6) (fld w 0 3)) (true) (true)
  | 60 => accept (.hfma2D (fld w 15 6) (fld w 9 6) (fld w 3 6) (fld w 0 3)) (true) (true)
  | 61 => accept (.hmnx2D (fld w 15 6) (fld w 9 6) (fld w 3 6) (fld w 1 1) (fld w 0 1)) (true) (fld w 2 1 == 0)
  | 62 => accept (.cvtD (fld w 15 6) (fld w 9 6) (fld w 6 3) (fld w 3 3) (fld w 0 3)) (true) (true)
  | 63 => accept (.pkbD (fld w 15 6) (fld w 9 6) (fld w 2 1) (fld w 0 2)) (true) (fld w 3 6 == 0)
  | _ => .error .illegalOp

/-- Majors 0x40 to 0x4F in Plimus-D (R57). -/
def decodeD4 (w : Word) : Nat → Except EncFault Instr
  | 64 => accept (.shflD (fld w 15 6) (fld w 9 6) (fld w 3 6) (fld w 0 3)) (true) (true)
  | 65 => accept (.vanyD (fld w 14 7) (fld w 7 7) (fld w 0 7)) (true) (true)
  | 66 => accept (.vallD (fld w 14 7) (fld w 7 7) (fld w 0 7)) (true) (true)
  | 67 => accept (.vbalD (fld w 15 6) (fld w 0 7)) (true) (fld w 7 8 == 0)
  | 68 => accept (.redlD (fld w 15 6) (fld w 9 6) (fld w 0 3)) (true) (fld w 3 6 == 0)
  | 69 => accept (.setpartD (fld w 0 9)) (true) (fld w 9 12 == 0)
  | 70 => accept (.pandD (fld w 14 7) (fld w 7 7) (fld w 0 7)) (true) (true)
  | 71 => accept (.porD (fld w 14 7) (fld w 7 7) (fld w 0 7)) (true) (true)
  | 72 => accept (.pxorD (fld w 14 7) (fld w 7 7) (fld w 0 7)) (true) (true)
  | 73 => accept (.pandnD (fld w 14 7) (fld w 7 7) (fld w 0 7)) (true) (true)
  | 74 => accept (.prdD (fld w 15 6) (fld w 0 9)) (true) (fld w 9 6 == 0)
  | 75 => accept (.pwrD (fld w 9 6) (fld w 0 9)) (true) (fld w 15 6 == 0)
  | 76 => accept (.stkrdD (fld w 14 7) (fld w 8 6)) (true) (fld w 0 8 == 0)
  | 77 => accept (.stksetD (fld w 15 6) (fld w 9 6) (fld w 0 9)) (true) (true)
  | _ => .error .illegalOp

/-- Majors 0x50 to 0x5F in Plimus-D (R57). -/
def decodeD5 (w : Word) : Nat → Except EncFault Instr
  | 80 => accept (.ldD (fld w 15 6) (fld w 9 6) (fld w 6 3) (fld w 4 2) (fld w 0 4)) (true) (true)
  | 81 => accept (.stD (fld w 15 6) (fld w 9 6) (fld w 6 3) (fld w 4 2) (fld w 0 4)) (true) (true)
  | 82 => accept (.ldsD (fld w 15 6) (fld w 9 6) (fld w 6 3) (fld w 4 2) (fld w 0 4)) (true) (true)
  | 83 => accept (.stsD (fld w 15 6) (fld w 9 6) (fld w 6 3) (fld w 4 2) (fld w 0 4)) (true) (true)
  | 84 => accept (.ldaqD (fld w 15 6) (fld w 9 6) (fld w 6 3) (fld w 3 3) (fld w 0 3)) (true) (true)
  | 85 => accept (.strlD (fld w 15 6) (fld w 9 6) (fld w 6 3) (fld w 3 3) (fld w 0 3)) (true) (true)
  | 86 => accept (.atomD (fld w 15 6) (fld w 9 6) (fld w 3 6) (fld w 0 3)) (true) (true)
  | 87 => accept (.atomsD (fld w 15 6) (fld w 9 6) (fld w 3 6) (fld w 0 3)) (true) (true)
  | 88 => accept (.fenceD (fld w 5 1) (fld w 3 2) (fld w 0 3)) (true) (fld w 6 15 == 0)
  | 89 => accept (.ifenceD) (true) (fld w 0 21 == 0)
  | 90 => accept (.prefD (fld w 9 6) (fld w 4 2) (fld w 0 4)) (fld w 6 3 == 0) (fld w 15 6 == 0)
  | 91 => accept (.iprefD (fld w 0 21)) (true) (true)
  | 92 => accept (.xlqD (fld w 15 6) (fld w 9 6)) (true) (fld w 0 9 == 0)
  | 93 => accept (.stxD (fld w 15 6) (fld w 9 6) (fld w 4 2) (fld w 0 4)) (fld w 6 3 == 3) (true)
  | 94 => accept (.ldxD (fld w 15 6) (fld w 9 6) (fld w 4 2) (fld w 0 4)) (fld w 6 3 == 3) (true)
  | 95 => accept (.stcD (fld w 15 6) (fld w 9 6) (fld w 6 3) (fld w 3 3) (fld w 0 3)) (true) (true)
  | _ => .error .illegalOp

/-- Majors 0x60 to 0x6F in Plimus-D (R57). -/
def decodeD6 (w : Word) : Nat → Except EncFault Instr
  | 96 => accept (.cpaD (fld w 15 6) (fld w 9 6) (fld w 7 2) (fld w 4 3) (fld w 0 4)) (true) (true)
  | 97 => accept (.waittD (fld w 0 8)) (true) (fld w 8 13 == 0)
  | 98 => accept (.tokqD (fld w 14 7) (fld w 8 6) (fld w 0 2)) (true) (fld w 2 6 == 0)
  | 99 => accept (.mmaf8aD (fld w 15 6) (fld w 4 3)) (true) (fld w 7 8 == 0 && fld w 0 4 == 0)
  | 100 => accept (.mmaf8bD (fld w 15 6) (fld w 4 3)) (true) (fld w 7 8 == 0 && fld w 0 4 == 0)
  | 101 => accept (.mmak8D (fld w 15 6) (fld w 9 6) (fld w 7 2) (fld w 4 3)) (true) (fld w 0 4 == 0)
  | 102 => accept (.mmab16D (fld w 15 6) (fld w 4 3)) (true) (fld w 7 8 == 0 && fld w 0 4 == 0)
  | 103 => accept (.mmah16D (fld w 15 6) (fld w 4 3)) (true) (fld w 7 8 == 0 && fld w 0 4 == 0)
  | 104 => accept (.mmai8D (fld w 15 6) (fld w 4 3)) (true) (fld w 7 8 == 0 && fld w 0 4 == 0)
  | 105 => accept (.accrdD (fld w 15 6) (fld w 9 6) (fld w 6 3) (fld w 3 3)) (true) (fld w 0 3 == 0)
  | 106 => accept (.accwrD (fld w 15 6) (fld w 9 6)) (true) (fld w 0 9 == 0)
  | 107 => accept (.acczD (fld w 0 7)) (true) (fld w 7 14 == 0)
  | 108 => accept (.accstD (fld w 15 6) (fld w 4 3)) (true) (fld w 7 8 == 0 && fld w 0 4 == 0)
  | 109 => accept (.pliD (fld w 15 6) (fld w 9 6) (fld w 3 6) (fld w 0 3)) (true) (true)
  | 110 => accept (.plfD (fld w 15 6) (fld w 9 6) (fld w 3 6) (fld w 0 3)) (true) (true)
  | 111 => accept (.plredD (fld w 15 6) (fld w 9 6) (fld w 0 3)) (true) (fld w 3 6 == 0)
  | _ => .error .illegalOp

/-- Majors 0x70 to 0x7F in Plimus-D (R57). -/
def decodeD7 (w : Word) : Nat → Except EncFault Instr
  | 112 => if fld w 4 1 == 1 then accept (.regacqTryD (fld w 15 6) (fld w 0 4)) (true) (fld w 5 10 == 0)
    else accept (.regacqWaitD (fld w 0 4)) (true) (fld w 5 16 == 0)
  | 113 => accept (.regrelD (fld w 0 4)) (true) (fld w 4 17 == 0)
  | 114 => accept (.migrD (fld w 0 1)) (fld w 1 8 == 0) (fld w 9 12 == 0)
  | 116 => accept (.barD (fld w 0 4)) (true) (fld w 4 17 == 0)
  | 117 => accept (.arvD (fld w 15 6) (fld w 9 6) (fld w 3 6)) (true) (fld w 0 3 == 0)
  | 118 => accept (.awtD (fld w 15 6) (fld w 9 6) (fld w 3 6)) (true) (fld w 0 3 == 0)
  | 119 => accept (.brdD (fld w 15 6) (fld w 0 6)) (true) (fld w 6 9 == 0)
  | 120 => accept (.bwrD (fld w 9 6) (fld w 0 6)) (true) (fld w 15 6 == 0 && fld w 6 3 == 0)
  | 121 => accept (.batomD (fld w 15 6) (fld w 9 6) (fld w 6 3) (fld w 0 6)) (true) (true)
  | 122 => accept (.featqD (fld w 15 6) (fld w 0 9)) (true) (fld w 9 6 == 0)
  | 123 => accept (.genbumpD) (true) (fld w 0 21 == 0)
  | 124 => accept (.ckptD) (true) (fld w 0 21 == 0)
  | 125 => accept (.haltD) (true) (fld w 0 21 == 0)
  | 126 => accept (.chunkD (fld w 15 6) (fld w 9 6)) (true) (fld w 0 9 == 0)
  | _ => .error .illegalOp

/-- The instruction of a Plimus-D base word, or the fault its encoding raises (R50, R57, R59). Total: a major that is no
instruction, 0x73 in D among them, is ILLEGAL-OP. -/
def decodeBase (w : Word) : Except EncFault Instr :=
  let mj := (fld w 25 7).toNat
  match mj / 16 with
  | 0 => decodeD0 w mj
  | 1 => decodeD1 w mj
  | 2 => decodeD2 w mj
  | 3 => decodeD3 w mj
  | 4 => decodeD4 w mj
  | 5 => decodeD5 w mj
  | 6 => decodeD6 w mj
  | 7 => decodeD7 w mj
  | _ => .error .illegalOp

/-- Majors 0x00 to 0x0F in Plimus-L (R57). -/
def decodeL0 (x w : Word) : Nat → Except EncFault Instr
  | 1 => accept (.nopL) (true) (fld w 0 21 == 0 && fld w 21 4 == 0 && fld x 0 1 == 0 && fld x 22 2 == 0 && fld x 20 2 == 0 && fld x 18 2 == 0 && fld x 10 8 == 0)
  | 2 => accept (.moviL (reg8 (fld x 22 2) (fld w 19 6)) (fld w 0 19)) (true) (fld x 2 8 == 0 && fld x 0 1 == 0 && fld x 20 2 == 0 && fld x 18 2 == 0 && fld x 10 8 == 0)
  | 3 => accept (.movhiL (reg8 (fld x 22 2) (fld w 19 6)) (fld w 0 13)) (true) (fld w 13 6 == 0 && fld x 2 8 == 0 && fld x 0 1 == 0 && fld x 20 2 == 0 && fld x 18 2 == 0 && fld x 10 8 == 0)
  | 4 => accept (.movL (reg8 (fld x 22 2) (fld w 15 6)) (reg8 (fld x 20 2) (fld w 9 6)) (fld w 0 3)) (true) (fld w 3 6 == 0 && fld w 21 4 == 0 && fld x 0 1 == 0 && fld x 18 2 == 0 && fld x 10 8 == 0)
  | 5 => accept (.sreadL (reg8 (fld x 22 2) (fld w 15 6)) (fld w 0 9)) (true) (fld w 9 6 == 0 && fld w 21 4 == 0 && fld x 0 1 == 0 && fld x 20 2 == 0 && fld x 18 2 == 0 && fld x 10 8 == 0)
  | 6 => accept (.swriteL (reg8 (fld x 20 2) (fld w 9 6)) (fld w 0 9)) (true) (fld w 15 6 == 0 && fld w 21 4 == 0 && fld x 0 1 == 0 && fld x 22 2 == 0 && fld x 18 2 == 0 && fld x 10 8 == 0)
  | 7 => accept (.repL (fld w 15 6) (fld w 13 2) (fld w 11 2) (fld w 9 2) (fld w 7 2)) (true) (fld w 21 4 == 0 && fld w 0 7 == 0 && fld x 2 8 == 0 && fld x 0 1 == 0 && fld x 22 2 == 0 && fld x 20 2 == 0 && fld x 18 2 == 0 && fld x 10 8 == 0)
  | 8 => accept (.braL (fld w 0 21)) (true) (fld w 21 4 == 0 && fld x 0 1 == 0 && fld x 22 2 == 0 && fld x 20 2 == 0 && fld x 18 2 == 0 && fld x 10 8 == 0)
  | 9 => accept (.callL (fld w 0 21)) (true) (fld w 21 4 == 0 && fld x 0 1 == 0 && fld x 22 2 == 0 && fld x 20 2 == 0 && fld x 18 2 == 0 && fld x 10 8 == 0)
  | 10 => accept (.brxL (reg8 (fld x 20 2) (fld w 9 6)) (fld w 0 1)) (true) (fld w 15 6 == 0 && fld w 1 8 == 0 && fld w 21 4 == 0 && fld x 0 1 == 0 && fld x 22 2 == 0 && fld x 18 2 == 0 && fld x 10 8 == 0)
  | 11 => accept (.retL (reg8 (fld x 20 2) (fld w 9 6))) (true) (fld w 15 6 == 0 && fld w 0 9 == 0 && fld w 21 4 == 0 && fld x 0 1 == 0 && fld x 22 2 == 0 && fld x 18 2 == 0 && fld x 10 8 == 0)
  | 12 => if fld w 4 1 == 1 then accept (.forkTryL (reg8 (fld x 22 2) (fld w 15 6)) (reg8 (fld x 20 2) (fld w 9 6)) (fld w 0 4)) (true) (fld w 5 4 == 0 && fld w 21 4 == 0 && fld x 0 1 == 0 && fld x 18 2 == 0 && fld x 10 8 == 0)
    else accept (.forkL (reg8 (fld x 20 2) (fld w 9 6)) (fld w 0 4)) (true) (fld w 15 6 == 0 && fld w 5 4 == 0 && fld w 21 4 == 0 && fld x 0 1 == 0 && fld x 22 2 == 0 && fld x 18 2 == 0 && fld x 10 8 == 0)
  | 13 => accept (.endL) (true) (fld w 0 21 == 0 && fld w 21 4 == 0 && fld x 0 1 == 0 && fld x 22 2 == 0 && fld x 20 2 == 0 && fld x 18 2 == 0 && fld x 10 8 == 0)
  | 14 => accept (.trapL (fld w 0 9)) (true) (fld w 9 12 == 0 && fld w 21 4 == 0 && fld x 0 1 == 0 && fld x 22 2 == 0 && fld x 20 2 == 0 && fld x 18 2 == 0 && fld x 10 8 == 0)
  | 15 => accept (.syscL (fld w 0 9)) (true) (fld w 9 12 == 0 && fld w 21 4 == 0 && fld x 0 1 == 0 && fld x 22 2 == 0 && fld x 20 2 == 0 && fld x 18 2 == 0 && fld x 10 8 == 0)
  | _ => .error .illegalOp

/-- Majors 0x10 to 0x1F in Plimus-L (R57). -/
def decodeL1 (x w : Word) : Nat → Except EncFault Instr
  | 16 => accept (.iaddL (reg8 (fld x 22 2) (fld w 15 6)) (reg8 (fld x 20 2) (fld w 9 6)) (reg8 (fld x 18 2) (fld w 3 6)) (fld w 0 3)) (true) (fld w 21 4 == 0 && fld x 0 1 == 0 && fld x 10 8 == 0)
  | 17 => accept (.isubL (reg8 (fld x 22 2) (fld w 15 6)) (reg8 (fld x 20 2) (fld w 9 6)) (reg8 (fld x 18 2) (fld w 3 6)) (fld w 0 3)) (true) (fld w 21 4 == 0 && fld x 0 1 == 0 && fld x 10 8 == 0)
  | 18 => accept (.imulL (reg8 (fld x 22 2) (fld w 15 6)) (reg8 (fld x 20 2) (fld w 9 6)) (reg8 (fld x 18 2) (fld w 3 6)) (fld w 0 3)) (true) (fld w 21 4 == 0 && fld x 0 1 == 0 && fld x 10 8 == 0)
  | 19 => accept (.imadL (reg8 (fld x 22 2) (fld w 15 6)) (reg8 (fld x 20 2) (fld w 9 6)) (reg8 (fld x 18 2) (fld w 3 6)) (reg8 (fld x 16 2) (fld x 10 6))) (fld w 0 3 == 0) (fld w 21 4 == 0 && fld x 0 1 == 0)
  | 20 => accept (.idivL (reg8 (fld x 22 2) (fld w 15 6)) (reg8 (fld x 20 2) (fld w 9 6)) (reg8 (fld x 18 2) (fld w 3 6)) (fld w 0 3)) (true) (fld w 21 4 == 0 && fld x 0 1 == 0 && fld x 10 8 == 0)
  | 21 => accept (.iremL (reg8 (fld x 22 2) (fld w 15 6)) (reg8 (fld x 20 2) (fld w 9 6)) (reg8 (fld x 18 2) (fld w 3 6)) (fld w 0 3)) (true) (fld w 21 4 == 0 && fld x 0 1 == 0 && fld x 10 8 == 0)
  | 22 => accept (.iminL (reg8 (fld x 22 2) (fld w 15 6)) (reg8 (fld x 20 2) (fld w 9 6)) (reg8 (fld x 18 2) (fld w 3 6)) (fld w 0 3)) (true) (fld w 21 4 == 0 && fld x 0 1 == 0 && fld x 10 8 == 0)
  | 23 => accept (.imaxL (reg8 (fld x 22 2) (fld w 15 6)) (reg8 (fld x 20 2) (fld w 9 6)) (reg8 (fld x 18 2) (fld w 3 6)) (fld w 0 3)) (true) (fld w 21 4 == 0 && fld x 0 1 == 0 && fld x 10 8 == 0)
  | 24 => accept (.andL (reg8 (fld x 22 2) (fld w 15 6)) (reg8 (fld x 20 2) (fld w 9 6)) (reg8 (fld x 18 2) (fld w 3 6))) (true) (fld w 0 3 == 0 && fld w 21 4 == 0 && fld x 0 1 == 0 && fld x 10 8 == 0)
  | 25 => accept (.orL (reg8 (fld x 22 2) (fld w 15 6)) (reg8 (fld x 20 2) (fld w 9 6)) (reg8 (fld x 18 2) (fld w 3 6))) (true) (fld w 0 3 == 0 && fld w 21 4 == 0 && fld x 0 1 == 0 && fld x 10 8 == 0)
  | 26 => accept (.xorL (reg8 (fld x 22 2) (fld w 15 6)) (reg8 (fld x 20 2) (fld w 9 6)) (reg8 (fld x 18 2) (fld w 3 6))) (true) (fld w 0 3 == 0 && fld w 21 4 == 0 && fld x 0 1 == 0 && fld x 10 8 == 0)
  | 27 => accept (.andnL (reg8 (fld x 22 2) (fld w 15 6)) (reg8 (fld x 20 2) (fld w 9 6)) (reg8 (fld x 18 2) (fld w 3 6))) (true) (fld w 0 3 == 0 && fld w 21 4 == 0 && fld x 0 1 == 0 && fld x 10 8 == 0)
  | 28 => accept (.shlL (reg8 (fld x 22 2) (fld w 15 6)) (reg8 (fld x 20 2) (fld w 9 6)) (reg8 (fld x 18 2) (fld w 3 6)) (fld w 0 3)) (true) (fld w 21 4 == 0 && fld x 0 1 == 0 && fld x 10 8 == 0)
  | 29 => accept (.shrL (reg8 (fld x 22 2) (fld w 15 6)) (reg8 (fld x 20 2) (fld w 9 6)) (reg8 (fld x 18 2) (fld w 3 6)) (fld w 0 3)) (true) (fld w 21 4 == 0 && fld x 0 1 == 0 && fld x 10 8 == 0)
  | 30 => accept (.rotlL (reg8 (fld x 22 2) (fld w 15 6)) (reg8 (fld x 20 2) (fld w 9 6)) (reg8 (fld x 18 2) (fld w 3 6))) (true) (fld w 0 3 == 0 && fld w 21 4 == 0 && fld x 0 1 == 0 && fld x 10 8 == 0)
  | 31 => accept (.bfxL (reg8 (fld x 22 2) (fld w 15 6)) (reg8 (fld x 20 2) (fld w 9 6)) (reg8 (fld x 18 2) (fld w 3 6)) (fld w 0 3)) (true) (fld w 21 4 == 0 && fld x 0 1 == 0 && fld x 10 8 == 0)
  | _ => .error .illegalOp

/-- Majors 0x20 to 0x2F in Plimus-L (R57). -/
def decodeL2 (x w : Word) : Nat → Except EncFault Instr
  | 32 => accept (.iaddiL (reg8 (fld x 22 2) (fld w 15 6)) (reg8 (fld x 20 2) (fld w 9 6)) (fld w 0 9)) (true) (fld w 21 4 == 0 && fld x 0 1 == 0 && fld x 18 2 == 0 && fld x 10 8 == 0)
  | 33 => accept (.andiL (reg8 (fld x 22 2) (fld w 15 6)) (reg8 (fld x 20 2) (fld w 9 6)) (fld w 0 9)) (true) (fld w 21 4 == 0 && fld x 0 1 == 0 && fld x 18 2 == 0 && fld x 10 8 == 0)
  | 34 => accept (.oriL (reg8 (fld x 22 2) (fld w 15 6)) (reg8 (fld x 20 2) (fld w 9 6)) (fld w 0 9)) (true) (fld w 21 4 == 0 && fld x 0 1 == 0 && fld x 18 2 == 0 && fld x 10 8 == 0)
  | 35 => accept (.xoriL (reg8 (fld x 22 2) (fld w 15 6)) (reg8 (fld x 20 2) (fld w 9 6)) (fld w 0 9)) (true) (fld w 21 4 == 0 && fld x 0 1 == 0 && fld x 18 2 == 0 && fld x 10 8 == 0)
  | 36 => accept (.shliL (reg8 (fld x 22 2) (fld w 15 6)) (reg8 (fld x 20 2) (fld w 9 6)) (fld w 0 5)) (true) (fld w 5 4 == 0 && fld w 21 4 == 0 && fld x 0 1 == 0 && fld x 18 2 == 0 && fld x 10 8 == 0)
  | 37 => accept (.shriL (reg8 (fld x 22 2) (fld w 15 6)) (reg8 (fld x 20 2) (fld w 9 6)) (fld w 5 1) (fld w 0 5)) (true) (fld w 6 3 == 0 && fld w 21 4 == 0 && fld x 0 1 == 0 && fld x 18 2 == 0 && fld x 10 8 == 0)
  | 38 => accept (.imuliL (reg8 (fld x 22 2) (fld w 15 6)) (reg8 (fld x 20 2) (fld w 9 6)) (fld w 0 9)) (true) (fld w 21 4 == 0 && fld x 0 1 == 0 && fld x 18 2 == 0 && fld x 10 8 == 0)
  | 39 => accept (.leaL (reg8 (fld x 22 2) (fld w 15 6)) (reg8 (fld x 20 2) (fld w 9 6)) (reg8 (fld x 18 2) (fld w 3 6)) (fld w 0 3)) (true) (fld w 21 4 == 0 && fld x 0 1 == 0 && fld x 10 8 == 0)
  | 40 => accept (.bfiL (reg8 (fld x 22 2) (fld w 15 6)) (reg8 (fld x 20 2) (fld w 9 6)) (reg8 (fld x 18 2) (fld w 3 6))) (true) (fld w 0 3 == 0 && fld w 21 4 == 0 && fld x 0 1 == 0 && fld x 10 8 == 0)
  | 41 => accept (.popcL (reg8 (fld x 22 2) (fld w 15 6)) (reg8 (fld x 20 2) (fld w 9 6))) (true) (fld w 0 9 == 0 && fld w 21 4 == 0 && fld x 0 1 == 0 && fld x 18 2 == 0 && fld x 10 8 == 0)
  | 42 => accept (.clzL (reg8 (fld x 22 2) (fld w 15 6)) (reg8 (fld x 20 2) (fld w 9 6))) (true) (fld w 0 9 == 0 && fld w 21 4 == 0 && fld x 0 1 == 0 && fld x 18 2 == 0 && fld x 10 8 == 0)
  | 43 => accept (.brevL (reg8 (fld x 22 2) (fld w 15 6)) (reg8 (fld x 20 2) (fld w 9 6))) (true) (fld w 0 9 == 0 && fld w 21 4 == 0 && fld x 0 1 == 0 && fld x 18 2 == 0 && fld x 10 8 == 0)
  | 44 => accept (.iabsL (reg8 (fld x 22 2) (fld w 15 6)) (reg8 (fld x 20 2) (fld w 9 6))) (true) (fld w 0 9 == 0 && fld w 21 4 == 0 && fld x 0 1 == 0 && fld x 18 2 == 0 && fld x 10 8 == 0)
  | 45 => accept (.selL (reg8 (fld x 22 2) (fld w 15 6)) (reg8 (fld x 20 2) (fld w 9 6)) (reg8 (fld x 18 2) (fld w 3 6)) (fld w 0 3)) (true) (fld w 21 4 == 0 && fld x 0 1 == 0 && fld x 10 8 == 0)
  | 46 => accept (.icmpL (fld w 14 7) (reg8 (fld x 20 2) (fld w 8 6)) (reg8 (fld x 18 2) (fld w 2 6)) (fld w 0 2)) (true) (fld w 21 4 == 0 && fld x 0 1 == 0 && fld x 22 2 == 0 && fld x 10 8 == 0)
  | 47 => accept (.icmpuL (fld w 14 7) (reg8 (fld x 20 2) (fld w 8 6)) (reg8 (fld x 18 2) (fld w 2 6)) (fld w 0 2)) (true) (fld w 21 4 == 0 && fld x 0 1 == 0 && fld x 22 2 == 0 && fld x 10 8 == 0)
  | _ => .error .illegalOp

/-- Majors 0x30 to 0x3F in Plimus-L (R57). -/
def decodeL3 (x w : Word) : Nat → Except EncFault Instr
  | 48 => accept (.faddL (reg8 (fld x 22 2) (fld w 15 6)) (reg8 (fld x 20 2) (fld w 9 6)) (reg8 (fld x 18 2) (fld w 3 6)) (fld w 0 3)) (true) (fld w 21 4 == 0 && fld x 0 1 == 0 && fld x 10 8 == 0)
  | 49 => accept (.fsubL (reg8 (fld x 22 2) (fld w 15 6)) (reg8 (fld x 20 2) (fld w 9 6)) (reg8 (fld x 18 2) (fld w 3 6)) (fld w 0 3)) (true) (fld w 21 4 == 0 && fld x 0 1 == 0 && fld x 10 8 == 0)
  | 50 => accept (.fmulL (reg8 (fld x 22 2) (fld w 15 6)) (reg8 (fld x 20 2) (fld w 9 6)) (reg8 (fld x 18 2) (fld w 3 6)) (fld w 0 3)) (true) (fld w 21 4 == 0 && fld x 0 1 == 0 && fld x 10 8 == 0)
  | 51 => accept (.ffmaL (reg8 (fld x 22 2) (fld w 15 6)) (reg8 (fld x 20 2) (fld w 9 6)) (reg8 (fld x 18 2) (fld w 3 6)) (fld w 0 3) (reg8 (fld x 16 2) (fld x 10 6))) (true) (fld w 21 4 == 0 && fld x 0 1 == 0)
  | 52 => accept (.fminL (reg8 (fld x 22 2) (fld w 15 6)) (reg8 (fld x 20 2) (fld w 9 6)) (reg8 (fld x 18 2) (fld w 3 6)) (fld w 0 3)) (true) (fld w 21 4 == 0 && fld x 0 1 == 0 && fld x 10 8 == 0)
  | 53 => accept (.fmaxL (reg8 (fld x 22 2) (fld w 15 6)) (reg8 (fld x 20 2) (fld w 9 6)) (reg8 (fld x 18 2) (fld w 3 6)) (fld w 0 3)) (true) (fld w 21 4 == 0 && fld x 0 1 == 0 && fld x 10 8 == 0)
  | 54 => accept (.fcmpL (fld w 14 7) (reg8 (fld x 20 2) (fld w 8 6)) (reg8 (fld x 18 2) (fld w 2 6)) (fld w 0 2)) (true) (fld w 21 4 == 0 && fld x 0 1 == 0 && fld x 22 2 == 0 && fld x 10 8 == 0)
  | 55 => accept (.fcmpxL (fld w 14 7) (reg8 (fld x 20 2) (fld w 8 6)) (reg8 (fld x 18 2) (fld w 2 6)) (fld w 0 2)) (true) (fld w 21 4 == 0 && fld x 0 1 == 0 && fld x 22 2 == 0 && fld x 10 8 == 0)
  | 56 => accept (.fspfL (reg8 (fld x 22 2) (fld w 15 6)) (reg8 (fld x 20 2) (fld w 9 6)) (fld w 0 3)) (true) (fld w 3 6 == 0 && fld w 21 4 == 0 && fld x 0 1 == 0 && fld x 18 2 == 0 && fld x 10 8 == 0)
  | 57 => accept (.fsgnL (reg8 (fld x 22 2) (fld w 15 6)) (reg8 (fld x 20 2) (fld w 9 6)) (reg8 (fld x 18 2) (fld w 3 6)) (fld w 0 3)) (true) (fld w 21 4 == 0 && fld x 0 1 == 0 && fld x 10 8 == 0)
  | 58 => accept (.hadd2L (reg8 (fld x 22 2) (fld w 15 6)) (reg8 (fld x 20 2) (fld w 9 6)) (reg8 (fld x 18 2) (fld w 3 6)) (fld w 0 3)) (true) (fld w 21 4 == 0 && fld x 0 1 == 0 && fld x 10 8 == 0)
  | 59 => accept (.hmul2L (reg8 (fld x 22 2) (fld w 15 6)) (reg8 (fld x 20 2) (fld w 9 6)) (reg8 (fld x 18 2) (fld w 3 6)) (fld w 0 3)) (true) (fld w 21 4 == 0 && fld x 0 1 == 0 && fld x 10 8 == 0)
  | 60 => accept (.hfma2L (reg8 (fld x 22 2) (fld w 15 6)) (reg8 (fld x 20 2) (fld w 9 6)) (reg8 (fld x 18 2) (fld w 3 6)) (fld w 0 3) (reg8 (fld x 16 2) (fld x 10 6))) (true) (fld w 21 4 == 0 && fld x 0 1 == 0)
  | 61 => accept (.hmnx2L (reg8 (fld x 22 2) (fld w 15 6)) (reg8 (fld x 20 2) (fld w 9 6)) (reg8 (fld x 18 2) (fld w 3 6)) (fld w 1 1) (fld w 0 1)) (true) (fld w 2 1 == 0 && fld w 21 4 == 0 && fld x 0 1 == 0 && fld x 10 8 == 0)
  | 62 => accept (.cvtL (reg8 (fld x 22 2) (fld w 15 6)) (reg8 (fld x 20 2) (fld w 9 6)) (fld w 6 3) (fld w 3 3) (fld w 0 3)) (true) (fld w 21 4 == 0 && fld x 0 1 == 0 && fld x 18 2 == 0 && fld x 10 8 == 0)
  | 63 => accept (.pkbL (reg8 (fld x 22 2) (fld w 15 6)) (reg8 (fld x 20 2) (fld w 9 6)) (fld w 2 1) (fld w 0 2)) (true) (fld w 3 6 == 0 && fld w 21 4 == 0 && fld x 0 1 == 0 && fld x 18 2 == 0 && fld x 10 8 == 0)
  | _ => .error .illegalOp

/-- Majors 0x40 to 0x4F in Plimus-L (R57). -/
def decodeL4 (x w : Word) : Nat → Except EncFault Instr
  | 64 => accept (.shflL (reg8 (fld x 22 2) (fld w 15 6)) (reg8 (fld x 20 2) (fld w 9 6)) (reg8 (fld x 18 2) (fld w 3 6)) (fld w 0 3)) (true) (fld w 21 4 == 0 && fld x 0 1 == 0 && fld x 10 8 == 0)
  | 65 => accept (.vanyL (fld w 14 7) (fld w 7 7) (fld w 0 7)) (true) (fld w 21 4 == 0 && fld x 0 1 == 0 && fld x 22 2 == 0 && fld x 20 2 == 0 && fld x 18 2 == 0 && fld x 10 8 == 0)
  | 66 => accept (.vallL (fld w 14 7) (fld w 7 7) (fld w 0 7)) (true) (fld w 21 4 == 0 && fld x 0 1 == 0 && fld x 22 2 == 0 && fld x 20 2 == 0 && fld x 18 2 == 0 && fld x 10 8 == 0)
  | 67 => accept (.vbalL (reg8 (fld x 22 2) (fld w 15 6)) (fld w 0 7)) (true) (fld w 7 8 == 0 && fld w 21 4 == 0 && fld x 0 1 == 0 && fld x 20 2 == 0 && fld x 18 2 == 0 && fld x 10 8 == 0)
  | 68 => accept (.redlL (reg8 (fld x 22 2) (fld w 15 6)) (reg8 (fld x 20 2) (fld w 9 6)) (fld w 0 3)) (true) (fld w 3 6 == 0 && fld w 21 4 == 0 && fld x 0 1 == 0 && fld x 18 2 == 0 && fld x 10 8 == 0)
  | 69 => accept (.setpartL (fld w 0 9)) (true) (fld w 9 12 == 0 && fld w 21 4 == 0 && fld x 0 1 == 0 && fld x 22 2 == 0 && fld x 20 2 == 0 && fld x 18 2 == 0 && fld x 10 8 == 0)
  | 70 => accept (.pandL (fld w 14 7) (fld w 7 7) (fld w 0 7)) (true) (fld w 21 4 == 0 && fld x 0 1 == 0 && fld x 22 2 == 0 && fld x 20 2 == 0 && fld x 18 2 == 0 && fld x 10 8 == 0)
  | 71 => accept (.porL (fld w 14 7) (fld w 7 7) (fld w 0 7)) (true) (fld w 21 4 == 0 && fld x 0 1 == 0 && fld x 22 2 == 0 && fld x 20 2 == 0 && fld x 18 2 == 0 && fld x 10 8 == 0)
  | 72 => accept (.pxorL (fld w 14 7) (fld w 7 7) (fld w 0 7)) (true) (fld w 21 4 == 0 && fld x 0 1 == 0 && fld x 22 2 == 0 && fld x 20 2 == 0 && fld x 18 2 == 0 && fld x 10 8 == 0)
  | 73 => accept (.pandnL (fld w 14 7) (fld w 7 7) (fld w 0 7)) (true) (fld w 21 4 == 0 && fld x 0 1 == 0 && fld x 22 2 == 0 && fld x 20 2 == 0 && fld x 18 2 == 0 && fld x 10 8 == 0)
  | 74 => accept (.prdL (reg8 (fld x 22 2) (fld w 15 6)) (fld w 0 9)) (true) (fld w 9 6 == 0 && fld w 21 4 == 0 && fld x 0 1 == 0 && fld x 20 2 == 0 && fld x 18 2 == 0 && fld x 10 8 == 0)
  | 75 => accept (.pwrL (reg8 (fld x 20 2) (fld w 9 6)) (fld w 0 9)) (true) (fld w 15 6 == 0 && fld w 21 4 == 0 && fld x 0 1 == 0 && fld x 22 2 == 0 && fld x 18 2 == 0 && fld x 10 8 == 0)
  | 76 => accept (.stkrdL (fld w 14 7) (reg8 (fld x 20 2) (fld w 8 6))) (true) (fld w 0 8 == 0 && fld w 21 4 == 0 && fld x 0 1 == 0 && fld x 22 2 == 0 && fld x 18 2 == 0 && fld x 10 8 == 0)
  | 77 => accept (.stksetL (reg8 (fld x 22 2) (fld w 15 6)) (reg8 (fld x 20 2) (fld w 9 6)) (fld w 0 9)) (true) (fld w 21 4 == 0 && fld x 0 1 == 0 && fld x 18 2 == 0 && fld x 10 8 == 0)
  | _ => .error .illegalOp

/-- Majors 0x50 to 0x5F in Plimus-L (R57). -/
def decodeL5 (x w : Word) : Nat → Except EncFault Instr
  | 80 => accept (.ldL (reg8 (fld x 22 2) (fld w 15 6)) (reg8 (fld x 20 2) (fld w 9 6)) (fld w 6 3) (fld w 4 2) (fld w 0 4)) (true) (fld w 21 4 == 0 && fld x 0 1 == 0 && fld x 18 2 == 0 && fld x 10 8 == 0)
  | 81 => accept (.stL (reg8 (fld x 22 2) (fld w 15 6)) (reg8 (fld x 20 2) (fld w 9 6)) (fld w 6 3) (fld w 4 2) (fld w 0 4)) (true) (fld w 21 4 == 0 && fld x 0 1 == 0 && fld x 18 2 == 0 && fld x 10 8 == 0)
  | 82 => accept (.ldsL (reg8 (fld x 22 2) (fld w 15 6)) (reg8 (fld x 20 2) (fld w 9 6)) (fld w 6 3) (fld w 4 2) (fld w 0 4)) (true) (fld w 21 4 == 0 && fld x 0 1 == 0 && fld x 18 2 == 0 && fld x 10 8 == 0)
  | 83 => accept (.stsL (reg8 (fld x 22 2) (fld w 15 6)) (reg8 (fld x 20 2) (fld w 9 6)) (fld w 6 3) (fld w 4 2) (fld w 0 4)) (true) (fld w 21 4 == 0 && fld x 0 1 == 0 && fld x 18 2 == 0 && fld x 10 8 == 0)
  | 84 => accept (.ldaqL (reg8 (fld x 22 2) (fld w 15 6)) (reg8 (fld x 20 2) (fld w 9 6)) (fld w 6 3) (fld w 3 3) (fld w 0 3)) (true) (fld w 21 4 == 0 && fld x 0 1 == 0 && fld x 18 2 == 0 && fld x 10 8 == 0)
  | 85 => accept (.strlL (reg8 (fld x 22 2) (fld w 15 6)) (reg8 (fld x 20 2) (fld w 9 6)) (fld w 6 3) (fld w 3 3) (fld w 0 3)) (true) (fld w 21 4 == 0 && fld x 0 1 == 0 && fld x 18 2 == 0 && fld x 10 8 == 0)
  | 86 => accept (.atomL (reg8 (fld x 22 2) (fld w 15 6)) (reg8 (fld x 20 2) (fld w 9 6)) (reg8 (fld x 18 2) (fld w 3 6)) (fld w 0 3)) (true) (fld w 21 4 == 0 && fld x 0 1 == 0 && fld x 10 8 == 0)
  | 87 => accept (.atomsL (reg8 (fld x 22 2) (fld w 15 6)) (reg8 (fld x 20 2) (fld w 9 6)) (reg8 (fld x 18 2) (fld w 3 6)) (fld w 0 3)) (true) (fld w 21 4 == 0 && fld x 0 1 == 0 && fld x 10 8 == 0)
  | 88 => accept (.fenceL (fld w 5 1) (fld w 3 2) (fld w 0 3)) (true) (fld w 6 15 == 0 && fld w 21 4 == 0 && fld x 0 1 == 0 && fld x 22 2 == 0 && fld x 20 2 == 0 && fld x 18 2 == 0 && fld x 10 8 == 0)
  | 89 => accept (.ifenceL) (true) (fld w 0 21 == 0 && fld w 21 4 == 0 && fld x 0 1 == 0 && fld x 22 2 == 0 && fld x 20 2 == 0 && fld x 18 2 == 0 && fld x 10 8 == 0)
  | 90 => accept (.prefL (reg8 (fld x 20 2) (fld w 9 6)) (fld w 4 2) (fld w 0 4)) (fld w 6 3 == 0) (fld w 15 6 == 0 && fld w 21 4 == 0 && fld x 0 1 == 0 && fld x 22 2 == 0 && fld x 18 2 == 0 && fld x 10 8 == 0)
  | 91 => accept (.iprefL (fld w 0 21)) (true) (fld w 21 4 == 0 && fld x 0 1 == 0 && fld x 22 2 == 0 && fld x 20 2 == 0 && fld x 18 2 == 0 && fld x 10 8 == 0)
  | 92 => accept (.xlqL (reg8 (fld x 22 2) (fld w 15 6)) (reg8 (fld x 20 2) (fld w 9 6))) (true) (fld w 0 9 == 0 && fld w 21 4 == 0 && fld x 0 1 == 0 && fld x 18 2 == 0 && fld x 10 8 == 0)
  | 93 => accept (.stxL (reg8 (fld x 22 2) (fld w 15 6)) (reg8 (fld x 20 2) (fld w 9 6)) (fld w 4 2) (fld w 0 4)) (fld w 6 3 == 3) (fld w 21 4 == 0 && fld x 0 1 == 0 && fld x 18 2 == 0 && fld x 10 8 == 0)
  | 94 => accept (.ldxL (reg8 (fld x 22 2) (fld w 15 6)) (reg8 (fld x 20 2) (fld w 9 6)) (fld w 4 2) (fld w 0 4)) (fld w 6 3 == 3) (fld w 21 4 == 0 && fld x 0 1 == 0 && fld x 18 2 == 0 && fld x 10 8 == 0)
  | 95 => accept (.stcL (reg8 (fld x 22 2) (fld w 15 6)) (reg8 (fld x 20 2) (fld w 9 6)) (fld w 6 3) (fld w 3 3) (fld w 0 3)) (true) (fld w 21 4 == 0 && fld x 0 1 == 0 && fld x 18 2 == 0 && fld x 10 8 == 0)
  | _ => .error .illegalOp

/-- Majors 0x60 to 0x6F in Plimus-L (R57). -/
def decodeL6 (x w : Word) : Nat → Except EncFault Instr
  | 96 => accept (.cpaL (reg8 (fld x 20 2) (fld w 15 6)) (reg8 (fld x 18 2) (fld w 9 6)) (fld w 7 2) (fld w 4 3) (fld w 0 4)) (true) (fld w 21 4 == 0 && fld x 0 1 == 0 && fld x 22 2 == 0 && fld x 10 8 == 0)
  | 97 => accept (.waittL (fld w 0 8)) (true) (fld w 8 13 == 0 && fld w 21 4 == 0 && fld x 0 1 == 0 && fld x 22 2 == 0 && fld x 20 2 == 0 && fld x 18 2 == 0 && fld x 10 8 == 0)
  | 98 => accept (.tokqL (fld w 14 7) (fld w 8 6) (fld w 0 2)) (true) (fld w 2 6 == 0 && fld w 21 4 == 0 && fld x 0 1 == 0 && fld x 22 2 == 0 && fld x 20 2 == 0 && fld x 18 2 == 0 && fld x 10 8 == 0)
  | 99 => accept (.mmaf8aL (reg8 (fld x 20 2) (fld w 15 6)) (fld w 4 3)) (true) (fld w 7 8 == 0 && fld w 0 4 == 0 && fld w 21 4 == 0 && fld x 0 1 == 0 && fld x 22 2 == 0 && fld x 18 2 == 0 && fld x 10 8 == 0)
  | 100 => accept (.mmaf8bL (reg8 (fld x 20 2) (fld w 15 6)) (fld w 4 3)) (true) (fld w 7 8 == 0 && fld w 0 4 == 0 && fld w 21 4 == 0 && fld x 0 1 == 0 && fld x 22 2 == 0 && fld x 18 2 == 0 && fld x 10 8 == 0)
  | 101 => accept (.mmak8L (reg8 (fld x 20 2) (fld w 15 6)) (reg8 (fld x 18 2) (fld w 9 6)) (fld w 7 2) (fld w 4 3)) (true) (fld w 0 4 == 0 && fld w 21 4 == 0 && fld x 0 1 == 0 && fld x 22 2 == 0 && fld x 10 8 == 0)
  | 102 => accept (.mmab16L (reg8 (fld x 20 2) (fld w 15 6)) (fld w 4 3)) (true) (fld w 7 8 == 0 && fld w 0 4 == 0 && fld w 21 4 == 0 && fld x 0 1 == 0 && fld x 22 2 == 0 && fld x 18 2 == 0 && fld x 10 8 == 0)
  | 103 => accept (.mmah16L (reg8 (fld x 20 2) (fld w 15 6)) (fld w 4 3)) (true) (fld w 7 8 == 0 && fld w 0 4 == 0 && fld w 21 4 == 0 && fld x 0 1 == 0 && fld x 22 2 == 0 && fld x 18 2 == 0 && fld x 10 8 == 0)
  | 104 => accept (.mmai8L (reg8 (fld x 20 2) (fld w 15 6)) (fld w 4 3)) (true) (fld w 7 8 == 0 && fld w 0 4 == 0 && fld w 21 4 == 0 && fld x 0 1 == 0 && fld x 22 2 == 0 && fld x 18 2 == 0 && fld x 10 8 == 0)
  | 105 => accept (.accrdL (reg8 (fld x 22 2) (fld w 15 6)) (reg8 (fld x 20 2) (fld w 9 6)) (fld w 6 3) (fld w 3 3)) (true) (fld w 0 3 == 0 && fld w 21 4 == 0 && fld x 0 1 == 0 && fld x 18 2 == 0 && fld x 10 8 == 0)
  | 106 => accept (.accwrL (reg8 (fld x 22 2) (fld w 15 6)) (reg8 (fld x 20 2) (fld w 9 6))) (true) (fld w 0 9 == 0 && fld w 21 4 == 0 && fld x 0 1 == 0 && fld x 18 2 == 0 && fld x 10 8 == 0)
  | 107 => accept (.acczL (fld w 0 7)) (true) (fld w 7 14 == 0 && fld w 21 4 == 0 && fld x 0 1 == 0 && fld x 22 2 == 0 && fld x 20 2 == 0 && fld x 18 2 == 0 && fld x 10 8 == 0)
  | 108 => accept (.accstL (reg8 (fld x 20 2) (fld w 15 6)) (fld w 4 3)) (true) (fld w 7 8 == 0 && fld w 0 4 == 0 && fld w 21 4 == 0 && fld x 0 1 == 0 && fld x 22 2 == 0 && fld x 18 2 == 0 && fld x 10 8 == 0)
  | 109 => accept (.pliL (reg8 (fld x 22 2) (fld w 15 6)) (reg8 (fld x 20 2) (fld w 9 6)) (reg8 (fld x 18 2) (fld w 3 6)) (fld w 0 3)) (true) (fld w 21 4 == 0 && fld x 0 1 == 0 && fld x 10 8 == 0)
  | 110 => accept (.plfL (reg8 (fld x 22 2) (fld w 15 6)) (reg8 (fld x 20 2) (fld w 9 6)) (reg8 (fld x 18 2) (fld w 3 6)) (fld w 0 3)) (true) (fld w 21 4 == 0 && fld x 0 1 == 0 && fld x 10 8 == 0)
  | 111 => accept (.plredL (reg8 (fld x 22 2) (fld w 15 6)) (reg8 (fld x 20 2) (fld w 9 6)) (fld w 0 3)) (true) (fld w 3 6 == 0 && fld w 21 4 == 0 && fld x 0 1 == 0 && fld x 18 2 == 0 && fld x 10 8 == 0)
  | _ => .error .illegalOp

/-- Majors 0x70 to 0x7F in Plimus-L (R57). -/
def decodeL7 (x w : Word) : Nat → Except EncFault Instr
  | 112 => if fld w 4 1 == 1 then accept (.regacqTryL (reg8 (fld x 22 2) (fld w 15 6)) (fld w 0 4)) (true) (fld w 5 10 == 0 && fld w 21 4 == 0 && fld x 0 1 == 0 && fld x 20 2 == 0 && fld x 18 2 == 0 && fld x 10 8 == 0)
    else accept (.regacqWaitL (fld w 0 4)) (true) (fld w 5 16 == 0 && fld w 21 4 == 0 && fld x 0 1 == 0 && fld x 22 2 == 0 && fld x 20 2 == 0 && fld x 18 2 == 0 && fld x 10 8 == 0)
  | 113 => accept (.regrelL (fld w 0 4)) (true) (fld w 4 17 == 0 && fld w 21 4 == 0 && fld x 0 1 == 0 && fld x 22 2 == 0 && fld x 20 2 == 0 && fld x 18 2 == 0 && fld x 10 8 == 0)
  | 114 => accept (.migrL (fld w 0 1)) (fld w 1 8 == 0) (fld w 9 12 == 0 && fld w 21 4 == 0 && fld x 0 1 == 0 && fld x 22 2 == 0 && fld x 20 2 == 0 && fld x 18 2 == 0 && fld x 10 8 == 0)
  | 115 => accept (.dvtL (fld w 0 11)) true (fld w 19 6 == 0 && fld w 11 8 == 0 && fld x 2 30 == 0 && fld x 0 1 == 0)
  | 116 => accept (.barL (fld w 0 4)) (true) (fld w 4 17 == 0 && fld w 21 4 == 0 && fld x 0 1 == 0 && fld x 22 2 == 0 && fld x 20 2 == 0 && fld x 18 2 == 0 && fld x 10 8 == 0)
  | 117 => accept (.arvL (reg8 (fld x 22 2) (fld w 15 6)) (reg8 (fld x 20 2) (fld w 9 6)) (reg8 (fld x 18 2) (fld w 3 6))) (true) (fld w 0 3 == 0 && fld w 21 4 == 0 && fld x 0 1 == 0 && fld x 10 8 == 0)
  | 118 => accept (.awtL (reg8 (fld x 22 2) (fld w 15 6)) (reg8 (fld x 20 2) (fld w 9 6)) (reg8 (fld x 18 2) (fld w 3 6))) (true) (fld w 0 3 == 0 && fld w 21 4 == 0 && fld x 0 1 == 0 && fld x 10 8 == 0)
  | 119 => accept (.brdL (reg8 (fld x 22 2) (fld w 15 6)) (fld w 0 6)) (true) (fld w 6 9 == 0 && fld w 21 4 == 0 && fld x 0 1 == 0 && fld x 20 2 == 0 && fld x 18 2 == 0 && fld x 10 8 == 0)
  | 120 => accept (.bwrL (reg8 (fld x 20 2) (fld w 9 6)) (fld w 0 6)) (true) (fld w 15 6 == 0 && fld w 6 3 == 0 && fld w 21 4 == 0 && fld x 0 1 == 0 && fld x 22 2 == 0 && fld x 18 2 == 0 && fld x 10 8 == 0)
  | 121 => accept (.batomL (reg8 (fld x 22 2) (fld w 15 6)) (reg8 (fld x 20 2) (fld w 9 6)) (fld w 6 3) (fld w 0 6)) (true) (fld w 21 4 == 0 && fld x 0 1 == 0 && fld x 18 2 == 0 && fld x 10 8 == 0)
  | 122 => accept (.featqL (reg8 (fld x 22 2) (fld w 15 6)) (fld w 0 9)) (true) (fld w 9 6 == 0 && fld w 21 4 == 0 && fld x 0 1 == 0 && fld x 20 2 == 0 && fld x 18 2 == 0 && fld x 10 8 == 0)
  | 123 => accept (.genbumpL) (true) (fld w 0 21 == 0 && fld w 21 4 == 0 && fld x 0 1 == 0 && fld x 22 2 == 0 && fld x 20 2 == 0 && fld x 18 2 == 0 && fld x 10 8 == 0)
  | 124 => accept (.ckptL) (true) (fld w 0 21 == 0 && fld w 21 4 == 0 && fld x 0 1 == 0 && fld x 22 2 == 0 && fld x 20 2 == 0 && fld x 18 2 == 0 && fld x 10 8 == 0)
  | 125 => accept (.haltL) (true) (fld w 0 21 == 0 && fld w 21 4 == 0 && fld x 0 1 == 0 && fld x 22 2 == 0 && fld x 20 2 == 0 && fld x 18 2 == 0 && fld x 10 8 == 0)
  | 126 => accept (.chunkL (reg8 (fld x 22 2) (fld w 15 6)) (reg8 (fld x 20 2) (fld w 9 6))) (true) (fld w 0 9 == 0 && fld w 21 4 == 0 && fld x 0 1 == 0 && fld x 18 2 == 0 && fld x 10 8 == 0)
  | _ => .error .illegalOp

/-- The instruction of a Plimus-L doubleword, extension word `x` and base word `w`, or the fault its encoding raises
(R46, R47, R59). -/
def decodePair (x w : Word) : Except EncFault Instr :=
  let mj := (fld w 25 7).toNat
  match mj / 16 with
  | 0 => decodeL0 x w mj
  | 1 => decodeL1 x w mj
  | 2 => decodeL2 x w mj
  | 3 => decodeL3 x w mj
  | 4 => decodeL4 x w mj
  | 5 => decodeL5 x w mj
  | 6 => decodeL6 x w mj
  | 7 => decodeL7 x w mj
  | _ => .error .illegalOp

/-- The prefix of a D base word: formats I and REP have no guard; elsewhere bit 3 of the guard field negates and bits
2..0 name p0 to p7 (R50, R51). -/
def prefixD (w : Word) : Prefix :=
  let mj := (fld w 25 7).toNat
  if mj = 0x02 ∨ mj = 0x03 ∨ mj = 0x07 then Prefix.plain
  else { wait := 0, guard := BitVec.ofNat 7 (fld w 21 3).toNat, neg := fld w 24 1 == 1, land := false }

/-- The prefix of an L doubleword, from its extension word (R46). -/
def prefixL (x : Word) : Prefix :=
  { wait := fld x 24 8, guard := fld x 3 7, neg := fld x 2 1 == 1, land := fld x 1 1 == 1 }

/-- A D base word read whole: its prefix and its instruction. -/
def decodeD (w : Word) : Except EncFault (Prefix × Instr) :=
  match decodeBase w with
  | .ok i => .ok (prefixD w, i)
  | .error e => .error e

/-- An L doubleword read whole: extension word `x` at the lower address, base word `w` after it (R46). -/
def decodeL (x w : Word) : Except EncFault (Prefix × Instr) :=
  match decodePair x w with
  | .ok i => .ok (prefixL x, i)
  | .error e => .error e

/-- The instruction that the decoder reads from a table row's bits: the first word is bits 31..0, the next bits 63..32. -/
def decodeTableWord (nbits w : Nat) : Option Instr :=
  if nbits ≤ 32 then (decodeBase (BitVec.ofNat 32 w)).toOption
  else (decodePair (BitVec.ofNat 32 w) (BitVec.ofNat 32 (w / 2 ^ 32))).toOption

/-! ## Encoding -/

/-- A field's number at its place in a word. -/
def put {w : Nat} (v : BitVec w) (lo : Nat) : Nat := v.toNat * 2 ^ lo

/-- A word from its fixed bits and its fields, which do not overlap. -/
def pack (m : Nat) (fs : List Nat) : Word := BitVec.ofNat 32 (fs.foldl (· + ·) m)

/-- The six low bits of an 8-bit register number, which stand in the base word (R46). -/
def low6 (r : BitVec 8) : BitVec 6 := BitVec.ofNat 6 r.toNat
/-- The two high bits of an 8-bit register number, which stand in the extension word (R46). -/
def high2 (r : BitVec 8) : BitVec 2 := BitVec.ofNat 2 (r.toNat / 64)
/-- The 4-bit guard field of a base word (R51). -/
def guard4 (q : Prefix) : BitVec 4 := BitVec.ofNat 4 (q.guard.toNat % 8 + 8 * q.neg.toNat)
/-- WMASK, GUARD, NEG and LAND at their places in an extension word (R46). -/
def extBits (q : Prefix) : Nat :=
  put q.wait 24 + put q.guard 3 + put (BitVec.ofBool q.neg) 2 + put (BitVec.ofBool q.land) 1

/-- The base word of an instruction, from the formats of R50. An event has none. -/
def Instr.baseWord (pf : Prefix) : Instr → Option Word
  | .nopD => some (pack 0x02000000 [put (guard4 pf) 21])
  | .moviD d i => some (pack 0x04000000 [put d 19, put i 0])
  | .movhiD d i => some (pack 0x06000000 [put d 19, put i 0])
  | .movD d a s => some (pack 0x08000000 [put (guard4 pf) 21, put d 15, put a 9, put s 0])
  | .sreadD d x => some (pack 0x0A000000 [put (guard4 pf) 21, put d 15, put x 0])
  | .swriteD a x => some (pack 0x0C000000 [put (guard4 pf) 21, put a 9, put x 0])
  | .repD c d a b e => some (pack 0x0E000000 [put c 15, put d 13, put a 11, put b 9, put e 7])
  | .braD o => some (pack 0x10000000 [put (guard4 pf) 21, put o 0])
  | .callD o => some (pack 0x12000000 [put (guard4 pf) 21, put o 0])
  | .brxD a c => some (pack 0x14000000 [put (guard4 pf) 21, put a 9, put c 0])
  | .retD a => some (pack 0x16000000 [put (guard4 pf) 21, put a 9])
  | .forkD a n => some (pack 0x18000000 [put (guard4 pf) 21, put a 9, put n 0])
  | .forkTryD p a n => some (pack 0x18000010 [put (guard4 pf) 21, put p 15, put a 9, put n 0])
  | .endD => some (pack 0x1A000000 [put (guard4 pf) 21])
  | .trapD x => some (pack 0x1C000000 [put (guard4 pf) 21, put x 0])
  | .syscD x => some (pack 0x1E000000 [put (guard4 pf) 21, put x 0])
  | .iaddD d a b s => some (pack 0x20000000 [put (guard4 pf) 21, put d 15, put a 9, put b 3, put s 0])
  | .isubD d a b s => some (pack 0x22000000 [put (guard4 pf) 21, put d 15, put a 9, put b 3, put s 0])
  | .imulD d a b s => some (pack 0x24000000 [put (guard4 pf) 21, put d 15, put a 9, put b 3, put s 0])
  | .imadD d a b => some (pack 0x26000000 [put (guard4 pf) 21, put d 15, put a 9, put b 3])
  | .idivD d a b s => some (pack 0x28000000 [put (guard4 pf) 21, put d 15, put a 9, put b 3, put s 0])
  | .iremD d a b s => some (pack 0x2A000000 [put (guard4 pf) 21, put d 15, put a 9, put b 3, put s 0])
  | .iminD d a b s => some (pack 0x2C000000 [put (guard4 pf) 21, put d 15, put a 9, put b 3, put s 0])
  | .imaxD d a b s => some (pack 0x2E000000 [put (guard4 pf) 21, put d 15, put a 9, put b 3, put s 0])
  | .andD d a b => some (pack 0x30000000 [put (guard4 pf) 21, put d 15, put a 9, put b 3])
  | .orD d a b => some (pack 0x32000000 [put (guard4 pf) 21, put d 15, put a 9, put b 3])
  | .xorD d a b => some (pack 0x34000000 [put (guard4 pf) 21, put d 15, put a 9, put b 3])
  | .andnD d a b => some (pack 0x36000000 [put (guard4 pf) 21, put d 15, put a 9, put b 3])
  | .shlD d a b s => some (pack 0x38000000 [put (guard4 pf) 21, put d 15, put a 9, put b 3, put s 0])
  | .shrD d a b s => some (pack 0x3A000000 [put (guard4 pf) 21, put d 15, put a 9, put b 3, put s 0])
  | .rotlD d a b => some (pack 0x3C000000 [put (guard4 pf) 21, put d 15, put a 9, put b 3])
  | .bfxD d a b s => some (pack 0x3E000000 [put (guard4 pf) 21, put d 15, put a 9, put b 3, put s 0])
  | .iaddiD d a i => some (pack 0x40000000 [put (guard4 pf) 21, put d 15, put a 9, put i 0])
  | .andiD d a i => some (pack 0x42000000 [put (guard4 pf) 21, put d 15, put a 9, put i 0])
  | .oriD d a i => some (pack 0x44000000 [put (guard4 pf) 21, put d 15, put a 9, put i 0])
  | .xoriD d a i => some (pack 0x46000000 [put (guard4 pf) 21, put d 15, put a 9, put i 0])
  | .shliD d a i => some (pack 0x48000000 [put (guard4 pf) 21, put d 15, put a 9, put i 0])
  | .shriD d a h i => some (pack 0x4A000000 [put (guard4 pf) 21, put d 15, put a 9, put h 5, put i 0])
  | .imuliD d a i => some (pack 0x4C000000 [put (guard4 pf) 21, put d 15, put a 9, put i 0])
  | .leaD d a b s => some (pack 0x4E000000 [put (guard4 pf) 21, put d 15, put a 9, put b 3, put s 0])
  | .bfiD d a b => some (pack 0x50000000 [put (guard4 pf) 21, put d 15, put a 9, put b 3])
  | .popcD d a => some (pack 0x52000000 [put (guard4 pf) 21, put d 15, put a 9])
  | .clzD d a => some (pack 0x54000000 [put (guard4 pf) 21, put d 15, put a 9])
  | .brevD d a => some (pack 0x56000000 [put (guard4 pf) 21, put d 15, put a 9])
  | .iabsD d a => some (pack 0x58000000 [put (guard4 pf) 21, put d 15, put a 9])
  | .selD d a b s => some (pack 0x5A000000 [put (guard4 pf) 21, put d 15, put a 9, put b 3, put s 0])
  | .icmpD p a b c => some (pack 0x5C000000 [put (guard4 pf) 21, put p 14, put a 8, put b 2, put c 0])
  | .icmpuD p a b c => some (pack 0x5E000000 [put (guard4 pf) 21, put p 14, put a 8, put b 2, put c 0])
  | .faddD d a b s => some (pack 0x60000000 [put (guard4 pf) 21, put d 15, put a 9, put b 3, put s 0])
  | .fsubD d a b s => some (pack 0x62000000 [put (guard4 pf) 21, put d 15, put a 9, put b 3, put s 0])
  | .fmulD d a b s => some (pack 0x64000000 [put (guard4 pf) 21, put d 15, put a 9, put b 3, put s 0])
  | .ffmaD d a b s => some (pack 0x66000000 [put (guard4 pf) 21, put d 15, put a 9, put b 3, put s 0])
  | .fminD d a b s => some (pack 0x68000000 [put (guard4 pf) 21, put d 15, put a 9, put b 3, put s 0])
  | .fmaxD d a b s => some (pack 0x6A000000 [put (guard4 pf) 21, put d 15, put a 9, put b 3, put s 0])
  | .fcmpD p a b c => some (pack 0x6C000000 [put (guard4 pf) 21, put p 14, put a 8, put b 2, put c 0])
  | .fcmpxD p a b c => some (pack 0x6E000000 [put (guard4 pf) 21, put p 14, put a 8, put b 2, put c 0])
  | .fspfD d a s => some (pack 0x70000000 [put (guard4 pf) 21, put d 15, put a 9, put s 0])
  | .fsgnD d a b s => some (pack 0x72000000 [put (guard4 pf) 21, put d 15, put a 9, put b 3, put s 0])
  | .hadd2D d a b s => some (pack 0x74000000 [put (guard4 pf) 21, put d 15, put a 9, put b 3, put s 0])
  | .hmul2D d a b s => some (pack 0x76000000 [put (guard4 pf) 21, put d 15, put a 9, put b 3, put s 0])
  | .hfma2D d a b s => some (pack 0x78000000 [put (guard4 pf) 21, put d 15, put a 9, put b 3, put s 0])
  | .hmnx2D d a b y t => some (pack 0x7A000000 [put (guard4 pf) 21, put d 15, put a 9, put b 3, put y 1, put t 0])
  | .cvtD d a f h m => some (pack 0x7C000000 [put (guard4 pf) 21, put d 15, put a 9, put f 6, put h 3, put m 0])
  | .pkbD d a w n => some (pack 0x7E000000 [put (guard4 pf) 21, put d 15, put a 9, put w 2, put n 0])
  | .shflD d a b s => some (pack 0x80000000 [put (guard4 pf) 21, put d 15, put a 9, put b 3, put s 0])
  | .vanyD p q r => some (pack 0x82000000 [put (guard4 pf) 21, put p 14, put q 7, put r 0])
  | .vallD p q r => some (pack 0x84000000 [put (guard4 pf) 21, put p 14, put q 7, put r 0])
  | .vbalD d p => some (pack 0x86000000 [put (guard4 pf) 21, put d 15, put p 0])
  | .redlD d a s => some (pack 0x88000000 [put (guard4 pf) 21, put d 15, put a 9, put s 0])
  | .setpartD x => some (pack 0x8A000000 [put (guard4 pf) 21, put x 0])
  | .pandD p q r => some (pack 0x8C000000 [put (guard4 pf) 21, put p 14, put q 7, put r 0])
  | .porD p q r => some (pack 0x8E000000 [put (guard4 pf) 21, put p 14, put q 7, put r 0])
  | .pxorD p q r => some (pack 0x90000000 [put (guard4 pf) 21, put p 14, put q 7, put r 0])
  | .pandnD p q r => some (pack 0x92000000 [put (guard4 pf) 21, put p 14, put q 7, put r 0])
  | .prdD d x => some (pack 0x94000000 [put (guard4 pf) 21, put d 15, put x 0])
  | .pwrD a x => some (pack 0x96000000 [put (guard4 pf) 21, put a 9, put x 0])
  | .stkrdD p a => some (pack 0x98000000 [put (guard4 pf) 21, put p 14, put a 8])
  | .stksetD d a x => some (pack 0x9A000000 [put (guard4 pf) 21, put d 15, put a 9, put x 0])
  | .ldD d a z m o => some (pack 0xA0000000 [put (guard4 pf) 21, put d 15, put a 9, put z 6, put m 4, put o 0])
  | .stD d a z m o => some (pack 0xA2000000 [put (guard4 pf) 21, put d 15, put a 9, put z 6, put m 4, put o 0])
  | .ldsD d a z m o => some (pack 0xA4000000 [put (guard4 pf) 21, put d 15, put a 9, put z 6, put m 4, put o 0])
  | .stsD d a z m o => some (pack 0xA6000000 [put (guard4 pf) 21, put d 15, put a 9, put z 6, put m 4, put o 0])
  | .ldaqD d a z k o => some (pack 0xA8000000 [put (guard4 pf) 21, put d 15, put a 9, put z 6, put k 3, put o 0])
  | .strlD d a z k o => some (pack 0xAA000000 [put (guard4 pf) 21, put d 15, put a 9, put z 6, put k 3, put o 0])
  | .atomD d a b s => some (pack 0xAC000000 [put (guard4 pf) 21, put d 15, put a 9, put b 3, put s 0])
  | .atomsD d a b s => some (pack 0xAE000000 [put (guard4 pf) 21, put d 15, put a 9, put b 3, put s 0])
  | .fenceD e k c => some (pack 0xB0000000 [put (guard4 pf) 21, put e 5, put k 3, put c 0])
  | .ifenceD => some (pack 0xB2000000 [put (guard4 pf) 21])
  | .prefD a m o => some (pack 0xB4000000 [put (guard4 pf) 21, put a 9, put m 4, put o 0])
  | .iprefD o => some (pack 0xB6000000 [put (guard4 pf) 21, put o 0])
  | .xlqD d a => some (pack 0xB8000000 [put (guard4 pf) 21, put d 15, put a 9])
  | .stxD d a m o => some (pack 0xBA0000C0 [put (guard4 pf) 21, put d 15, put a 9, put m 4, put o 0])
  | .ldxD d a m o => some (pack 0xBC0000C0 [put (guard4 pf) 21, put d 15, put a 9, put m 4, put o 0])
  | .stcD d a f e o => some (pack 0xBE000000 [put (guard4 pf) 21, put d 15, put a 9, put f 6, put e 3, put o 0])
  | .cpaD a b n t s => some (pack 0xC0000000 [put (guard4 pf) 21, put a 15, put b 9, put n 7, put t 4, put s 0])
  | .waittD k => some (pack 0xC2000000 [put (guard4 pf) 21, put k 0])
  | .tokqD p a c => some (pack 0xC4000000 [put (guard4 pf) 21, put p 14, put a 8, put c 0])
  | .mmaf8aD a t => some (pack 0xC6000000 [put (guard4 pf) 21, put a 15, put t 4])
  | .mmaf8bD a t => some (pack 0xC8000000 [put (guard4 pf) 21, put a 15, put t 4])
  | .mmak8D a b n t => some (pack 0xCA000000 [put (guard4 pf) 21, put a 15, put b 9, put n 7, put t 4])
  | .mmab16D a t => some (pack 0xCC000000 [put (guard4 pf) 21, put a 15, put t 4])
  | .mmah16D a t => some (pack 0xCE000000 [put (guard4 pf) 21, put a 15, put t 4])
  | .mmai8D a t => some (pack 0xD0000000 [put (guard4 pf) 21, put a 15, put t 4])
  | .accrdD d a f e => some (pack 0xD2000000 [put (guard4 pf) 21, put d 15, put a 9, put f 6, put e 3])
  | .accwrD d a => some (pack 0xD4000000 [put (guard4 pf) 21, put d 15, put a 9])
  | .acczD n => some (pack 0xD6000000 [put (guard4 pf) 21, put n 0])
  | .accstD a t => some (pack 0xD8000000 [put (guard4 pf) 21, put a 15, put t 4])
  | .pliD d a b s => some (pack 0xDA000000 [put (guard4 pf) 21, put d 15, put a 9, put b 3, put s 0])
  | .plfD d a b s => some (pack 0xDC000000 [put (guard4 pf) 21, put d 15, put a 9, put b 3, put s 0])
  | .plredD d a s => some (pack 0xDE000000 [put (guard4 pf) 21, put d 15, put a 9, put s 0])
  | .regacqWaitD n => some (pack 0xE0000000 [put (guard4 pf) 21, put n 0])
  | .regacqTryD p n => some (pack 0xE0000010 [put (guard4 pf) 21, put p 15, put n 0])
  | .regrelD n => some (pack 0xE2000000 [put (guard4 pf) 21, put n 0])
  | .migrD k => some (pack 0xE4000000 [put (guard4 pf) 21, put k 0])
  | .barD n => some (pack 0xE8000000 [put (guard4 pf) 21, put n 0])
  | .arvD d a b => some (pack 0xEA000000 [put (guard4 pf) 21, put d 15, put a 9, put b 3])
  | .awtD d a b => some (pack 0xEC000000 [put (guard4 pf) 21, put d 15, put a 9, put b 3])
  | .brdD d k => some (pack 0xEE000000 [put (guard4 pf) 21, put d 15, put k 0])
  | .bwrD a k => some (pack 0xF0000000 [put (guard4 pf) 21, put a 9, put k 0])
  | .batomD d a o k => some (pack 0xF2000000 [put (guard4 pf) 21, put d 15, put a 9, put o 6, put k 0])
  | .featqD d x => some (pack 0xF4000000 [put (guard4 pf) 21, put d 15, put x 0])
  | .genbumpD => some (pack 0xF6000000 [put (guard4 pf) 21])
  | .ckptD => some (pack 0xF8000000 [put (guard4 pf) 21])
  | .haltD => some (pack 0xFA000000 [put (guard4 pf) 21])
  | .chunkD d a => some (pack 0xFC000000 [put (guard4 pf) 21, put d 15, put a 9])
  | .nopL => some 0x02000000
  | .moviL d i => some (pack 0x04000000 [put (low6 d) 19, put i 0])
  | .movhiL d i => some (pack 0x06000000 [put (low6 d) 19, put i 0])
  | .movL d a s => some (pack 0x08000000 [put (low6 d) 15, put (low6 a) 9, put s 0])
  | .sreadL d x => some (pack 0x0A000000 [put (low6 d) 15, put x 0])
  | .swriteL a x => some (pack 0x0C000000 [put (low6 a) 9, put x 0])
  | .repL c d a b e => some (pack 0x0E000000 [put c 15, put d 13, put a 11, put b 9, put e 7])
  | .braL o => some (pack 0x10000000 [put o 0])
  | .callL o => some (pack 0x12000000 [put o 0])
  | .brxL a c => some (pack 0x14000000 [put (low6 a) 9, put c 0])
  | .retL a => some (pack 0x16000000 [put (low6 a) 9])
  | .forkL a n => some (pack 0x18000000 [put (low6 a) 9, put n 0])
  | .forkTryL p a n => some (pack 0x18000010 [put (low6 p) 15, put (low6 a) 9, put n 0])
  | .endL => some 0x1A000000
  | .trapL x => some (pack 0x1C000000 [put x 0])
  | .syscL x => some (pack 0x1E000000 [put x 0])
  | .iaddL d a b s => some (pack 0x20000000 [put (low6 d) 15, put (low6 a) 9, put (low6 b) 3, put s 0])
  | .isubL d a b s => some (pack 0x22000000 [put (low6 d) 15, put (low6 a) 9, put (low6 b) 3, put s 0])
  | .imulL d a b s => some (pack 0x24000000 [put (low6 d) 15, put (low6 a) 9, put (low6 b) 3, put s 0])
  | .imadL d a b _ => some (pack 0x26000000 [put (low6 d) 15, put (low6 a) 9, put (low6 b) 3])
  | .idivL d a b s => some (pack 0x28000000 [put (low6 d) 15, put (low6 a) 9, put (low6 b) 3, put s 0])
  | .iremL d a b s => some (pack 0x2A000000 [put (low6 d) 15, put (low6 a) 9, put (low6 b) 3, put s 0])
  | .iminL d a b s => some (pack 0x2C000000 [put (low6 d) 15, put (low6 a) 9, put (low6 b) 3, put s 0])
  | .imaxL d a b s => some (pack 0x2E000000 [put (low6 d) 15, put (low6 a) 9, put (low6 b) 3, put s 0])
  | .andL d a b => some (pack 0x30000000 [put (low6 d) 15, put (low6 a) 9, put (low6 b) 3])
  | .orL d a b => some (pack 0x32000000 [put (low6 d) 15, put (low6 a) 9, put (low6 b) 3])
  | .xorL d a b => some (pack 0x34000000 [put (low6 d) 15, put (low6 a) 9, put (low6 b) 3])
  | .andnL d a b => some (pack 0x36000000 [put (low6 d) 15, put (low6 a) 9, put (low6 b) 3])
  | .shlL d a b s => some (pack 0x38000000 [put (low6 d) 15, put (low6 a) 9, put (low6 b) 3, put s 0])
  | .shrL d a b s => some (pack 0x3A000000 [put (low6 d) 15, put (low6 a) 9, put (low6 b) 3, put s 0])
  | .rotlL d a b => some (pack 0x3C000000 [put (low6 d) 15, put (low6 a) 9, put (low6 b) 3])
  | .bfxL d a b s => some (pack 0x3E000000 [put (low6 d) 15, put (low6 a) 9, put (low6 b) 3, put s 0])
  | .iaddiL d a i => some (pack 0x40000000 [put (low6 d) 15, put (low6 a) 9, put i 0])
  | .andiL d a i => some (pack 0x42000000 [put (low6 d) 15, put (low6 a) 9, put i 0])
  | .oriL d a i => some (pack 0x44000000 [put (low6 d) 15, put (low6 a) 9, put i 0])
  | .xoriL d a i => some (pack 0x46000000 [put (low6 d) 15, put (low6 a) 9, put i 0])
  | .shliL d a i => some (pack 0x48000000 [put (low6 d) 15, put (low6 a) 9, put i 0])
  | .shriL d a h i => some (pack 0x4A000000 [put (low6 d) 15, put (low6 a) 9, put h 5, put i 0])
  | .imuliL d a i => some (pack 0x4C000000 [put (low6 d) 15, put (low6 a) 9, put i 0])
  | .leaL d a b s => some (pack 0x4E000000 [put (low6 d) 15, put (low6 a) 9, put (low6 b) 3, put s 0])
  | .bfiL d a b => some (pack 0x50000000 [put (low6 d) 15, put (low6 a) 9, put (low6 b) 3])
  | .popcL d a => some (pack 0x52000000 [put (low6 d) 15, put (low6 a) 9])
  | .clzL d a => some (pack 0x54000000 [put (low6 d) 15, put (low6 a) 9])
  | .brevL d a => some (pack 0x56000000 [put (low6 d) 15, put (low6 a) 9])
  | .iabsL d a => some (pack 0x58000000 [put (low6 d) 15, put (low6 a) 9])
  | .selL d a b s => some (pack 0x5A000000 [put (low6 d) 15, put (low6 a) 9, put (low6 b) 3, put s 0])
  | .icmpL p a b c => some (pack 0x5C000000 [put p 14, put (low6 a) 8, put (low6 b) 2, put c 0])
  | .icmpuL p a b c => some (pack 0x5E000000 [put p 14, put (low6 a) 8, put (low6 b) 2, put c 0])
  | .faddL d a b s => some (pack 0x60000000 [put (low6 d) 15, put (low6 a) 9, put (low6 b) 3, put s 0])
  | .fsubL d a b s => some (pack 0x62000000 [put (low6 d) 15, put (low6 a) 9, put (low6 b) 3, put s 0])
  | .fmulL d a b s => some (pack 0x64000000 [put (low6 d) 15, put (low6 a) 9, put (low6 b) 3, put s 0])
  | .ffmaL d a b s _ => some (pack 0x66000000 [put (low6 d) 15, put (low6 a) 9, put (low6 b) 3, put s 0])
  | .fminL d a b s => some (pack 0x68000000 [put (low6 d) 15, put (low6 a) 9, put (low6 b) 3, put s 0])
  | .fmaxL d a b s => some (pack 0x6A000000 [put (low6 d) 15, put (low6 a) 9, put (low6 b) 3, put s 0])
  | .fcmpL p a b c => some (pack 0x6C000000 [put p 14, put (low6 a) 8, put (low6 b) 2, put c 0])
  | .fcmpxL p a b c => some (pack 0x6E000000 [put p 14, put (low6 a) 8, put (low6 b) 2, put c 0])
  | .fspfL d a s => some (pack 0x70000000 [put (low6 d) 15, put (low6 a) 9, put s 0])
  | .fsgnL d a b s => some (pack 0x72000000 [put (low6 d) 15, put (low6 a) 9, put (low6 b) 3, put s 0])
  | .hadd2L d a b s => some (pack 0x74000000 [put (low6 d) 15, put (low6 a) 9, put (low6 b) 3, put s 0])
  | .hmul2L d a b s => some (pack 0x76000000 [put (low6 d) 15, put (low6 a) 9, put (low6 b) 3, put s 0])
  | .hfma2L d a b s _ => some (pack 0x78000000 [put (low6 d) 15, put (low6 a) 9, put (low6 b) 3, put s 0])
  | .hmnx2L d a b y t => some (pack 0x7A000000 [put (low6 d) 15, put (low6 a) 9, put (low6 b) 3, put y 1, put t 0])
  | .cvtL d a f h m => some (pack 0x7C000000 [put (low6 d) 15, put (low6 a) 9, put f 6, put h 3, put m 0])
  | .pkbL d a w n => some (pack 0x7E000000 [put (low6 d) 15, put (low6 a) 9, put w 2, put n 0])
  | .shflL d a b s => some (pack 0x80000000 [put (low6 d) 15, put (low6 a) 9, put (low6 b) 3, put s 0])
  | .vanyL p q r => some (pack 0x82000000 [put p 14, put q 7, put r 0])
  | .vallL p q r => some (pack 0x84000000 [put p 14, put q 7, put r 0])
  | .vbalL d p => some (pack 0x86000000 [put (low6 d) 15, put p 0])
  | .redlL d a s => some (pack 0x88000000 [put (low6 d) 15, put (low6 a) 9, put s 0])
  | .setpartL x => some (pack 0x8A000000 [put x 0])
  | .pandL p q r => some (pack 0x8C000000 [put p 14, put q 7, put r 0])
  | .porL p q r => some (pack 0x8E000000 [put p 14, put q 7, put r 0])
  | .pxorL p q r => some (pack 0x90000000 [put p 14, put q 7, put r 0])
  | .pandnL p q r => some (pack 0x92000000 [put p 14, put q 7, put r 0])
  | .prdL d x => some (pack 0x94000000 [put (low6 d) 15, put x 0])
  | .pwrL a x => some (pack 0x96000000 [put (low6 a) 9, put x 0])
  | .stkrdL p a => some (pack 0x98000000 [put p 14, put (low6 a) 8])
  | .stksetL d a x => some (pack 0x9A000000 [put (low6 d) 15, put (low6 a) 9, put x 0])
  | .ldL d a z m o => some (pack 0xA0000000 [put (low6 d) 15, put (low6 a) 9, put z 6, put m 4, put o 0])
  | .stL d a z m o => some (pack 0xA2000000 [put (low6 d) 15, put (low6 a) 9, put z 6, put m 4, put o 0])
  | .ldsL d a z m o => some (pack 0xA4000000 [put (low6 d) 15, put (low6 a) 9, put z 6, put m 4, put o 0])
  | .stsL d a z m o => some (pack 0xA6000000 [put (low6 d) 15, put (low6 a) 9, put z 6, put m 4, put o 0])
  | .ldaqL d a z k o => some (pack 0xA8000000 [put (low6 d) 15, put (low6 a) 9, put z 6, put k 3, put o 0])
  | .strlL d a z k o => some (pack 0xAA000000 [put (low6 d) 15, put (low6 a) 9, put z 6, put k 3, put o 0])
  | .atomL d a b s => some (pack 0xAC000000 [put (low6 d) 15, put (low6 a) 9, put (low6 b) 3, put s 0])
  | .atomsL d a b s => some (pack 0xAE000000 [put (low6 d) 15, put (low6 a) 9, put (low6 b) 3, put s 0])
  | .fenceL e k c => some (pack 0xB0000000 [put e 5, put k 3, put c 0])
  | .ifenceL => some 0xB2000000
  | .prefL a m o => some (pack 0xB4000000 [put (low6 a) 9, put m 4, put o 0])
  | .iprefL o => some (pack 0xB6000000 [put o 0])
  | .xlqL d a => some (pack 0xB8000000 [put (low6 d) 15, put (low6 a) 9])
  | .stxL d a m o => some (pack 0xBA0000C0 [put (low6 d) 15, put (low6 a) 9, put m 4, put o 0])
  | .ldxL d a m o => some (pack 0xBC0000C0 [put (low6 d) 15, put (low6 a) 9, put m 4, put o 0])
  | .stcL d a f e o => some (pack 0xBE000000 [put (low6 d) 15, put (low6 a) 9, put f 6, put e 3, put o 0])
  | .cpaL a b n t s => some (pack 0xC0000000 [put (low6 a) 15, put (low6 b) 9, put n 7, put t 4, put s 0])
  | .waittL k => some (pack 0xC2000000 [put k 0])
  | .tokqL p a c => some (pack 0xC4000000 [put p 14, put a 8, put c 0])
  | .mmaf8aL a t => some (pack 0xC6000000 [put (low6 a) 15, put t 4])
  | .mmaf8bL a t => some (pack 0xC8000000 [put (low6 a) 15, put t 4])
  | .mmak8L a b n t => some (pack 0xCA000000 [put (low6 a) 15, put (low6 b) 9, put n 7, put t 4])
  | .mmab16L a t => some (pack 0xCC000000 [put (low6 a) 15, put t 4])
  | .mmah16L a t => some (pack 0xCE000000 [put (low6 a) 15, put t 4])
  | .mmai8L a t => some (pack 0xD0000000 [put (low6 a) 15, put t 4])
  | .accrdL d a f e => some (pack 0xD2000000 [put (low6 d) 15, put (low6 a) 9, put f 6, put e 3])
  | .accwrL d a => some (pack 0xD4000000 [put (low6 d) 15, put (low6 a) 9])
  | .acczL n => some (pack 0xD6000000 [put n 0])
  | .accstL a t => some (pack 0xD8000000 [put (low6 a) 15, put t 4])
  | .pliL d a b s => some (pack 0xDA000000 [put (low6 d) 15, put (low6 a) 9, put (low6 b) 3, put s 0])
  | .plfL d a b s => some (pack 0xDC000000 [put (low6 d) 15, put (low6 a) 9, put (low6 b) 3, put s 0])
  | .plredL d a s => some (pack 0xDE000000 [put (low6 d) 15, put (low6 a) 9, put s 0])
  | .regacqWaitL n => some (pack 0xE0000000 [put n 0])
  | .regacqTryL p n => some (pack 0xE0000010 [put (low6 p) 15, put n 0])
  | .regrelL n => some (pack 0xE2000000 [put n 0])
  | .migrL k => some (pack 0xE4000000 [put k 0])
  | .dvtL k => some (pack 0xE6000000 [put k 0])
  | .barL n => some (pack 0xE8000000 [put n 0])
  | .arvL d a b => some (pack 0xEA000000 [put (low6 d) 15, put (low6 a) 9, put (low6 b) 3])
  | .awtL d a b => some (pack 0xEC000000 [put (low6 d) 15, put (low6 a) 9, put (low6 b) 3])
  | .brdL d k => some (pack 0xEE000000 [put (low6 d) 15, put k 0])
  | .bwrL a k => some (pack 0xF0000000 [put (low6 a) 9, put k 0])
  | .batomL d a o k => some (pack 0xF2000000 [put (low6 d) 15, put (low6 a) 9, put o 6, put k 0])
  | .featqL d x => some (pack 0xF4000000 [put (low6 d) 15, put x 0])
  | .genbumpL => some 0xF6000000
  | .ckptL => some 0xF8000000
  | .haltL => some 0xFA000000
  | .chunkL d a => some (pack 0xFC000000 [put (low6 d) 15, put (low6 a) 9])
  | .clauseEntry => none
  | .tokenWaitResume => none
  | .registerGrant => none
  | .regDeadlock => none
  | .binAgeExpiry => none
  | .binIssue => none
  | .gangSlotSwap => none
  | .engineLineWrite => none
  | .scratchGranuleLanding => none
  | .copyComplete => none
  | .deferredCopyFault => none
  | .mmaBlockAdd => none
  | .accstRowWrite => none
  | .homeAccessArrival => none
  | .placedPartExecute => none
  | .reduceStateMerge => none
  | .genbumpComplete => none
  | .portWriteArrival => none
  | .portReadArrival => none
  | .peerAtomArrival => none
  | .faultDelivery => none
  | .launchEndWithCause => none
  | .preemption => none
  | .crewRestore => none
  | .firmwareCheckpoint => none
  | .migration => none
  | .returnTrap => none
  | .crewPlacement => none
  | .carveOutChange => none
  | .notify => none
  | .packetTake => none
  | .launch => none
  | .cmdblock => none
  | .copy => none
  | .fill => none
  | .signal => none
  | .waitsig => none
  | .waitsigReevaluate => none
  | .nopPacket => none
  | .launchCompletionSignal => none
  | .thaw => none
  | .abandon => none
  | .graphKick => none
  | .graphNodeCompletion => none
  | .pairComparison => none
  | .protectedRollback => none
  | .unitSelfTest => none
  | .islandClockChange => none
  | .powerCapSet => none
  | .thermalLimit => none
  | .attestationReport => none
  | .asidKeyInit => none
  | .baseRegisterWrite => none
  | .registerWrite => none
  | .moduleReset => none
  | .bringUp => none
  | .dieCooled => none
  | .hostAcknowledgement => none
  | .graphRegistration => none

/-- The extension word of a Plimus-L instruction (R46); none in Plimus-D. -/
def Instr.extWord (pf : Prefix) : Instr → Option Word
  | .nopD => none
  | .moviD _ _ => none
  | .movhiD _ _ => none
  | .movD _ _ _ => none
  | .sreadD _ _ => none
  | .swriteD _ _ => none
  | .repD _ _ _ _ _ => none
  | .braD _ => none
  | .callD _ => none
  | .brxD _ _ => none
  | .retD _ => none
  | .forkD _ _ => none
  | .forkTryD _ _ _ => none
  | .endD => none
  | .trapD _ => none
  | .syscD _ => none
  | .iaddD _ _ _ _ => none
  | .isubD _ _ _ _ => none
  | .imulD _ _ _ _ => none
  | .imadD _ _ _ => none
  | .idivD _ _ _ _ => none
  | .iremD _ _ _ _ => none
  | .iminD _ _ _ _ => none
  | .imaxD _ _ _ _ => none
  | .andD _ _ _ => none
  | .orD _ _ _ => none
  | .xorD _ _ _ => none
  | .andnD _ _ _ => none
  | .shlD _ _ _ _ => none
  | .shrD _ _ _ _ => none
  | .rotlD _ _ _ => none
  | .bfxD _ _ _ _ => none
  | .iaddiD _ _ _ => none
  | .andiD _ _ _ => none
  | .oriD _ _ _ => none
  | .xoriD _ _ _ => none
  | .shliD _ _ _ => none
  | .shriD _ _ _ _ => none
  | .imuliD _ _ _ => none
  | .leaD _ _ _ _ => none
  | .bfiD _ _ _ => none
  | .popcD _ _ => none
  | .clzD _ _ => none
  | .brevD _ _ => none
  | .iabsD _ _ => none
  | .selD _ _ _ _ => none
  | .icmpD _ _ _ _ => none
  | .icmpuD _ _ _ _ => none
  | .faddD _ _ _ _ => none
  | .fsubD _ _ _ _ => none
  | .fmulD _ _ _ _ => none
  | .ffmaD _ _ _ _ => none
  | .fminD _ _ _ _ => none
  | .fmaxD _ _ _ _ => none
  | .fcmpD _ _ _ _ => none
  | .fcmpxD _ _ _ _ => none
  | .fspfD _ _ _ => none
  | .fsgnD _ _ _ _ => none
  | .hadd2D _ _ _ _ => none
  | .hmul2D _ _ _ _ => none
  | .hfma2D _ _ _ _ => none
  | .hmnx2D _ _ _ _ _ => none
  | .cvtD _ _ _ _ _ => none
  | .pkbD _ _ _ _ => none
  | .shflD _ _ _ _ => none
  | .vanyD _ _ _ => none
  | .vallD _ _ _ => none
  | .vbalD _ _ => none
  | .redlD _ _ _ => none
  | .setpartD _ => none
  | .pandD _ _ _ => none
  | .porD _ _ _ => none
  | .pxorD _ _ _ => none
  | .pandnD _ _ _ => none
  | .prdD _ _ => none
  | .pwrD _ _ => none
  | .stkrdD _ _ => none
  | .stksetD _ _ _ => none
  | .ldD _ _ _ _ _ => none
  | .stD _ _ _ _ _ => none
  | .ldsD _ _ _ _ _ => none
  | .stsD _ _ _ _ _ => none
  | .ldaqD _ _ _ _ _ => none
  | .strlD _ _ _ _ _ => none
  | .atomD _ _ _ _ => none
  | .atomsD _ _ _ _ => none
  | .fenceD _ _ _ => none
  | .ifenceD => none
  | .prefD _ _ _ => none
  | .iprefD _ => none
  | .xlqD _ _ => none
  | .stxD _ _ _ _ => none
  | .ldxD _ _ _ _ => none
  | .stcD _ _ _ _ _ => none
  | .cpaD _ _ _ _ _ => none
  | .waittD _ => none
  | .tokqD _ _ _ => none
  | .mmaf8aD _ _ => none
  | .mmaf8bD _ _ => none
  | .mmak8D _ _ _ _ => none
  | .mmab16D _ _ => none
  | .mmah16D _ _ => none
  | .mmai8D _ _ => none
  | .accrdD _ _ _ _ => none
  | .accwrD _ _ => none
  | .acczD _ => none
  | .accstD _ _ => none
  | .pliD _ _ _ _ => none
  | .plfD _ _ _ _ => none
  | .plredD _ _ _ => none
  | .regacqWaitD _ => none
  | .regacqTryD _ _ => none
  | .regrelD _ => none
  | .migrD _ => none
  | .barD _ => none
  | .arvD _ _ _ => none
  | .awtD _ _ _ => none
  | .brdD _ _ => none
  | .bwrD _ _ => none
  | .batomD _ _ _ _ => none
  | .featqD _ _ => none
  | .genbumpD => none
  | .ckptD => none
  | .haltD => none
  | .chunkD _ _ => none
  | .nopL => some (pack 0x00000000 [extBits pf])
  | .moviL d _ => some (pack 0x00000000 [put pf.wait 24, put (BitVec.ofBool pf.land) 1, put (high2 d) 22])
  | .movhiL d _ => some (pack 0x00000000 [put pf.wait 24, put (BitVec.ofBool pf.land) 1, put (high2 d) 22])
  | .movL d a _ => some (pack 0x00000000 [extBits pf, put (high2 d) 22, put (high2 a) 20])
  | .sreadL d _ => some (pack 0x00000000 [extBits pf, put (high2 d) 22])
  | .swriteL a _ => some (pack 0x00000000 [extBits pf, put (high2 a) 20])
  | .repL _ _ _ _ _ => some (pack 0x00000000 [put pf.wait 24, put (BitVec.ofBool pf.land) 1])
  | .braL _ => some (pack 0x00000000 [extBits pf])
  | .callL _ => some (pack 0x00000000 [extBits pf])
  | .brxL a _ => some (pack 0x00000000 [extBits pf, put (high2 a) 20])
  | .retL a => some (pack 0x00000000 [extBits pf, put (high2 a) 20])
  | .forkL a _ => some (pack 0x00000000 [extBits pf, put (high2 a) 20])
  | .forkTryL p a _ => some (pack 0x00000000 [extBits pf, put (high2 p) 22, put (high2 a) 20])
  | .endL => some (pack 0x00000000 [extBits pf])
  | .trapL _ => some (pack 0x00000000 [extBits pf])
  | .syscL _ => some (pack 0x00000000 [extBits pf])
  | .iaddL d a b _ => some (pack 0x00000000 [extBits pf, put (high2 d) 22, put (high2 a) 20, put (high2 b) 18])
  | .isubL d a b _ => some (pack 0x00000000 [extBits pf, put (high2 d) 22, put (high2 a) 20, put (high2 b) 18])
  | .imulL d a b _ => some (pack 0x00000000 [extBits pf, put (high2 d) 22, put (high2 a) 20, put (high2 b) 18])
  | .imadL d a b c => some (pack 0x00000000 [extBits pf, put (high2 d) 22, put (high2 a) 20, put (high2 b) 18, put (high2 c) 16, put (low6 c) 10])
  | .idivL d a b _ => some (pack 0x00000000 [extBits pf, put (high2 d) 22, put (high2 a) 20, put (high2 b) 18])
  | .iremL d a b _ => some (pack 0x00000000 [extBits pf, put (high2 d) 22, put (high2 a) 20, put (high2 b) 18])
  | .iminL d a b _ => some (pack 0x00000000 [extBits pf, put (high2 d) 22, put (high2 a) 20, put (high2 b) 18])
  | .imaxL d a b _ => some (pack 0x00000000 [extBits pf, put (high2 d) 22, put (high2 a) 20, put (high2 b) 18])
  | .andL d a b => some (pack 0x00000000 [extBits pf, put (high2 d) 22, put (high2 a) 20, put (high2 b) 18])
  | .orL d a b => some (pack 0x00000000 [extBits pf, put (high2 d) 22, put (high2 a) 20, put (high2 b) 18])
  | .xorL d a b => some (pack 0x00000000 [extBits pf, put (high2 d) 22, put (high2 a) 20, put (high2 b) 18])
  | .andnL d a b => some (pack 0x00000000 [extBits pf, put (high2 d) 22, put (high2 a) 20, put (high2 b) 18])
  | .shlL d a b _ => some (pack 0x00000000 [extBits pf, put (high2 d) 22, put (high2 a) 20, put (high2 b) 18])
  | .shrL d a b _ => some (pack 0x00000000 [extBits pf, put (high2 d) 22, put (high2 a) 20, put (high2 b) 18])
  | .rotlL d a b => some (pack 0x00000000 [extBits pf, put (high2 d) 22, put (high2 a) 20, put (high2 b) 18])
  | .bfxL d a b _ => some (pack 0x00000000 [extBits pf, put (high2 d) 22, put (high2 a) 20, put (high2 b) 18])
  | .iaddiL d a _ => some (pack 0x00000000 [extBits pf, put (high2 d) 22, put (high2 a) 20])
  | .andiL d a _ => some (pack 0x00000000 [extBits pf, put (high2 d) 22, put (high2 a) 20])
  | .oriL d a _ => some (pack 0x00000000 [extBits pf, put (high2 d) 22, put (high2 a) 20])
  | .xoriL d a _ => some (pack 0x00000000 [extBits pf, put (high2 d) 22, put (high2 a) 20])
  | .shliL d a _ => some (pack 0x00000000 [extBits pf, put (high2 d) 22, put (high2 a) 20])
  | .shriL d a _ _ => some (pack 0x00000000 [extBits pf, put (high2 d) 22, put (high2 a) 20])
  | .imuliL d a _ => some (pack 0x00000000 [extBits pf, put (high2 d) 22, put (high2 a) 20])
  | .leaL d a b _ => some (pack 0x00000000 [extBits pf, put (high2 d) 22, put (high2 a) 20, put (high2 b) 18])
  | .bfiL d a b => some (pack 0x00000000 [extBits pf, put (high2 d) 22, put (high2 a) 20, put (high2 b) 18])
  | .popcL d a => some (pack 0x00000000 [extBits pf, put (high2 d) 22, put (high2 a) 20])
  | .clzL d a => some (pack 0x00000000 [extBits pf, put (high2 d) 22, put (high2 a) 20])
  | .brevL d a => some (pack 0x00000000 [extBits pf, put (high2 d) 22, put (high2 a) 20])
  | .iabsL d a => some (pack 0x00000000 [extBits pf, put (high2 d) 22, put (high2 a) 20])
  | .selL d a b _ => some (pack 0x00000000 [extBits pf, put (high2 d) 22, put (high2 a) 20, put (high2 b) 18])
  | .icmpL _ a b _ => some (pack 0x00000000 [extBits pf, put (high2 a) 20, put (high2 b) 18])
  | .icmpuL _ a b _ => some (pack 0x00000000 [extBits pf, put (high2 a) 20, put (high2 b) 18])
  | .faddL d a b _ => some (pack 0x00000000 [extBits pf, put (high2 d) 22, put (high2 a) 20, put (high2 b) 18])
  | .fsubL d a b _ => some (pack 0x00000000 [extBits pf, put (high2 d) 22, put (high2 a) 20, put (high2 b) 18])
  | .fmulL d a b _ => some (pack 0x00000000 [extBits pf, put (high2 d) 22, put (high2 a) 20, put (high2 b) 18])
  | .ffmaL d a b _ c => some (pack 0x00000000 [extBits pf, put (high2 d) 22, put (high2 a) 20, put (high2 b) 18, put (high2 c) 16, put (low6 c) 10])
  | .fminL d a b _ => some (pack 0x00000000 [extBits pf, put (high2 d) 22, put (high2 a) 20, put (high2 b) 18])
  | .fmaxL d a b _ => some (pack 0x00000000 [extBits pf, put (high2 d) 22, put (high2 a) 20, put (high2 b) 18])
  | .fcmpL _ a b _ => some (pack 0x00000000 [extBits pf, put (high2 a) 20, put (high2 b) 18])
  | .fcmpxL _ a b _ => some (pack 0x00000000 [extBits pf, put (high2 a) 20, put (high2 b) 18])
  | .fspfL d a _ => some (pack 0x00000000 [extBits pf, put (high2 d) 22, put (high2 a) 20])
  | .fsgnL d a b _ => some (pack 0x00000000 [extBits pf, put (high2 d) 22, put (high2 a) 20, put (high2 b) 18])
  | .hadd2L d a b _ => some (pack 0x00000000 [extBits pf, put (high2 d) 22, put (high2 a) 20, put (high2 b) 18])
  | .hmul2L d a b _ => some (pack 0x00000000 [extBits pf, put (high2 d) 22, put (high2 a) 20, put (high2 b) 18])
  | .hfma2L d a b _ c => some (pack 0x00000000 [extBits pf, put (high2 d) 22, put (high2 a) 20, put (high2 b) 18, put (high2 c) 16, put (low6 c) 10])
  | .hmnx2L d a b _ _ => some (pack 0x00000000 [extBits pf, put (high2 d) 22, put (high2 a) 20, put (high2 b) 18])
  | .cvtL d a _ _ _ => some (pack 0x00000000 [extBits pf, put (high2 d) 22, put (high2 a) 20])
  | .pkbL d a _ _ => some (pack 0x00000000 [extBits pf, put (high2 d) 22, put (high2 a) 20])
  | .shflL d a b _ => some (pack 0x00000000 [extBits pf, put (high2 d) 22, put (high2 a) 20, put (high2 b) 18])
  | .vanyL _ _ _ => some (pack 0x00000000 [extBits pf])
  | .vallL _ _ _ => some (pack 0x00000000 [extBits pf])
  | .vbalL d _ => some (pack 0x00000000 [extBits pf, put (high2 d) 22])
  | .redlL d a _ => some (pack 0x00000000 [extBits pf, put (high2 d) 22, put (high2 a) 20])
  | .setpartL _ => some (pack 0x00000000 [extBits pf])
  | .pandL _ _ _ => some (pack 0x00000000 [extBits pf])
  | .porL _ _ _ => some (pack 0x00000000 [extBits pf])
  | .pxorL _ _ _ => some (pack 0x00000000 [extBits pf])
  | .pandnL _ _ _ => some (pack 0x00000000 [extBits pf])
  | .prdL d _ => some (pack 0x00000000 [extBits pf, put (high2 d) 22])
  | .pwrL a _ => some (pack 0x00000000 [extBits pf, put (high2 a) 20])
  | .stkrdL _ a => some (pack 0x00000000 [extBits pf, put (high2 a) 20])
  | .stksetL d a _ => some (pack 0x00000000 [extBits pf, put (high2 d) 22, put (high2 a) 20])
  | .ldL d a _ _ _ => some (pack 0x00000000 [extBits pf, put (high2 d) 22, put (high2 a) 20])
  | .stL d a _ _ _ => some (pack 0x00000000 [extBits pf, put (high2 d) 22, put (high2 a) 20])
  | .ldsL d a _ _ _ => some (pack 0x00000000 [extBits pf, put (high2 d) 22, put (high2 a) 20])
  | .stsL d a _ _ _ => some (pack 0x00000000 [extBits pf, put (high2 d) 22, put (high2 a) 20])
  | .ldaqL d a _ _ _ => some (pack 0x00000000 [extBits pf, put (high2 d) 22, put (high2 a) 20])
  | .strlL d a _ _ _ => some (pack 0x00000000 [extBits pf, put (high2 d) 22, put (high2 a) 20])
  | .atomL d a b _ => some (pack 0x00000000 [extBits pf, put (high2 d) 22, put (high2 a) 20, put (high2 b) 18])
  | .atomsL d a b _ => some (pack 0x00000000 [extBits pf, put (high2 d) 22, put (high2 a) 20, put (high2 b) 18])
  | .fenceL _ _ _ => some (pack 0x00000000 [extBits pf])
  | .ifenceL => some (pack 0x00000000 [extBits pf])
  | .prefL a _ _ => some (pack 0x00000000 [extBits pf, put (high2 a) 20])
  | .iprefL _ => some (pack 0x00000000 [extBits pf])
  | .xlqL d a => some (pack 0x00000000 [extBits pf, put (high2 d) 22, put (high2 a) 20])
  | .stxL d a _ _ => some (pack 0x00000000 [extBits pf, put (high2 d) 22, put (high2 a) 20])
  | .ldxL d a _ _ => some (pack 0x00000000 [extBits pf, put (high2 d) 22, put (high2 a) 20])
  | .stcL d a _ _ _ => some (pack 0x00000000 [extBits pf, put (high2 d) 22, put (high2 a) 20])
  | .cpaL a b _ _ _ => some (pack 0x00000000 [extBits pf, put (high2 a) 20, put (high2 b) 18])
  | .waittL _ => some (pack 0x00000000 [extBits pf])
  | .tokqL _ _ _ => some (pack 0x00000000 [extBits pf])
  | .mmaf8aL a _ => some (pack 0x00000000 [extBits pf, put (high2 a) 20])
  | .mmaf8bL a _ => some (pack 0x00000000 [extBits pf, put (high2 a) 20])
  | .mmak8L a b _ _ => some (pack 0x00000000 [extBits pf, put (high2 a) 20, put (high2 b) 18])
  | .mmab16L a _ => some (pack 0x00000000 [extBits pf, put (high2 a) 20])
  | .mmah16L a _ => some (pack 0x00000000 [extBits pf, put (high2 a) 20])
  | .mmai8L a _ => some (pack 0x00000000 [extBits pf, put (high2 a) 20])
  | .accrdL d a _ _ => some (pack 0x00000000 [extBits pf, put (high2 d) 22, put (high2 a) 20])
  | .accwrL d a => some (pack 0x00000000 [extBits pf, put (high2 d) 22, put (high2 a) 20])
  | .acczL _ => some (pack 0x00000000 [extBits pf])
  | .accstL a _ => some (pack 0x00000000 [extBits pf, put (high2 a) 20])
  | .pliL d a b _ => some (pack 0x00000000 [extBits pf, put (high2 d) 22, put (high2 a) 20, put (high2 b) 18])
  | .plfL d a b _ => some (pack 0x00000000 [extBits pf, put (high2 d) 22, put (high2 a) 20, put (high2 b) 18])
  | .plredL d a _ => some (pack 0x00000000 [extBits pf, put (high2 d) 22, put (high2 a) 20])
  | .regacqWaitL _ => some (pack 0x00000000 [extBits pf])
  | .regacqTryL p _ => some (pack 0x00000000 [extBits pf, put (high2 p) 22])
  | .regrelL _ => some (pack 0x00000000 [extBits pf])
  | .migrL _ => some (pack 0x00000000 [extBits pf])
  | .dvtL _ => some (pack 0 [put (BitVec.ofBool pf.land) 1])
  | .barL _ => some (pack 0x00000000 [extBits pf])
  | .arvL d a b => some (pack 0x00000000 [extBits pf, put (high2 d) 22, put (high2 a) 20, put (high2 b) 18])
  | .awtL d a b => some (pack 0x00000000 [extBits pf, put (high2 d) 22, put (high2 a) 20, put (high2 b) 18])
  | .brdL d _ => some (pack 0x00000000 [extBits pf, put (high2 d) 22])
  | .bwrL a _ => some (pack 0x00000000 [extBits pf, put (high2 a) 20])
  | .batomL d a _ _ => some (pack 0x00000000 [extBits pf, put (high2 d) 22, put (high2 a) 20])
  | .featqL d _ => some (pack 0x00000000 [extBits pf, put (high2 d) 22])
  | .genbumpL => some (pack 0x00000000 [extBits pf])
  | .ckptL => some (pack 0x00000000 [extBits pf])
  | .haltL => some (pack 0x00000000 [extBits pf])
  | .chunkL d a => some (pack 0x00000000 [extBits pf, put (high2 d) 22, put (high2 a) 20])
  | .clauseEntry => none
  | .tokenWaitResume => none
  | .registerGrant => none
  | .regDeadlock => none
  | .binAgeExpiry => none
  | .binIssue => none
  | .gangSlotSwap => none
  | .engineLineWrite => none
  | .scratchGranuleLanding => none
  | .copyComplete => none
  | .deferredCopyFault => none
  | .mmaBlockAdd => none
  | .accstRowWrite => none
  | .homeAccessArrival => none
  | .placedPartExecute => none
  | .reduceStateMerge => none
  | .genbumpComplete => none
  | .portWriteArrival => none
  | .portReadArrival => none
  | .peerAtomArrival => none
  | .faultDelivery => none
  | .launchEndWithCause => none
  | .preemption => none
  | .crewRestore => none
  | .firmwareCheckpoint => none
  | .migration => none
  | .returnTrap => none
  | .crewPlacement => none
  | .carveOutChange => none
  | .notify => none
  | .packetTake => none
  | .launch => none
  | .cmdblock => none
  | .copy => none
  | .fill => none
  | .signal => none
  | .waitsig => none
  | .waitsigReevaluate => none
  | .nopPacket => none
  | .launchCompletionSignal => none
  | .thaw => none
  | .abandon => none
  | .graphKick => none
  | .graphNodeCompletion => none
  | .pairComparison => none
  | .protectedRollback => none
  | .unitSelfTest => none
  | .islandClockChange => none
  | .powerCapSet => none
  | .thermalLimit => none
  | .attestationReport => none
  | .asidKeyInit => none
  | .baseRegisterWrite => none
  | .registerWrite => none
  | .moduleReset => none
  | .bringUp => none
  | .dieCooled => none
  | .hostAcknowledgement => none
  | .graphRegistration => none

/-- The words of an instruction with its prefix: one in Plimus-D, the extension word and then the base word in Plimus-L. -/
def encode (pf : Prefix) (i : Instr) : Option (List Word) :=
  match i.extWord pf, i.baseWord pf with
  | some x, some w => some [x, w]
  | none, some w => some [w]
  | _, none => none


/-! ## Clause headers -/

/-- COUNT of a clause header (R40). -/
def hdrCount (h : Word) : Nat := (fld h 28 4).toNat
/-- CLASS of a clause header (R40). -/
def hdrClass (h : Word) : Nat := (fld h 25 3).toNat
/-- WMASK of a clause header (R40). -/
def hdrWmask (h : Word) : BitVec 8 := fld h 17 8
/-- WFROM of a clause header (R40). -/
def hdrWfrom (h : Word) : Nat := (fld h 13 4).toNat
/-- DOVE of a clause header (R40). -/
def hdrDove (h : Word) : Bool := fld h 12 1 == 1
/-- LAND of a clause header (R40). -/
def hdrLand (h : Word) : Bool := fld h 11 1 == 1
/-- DIDX of a clause header (R40). -/
def hdrDidx (h : Word) : Nat := (fld h 0 11).toNat

/-- The major opcode of a base word (R39). -/
def majorOf (w : Word) : Nat := (fld w 25 7).toNat

/-- A control transfer of R42. -/
def isTransfer (mj : Nat) : Bool :=
  mj == 0x08 || mj == 0x09 || mj == 0x0A || mj == 0x0B || mj == 0x0D || mj == 0x0E || mj == 0x0F || mj == 0x7D

/-- The clause class of a major, none for "any" (R42, R57). -/
def classOf (mj : Nat) : Option Nat :=
  if mj ≤ 0x01 || mj == 0x07 || (0x08 ≤ mj && mj ≤ 0x0B) || mj == 0x0D then none
  else if mj == 0x4E || mj == 0x4F || mj == 0x7F || mj == 0x73 then none
  else if mj == 0x05 || mj == 0x06 || mj == 0x0C || mj == 0x0E || mj == 0x0F then some 3
  else if mj ≤ 0x4D then some 0
  else if mj ≤ 0x5F then some 1
  else if mj ≤ 0x6F then some 2
  else if mj ≤ 0x74 then some 3
  else if mj ≤ 0x79 then some 1
  else if mj ≤ 0x7D then some 3
  else some 1

/-- The class rule of R41: outside a MIXED clause every instruction's class is the header's or "any". -/
def classesOk (cls : Nat) (ws : List Word) : Bool :=
  cls == 4 || ws.all (fun w => match classOf (majorOf w) with
    | none => true
    | some k => k == cls)

/-- A control transfer stands only last, and REP stands neither last nor before a control transfer or another REP (R41). -/
def orderOk : List Word → Bool
  | [] => true
  | [w] => majorOf w != 0x07
  | w :: v :: ws =>
    !isTransfer (majorOf w)
      && !(majorOf w == 0x07 && (isTransfer (majorOf v) || majorOf v == 0x07))
      && orderOk (v :: ws)

/-- The checks that a header alone decides (R41). -/
def headerOk (h : Word) : Bool :=
  hdrCount h != 0 && decide (hdrClass h ≤ 4)
    && !(hdrWfrom h == 15 && hdrWmask h != 0)
    && !(hdrWfrom h != 15 && decide (hdrCount h ≤ hdrWfrom h))
    && (hdrDove h || hdrDidx h == 0)

/-- The checks of R41 on a header and its base words. -/
def clauseOk (h : Word) (ws : List Word) : Bool :=
  headerOk h && classesOk (hdrClass h) ws && orderOk ws

end Sys2Proof
end

