-- ==== Sys2Proof/Machine/Checks.lean ====
section
/-!
DEFINITION. What issue must know of an instruction before its own effect: its guard, its token wait, its lane-register
operands with their alignment and reach, and the groups it belongs to (04 R46 to R52, R60; 03 R29; 17 R264).
-/
namespace Sys2Proof

/-- A lane-register operand: its number, the alignment R52 asks, and how many registers it takes (R34). -/
structure Operand where
  num   : Nat
  align : Nat
  span  : Nat
  deriving DecidableEq, Repr

/-- The encoding that carries an instruction. -/
inductive Text where
  | d | l | event
  deriving DecidableEq, Repr

/-- What issue must know of an instruction. -/
structure Info where
  text  : Text := .event
  d : Option Operand := none
  a : Option Operand := none
  b : Option Operand := none
  c : Option Operand := none
  /-- a loose fibre may not execute it (R29) -/
  loose : Bool := false
  /-- privileged (R59) -/
  priv  : Bool := false
  /-- a stack sequencer executes it (R264) -/
  seq   : Bool := false
  /-- it has no guard field (R50, R47) -/
  bare  : Bool := false
  /-- a control transfer (R42) -/
  last  : Bool := false
  deriving DecidableEq, Repr

/-- A D instruction. -/
def Info.ofD : Info := { text := .d }
/-- An L instruction. -/
def Info.ofL : Info := { text := .l }
/-- An event. -/
def Info.event : Info := { text := .event }

/-- A single register. -/
def opnd1 {w : Nat} (r : BitVec w) : Option Operand := some ⟨r.toNat, 1, 1⟩
/-- A register field that issue does not hold against the lanes' windows: MMAK8's scales, which R235 and R236 govern. -/
def opnd0 {w : Nat} (r : BitVec w) : Option Operand := some ⟨r.toNat, 1, 0⟩
/-- An even pair (R52). -/
def opnd2 {w : Nat} (r : BitVec w) : Option Operand := some ⟨r.toNat, 2, 2⟩
/-- A pair when the condition holds, else a single register. -/
def opndW {w : Nat} (c : Prop) [Decidable c] (r : BitVec w) : Option Operand := if c then opnd2 r else opnd1 r
/-- A single register when the condition holds, else no register. -/
def opndIf {w : Nat} (c : Prop) [Decidable c] (r : BitVec w) : Option Operand := if c then opnd1 r else none
/-- A pair when the condition holds, else no register. -/
def opndIf2 {w : Nat} (c : Prop) [Decidable c] (r : BitVec w) : Option Operand := if c then opnd2 r else none
/-- The data register of an access of size code sz: single, pair or quad (R14, R163). -/
def opndZ {w : Nat} (sz : BitVec 3) (r : BitVec w) : Option Operand :=
  if sz.toNat = 3 then opnd2 r else if sz.toNat = 4 then some ⟨r.toNat, 4, 4⟩ else opnd1 r

/-- What issue must know of each instruction (R29, R47, R52, R57, R264). -/
def Instr.info : Instr → Info

  | .nopD => { Info.ofD with seq := true }
  | .moviD d _ => { Info.ofD with d := opnd1 d, seq := true, bare := true }
  | .movhiD d _ => { Info.ofD with d := opnd1 d, seq := true, bare := true }
  | .movD d a _ => { Info.ofD with d := opnd1 d, a := opnd1 a, seq := true }
  | .sreadD d _ => { Info.ofD with d := opnd1 d, seq := true }
  | .swriteD a _ => { Info.ofD with a := opnd1 a, priv := true }
  | .repD _ _ _ _ _ => { Info.ofD with seq := true, bare := true }
  | .braD _ => { Info.ofD with seq := true, last := true }
  | .callD _ => { Info.ofD with seq := true, last := true }
  | .brxD a _ => { Info.ofD with a := opnd1 a, seq := true, last := true }
  | .retD a => { Info.ofD with a := opnd1 a, seq := true, last := true }
  | .forkD a _ => { Info.ofD with a := opnd1 a }
  | .forkTryD _ a _ => { Info.ofD with a := opnd1 a }
  | .endD => { Info.ofD with seq := true, last := true }
  | .trapD _ => { Info.ofD with seq := true, last := true }
  | .syscD _ => { Info.ofD with seq := true, last := true }
  | .iaddD d a b s => { Info.ofD with d := opndW (s.toNat = 1) d, a := opndW (s.toNat = 1) a, b := opndW (s.toNat = 1) b, seq := true }
  | .isubD d a b s => { Info.ofD with d := opndW (s.toNat = 1) d, a := opndW (s.toNat = 1) a, b := opndW (s.toNat = 1) b, seq := true }
  | .imulD d a b s => { Info.ofD with d := opndW (s.toNat = 3) d, a := opndW (s.toNat = 3) a, b := opndW (s.toNat = 3) b, seq := true }
  | .imadD d a b => { Info.ofD with d := opnd1 d, a := opnd1 a, b := opnd1 b, seq := true }
  | .idivD d a b _ => { Info.ofD with d := opnd1 d, a := opnd1 a, b := opnd1 b, seq := true }
  | .iremD d a b _ => { Info.ofD with d := opnd1 d, a := opnd1 a, b := opnd1 b, seq := true }
  | .iminD d a b _ => { Info.ofD with d := opnd1 d, a := opnd1 a, b := opnd1 b, seq := true }
  | .imaxD d a b _ => { Info.ofD with d := opnd1 d, a := opnd1 a, b := opnd1 b, seq := true }
  | .andD d a b => { Info.ofD with d := opnd1 d, a := opnd1 a, b := opnd1 b, seq := true }
  | .orD d a b => { Info.ofD with d := opnd1 d, a := opnd1 a, b := opnd1 b, seq := true }
  | .xorD d a b => { Info.ofD with d := opnd1 d, a := opnd1 a, b := opnd1 b, seq := true }
  | .andnD d a b => { Info.ofD with d := opnd1 d, a := opnd1 a, b := opnd1 b, seq := true }
  | .shlD d a b s => { Info.ofD with d := opndW (s.toNat = 1) d, a := opndW (s.toNat = 1) a, b := opnd1 b, seq := true }
  | .shrD d a b s => { Info.ofD with d := opndW (1 < s.toNat) d, a := opndW (1 < s.toNat) a, b := opnd1 b, seq := true }
  | .rotlD d a b => { Info.ofD with d := opnd1 d, a := opnd1 a, b := opnd1 b, seq := true }
  | .bfxD d a b _ => { Info.ofD with d := opnd1 d, a := opnd1 a, b := opnd1 b, seq := true }
  | .iaddiD d a _ => { Info.ofD with d := opnd1 d, a := opnd1 a, seq := true }
  | .andiD d a _ => { Info.ofD with d := opnd1 d, a := opnd1 a, seq := true }
  | .oriD d a _ => { Info.ofD with d := opnd1 d, a := opnd1 a, seq := true }
  | .xoriD d a _ => { Info.ofD with d := opnd1 d, a := opnd1 a, seq := true }
  | .shliD d a _ => { Info.ofD with d := opnd1 d, a := opnd1 a, seq := true }
  | .shriD d a _ _ => { Info.ofD with d := opnd1 d, a := opnd1 a, seq := true }
  | .imuliD d a _ => { Info.ofD with d := opnd1 d, a := opnd1 a, seq := true }
  | .leaD d a b _ => { Info.ofD with d := opnd1 d, a := opnd1 a, b := opnd1 b, seq := true }
  | .bfiD d a b => { Info.ofD with d := opnd1 d, a := opnd1 a, b := opnd1 b, seq := true }
  | .popcD d a => { Info.ofD with d := opnd1 d, a := opnd1 a, seq := true }
  | .clzD d a => { Info.ofD with d := opnd1 d, a := opnd1 a, seq := true }
  | .brevD d a => { Info.ofD with d := opnd1 d, a := opnd1 a, seq := true }
  | .iabsD d a => { Info.ofD with d := opnd1 d, a := opnd1 a, seq := true }
  | .selD d a b _ => { Info.ofD with d := opnd1 d, a := opnd1 a, b := opnd1 b, seq := true }
  | .icmpD _ a b _ => { Info.ofD with a := opnd1 a, b := opnd1 b, seq := true }
  | .icmpuD _ a b _ => { Info.ofD with a := opnd1 a, b := opnd1 b, seq := true }
  | .faddD d a b _ => { Info.ofD with d := opnd1 d, a := opnd1 a, b := opnd1 b, seq := true }
  | .fsubD d a b _ => { Info.ofD with d := opnd1 d, a := opnd1 a, b := opnd1 b, seq := true }
  | .fmulD d a b _ => { Info.ofD with d := opnd1 d, a := opnd1 a, b := opnd1 b, seq := true }
  | .ffmaD d a b _ => { Info.ofD with d := opnd1 d, a := opnd1 a, b := opnd1 b, seq := true }
  | .fminD d a b _ => { Info.ofD with d := opnd1 d, a := opnd1 a, b := opnd1 b, seq := true }
  | .fmaxD d a b _ => { Info.ofD with d := opnd1 d, a := opnd1 a, b := opnd1 b, seq := true }
  | .fcmpD _ a b _ => { Info.ofD with a := opnd1 a, b := opnd1 b, seq := true }
  | .fcmpxD _ a b _ => { Info.ofD with a := opnd1 a, b := opnd1 b, seq := true }
  | .fspfD d a _ => { Info.ofD with d := opnd1 d, a := opnd1 a }
  | .fsgnD d a b s => { Info.ofD with d := opnd1 d, a := opnd1 a, b := opndIf (s.toNat = 3) b }
  | .hadd2D d a b _ => { Info.ofD with d := opnd1 d, a := opnd1 a, b := opnd1 b }
  | .hmul2D d a b _ => { Info.ofD with d := opnd1 d, a := opnd1 a, b := opnd1 b }
  | .hfma2D d a b _ => { Info.ofD with d := opnd1 d, a := opnd1 a, b := opnd1 b }
  | .hmnx2D d a b _ _ => { Info.ofD with d := opnd1 d, a := opnd1 a, b := opnd1 b }
  | .cvtD d a _ _ _ => { Info.ofD with d := opnd1 d, a := opnd1 a }
  | .pkbD d a _ _ => { Info.ofD with d := opnd1 d, a := opnd1 a }
  | .shflD d a b _ => { Info.ofD with d := opnd1 d, a := opnd1 a, b := opnd1 b, loose := true }
  | .vanyD _ _ _ => { Info.ofD with loose := true }
  | .vallD _ _ _ => { Info.ofD with loose := true }
  | .vbalD d _ => { Info.ofD with d := opnd1 d, loose := true }
  | .redlD d a _ => { Info.ofD with d := opnd1 d, a := opnd1 a, loose := true }
  | .setpartD _ => { Info.ofD with loose := true }
  | .pandD _ _ _ => { Info.ofD with seq := true }
  | .porD _ _ _ => { Info.ofD with seq := true }
  | .pxorD _ _ _ => { Info.ofD with seq := true }
  | .pandnD _ _ _ => { Info.ofD with seq := true }
  | .prdD d _ => { Info.ofD with d := opnd1 d, seq := true }
  | .pwrD a _ => { Info.ofD with a := opnd1 a, seq := true }
  | .stkrdD _ a => { Info.ofD with a := opnd1 a, seq := true }
  | .stksetD d a x => { Info.ofD with d := opnd1 d, a := opndIf (x.toNat = 2) a, seq := true }
  | .ldD d a z _ _ => { Info.ofD with d := opndZ z d, a := opnd2 a, seq := true }
  | .stD d a z _ _ => { Info.ofD with d := opndZ z d, a := opnd2 a, seq := true }
  | .ldsD d a z _ _ => { Info.ofD with d := opndZ z d, a := opnd1 a, seq := true }
  | .stsD d a z _ _ => { Info.ofD with d := opndZ z d, a := opnd1 a, seq := true }
  | .ldaqD d a z _ _ => { Info.ofD with d := opndZ z d, a := opnd2 a, seq := true }
  | .strlD d a z _ _ => { Info.ofD with d := opndZ z d, a := opnd2 a, seq := true }
  | .atomD d a b _ => { Info.ofD with d := opnd1 d, a := opnd2 a, b := opnd1 b, seq := true }
  | .atomsD d a b _ => { Info.ofD with d := opnd1 d, a := opnd1 a, b := opnd1 b, seq := true }
  | .fenceD _ _ _ => { Info.ofD with seq := true }
  | .ifenceD => { Info.ofD with seq := true }
  | .prefD a _ _ => { Info.ofD with a := opnd2 a, seq := true }
  | .iprefD _ => { Info.ofD with seq := true }
  | .xlqD d a => { Info.ofD with d := opnd2 d, a := opnd2 a, seq := true }
  | .stxD d a _ _ => { Info.ofD with d := opnd1 d, a := opnd2 a, seq := true }
  | .ldxD d a _ _ => { Info.ofD with d := opnd1 d, a := opnd2 a, seq := true }
  | .stcD d a _ _ _ => { Info.ofD with d := opnd1 d, a := opnd2 a }
  | .cpaD a b _ _ s => { Info.ofD with a := opndW (s.toNat = 1 ∨ s.toNat = 2) a, b := opndW (s.toNat = 0 ∨ s.toNat = 2) b }
  | .waittD _ => { Info.ofD with seq := true }
  | .tokqD _ _ _ => { Info.ofD with seq := true }
  | .mmaf8aD a _ => { Info.ofD with a := opnd1 a, loose := true }
  | .mmaf8bD a _ => { Info.ofD with a := opnd1 a, loose := true }
  | .mmak8D a b _ _ => { Info.ofD with a := opnd1 a, b := opnd0 b, loose := true }
  | .mmab16D a _ => { Info.ofD with a := opnd1 a, loose := true }
  | .mmah16D a _ => { Info.ofD with a := opnd1 a, loose := true }
  | .mmai8D a _ => { Info.ofD with a := opnd1 a, loose := true }
  | .accrdD d a _ _ => { Info.ofD with d := opnd1 d, a := opnd1 a }
  | .accwrD d a => { Info.ofD with d := opnd1 d, a := opnd1 a }
  | .acczD _ => Info.ofD
  | .accstD a _ => { Info.ofD with a := opnd1 a, loose := true }
  | .pliD d a b s => { Info.ofD with d := opnd2 d, a := opndW (s.toNat ≠ 7) a, b := opndIf2 (s.toNat < 6) b, seq := true }
  | .plfD d a b s => { Info.ofD with d := opnd2 d, a := opndW (s.toNat ≠ 7) a, b := opndIf2 (s.toNat < 6) b, seq := true }
  | .plredD d a _ => { Info.ofD with d := opnd2 d, a := opnd1 a, seq := true }
  | .regacqWaitD _ => { Info.ofD with seq := true }
  | .regacqTryD _ _ => { Info.ofD with seq := true }
  | .regrelD _ => { Info.ofD with seq := true }
  | .migrD _ => { Info.ofD with loose := true }
  | .barD _ => { Info.ofD with loose := true, seq := true }
  | .arvD d a b => { Info.ofD with d := opnd1 d, a := opnd1 a, b := opnd1 b, seq := true }
  | .awtD d a b => { Info.ofD with d := opnd1 d, a := opnd1 a, b := opnd1 b, seq := true }
  | .brdD d _ => { Info.ofD with d := opnd1 d, seq := true }
  | .bwrD a _ => { Info.ofD with a := opnd1 a, seq := true }
  | .batomD d a _ _ => { Info.ofD with d := opnd1 d, a := opnd1 a, seq := true }
  | .featqD d _ => { Info.ofD with d := opnd1 d, seq := true }
  | .genbumpD => { Info.ofD with priv := true }
  | .ckptD => { Info.ofD with priv := true }
  | .haltD => { Info.ofD with priv := true, seq := true, last := true }
  | .chunkD d a => { Info.ofD with d := opnd2 d, a := opnd2 a, seq := true }
  | .nopL => { Info.ofL with seq := true }
  | .moviL d _ => { Info.ofL with d := opnd1 d, seq := true, bare := true }
  | .movhiL d _ => { Info.ofL with d := opnd1 d, seq := true, bare := true }
  | .movL d a _ => { Info.ofL with d := opnd1 d, a := opnd1 a, seq := true }
  | .sreadL d _ => { Info.ofL with d := opnd1 d, seq := true }
  | .swriteL a _ => { Info.ofL with a := opnd1 a, priv := true }
  | .repL _ _ _ _ _ => { Info.ofL with seq := true, bare := true }
  | .braL _ => { Info.ofL with seq := true, last := true }
  | .callL _ => { Info.ofL with seq := true, last := true }
  | .brxL a _ => { Info.ofL with a := opnd1 a, seq := true, last := true }
  | .retL a => { Info.ofL with a := opnd1 a, seq := true, last := true }
  | .forkL a _ => { Info.ofL with a := opnd1 a }
  | .forkTryL _ a _ => { Info.ofL with a := opnd1 a }
  | .endL => { Info.ofL with seq := true, last := true }
  | .trapL _ => { Info.ofL with seq := true, last := true }
  | .syscL _ => { Info.ofL with seq := true, last := true }
  | .iaddL d a b s => { Info.ofL with d := opndW (s.toNat = 1) d, a := opndW (s.toNat = 1) a, b := opndW (s.toNat = 1) b, seq := true }
  | .isubL d a b s => { Info.ofL with d := opndW (s.toNat = 1) d, a := opndW (s.toNat = 1) a, b := opndW (s.toNat = 1) b, seq := true }
  | .imulL d a b s => { Info.ofL with d := opndW (s.toNat = 3) d, a := opndW (s.toNat = 3) a, b := opndW (s.toNat = 3) b, seq := true }
  | .imadL d a b c => { Info.ofL with d := opnd1 d, a := opnd1 a, b := opnd1 b, c := opnd1 c, seq := true }
  | .idivL d a b _ => { Info.ofL with d := opnd1 d, a := opnd1 a, b := opnd1 b, seq := true }
  | .iremL d a b _ => { Info.ofL with d := opnd1 d, a := opnd1 a, b := opnd1 b, seq := true }
  | .iminL d a b _ => { Info.ofL with d := opnd1 d, a := opnd1 a, b := opnd1 b, seq := true }
  | .imaxL d a b _ => { Info.ofL with d := opnd1 d, a := opnd1 a, b := opnd1 b, seq := true }
  | .andL d a b => { Info.ofL with d := opnd1 d, a := opnd1 a, b := opnd1 b, seq := true }
  | .orL d a b => { Info.ofL with d := opnd1 d, a := opnd1 a, b := opnd1 b, seq := true }
  | .xorL d a b => { Info.ofL with d := opnd1 d, a := opnd1 a, b := opnd1 b, seq := true }
  | .andnL d a b => { Info.ofL with d := opnd1 d, a := opnd1 a, b := opnd1 b, seq := true }
  | .shlL d a b s => { Info.ofL with d := opndW (s.toNat = 1) d, a := opndW (s.toNat = 1) a, b := opnd1 b, seq := true }
  | .shrL d a b s => { Info.ofL with d := opndW (1 < s.toNat) d, a := opndW (1 < s.toNat) a, b := opnd1 b, seq := true }
  | .rotlL d a b => { Info.ofL with d := opnd1 d, a := opnd1 a, b := opnd1 b, seq := true }
  | .bfxL d a b _ => { Info.ofL with d := opnd1 d, a := opnd1 a, b := opnd1 b, seq := true }
  | .iaddiL d a _ => { Info.ofL with d := opnd1 d, a := opnd1 a, seq := true }
  | .andiL d a _ => { Info.ofL with d := opnd1 d, a := opnd1 a, seq := true }
  | .oriL d a _ => { Info.ofL with d := opnd1 d, a := opnd1 a, seq := true }
  | .xoriL d a _ => { Info.ofL with d := opnd1 d, a := opnd1 a, seq := true }
  | .shliL d a _ => { Info.ofL with d := opnd1 d, a := opnd1 a, seq := true }
  | .shriL d a _ _ => { Info.ofL with d := opnd1 d, a := opnd1 a, seq := true }
  | .imuliL d a _ => { Info.ofL with d := opnd1 d, a := opnd1 a, seq := true }
  | .leaL d a b _ => { Info.ofL with d := opnd1 d, a := opnd1 a, b := opnd1 b, seq := true }
  | .bfiL d a b => { Info.ofL with d := opnd1 d, a := opnd1 a, b := opnd1 b, seq := true }
  | .popcL d a => { Info.ofL with d := opnd1 d, a := opnd1 a, seq := true }
  | .clzL d a => { Info.ofL with d := opnd1 d, a := opnd1 a, seq := true }
  | .brevL d a => { Info.ofL with d := opnd1 d, a := opnd1 a, seq := true }
  | .iabsL d a => { Info.ofL with d := opnd1 d, a := opnd1 a, seq := true }
  | .selL d a b _ => { Info.ofL with d := opnd1 d, a := opnd1 a, b := opnd1 b, seq := true }
  | .icmpL _ a b _ => { Info.ofL with a := opnd1 a, b := opnd1 b, seq := true }
  | .icmpuL _ a b _ => { Info.ofL with a := opnd1 a, b := opnd1 b, seq := true }
  | .faddL d a b _ => { Info.ofL with d := opnd1 d, a := opnd1 a, b := opnd1 b, seq := true }
  | .fsubL d a b _ => { Info.ofL with d := opnd1 d, a := opnd1 a, b := opnd1 b, seq := true }
  | .fmulL d a b _ => { Info.ofL with d := opnd1 d, a := opnd1 a, b := opnd1 b, seq := true }
  | .ffmaL d a b _ c => { Info.ofL with d := opnd1 d, a := opnd1 a, b := opnd1 b, c := opnd1 c, seq := true }
  | .fminL d a b _ => { Info.ofL with d := opnd1 d, a := opnd1 a, b := opnd1 b, seq := true }
  | .fmaxL d a b _ => { Info.ofL with d := opnd1 d, a := opnd1 a, b := opnd1 b, seq := true }
  | .fcmpL _ a b _ => { Info.ofL with a := opnd1 a, b := opnd1 b, seq := true }
  | .fcmpxL _ a b _ => { Info.ofL with a := opnd1 a, b := opnd1 b, seq := true }
  | .fspfL d a _ => { Info.ofL with d := opnd1 d, a := opnd1 a }
  | .fsgnL d a b s => { Info.ofL with d := opnd1 d, a := opnd1 a, b := opndIf (s.toNat = 3) b }
  | .hadd2L d a b _ => { Info.ofL with d := opnd1 d, a := opnd1 a, b := opnd1 b }
  | .hmul2L d a b _ => { Info.ofL with d := opnd1 d, a := opnd1 a, b := opnd1 b }
  | .hfma2L d a b _ c => { Info.ofL with d := opnd1 d, a := opnd1 a, b := opnd1 b, c := opnd1 c }
  | .hmnx2L d a b _ _ => { Info.ofL with d := opnd1 d, a := opnd1 a, b := opnd1 b }
  | .cvtL d a _ _ _ => { Info.ofL with d := opnd1 d, a := opnd1 a }
  | .pkbL d a _ _ => { Info.ofL with d := opnd1 d, a := opnd1 a }
  | .shflL d a b _ => { Info.ofL with d := opnd1 d, a := opnd1 a, b := opnd1 b, loose := true }
  | .vanyL _ _ _ => { Info.ofL with loose := true }
  | .vallL _ _ _ => { Info.ofL with loose := true }
  | .vbalL d _ => { Info.ofL with d := opnd1 d, loose := true }
  | .redlL d a _ => { Info.ofL with d := opnd1 d, a := opnd1 a, loose := true }
  | .setpartL _ => { Info.ofL with loose := true }
  | .pandL _ _ _ => { Info.ofL with seq := true }
  | .porL _ _ _ => { Info.ofL with seq := true }
  | .pxorL _ _ _ => { Info.ofL with seq := true }
  | .pandnL _ _ _ => { Info.ofL with seq := true }
  | .prdL d _ => { Info.ofL with d := opnd1 d, seq := true }
  | .pwrL a _ => { Info.ofL with a := opnd1 a, seq := true }
  | .stkrdL _ a => { Info.ofL with a := opnd1 a, seq := true }
  | .stksetL d a x => { Info.ofL with d := opnd1 d, a := opndIf (x.toNat = 2) a, seq := true }
  | .ldL d a z _ _ => { Info.ofL with d := opndZ z d, a := opnd2 a, seq := true }
  | .stL d a z _ _ => { Info.ofL with d := opndZ z d, a := opnd2 a, seq := true }
  | .ldsL d a z _ _ => { Info.ofL with d := opndZ z d, a := opnd1 a, seq := true }
  | .stsL d a z _ _ => { Info.ofL with d := opndZ z d, a := opnd1 a, seq := true }
  | .ldaqL d a z _ _ => { Info.ofL with d := opndZ z d, a := opnd2 a, seq := true }
  | .strlL d a z _ _ => { Info.ofL with d := opndZ z d, a := opnd2 a, seq := true }
  | .atomL d a b _ => { Info.ofL with d := opnd1 d, a := opnd2 a, b := opnd1 b, seq := true }
  | .atomsL d a b _ => { Info.ofL with d := opnd1 d, a := opnd1 a, b := opnd1 b, seq := true }
  | .fenceL _ _ _ => { Info.ofL with seq := true }
  | .ifenceL => { Info.ofL with seq := true }
  | .prefL a _ _ => { Info.ofL with a := opnd2 a, seq := true }
  | .iprefL _ => { Info.ofL with seq := true }
  | .xlqL d a => { Info.ofL with d := opnd2 d, a := opnd2 a, seq := true }
  | .stxL d a _ _ => { Info.ofL with d := opnd1 d, a := opnd2 a, seq := true }
  | .ldxL d a _ _ => { Info.ofL with d := opnd1 d, a := opnd2 a, seq := true }
  | .stcL d a _ _ _ => { Info.ofL with d := opnd1 d, a := opnd2 a }
  | .cpaL a b _ _ s => { Info.ofL with a := opndW (s.toNat = 1 ∨ s.toNat = 2) a, b := opndW (s.toNat = 0 ∨ s.toNat = 2) b }
  | .waittL _ => { Info.ofL with seq := true }
  | .tokqL _ _ _ => { Info.ofL with seq := true }
  | .mmaf8aL a _ => { Info.ofL with a := opnd1 a, loose := true }
  | .mmaf8bL a _ => { Info.ofL with a := opnd1 a, loose := true }
  | .mmak8L a b _ _ => { Info.ofL with a := opnd1 a, b := opnd0 b, loose := true }
  | .mmab16L a _ => { Info.ofL with a := opnd1 a, loose := true }
  | .mmah16L a _ => { Info.ofL with a := opnd1 a, loose := true }
  | .mmai8L a _ => { Info.ofL with a := opnd1 a, loose := true }
  | .accrdL d a _ _ => { Info.ofL with d := opnd1 d, a := opnd1 a }
  | .accwrL d a => { Info.ofL with d := opnd1 d, a := opnd1 a }
  | .acczL _ => Info.ofL
  | .accstL a _ => { Info.ofL with a := opnd1 a, loose := true }
  | .pliL d a b s => { Info.ofL with d := opnd2 d, a := opndW (s.toNat ≠ 7) a, b := opndIf2 (s.toNat < 6) b, seq := true }
  | .plfL d a b s => { Info.ofL with d := opnd2 d, a := opndW (s.toNat ≠ 7) a, b := opndIf2 (s.toNat < 6) b, seq := true }
  | .plredL d a _ => { Info.ofL with d := opnd2 d, a := opnd1 a, seq := true }
  | .regacqWaitL _ => { Info.ofL with seq := true }
  | .regacqTryL _ _ => { Info.ofL with seq := true }
  | .regrelL _ => { Info.ofL with seq := true }
  | .migrL _ => { Info.ofL with loose := true }
  | .dvtL _ => { Info.ofL with bare := true }
  | .barL _ => { Info.ofL with loose := true, seq := true }
  | .arvL d a b => { Info.ofL with d := opnd1 d, a := opnd1 a, b := opnd1 b, seq := true }
  | .awtL d a b => { Info.ofL with d := opnd1 d, a := opnd1 a, b := opnd1 b, seq := true }
  | .brdL d _ => { Info.ofL with d := opnd1 d, seq := true }
  | .bwrL a _ => { Info.ofL with a := opnd1 a, seq := true }
  | .batomL d a _ _ => { Info.ofL with d := opnd1 d, a := opnd1 a, seq := true }
  | .featqL d _ => { Info.ofL with d := opnd1 d, seq := true }
  | .genbumpL => { Info.ofL with priv := true }
  | .ckptL => { Info.ofL with priv := true }
  | .haltL => { Info.ofL with priv := true, seq := true, last := true }
  | .chunkL d a => { Info.ofL with d := opnd2 d, a := opnd2 a, seq := true }
  | .clauseEntry => Info.event
  | .tokenWaitResume => Info.event
  | .registerGrant => Info.event
  | .regDeadlock => Info.event
  | .binAgeExpiry => Info.event
  | .binIssue => Info.event
  | .gangSlotSwap => Info.event
  | .engineLineWrite => Info.event
  | .scratchGranuleLanding => Info.event
  | .copyComplete => Info.event
  | .deferredCopyFault => Info.event
  | .mmaBlockAdd => Info.event
  | .accstRowWrite => Info.event
  | .homeAccessArrival => Info.event
  | .placedPartExecute => Info.event
  | .reduceStateMerge => Info.event
  | .genbumpComplete => Info.event
  | .portWriteArrival => Info.event
  | .portReadArrival => Info.event
  | .peerAtomArrival => Info.event
  | .faultDelivery => Info.event
  | .launchEndWithCause => Info.event
  | .preemption => Info.event
  | .crewRestore => Info.event
  | .firmwareCheckpoint => Info.event
  | .migration => Info.event
  | .returnTrap => Info.event
  | .crewPlacement => Info.event
  | .carveOutChange => Info.event
  | .notify => Info.event
  | .packetTake => Info.event
  | .launch => Info.event
  | .cmdblock => Info.event
  | .copy => Info.event
  | .fill => Info.event
  | .signal => Info.event
  | .waitsig => Info.event
  | .waitsigReevaluate => Info.event
  | .nopPacket => Info.event
  | .launchCompletionSignal => Info.event
  | .thaw => Info.event
  | .abandon => Info.event
  | .graphKick => Info.event
  | .graphNodeCompletion => Info.event
  | .pairComparison => Info.event
  | .protectedRollback => Info.event
  | .unitSelfTest => Info.event
  | .islandClockChange => Info.event
  | .powerCapSet => Info.event
  | .thermalLimit => Info.event
  | .attestationReport => Info.event
  | .asidKeyInit => Info.event
  | .baseRegisterWrite => Info.event
  | .registerWrite => Info.event
  | .moduleReset => Info.event
  | .bringUp => Info.event
  | .dieCooled => Info.event
  | .hostAcknowledgement => Info.event
  | .graphRegistration => Info.event

/-- The instruction does not write its field d: a store's data, a value put into a tile, a line or element that it names. -/
def Instr.holdsD : Instr → Bool
  | .stD _ _ _ _ _ => true
  | .stL _ _ _ _ _ => true
  | .stsD _ _ _ _ _ => true
  | .stsL _ _ _ _ _ => true
  | .strlD _ _ _ _ _ => true
  | .strlL _ _ _ _ _ => true
  | .stxD _ _ _ _ => true
  | .stxL _ _ _ _ => true
  | .stcD _ _ _ _ _ => true
  | .stcL _ _ _ _ _ => true
  | .accwrD _ _ => true
  | .accwrL _ _ => true
  | .pliD _ _ _ _ => true
  | .pliL _ _ _ _ => true
  | .plfD _ _ _ _ => true
  | .plfL _ _ _ _ => true
  | .plredD _ _ _ => true
  | .plredL _ _ _ => true
  | _ => false

/-- The instruction writes the link register v7 (R68, R69). -/
def Instr.links : Instr → Bool
  | .callD _ => true
  | .callL _ => true
  | .brxD _ s => s == 1
  | .brxL _ s => s == 1
  | _ => false

/-- The instruction reads its field d: a store's data, a line or element that it names, an addend, a comparand, or a register
of which it keeps a part. -/
def Instr.readsD : Instr → Bool
  | .movhiD _ _ => true
  | .movhiL _ _ => true
  | .imadD _ _ _ => true
  | .bfiD _ _ _ => true
  | .bfiL _ _ _ => true
  | .ffmaD _ _ _ _ => true
  | .hfma2D _ _ _ _ => true
  | .pkbD _ _ _ _ => true
  | .pkbL _ _ _ _ => true
  | .stksetD _ _ _ => true
  | .stksetL _ _ _ => true
  | .atomD _ _ _ s => s == 7
  | .atomL _ _ _ s => s == 7
  | .atomsD _ _ _ s => s == 7
  | .atomsL _ _ _ s => s == 7
  | .batomD _ _ o _ => o == 7
  | .batomL _ _ o _ => o == 7
  | i => i.holdsD

/-- The instruction reads no S bit of its register operands: a compare, an address, a count, a value stored or contributed
without its S (R62, R135, R203). -/
def Instr.ignoresS : Instr → Bool
  | .swriteD _ _ => true
  | .swriteL _ _ => true
  | .brxD _ _ => true
  | .brxL _ _ => true
  | .retD _ => true
  | .retL _ => true
  | .forkD _ _ => true
  | .forkL _ _ => true
  | .forkTryD _ _ _ => true
  | .forkTryL _ _ _ => true
  | .icmpD _ _ _ _ => true
  | .icmpL _ _ _ _ => true
  | .icmpuD _ _ _ _ => true
  | .icmpuL _ _ _ _ => true
  | .fcmpD _ _ _ _ => true
  | .fcmpL _ _ _ _ => true
  | .pwrD _ _ => true
  | .pwrL _ _ => true
  | .ldD _ _ _ _ _ => true
  | .ldL _ _ _ _ _ => true
  | .ldsD _ _ _ _ _ => true
  | .ldsL _ _ _ _ _ => true
  | .ldaqD _ _ _ _ _ => true
  | .ldaqL _ _ _ _ _ => true
  | .stD _ _ _ _ _ => true
  | .stL _ _ _ _ _ => true
  | .stsD _ _ _ _ _ => true
  | .stsL _ _ _ _ _ => true
  | .strlD _ _ _ _ _ => true
  | .strlL _ _ _ _ _ => true
  | .atomD _ _ _ _ => true
  | .atomL _ _ _ _ => true
  | .atomsD _ _ _ _ => true
  | .atomsL _ _ _ _ => true
  | .prefD _ _ _ => true
  | .prefL _ _ _ => true
  | .xlqD _ _ => true
  | .xlqL _ _ => true
  | .ldxD _ _ _ _ => true
  | .ldxL _ _ _ _ => true
  | .stcD _ _ _ _ _ => true
  | .stcL _ _ _ _ _ => true
  | .cpaD _ _ _ _ _ => true
  | .cpaL _ _ _ _ _ => true
  | .mmaf8aD _ _ => true
  | .mmaf8aL _ _ => true
  | .mmaf8bD _ _ => true
  | .mmaf8bL _ _ => true
  | .mmak8D _ _ _ _ => true
  | .mmak8L _ _ _ _ => true
  | .mmab16D _ _ => true
  | .mmab16L _ _ => true
  | .mmah16D _ _ => true
  | .mmah16L _ _ => true
  | .mmai8D _ _ => true
  | .mmai8L _ _ => true
  | .accrdD _ _ _ _ => true
  | .accrdL _ _ _ _ => true
  | .accstD _ _ => true
  | .accstL _ _ => true
  | .pliD _ _ _ _ => true
  | .pliL _ _ _ _ => true
  | .plfD _ _ _ _ => true
  | .plfL _ _ _ _ => true
  | .plredD _ _ _ => true
  | .plredL _ _ _ => true
  | .arvD _ _ _ => true
  | .arvL _ _ _ => true
  | .awtD _ _ _ => true
  | .awtL _ _ _ => true
  | .bwrD _ _ => true
  | .bwrL _ _ => true
  | .batomD _ _ _ _ => true
  | .batomL _ _ _ _ => true
  | .chunkD _ _ => true
  | .chunkL _ _ => true
  | .movD _ _ s => s == 1
  | .stksetD _ _ x => x != 2
  | .movL _ _ s => s == 1
  | .stksetL _ _ x => x != 2
  | _ => false

/-- An operand keeps the alignment of R52. -/
def Operand.aligned (o : Operand) : Bool := o.num % o.align == 0

/-- Every lane-register operand of an instruction. -/
def Info.operands (i : Info) : List Operand := i.d.toList ++ i.a.toList ++ i.b.toList ++ i.c.toList

/-- Every operand keeps the alignment of R52. -/
def Info.aligned (i : Info) : Bool := i.operands.all Operand.aligned

/-- What an instruction's own encoding raises, whatever the state: ILLEGAL-OP, then ILLEGAL-FIELD, a guard number of 96
to 127 among these (R46, R59, R60). -/
def Instr.encFault (q : Prefix) (i : Instr) : Option EncFault :=
  orElse i.subFault (fieldIf (i.info.aligned = false ∨ 95 < q.guard.toNat))

end Sys2Proof
end

