-- ==== Sys2Proof/Config.lean ====
section
/-!
DEFINITION. What the spec leaves to the device or does not state: free values, opaque constants with no body.
Nothing can be proved about a value of one of these, so a statement that holds in the model holds whatever they are.
-/
namespace Sys2Proof.Config

/-- Which of several enabled moves comes next, at the n-th step (R32: any order). Log 4. -/
opaque choice : Nat → Nat

/-- Which of several fitting cores, or of several free places, a placement takes (R273, R274). Log 4. -/
opaque placeChoice : Nat → Nat

/-- At the n-th free draw: an L1 copy that would hit has been replaced (R128 states no replacement policy). Log 6. -/
opaque l1Replaced : Nat → Bool

/-- At the n-th free draw: a cached translation of the current generation has been dropped (R105, R106). Log 6. -/
opaque tlbDropped : Nat → Bool

/-- At the n-th free draw: which value of a word that changed a fetch without IFENCE returns, by how far back (R55). Log 7. -/
opaque fetchOld : Nat → Nat

/-- At the n-th free draw: which of the writes that need not be visible yet a read misses, a bit for each (R134, R142). Log 5. -/
opaque readsPast : Nat → Nat

/-- At the n-th free draw: a load that nothing has used yet returns a write made after it was issued (R134). Log 5. -/
opaque readsAhead : Nat → Bool

/-- At the n-th free draw: the newest write of a range takes its place in coherence order before the one made just before it
(R132, R134). Log 5. -/
opaque writesSwap : Nat → Bool

/-- At the n-th free draw: which line of a full L1 set is replaced (R123, R128: no policy is stated). Log 6. -/
opaque l1Victim : Nat → Nat

/-- A 64-byte sector that an L2 slice evicts before the n-th step (R129: no policy is stated). Log 49. -/
opaque l2Evicts : Nat → Option Nat

/-- At the n-th free draw: a %gen read while a GENBUMP waits returns the old generation (R65). Log 13. -/
opaque oldGeneration : Nat → Bool

/-- At the n-th free draw: a contribution starts a partial of its own (R114 to R116: any order of summation). Log 13. -/
opaque newPartial : Nat → Bool

/-- Issue cycles that a core counts during a step (R65, R352: no cycle count is architectural). Log 8. -/
opaque issueCycles : Nat → Nat → Nat

/-- Cycles of one residency at 1.4 GHz, as Cost counts them (R269), for a crew over a span of steps. Log 8. -/
opaque residencyCycles : Nat → Nat → Nat → Nat

/-- The error that strikes storage at the n-th step (R337): whether a single bit, which storage by its number, which crew,
fibre and register, word, element or place. Log 18. -/
opaque errorStrikes : Nat → Option (Bool × Nat × Nat × Nat × Nat)

/-- The kind that the error log's entry gives for an uncorrectable error which no instruction consumes, at the n-th free draw
(R337, R348: no kind is stated). Log 18. -/
opaque silentKind : Nat → Nat

/-- Whether a unit under self-test passes (R346). Log 9. -/
opaque selfTestPasses : Nat → Bool

/-- The addresses of the DRAM rows that fail their test at the bring-up after the n-th module reset (R346, R357). Log 9. -/
opaque rowsFail : Nat → List Nat

/-- The byte an ENC frame yields under another address space's key: key owner, reader, address, stored byte (R130). Log 10. -/
opaque foreignKeyByte : Nat → Nat → Nat → Byte → Byte

/-- The 32 bytes of SHAKE256 output over the loaded firmware images (R349). Log 11. -/
opaque firmwareHash : BitVec 256

/-- The module serial number (R349). Log 11. -/
opaque serialNumber : DWord

/-- The Falcon-1024 signature over the first 128 bytes of an attestation report (R349). Log 11. -/
opaque falconSignature : List Byte → List Byte

/-- Whether every firmware image verifies at the n-th module reset (R349, R357). Log 11. -/
opaque firmwareVerifies : Nat → Bool

/-- The byte that memory holds at an address after the n-th module reset until it is written (R358: undefined). Log 1. -/
opaque resetByte : Nat → Nat → Byte

/-- A value that a host or peer returns for a read through an aperture, at the n-th free draw (R149). Log 12. -/
opaque apertureByte : Nat → Nat → Byte

end Sys2Proof.Config
end

