-- ==== Sys2Proof/Machine/State.lean ====
section
/-!
DEFINITION. The state of a Kraunros 960 module: memory, translation, cores, crews with their fibres, queues, launches,
graphs, ports, the always-on domain. Plain data throughout. Each field cites the rule of the spec that names it.
-/
namespace Sys2Proof.Machine

/-! ## Stops of the model -/

/-- Reasons a step can stop. -/
inductive Fault where
  /-- Raised by an instruction executed while no unit is issuing, which no run of `step` does: it keeps `exec` total.
  Safe. -/
  | noIssuer
  /-- Raised by an event executed while it is not that event's turn, which no run of `step` does. Safe. -/
  | noEvent
  deriving DecidableEq, Repr

/-- Reasons a step can be refused. -/
inductive Refusal where
  /-- Raised by an instruction that the model gives no meaning to. Safe. -/
  | notModelled (mnemonic : String)
  deriving DecidableEq, Repr

/-! ## Fibres -/

/-- A lane register: its 32-bit value and its S bit, the register image of R122. -/
structure Reg where
  val : Word
  s   : Bool
  deriving DecidableEq, Repr

/-- A register that reads 0 with S = 0 (R21). -/
def Reg.zero : Reg := { val := 0, s := false }

/-- A REP in progress (R56): its count, its register steps, and the repeats already completed (R20). -/
structure Rep where
  count : Nat
  stepD : Nat
  stepA : Nat
  stepB : Nat
  stepC : Nat
  k     : Nat
  deriving DecidableEq, Repr

/-- Why a fibre's unit does not issue (R276, R289, R293). -/
inductive Wait where
  | none
  /-- at a D header's WFROM or an L extension's WMASK, or in WAITT (R43, R46, R185) -/
  | tokens (mask : BitVec 8)
  /-- at crew barrier `n`, arrived in phase `phase` (R174) -/
  | bar (n : Nat) (phase : Bool)
  /-- at a barrier object, in AWT (R178) -/
  | object
  /-- at a granule, in LDS or STS (R168) -/
  | granule
  /-- in a REGACQ.wait or a waiting FORK (R35) -/
  | blocks
  /-- stopped at a dovetail point (R258) -/
  | dovetail
  /-- held at a home while an engine or an accepted part owns a line it accesses (R153, R113) -/
  | held
  /-- until every line part of the instruction is accepted (R113) -/
  | parts
  /-- until GENBUMP's wait ends (R107) -/
  | genbump
  /-- at a comparison point of a paired crew (R159, R341) -/
  | pair
  /-- at a faulting instruction while another fault of the crew is in delivery (R284) -/
  | behindFault
  /-- at the faulting instruction while its own fault is in delivery (R284) -/
  | inDelivery
  deriving DecidableEq, Repr

/-- A kind of core (R252). -/
inductive Kind where
  | density
  | latency
  | sequencer
  deriving DecidableEq, Repr

/-- A copy fault that waits for an instruction to observe its token (R183). -/
structure Deferred where
  token : Nat
  /-- the kind of core that its instruction issued on (R246) -/
  kind : Kind
  /-- code offset of the CPA, and its header -/
  pc : Word
  hdr : Word
  cause : BitVec 8
  info : Word
  /-- the lanes that its instruction was active in, as it last issued (R285) -/
  active : List Nat
  /-- lanes not copied and their record entries (R285, R286) -/
  entries : List (Nat × List Word)
  /-- base word and extension word of the CPA -/
  word : Word
  ext : Word
  /-- which operation failed -/
  group : Nat
  deriving DecidableEq, Repr

/-- What a fibre owns (R20, R254, R293). -/
structure Fibre where
  live : Bool
  /-- bound or loose (R20) -/
  bound : Bool
  priv : Bool
  /-- a handler fibre (R8, R293) -/
  handler : Bool
  /-- base of the code object that its PC counts from: the kernel's, or a handler's own (R20, R283) -/
  codeBase : DWord
  /-- offset of the next instruction from the code object base (R20) -/
  pc : Word
  /-- address of the clause header that holds `pc` in D; `pc` in L (R45, R285) -/
  hdr : Word
  /-- the clause header latched with the clause; 0 in L (R41, R45) -/
  hdrWord : Word
  /-- in D the base words latched at clause entry, in L the doubleword being issued, extension first; empty at an issue
  point (R41, R24) -/
  clause : List Word
  /-- p0 to p95; p0 reads 1 whatever bit 0 holds (R20) -/
  preds : Preds
  /-- window size in blocks (R20) -/
  size : Nat
  /-- the window's registers, 8 for each block (R34) -/
  regs : List Reg
  /-- blocks of the window written since the last save (R296) -/
  dirty : List Nat
  /-- home lane slot (R20) -/
  home : Nat
  /-- partition code (R20) -/
  part : Nat
  /-- gang index of a bound fibre; a loose fibre reads its creator's (R22) -/
  gang : Nat
  /-- which sub-gang of the gang it belongs to (R24) -/
  sub : Nat
  /-- %fibre of a bound fibre; a loose fibre reads its creator's (R22) -/
  ident : Nat
  rep : Option Rep
  wait : Wait
  /-- the token wait before the instruction at `pc` is over (R43, R46) -/
  waited : Bool
  /-- the next lane to perform in a waiting LDS, STS or AWT (R293) -/
  nextLane : Nat
  /-- its part of the placed instruction at `pc` has been accepted: which issue of the instruction the part belongs to (R112, R113) -/
  accepted : Option Nat
  /-- the dovetail marker (R254): PASSED, index, DCOUNT -/
  passed : Bool
  didx : Nat
  dcount : Nat
  /-- 0, or one more than the step at which its sub-gang has just branched backwards: such sub-gangs stand behind the
  others, and each behind those that branched before it (R25, R26) -/
  behind : Nat
  /-- %clk.hi as latched by the last read of %clk (R65) -/
  clkh : Word
  /-- loose copy faults that are pending, to be raised before its next instruction (R289, R293): what each tells (R183, R246) -/
  dflt : List Deferred
  /-- the bin a loose fibre stands in (R28) -/
  bin : Option Nat
  /-- the blocks given to loose fibres that hold a loose fibre's window, a contiguous run from the window's first; a bound gang's run
  is its own (R34, R35). The window base of R20 is `State.windowBase`. -/
  cols : List Nat
  /-- the step at which its unit last issued, or at which it was placed or created (R26, R276) -/
  issuedAt : Nat
  /-- the model's own: registers that hold what a plain load returned and that nothing orders or reads has come between since, so
  that the load may yet return a later write (R134) -/
  late : List Nat
  deriving DecidableEq, Repr

/-! ## Units -/

/-- Tokens t0 to t7 of a gang or of an issued bin (R181), and the faults attached to them (R183). -/
structure Tokens where
  counts : List Nat
  deferred : List Deferred
  deriving DecidableEq, Repr

/-- Every token complete (R21, R181). -/
def Tokens.fresh : Tokens := { counts := List.replicate 8 0, deferred := [] }

/-- A bin of loose fibres of one crew (R28); its members are the fibres that name it. -/
structure Bin where
  tokens : Tokens
  /-- it has been issued as a gang (R28) -/
  issued : Bool
  /-- it may issue although not full: 256 cycles have passed without a change (R28) -/
  aged : Bool
  /-- when its first fibre entered it, and when it last changed (R28) -/
  born : Nat
  changed : Nat
  deriving DecidableEq, Repr

/-! ## Crews -/

/-- A crew barrier: its phase and the bound fibres that have arrived (R174, R295). -/
structure Barrier where
  phase : Bool
  arrived : List Nat
  deriving DecidableEq, Repr

/-- A fibre as its crew and its place. -/
abbrev FibreId := Nat × Nat

/-- A release (R137): its number, the fibre that made it, and its scope. -/
structure Tag where
  id    : Nat
  by_   : FibreId
  scope : Nat
  deriving DecidableEq, Repr

/-- An unfinished lane copy of a CPA (R182, R184, R294). Scratchpad operands are offsets from the crew's first
scratchpad byte. -/
structure LaneCopy where
  lane : Nat
  /-- 0 global to scratchpad, 1 scratchpad to global, 2 global to global, by the code s of CPA -/
  form : Nat
  bsel : Nat
  len : Nat
  src : DWord
  dst : DWord
  done : Nat
  token : Nat
  /-- which gang or bin issued it, and the place of the fibre whose copy it is -/
  unit : UnitKind
  fibre : Nat
  /-- the kind of core that it was issued on -/
  kind : Kind
  priv : Bool
  pc : Word
  hdr : Word
  word : Word
  ext : Word
  /-- the bytes read from the source, once read (R182) -/
  bytes : Option (List Byte)
  /-- the physical line it owns (R153); none for a scratchpad or aperture destination, and once it has landed -/
  line : Option Nat
  /-- cause and subcause of a fault that stopped it (R183) -/
  fault : Option (BitVec 8 × Nat)
  /-- its place in the order of ownership (R153) -/
  order : Nat
  /-- lane copies of one instruction share its token's one count -/
  group : Nat
  /-- the releases that its writes carry (R138, R154) -/
  tags : List Tag
  deriving DecidableEq, Repr

/-- A matrix operation in progress (R237 to R240, R294). -/
structure MatJob where
  major : Nat
  block : List Word
  lane : Nat
  token : Nat
  bsel : Nat
  unit : UnitKind
  /-- the kind of core that it was issued on -/
  kind : Kind
  pc : Word
  hdr : Word
  word : Word
  ext : Word
  /-- K-blocks completed -/
  done : Nat
  /-- when it issued, for the order of one gang's tile operations (R239) -/
  order : Nat
  /-- MMAK8's captured scales: byte 128kb + 4j + i, then the 64 bytes of the B scales -/
  scaleA : List Byte
  scaleB : List Byte
  /-- stopped by an uncorrectable error in what its next block reads (R337; log 18) -/
  failed : Bool
  deriving DecidableEq, Repr

/-- A tile store in progress (R244, R294). -/
structure StoreJob where
  block : List Word
  /-- the kind of core that it was issued on -/
  kind : Kind
  token : Nat
  lane : Nat
  /-- which gang or bin issued it, and the place of the fibre in its elected lane -/
  unit : UnitKind
  fibre : Nat
  priv : Bool
  pc : Word
  hdr : Word
  word : Word
  ext : Word
  /-- rows completed -/
  done : Nat
  /-- the physical lines it owns still (R153) -/
  lines : List Nat
  /-- cause and subcause of a fault that stopped it (R183, R244) -/
  fault : Option (BitVec 8 × Nat)
  order : Nat
  /-- the releases that its writes carry (R138, R154) -/
  tags : List Tag
  deriving DecidableEq, Repr

/-- An element of an accumulator tile: 32 bits and S (R229). -/
abbrev AccElem := Reg

/-- A fault that waits to be delivered: its crew moves from a sequencer first, or is placed again to have room for the
handler's window (R284). -/
structure HeldFault where
  unit : UnitKind
  cause : BitVec 8
  lanes : List Nat
  token : Option Nat
  home : Nat
  /-- the record of R285, as it will be written but for its sequence number -/
  record : List Byte
  deriving DecidableEq, Repr

/-- A fault in delivery (R284, R287). -/
structure Delivery where
  unit : UnitKind
  cause : BitVec 8
  /-- the handler fibre -/
  fibre : Nat
  /-- a deferred copy fault: the token it is attached to (R183, R287) -/
  token : Option Nat
  /-- lanes named by the record -/
  lanes : List Nat
  deriving DecidableEq, Repr

/-- A translation (R95 to R103): the frame, and what the entries say. -/
structure Translation where
  /-- physical address of the page's first byte, and its size code 0 to 2 -/
  frame : Nat
  size : Nat
  mtype : Nat
  enc : Bool
  ns : Bool
  ex : Nat
  kernel : Bool
  writable : Bool
  executable : Bool
  /-- W and X of stage 1, as XLQ reports them (R7) -/
  w1 : Bool
  x1 : Bool
  snapshot : Bool
  deriving DecidableEq, Repr

/-- A buffered word of a paired copy (R159, R340): virtual address, byte mask, data; for a PLRED contribution its operation
and the NaN of an invalid sum with it. -/
structure BufWord where
  va : DWord
  mask : BitVec 4
  data : Word
  plred : Option (Nat × Nat)
  /-- the cache mode of its store (R128, R164) -/
  mode : Nat
  /-- the translation it was stored through, which says the location it names (R131), and that translation's generation (R105) -/
  tr : Translation
  gen : Nat
  /-- the fibre that stored it; none for an engine's write -/
  who : Option Nat
  /-- the scope of the release write that it is (R137) -/
  release : Option Nat
  /-- releases that it carries beside those of the fences before it (R138) -/
  tags : List Tag
  deriving DecidableEq, Repr

/-- The paired half of a crew (R340): its partner, its signature and its buffered writes. -/
structure PairHalf where
  partner : Nat
  /-- the first copy, whose buffer drains -/
  first : Bool
  signature : BitVec 64
  buffer : List BufWord
  /-- units that stand at a comparison point, and units whose comparison has matched (R341) -/
  arrived : List UnitKind
  passed : List UnitKind
  /-- units whose STRL has its write in the buffer and waits for the comparison (R159) -/
  pushed : List UnitKind
  /-- results of global ATOMs and CHUNKs that the first copy performed: the instruction's PC, and values by lane (R159) -/
  results : List (Word × List (Nat × DWord))
  deriving DecidableEq, Repr

/-- Where a crew stands. -/
inductive CrewStatus where
  /-- on a core -/
  | resident
  /-- saved in its context area, to be placed again (R290) -/
  | saved
  /-- saved to be placed on a core of one kind (R258, R265) -/
  | moving (k : Kind)
  /-- every fibre ended and its engines complete (R31, R71), or its launch ended -/
  | ended
  deriving DecidableEq, Repr

/-- What a crew is given at its placement and keeps for its life (R291). -/
structure CrewDesc where
  launch : Nat
  asid : Nat
  x : Nat
  y : Nat
  z : Nat
  ncrewx : Nat
  args : DWord
  stkBase : DWord
  stkStride : Word
  entry : Nat
  codeBase : DWord
  /-- placement mode and argument (R273), as byte 0x1C of the context header holds them -/
  mode : Word
  /-- `.regs` in blocks of the D and L texts -/
  regsD : Nat
  regsL : Nat
  /-- fibres per crew -/
  nbound : Nat
  /-- %scrsz and %acccnt -/
  scrSize : Nat
  accCount : Nat
  /-- the context area's virtual address (R291) -/
  ctx : DWord
  deriving DecidableEq, Repr

/-- A crew (R30, R291). -/
structure Crew where
  status : CrewStatus
  desc : CrewDesc
  kind : Kind
  /-- %core -/
  core : Nat
  /-- %scr and the first tile of its run on this core (R125, R228) -/
  scrBase : Nat
  accBase : Nat
  /-- bound fibres in %fibre order, empty slots among them, then loose and handler fibres -/
  fibres : List Fibre
  /-- token sets of the bound gangs, by gang index -/
  gangs : List Tokens
  bins : List Bin
  /-- scratchpad bytes by offset, sparse: an unlisted byte reads 0 (R125) -/
  scr : List Host.Cell
  /-- full granules by number from the crew's first, rising (R127) -/
  full : List Nat
  /-- b0 to b63 (R37) -/
  bench : List Word
  /-- crew barriers 0 to 15 (R174) -/
  barriers : List Barrier
  /-- accumulator elements, sparse by 16384 t + 128 m + n: an unlisted element reads 0 with S = 0 (R228, R229) -/
  tiles : List (Nat × AccElem)
  /-- tiles written since the last save (R229) -/
  tileDirty : List Nat
  copies : List LaneCopy
  mats : List MatJob
  stores : List StoreJob
  /-- MIGR's pending request (R257) -/
  pending : Option Kind
  /-- a unit has raised the return trap (R265) -/
  returning : Bool
  /-- a pre-emption that a GENBUMP's wait holds back (R107) -/
  preempting : Bool
  delivery : Option Delivery
  heldFault : Option HeldFault
  /-- fault sequence number (R284, R285) -/
  faultSeq : DWord
  saveSeq : DWord
  /-- stamps of block slots, then of tile slots, as the last save left them (R295, R296) -/
  stamps : List Word
  /-- owners of the block slots at the last save: the fibre records' fields that own each slot (R296) -/
  slotOwners : List (List Nat)
  /-- every block is new: the crew was placed on a new core since the last save (R296) -/
  allDirty : Bool
  /-- offsets of the block slots and of the tile slots in the context area at the last save (R292, R296) -/
  slotAt : Nat
  tileAt : Nat
  /-- blocks that its request asked for when it was pre-empted by REG-DEADLOCK (R36) -/
  reserve : Nat
  pair : Option PairHalf
  /-- mirroring requested (R338) -/
  mirror : Bool
  /-- cycles charged so far and the step at which this residency began (R269) -/
  cost : Nat
  since : Nat
  /-- the estimate charged at first placement (R269) -/
  est : Nat
  /-- placement decisions that have passed it over while it waited to be placed again (R270) -/
  passedOver : Nat
  /-- counters that name engine operations in order of issue (R153) -/
  jobs : Nat
  deriving DecidableEq, Repr

/-! ## Cores -/

/-- A TLB entry, tagged with its generation (R105); `dirty`: D read 1 at every stage when it was filled, or a write has set
it since (R98). -/
structure TlbEntry where
  asid : Nat
  page : Nat
  gen : Nat
  tr : Translation
  dirty : Bool
  /-- where its leaf entries stand: stage 1 with its size code, and stage 2 with its size code and the guest-physical address -/
  leaf1 : Nat
  size1 : Nat
  leaf2 : Option (Nat × Nat × Nat)
  deriving DecidableEq, Repr

/-- An L1 line, tagged with ASID and generation (R105, R128). -/
structure L1Line where
  asid : Nat
  gen : Nat
  line : Nat
  data : List Byte
  /-- the way that holds it (R123) -/
  way : Nat
  /-- filled by a stream load: the next to be replaced in its set (R128) -/
  stream : Bool
  deriving DecidableEq, Repr

/-- An instruction word as some fetch of this core saw it (R55). -/
structure ICell where
  asid : Nat
  va : Nat
  word : Word
  deriving DecidableEq, Repr

/-- A block request that waits on a core (R35, R36): the crew, the fibres that stand at its REGACQ.wait or FORK and the instruction's
offset, and what it asks for. The unit that waits is told by its fibres, whatever sub-gang they stand in since; what it needs is told
anew whenever a grant is considered. -/
structure Request where
  crew : Nat
  members : List Nat
  pc : Word
  /-- the fibres whose windows grow, and by how many blocks -/
  places : List Nat
  grow : Nat
  /-- the windows of the fibres that it creates: home lane slot and blocks -/
  forks : List (Nat × Nat)
  /-- blocks requested, as a fault record tells (R286) -/
  asked : Nat
  deriving DecidableEq, Repr

/-- A compute core or stack sequencer, by its %core number. -/
structure CoreSt where
  /-- what SWRITE has added to the cycle counter (R65, R66) -/
  clkAdj : DWord
  /-- carve-out (R123) -/
  carve : Nat
  l1 : List L1Line
  tlb : List TlbEntry
  icache : List ICell
  /-- units that hold the eight active slots (R276) -/
  active : List UnitId
  /-- swaps that pending units have waited through (R276) -/
  swaps : List (UnitId × Nat)
  requests : List Request
  /-- crews resident at a revocation of mirroring (R339); empty where mirroring stands -/
  revoked : List Nat
  /-- the step at which the core last executed IFENCE or was given a crew (R55, R156, R326) -/
  ifence : Nat
  /-- a crew has been placed on the core or has ended there since the carve-out was last settled (R124) -/
  carveDue : Bool
  /-- a carve-out that the placer wants and that an allocation still holds (R124) -/
  carveWish : Option Nat
  deriving DecidableEq, Repr

/-- A core after module reset (R123, R357). -/
def CoreSt.reset : CoreSt :=
  { clkAdj := 0, carve := 0, l1 := [], tlb := [], icache := [], active := [], swaps := [], requests := [], revoked := [],
    ifence := 0, carveDue := false, carveWish := none }

/-! ## Address spaces -/

/-- Bytes 0x00 to 0x0F and the log size of an address-space descriptor, as latched at GENBUMP (R102). -/
structure SpaceDesc where
  root1 : DWord
  root2 : DWord
  logSize : Nat
  deriving DecidableEq, Repr

/-- A line part, PLRED contribution or CHUNK draw on its way (R112 to R117). -/
structure Part where
  crew : Nat
  unit : UnitKind
  fibre : Nat
  lane : Nat
  asid : Nat
  priv : Bool
  /-- major and code s of its instruction, and its code offset -/
  major : Nat
  s : Nat
  pc : Word
  /-- operand line addresses (or element address and register value) -/
  d : DWord
  a : DWord
  b : DWord
  value : Word
  /-- generation of its translation (R105) -/
  gen : Nat
  /-- the translations that it carries, of d, a and b; that of d for a line it does not read (R105) -/
  td : Translation
  ta : Translation
  tb : Translation
  /-- physical addresses of the operand lines under those translations -/
  pd : Nat
  pa : Nat
  pb : Nat
  accepted : Bool
  /-- which issue of the instruction it belongs to: parts of one instruction share it (R112) -/
  issue : Nat
  /-- the releases that its write carries (R138, R157) -/
  tags : List Tag
  /-- order of issue -/
  order : Nat
  deriving DecidableEq, Repr

/-- A partial of a reduce-state line (R114, R115): element, operation, value, and the NaN that an invalid sum with its latest
contribution yields (R116). -/
structure Partial where
  pa : Nat
  op : Nat
  value : Word
  nan : Nat
  /-- the releases that its contributions carry (R138, R157) -/
  tags : List Tag
  /-- the address space of its latest contribution, and whether its page is encrypted (R130) -/
  asid : Nat
  enc : Bool
  deriving DecidableEq, Repr

/-- A GENBUMP in its wait (R107). -/
structure Bump where
  asid : Nat
  unit : UnitId
  deriving DecidableEq, Repr

/-! ## Queues, launches, graphs -/

/-- A WAITSIG's signal as its home watches it (R318): its physical address, the address space that waits for it and whether its page is
encrypted, and whether the condition has held after a write to its line. -/
structure Watch where
  pa : Nat
  asid : Nat
  enc : Bool
  met : Bool
  deriving DecidableEq, Repr

/-- A packet that a command core has taken (R304, R315). -/
structure Packet where
  words : List Word
  started : Bool
  completed : Bool
  /-- a CMDBLOCK's next command; of a SIGNAL, 1 once its operation has left through a port (R150) -/
  next : Nat
  launch : Option Nat
  /-- a command block waits on a translation fault: its subcause and VA (R316) -/
  stalled : Option (Nat × Nat)
  /-- the signal of a WAITSIG that waits; none while it has not been read -/
  watched : Option Watch
  /-- its kind makes its queue's processing end: the cause, until PACKET_TAKE's write of VALID is acknowledged (R150, R305) -/
  rejected : Option (BitVec 8)
  deriving DecidableEq, Repr

/-- What the device holds for a queue beside its descriptor (R268, R269, R304, R317). -/
structure QueueSt where
  /-- the command core that holds its ordering lock (R317) -/
  lock : Option Nat
  /-- its pending bit: an event has come while a wake of it waited or its lock was held (R317) -/
  pending : Bool
  /-- a notify, or a thaw, has come since its processing last slept: the ring is read (R304) -/
  notified : Bool
  /-- a stall at the ring: its subcause and VA (R304) -/
  ringStall : Option (Nat × Nat)
  packets : List Packet
  deficit : Int
  est : Nat
  /-- the crew last passed over, by launch and place in it, and how many placement decisions have done so (R270) -/
  passed : Option (Nat × Nat)
  passedOver : Nat
  /-- the 256 bytes of its descriptor as its last wake found them (R309) -/
  desc : List Byte
  /-- its scheduling word as the last round of its level found it (R266) -/
  sched : Nat
  deriving DecidableEq, Repr

/-- A queue before its first wake: deficit 0, estimate 1,024 (R269). -/
def QueueSt.fresh : QueueSt :=
  { lock := none, pending := false, notified := false, ringStall := none, packets := [], deficit := 0, est := 1024, passed := none, passedOver := 0,
    desc := [], sched := 0 }

/-- A wake in the event queue: of a queue, or of a graph (R317). -/
inductive Wake where
  | queue (q : Nat)
  | graph (g : Nat)
  deriving DecidableEq, Repr

/-- A launch (R302, R329). -/
structure Launch where
  queue : Nat
  asid : Nat
  priv : Bool
  words : List Word
  /-- feature view (R329), bit k for feature k -/
  view : BitVec 512
  /-- crews placed so far, in crew order (R271) -/
  placed : Nat
  /-- crews ended so far -/
  ended : Nat
  /-- the cause that ended it (R288) -/
  cause : Option (BitVec 8)
  /-- handed back by the placer (R270) -/
  handedBack : Bool
  /-- completed: its signal is done with (R305) -/
  completed : Bool
  /-- its completion has entered the event queue (R317) -/
  told : Bool
  rollbacks : Nat
  /-- its crews have stopped for a rollback (R344 step 1) -/
  rolling : Bool
  /-- snapshots stopped: pool or log full (R342) -/
  noSnapshot : Bool
  /-- ECC unit, core and PA or register number of the error that ended it or rolls it back (R348) -/
  errUnit : Nat
  errCore : Nat
  errAddr : Nat
  /-- graph slot and node, and the number of the replay that it was started in (R320) -/
  node : Option (Nat × Nat)
  replay : Nat
  deriving DecidableEq, Repr

/-- A tile buffer (R272). -/
inductive Buffer where
  | empty
  | claimed
  | full
  deriving DecidableEq, Repr

/-- A graph slot (R319, R320). -/
structure GraphSt where
  registered : Bool
  queue : Nat
  object : DWord
  /-- a replay runs; how many have begun -/
  running : Bool
  replay : Nat
  buffers : List Buffer
  /-- nodes: not started, started, completed -/
  started : List Nat
  completed : List Nat
  /-- ended by a node's cause (R320) -/
  cause : Option (BitVec 8)
  /-- frozen by a failed patch (R320) -/
  frozen : Bool
  /-- kick values that wait: one whose replay has still to begin, and one held behind it or behind a replay that runs (R320) -/
  kicks : List DWord
  /-- its pending bit, and the command core that serves its event (R317) -/
  pending : Bool
  core : Option Nat
  /-- node templates as patched (R320) -/
  patched : List (Nat × List Word)
  deriving DecidableEq, Repr

/-- A graph slot with nothing registered (R319). -/
def GraphSt.fresh : GraphSt :=
  { registered := false, queue := 0, object := 0, running := false, replay := 0, buffers := [], started := [], completed := [],
    cause := none, frozen := false, kicks := [], pending := false, core := none, patched := [] }

/-! ## Ports, reliability, power -/

/-- A request that left through a port and awaits its acknowledgement (R149, R150). -/
structure Outbound where
  ident : Nat
  crew : Nat
  port : Nat
  write : Bool
  address : Nat
  data : List Byte
  /-- an atomic request: ATOM's operation, its data type, operand and comparand, sent as one (R149) -/
  atom : Option (Nat × Nat × DWord × DWord)
  deriving DecidableEq, Repr

/-- What a read or an atomic that arrived through a port returned to the host or peer (R150, R305), or the report that what arrived was
refused at the port (R357). -/
structure Reply where
  port : Nat
  address : Nat
  data : List Byte
  refused : Bool
  deriving DecidableEq, Repr

/-- Bytes of physical memory, or of a crew's scratchpad, as they stood before a write (R55, R131, R132, R142): when they were
overwritten, and how far the write is seen. -/
structure Past where
  at_ : Nat
  /-- the fibre that made the write, where one did, and whether its place in coherence order is settled: an atomic's, or that of a write
  in program order (R97, R134, R145) -/
  by_ : Option FibreId
  fixed : Bool
  /-- the crew whose scratchpad it is; none: physical memory -/
  crew : Option Nat
  /-- the first byte's physical address, or its offset from the crew's first scratchpad byte -/
  pa : Nat
  old : List Byte
  /-- which key the bytes overwritten stood under, by 64-byte line from the first byte's: ASID + 1, 0 where none (R130) -/
  keys : List Nat
  /-- the fibres that the write happens-before, its writer among them; none: every fibre (R139) -/
  known : Option (List FibreId)
  /-- fibres whose reads have returned the write (R132) -/
  seen : List FibreId
  /-- cores a fibre of which has read it past L1 (R128) -/
  cores : List Nat
  /-- numbers of the releases that cover the write (R139) -/
  rels : List Nat
  /-- the releases in whose release sequences the write stands (R138, R145) -/
  tags : List Tag
  deriving DecidableEq, Repr

/-- A plain load whose registers no instruction has used since (`Fibre.late`): it may yet return a later write (R134). -/
structure Early where
  fibre : FibreId
  /-- the bytes loaded: their physical address, or their offset in the crew's scratchpad -/
  scratch : Bool
  place : Nat
  len : Nat
  asid : Nat
  enc : Bool
  /-- register and size code of the load (R163); of an LDX, 4 or 8 bytes to which register images apply (R166) -/
  reg : Nat
  size : BitVec 3
  image : Bool
  deriving DecidableEq, Repr

/-- What the order of accesses rests on beside the writes themselves (R137 to R146): the model's own record. -/
structure Sync where
  /-- releases made so far -/
  count : Nat
  /-- the release fences that each fibre's later writes carry (R137, R138) -/
  fenced : List (FibreId × Tag)
  /-- the releases whose writes a fibre's reads have returned, and the step of the latest such read (R138) -/
  heard : List (FibreId × Tag × Nat)
  /-- full fences, in their total order (R144) -/
  fulls : List Tag
  /-- releases carried by the engine's fill of a granule, by crew and granule (R154) -/
  fills : List ((Nat × Nat) × List Tag)
  /-- releases carried by the write that a bench register holds, by crew and register (R138, R142) -/
  bench : List ((Nat × Nat) × List Tag)
  early : List Early
  deriving DecidableEq, Repr

/-- Nothing released, heard or awaited. -/
def Sync.fresh : Sync := { count := 0, fenced := [], heard := [], fulls := [], fills := [], bench := [], early := [] }

/-- Registers of the always-on domain (R356, R311). -/
structure AonRegs where
  /-- registers 0x000 to 0x028 -/
  bases : List DWord
  ringN : Nat
  producer : DWord
  /-- other registers written, by offset from 0x8_0000_0000_0000 (R356) -/
  other : List (Nat × DWord)
  /-- bring-up steps done, 0 to 6 (R357) -/
  bringUp : Nat
  /-- the peer port, 0 to 15, that each peer aperture is bound to; 255: none (R354) -/
  peers : List Nat
  /-- capacities of the CXL expanders in port order, each rounded up to 1 GiB (R355) -/
  expanders : List Nat
  deriving DecidableEq, Repr

/-- Storage that holds an uncorrectable error (R337). -/
inductive Poison where
  | register (crew fibre reg : Nat)
  | sticky (crew fibre reg : Nat)
  | scratch (crew word : Nat)
  | acc (crew element : Nat)
  | l2 (sector : Nat)
  | dram (dword : Nat)
  deriving DecidableEq, Repr

/-- Errors, fences, keys (R337 to R350). -/
structure Reliability where
  /-- uncorrectable errors in place, and single-bit errors in place -/
  poison : List Poison
  correctable : List Poison
  fenced : List HwUnit
  underTest : List HwUnit
  /-- sequence number of the next log entry (R348) -/
  errSeq : DWord
  /-- ASIDs whose key exists (R350) -/
  keys : List Nat
  /-- attestation reports given (R349) -/
  reports : List (List Byte)
  /-- module resets so far -/
  resets : Nat
  deriving DecidableEq, Repr

/-- Clocks in MHz of the 32 islands, power cap in watts, dies at their thermal limit (R352, R353). -/
structure Power where
  islands : List Nat
  cap : Nat
  hot : List Nat
  deriving DecidableEq, Repr

/-! ## Moves -/

/-- The arguments of an event. Each event reads those that its description names. -/
structure EvArg where
  n : Nat := 0
  m : Nat := 0
  v : DWord := 0
  unit : UnitId := { crew := 0, kind := .gang 0 0 }
  hw : HwUnit := .core 0
  nonce : BitVec 256 := 0
  bytes : List Byte := []
  deriving DecidableEq, Repr

/-- Whose move the step makes. -/
inductive Turn where
  /-- a unit issues; the prefix of the instruction it issues, once that is known (R46, R51) -/
  | issue (u : UnitId) (pf : Prefix)
  | event (i : Instr) (a : EvArg)
  deriving DecidableEq, Repr

/-- A Kraunros 960 module. -/
structure State where
  /-- the model's own: steps made so far -/
  now : Nat
  /-- the model's own: whose move comes next; none: one of the enabled moves -/
  turn : Option Turn
  /-- the model's own: inputs from outside not yet taken, in order -/
  inbox : List (Instr × EvArg)
  /-- the model's own: free values drawn so far -/
  draws : Nat
  /-- the model's own: the first step since the last module reset -/
  epoch : Nat
  /-- physical memory, sparse (R99) -/
  mem : List Host.Cell
  /-- generations by 16 ASID + die, dies 0 to 7 the base dies and 8 the I/O die; sparse, 0 where unlisted (R105) -/
  gens : List (Nat × Nat)
  /-- descriptors in force by ASID (R102) -/
  spaces : List (Nat × Option SpaceDesc)
  /-- trap-table blocks in force by ASID: 512 bytes each (R283) -/
  traps : List (Nat × Option (List Byte))
  cores : List (Nat × CoreSt)
  crews : List Crew
  launches : List Launch
  queues : List (Nat × QueueSt)
  /-- the event queue of the command cores, oldest first, at most one wake of each queue and graph (R317) -/
  wakes : List Wake
  graphs : List (Nat × GraphSt)
  parts : List Part
  partials : List Partial
  /-- which address space's key encrypts a 64-byte line of an ENC page: ASID + 1; sparse, 0 where none (R130) -/
  encOwner : List (Nat × Nat)
  bumps : List Bump
  /-- valid 64-byte sectors of the L2 slices by line number, and whether each is dirty; sparse (R129). The home's value of a
  byte is that of `mem`. -/
  l2 : List (Nat × Option Bool)
  /-- sectors that a stream store has marked as the next to be replaced (R164) -/
  l2Next : List Nat
  /-- overwritten bytes of memory and of scratchpads that some fibre or fetch may still see, newest first (R55, R134, R142) -/
  past : List Past
  pastScr : List Past
  /-- the model's own: what orders the accesses of fibres (R137 to R146) -/
  sync : Sync
  outbound : List Outbound
  /-- answers given to reads and atomics that came in through ports, in order -/
  replies : List Reply
  aon : AonRegs
  rel : Reliability
  power : Power
  /-- round-robin pointers of the four priority levels (R268) -/
  pointers : List Nat
  deriving DecidableEq, Repr

/-- Nominal clocks (R352): islands 3c and 3c + 1 at 1,400 MHz, 3c + 2 at 2,800 MHz, base dies at 1,400 MHz. -/
def nominalIslands : List Nat :=
  (List.range 32).map fun i => if i < 24 ∧ i % 3 = 2 then 2800 else 1400

/-- The module right after reset (R123, R357, R358): no crew, queue, launch or graph, every generation 0, no fence, every
LOCK clear. What the spec gives no reset value for is named in logs 1 to 3. -/
def State.reset : State :=
  { now := 0, turn := none, inbox := [], draws := 0, epoch := 0, mem := [], gens := [], spaces := [], traps := [], cores := [], crews := [],
    launches := [], queues := [], wakes := [], graphs := [], parts := [], partials := [], encOwner := [], bumps := [], l2 := [], l2Next := [], past := [],
    pastScr := [], sync := Sync.fresh, outbound := [], replies := [],
    aon := { bases := List.replicate 6 0, ringN := 0, producer := 0, other := [], bringUp := 0, peers := [], expanders := [] },
    rel := { poison := [], correctable := [], fenced := [], underTest := [], errSeq := 0, keys := [], reports := [],
             resets := 0 },
    power := { islands := nominalIslands, cap := 3200, hot := [] },
    pointers := [0, 0, 0, 0] }

end Sys2Proof.Machine
end

