-- ==== Sys2Proof/Machine/Memory.lean ====
section
/-!
DEFINITION. Sparse storage in canonical form, and the bytes and little-endian words of physical memory (00 R2; 06 R99).
A sparse list is kept strictly rising by key and lists no entry equal to what an unlisted key reads as.
-/
namespace Sys2Proof.Machine

/-! ## Sparse lists -/

/-- What key `n` holds; `d` where nothing is listed. -/
def sget {α : Type} (d : α) : List (Nat × α) → Nat → α
  | [], _ => d
  | (k, v) :: r, n => if n < k then d else if n = k then v else sget d r n

/-- Key `n` made to hold `x`, in canonical form. -/
def sset {α : Type} [DecidableEq α] (d : α) (n : Nat) (x : α) : List (Nat × α) → List (Nat × α)
  | [] => if x = d then [] else [(n, x)]
  | (k, v) :: r =>
    if n < k then (if x = d then (k, v) :: r else (n, x) :: (k, v) :: r)
    else if n = k then (if x = d then r else (n, x) :: r)
    else (k, v) :: sset d n x r

/-- Every key of the list is above `n` and the list is canonical. -/
def swfFrom {α : Type} [DecidableEq α] (d : α) : Nat → List (Nat × α) → Bool
  | _, [] => true
  | n, (k, v) :: r => decide (n ≤ k) && decide (v ≠ d) && swfFrom d (k + 1) r

/-- The canonical form. -/
def swf {α : Type} [DecidableEq α] (d : α) (l : List (Nat × α)) : Bool := swfFrom d 0 l

/-! ## Numbers and bytes -/

/-- The number of a little-endian list of bytes (R2). -/
def leNat : List Byte → Nat
  | [] => 0
  | b :: r => b.toNat + 256 * leNat r

/-- The `n` little-endian bytes of a number (R2). -/
def leBytes : Nat → Nat → List Byte
  | 0, _ => []
  | n + 1, v => BitVec.ofNat 8 v :: leBytes n (v / 256)

/-- A word from four little-endian bytes. -/
def leWord (l : List Byte) : Word := BitVec.ofNat 32 (leNat l)
/-- A doubleword from eight little-endian bytes. -/
def leDWord (l : List Byte) : DWord := BitVec.ofNat 64 (leNat l)

/-- Bits `[lo + len - 1 : lo]` of a number (R2). -/
def bitsAt (v lo len : Nat) : Nat := v / 2 ^ lo % 2 ^ len

/-! ## Bytes of a sparse store -/

/-- What a byte of memory that nothing has written reads as. DESIGN CHOICE, log 1: the spec leaves it undefined. -/
def blankByte : Byte := 0

/-- Byte `a`. -/
def getByte (m : List Host.Cell) (a : Nat) : Byte := sget blankByte m a

/-- `n` bytes from `a`. -/
def getBytes (m : List Host.Cell) (a : Nat) : Nat → List Byte
  | 0 => []
  | n + 1 => getByte m a :: getBytes m (a + 1) n

/-- Bytes stored from `a`. -/
def putBytes (m : List Host.Cell) (a : Nat) : List Byte → List Host.Cell
  | [] => m
  | b :: r => putBytes (sset blankByte a b m) (a + 1) r

/-- A byte store. -/
abbrev Memory := List Host.Cell

/-- The canonical form of a byte store. -/
def Memory.wf (m : Memory) : Bool := swf blankByte m

/-! ## Physical memory of the module -/

/-- What a byte of physical memory that nothing has written since the last module reset holds: 0 before the first (DESIGN CHOICE,
log 1), and a free value after one (R358). -/
def State.blankAt (s : State) (pa : Nat) : Byte := if s.rel.resets = 0 then blankByte else Config.resetByte s.rel.resets pa
/-- Bytes from `pa` as `mem` lists them, which is by how each differs from what it holds where nothing has written it; and back. -/
def State.masked (s : State) (pa : Nat) (bs : List Byte) : List Byte :=
  if s.rel.resets = 0 then bs else bs.mapIdx fun i b => b ^^^ s.blankAt (pa + i)
/-- Byte of physical memory. -/
def State.byte (s : State) (pa : Nat) : Byte := (s.masked pa [getByte s.mem pa]).headD 0
/-- `n` bytes of physical memory from `pa`. -/
def State.bytes (s : State) (pa n : Nat) : List Byte := s.masked pa (getBytes s.mem pa n)
/-- Which keys the 64-byte lines of a range stand under, from the first byte's: ASID + 1, 0 where none (R130). -/
def State.keysAt (s : State) (pa n : Nat) : List Nat :=
  (List.range ((pa % 64 + n + 63) / 64)).map fun i => sget 0 s.encOwner (pa / 64 + i)
/-- The record of bytes of physical memory about to be overwritten by an agent whose write every fibre is bound to see (R55, R132). -/
def State.before (s : State) (pa n : Nat) : Past :=
  { at_ := s.now, by_ := none, fixed := true, crew := none, pa := pa, old := s.bytes pa n, keys := s.keysAt pa n, known := none, seen := [],
    cores := [], rels := [], tags := [] }
/-- Bytes stored to physical memory; what they replace is kept for those who may still see it. -/
def State.store (s : State) (pa : Nat) (bs : List Byte) : State :=
  { s with mem := putBytes s.mem pa (s.masked pa bs), past := s.before pa bs.length :: s.past }
/-- A 64-bit word stored to physical memory. -/
def State.store64 (s : State) (pa v : Nat) : State := s.store pa (leBytes 8 v)
/-- A 32-bit word stored to physical memory. -/
def State.store32 (s : State) (pa v : Nat) : State := s.store pa (leBytes 4 v)

/-! ## Parts of the module's state by number -/

/-- Core `n` (numbered as %core). -/
def State.coreAt (s : State) (n : Nat) : CoreSt := sget CoreSt.reset s.cores n
/-- Core `n` changed. -/
def State.modCore (s : State) (n : Nat) (f : CoreSt → CoreSt) : State :=
  { s with cores := sset CoreSt.reset n (f (s.coreAt n)) s.cores }
/-- Crew `c`. -/
def State.crew? (s : State) (c : Nat) : Option Crew := s.crews[c]?
/-- Crew `c` changed. -/
def State.modCrew (s : State) (c : Nat) (f : Crew → Crew) : State := { s with crews := s.crews.modify c f }
/-- Launch `l` changed. -/
def State.modLaunch (s : State) (l : Nat) (f : Launch → Launch) : State := { s with launches := s.launches.modify l f }
/-- Queue `q`. -/
def State.queueAt (s : State) (q : Nat) : QueueSt := sget QueueSt.fresh s.queues q
/-- Queue `q` changed. -/
def State.modQueue (s : State) (q : Nat) (f : QueueSt → QueueSt) : State :=
  { s with queues := sset QueueSt.fresh q (f (s.queueAt q)) s.queues }
/-- Graph slot `g`. -/
def State.graphAt (s : State) (g : Nat) : GraphSt := sget GraphSt.fresh s.graphs g
/-- Graph slot `g` changed. -/
def State.modGraph (s : State) (g : Nat) (f : GraphSt → GraphSt) : State :=
  { s with graphs := sset GraphSt.fresh g (f (s.graphAt g)) s.graphs }
/-- The generation that die `d` holds for an address space (R105). -/
def State.genAt (s : State) (asid d : Nat) : Nat := sget 0 s.gens (16 * asid + d)
/-- A number for an operation that begins at this step, larger than those of earlier steps, with room for more in one step. -/
def State.tick (s : State) : Nat := 8192 * s.now
/-- A free value's turn: the next number to draw with. -/
def State.draw (s : State) : State := { s with draws := s.draws + 1 }

/-! ## The event queue of the command cores (R317) -/

/-- An event: a wake of its queue or graph enters the event queue; where one stands there, or the queue or graph is being served, its
pending bit is set (R317). -/
def State.post (s : State) (w : Wake) : State :=
  match w with
  | .queue q =>
    if s.wakes.contains w ∨ (s.queueAt q).lock.isSome = true then s.modQueue q fun x => { x with pending := true }
    else { s with wakes := s.wakes ++ [w] }
  | .graph g =>
    if s.wakes.contains w ∨ (s.graphAt g).core.isSome = true then s.modGraph g fun x => { x with pending := true }
    else { s with wakes := s.wakes ++ [w] }

/-! ## Words of packets (R301, R302, R314) -/

/-- Word `i` of a packet's words. -/
def pw (ws : List Word) (i : Nat) : Nat := (ws.getD i 0).toNat
/-- The 64-bit field at word `i`. -/
def pd (ws : List Word) (i : Nat) : Nat := pw ws i + 2 ^ 32 * pw ws (i + 1)
/-- TYPE, BARRIER, SIGNAL, TAG of a header. -/
def pktType (ws : List Word) : Nat := bitsAt (pw ws 0) 1 7
def pktBarrier (ws : List Word) : Bool := bitsAt (pw ws 0) 8 1 == 1
def pktSignal (ws : List Word) : Bool := bitsAt (pw ws 0) 9 1 == 1
def pktTag (ws : List Word) : Nat := bitsAt (pw ws 0) 16 16
/-- The completion signal's VA, at 0x28 of every type. -/
def pktSignalVa (ws : List Word) : Nat := pd ws 10
/-- A LAUNCH's crews in x, y and z, fibres per crew, placement mode. -/
def pktX (ws : List Word) : Nat := pw ws 5
def pktY (ws : List Word) : Nat := bitsAt (pw ws 6) 0 16
def pktZ (ws : List Word) : Nat := bitsAt (pw ws 6) 16 16
def pktFibres (ws : List Word) : Nat := bitsAt (pw ws 7) 0 11
def pktMode (ws : List Word) : Nat := bitsAt (pw ws 1) 0 3
/-- PROTECTED and PAIRED of a LAUNCH. -/
def pktProtected (ws : List Word) : Bool := bitsAt (pw ws 1) 10 1 == 1
def pktPaired (ws : List Word) : Bool := bitsAt (pw ws 1) 8 1 == 1
/-- Crews of a LAUNCH. -/
def pktCrews (ws : List Word) : Nat := pktX ws * pktY ws * pktZ ws
/-- Bound gangs of each of its crews (R22). -/
def pktGangs (ws : List Word) : Nat := (pktFibres ws + 31) / 32

/-- The condition of a WAITSIG on its signal's value. -/
def waitsigHolds (ws : List Word) (v : DWord) : Bool :=
  let c := BitVec.ofNat 64 (pd ws 4)
  match bitsAt (pw ws 1) 0 2 with
  | 0 => v == c
  | 1 => v != c
  | 2 => decide (v.toInt < c.toInt)
  | _ => decide (c.toInt ≤ v.toInt)

end Sys2Proof.Machine
end

