-- ==== Sys2Proof/Machine/Coherence.lean ====
section
/-!
DEFINITION. Coherence: the writes of a location that a fibre is bound to see, releases and the writes that carry them, and what a
read may return (09 R131 to R145). Memory and scratchpad hold the newest value of every byte; the coherence order is that of the steps
that wrote, but that a write may enter it just before the newest one, where its fibre need not see that one (DESIGN CHOICE, log 5). The
older values that some fibre may still read stand in `past` and `pastScr`.
-/
namespace Sys2Proof.Machine

/-! ## Records of writes -/

/-- Two ranges share a byte. -/
def meetsRange (a n b m : Nat) : Bool := decide (a < b + m) && decide (b < a + n)

/-- The write is to a byte. -/
def Past.covers (e : Past) (a : Nat) : Bool := decide (e.pa ≤ a) && decide (a < e.pa + e.old.length)

/-- The write is to a byte of a range, of physical memory or of a crew's scratchpad. -/
def Past.meets (e : Past) (crew : Option Nat) (pa n : Nat) : Bool := e.crew == crew && meetsRange pa n e.pa e.old.length

/-- The write happens-before what a fibre does now (R139). -/
def Past.knownTo (e : Past) (q : FibreId) : Bool :=
  match e.known with
  | none => true
  | some ks => ks.contains q

/-- The write comes to happen-before what a fibre does. -/
def Past.learn (q : FibreId) (e : Past) : Past := { e with known := e.known.map (·.insert q) }

/-- A fibre on a core has read the write, or past L1, which binds its core's fibres (R128, R132). -/
def Past.read (q : FibreId) (core : Option Nat) (e : Past) : Past :=
  { e with seen := e.seen.insert q, cores := match core with
    | some c => e.cores.insert c
    | none => e.cores }

/-- Steps within which a write becomes visible to every fibre (R26, R140: finite time). DESIGN CHOICE, log 5. -/
def visibleWithin : Nat := 4096

/-- A fibre on a core may still read what stood before the write: it neither knows of it, nor has it or a fibre of its core read
it. -/
def Past.missable (e : Past) (now core : Nat) (q : FibreId) : Bool :=
  !e.knownTo q && !e.seen.contains q && !e.cores.contains core && decide (now < e.at_ + visibleWithin)

/-- Bytes of a range as they stood before a write. -/
def Past.undo (pa : Nat) (bs : List Byte) (e : Past) : List Byte :=
  bs.mapIdx fun i b => if e.covers (pa + i) then e.old.getD (pa + i - e.pa) b else b

/-! ## What a read returns (R132, R133) -/

/-- What a read found of the writes to a range: the records after it, the writes missed, newest first, and the releases carried by
those whose bytes it returned. -/
structure Look where
  after  : List Past
  missed : List Past
  tags   : List Tag

/-- A read of `n` bytes from `pa` meets their writes, newest first. It may miss a write where it has missed every newer one that
shares a byte with it there, so that no read goes back in coherence order (R132) and each write is seen whole or not at all (R133);
`bits` says which of them it misses. -/
def lookAt (crew : Option Nat) (pa n : Nat) (miss : Past → Bool) (see : Past → Past) : Nat → List Past → List Past → Look
  | _, _, [] => { after := [], missed := [], tags := [] }
  | bits, found, e :: r =>
    if ¬ e.meets crew pa n then
      let x := lookAt crew pa n miss see bits found r
      { x with after := e :: x.after }
    else if miss e ∧ bits % 2 = 1 ∧ found.all (fun f => (List.range n).all fun i => !(f.covers (pa + i) && e.covers (pa + i))) = true then
      let x := lookAt crew pa n miss see (bits / 2) found r
      { x with after := e :: x.after, missed := e :: x.missed }
    else
      let x := lookAt crew pa n miss see (bits / 2) (e :: found) r
      let supplies := (List.range n).any fun i => e.covers (pa + i) && found.all fun f => !f.covers (pa + i)
      { x with after := (if supplies then see e else e) :: x.after, tags := (if supplies then e.tags else []) ++ x.tags }

/-- The releases carried by the newest bytes of a range. -/
def newestTags (crew : Option Nat) (pa n : Nat) (es : List Past) : List Tag := (lookAt crew pa n (fun _ => false) id 0 [] es).tags

/-! ## Releases, and the writes that carry them (R137, R138, R145) -/

/-- The fibres of the other copy of a pair that run what a fibre runs: a write of the pair is theirs as it is the fibre's own (R159). -/
def State.twinsOf (s : State) (q : FibreId) : List FibreId :=
  match (s.crews[q.1]?).bind fun k => k.pair.bind fun p => (k.fibres[q.2]?).map fun f => (p.partner, f) with
  | none => []
  | some (c, f) => match s.crews[c]? with
    | none => []
    | some k => (k.fibres.zipIdx.filter fun x => x.1.live && x.1.bound == f.bound && x.1.home == f.home && x.1.ident == f.ident).map fun x => (c, x.2)

/-- A fibre and its twins: of an unpaired crew the fibre alone. -/
def State.withTwins (s : State) (q : FibreId) : List FibreId := q :: s.twinsOf q

/-- The releases that a fibre's writes carry: those of its release fences (R138). -/
def State.carries (s : State) (q : FibreId) : List Tag := (s.sync.fenced.filter fun x => x.1 == q).map Prod.snd

/-- A release by a fibre at a scope: it covers every write that happens-before it (R139), on whichever copy of a pair (R159). -/
def State.release (s : State) (scope : Nat) (q : FibreId) : State × Tag :=
  let t : Tag := { id := s.sync.count, by_ := q, scope := scope }
  let qs := s.withTwins q
  let cover := fun e : Past => if e.known.isSome && qs.any e.knownTo then { e with rels := t.id :: e.rels } else e
  ({ s with past := s.past.map cover, pastScr := s.pastScr.map cover, sync := { s.sync with count := s.sync.count + 1 } }, t)

/-- How a write stands in the order of accesses: the fibre that makes it, where it is a fibre's own; fibres that are bound to see it
with the writer; the scope of the release that it is (R137); whether it is a read-modify-write (R145), or one of a fibre's writes that
keep their order (R97); and releases that it carries
beside those of its fibre's fences. -/
structure Mark where
  who     : Option FibreId := none
  also    : List FibreId := []
  release : Option Nat := none
  rmw     : Bool := false
  fixed   : Bool := false
  tags    : List Tag := []
  deriving DecidableEq, Repr

/-- The record of a write by its mark: bytes `old` of memory or of a crew's scratchpad about to be overwritten. -/
def State.record (s : State) (m : Mark) (crew : Option Nat) (pa : Nat) (old : List Byte) : Past :=
  let mine := (m.who.map s.withTwins).getD []
  { at_ := s.now, by_ := m.who, fixed := m.rmw || m.fixed, crew := crew, pa := pa, old := old, keys := if crew.isSome then [] else s.keysAt pa old.length,
    known := m.who.map fun _ => mine ++ m.also, seen := [], cores := [], rels := [],
    tags := m.tags ++ mine.flatMap s.carries
      ++ if m.rmw then newestTags crew pa old.length (if crew.isSome then s.pastScr else s.past) else [] }

/-- The release that a release write makes first, added to what it carries. -/
def State.releasing (s : State) (m : Mark) : State × Mark :=
  match m.who, m.release with
  | some q, some scope => match s.release scope q with
    | (s, t) => (s, { m with tags := t :: m.tags, release := none })
  | _, _ => (s, m)

/-- The core that a fibre's crew is on. -/
def State.coreOf (s : State) (q : FibreId) : Nat := ((s.crews[q.1]?).map Crew.core).getD 0

/-- The newest write to a range, before which a write of a mark to the same range may enter coherence order: another fibre's, that the
writer need not see yet; neither of the two an atomic's or kept in program order (R132, R134). -/
def State.mayPrecede (s : State) (m : Mark) (crew : Option Nat) (pa n : Nat) : Option Past :=
  match m.who, (if crew.isSome then s.pastScr else s.past).find? fun e => e.meets crew pa n with
  | some q, some e =>
    if e.pa = pa ∧ e.old.length = n ∧ e.by_.isSome = true ∧ e.fixed = false ∧ m.rmw = false ∧ m.fixed = false
        ∧ e.keys = (if crew.isSome then [] else s.keysAt pa n) ∧ e.missable s.now (s.coreOf q) q = true then some e
    else none
  | _, _ => none

/-- A write of a mark that may enter coherence order just before the newest one there: whether it does is free (R134). The newest write
then stands, over the bytes of this one. -/
def State.passUnder (s : State) (m : Mark) (crew : Option Nat) (pa : Nat) (bs : List Byte) : State × Bool :=
  match s.mayPrecede m crew pa bs.length with
  | none => (s, false)
  | some e =>
    if Config.writesSwap s.draws then
      let own := { s.record m crew pa e.old with at_ := e.at_ }
      let place := fun es : List Past => match es.idxOf? e with
        | some i => es.take i ++ { e with old := bs } :: own :: es.drop (i + 1)
        | none => es
      (if crew.isSome then { s.draw with pastScr := place s.pastScr } else { s.draw with past := place s.past }, true)
    else (s.draw, false)

/-- At most 8 bytes, or an engine's, stored to physical memory as one single-copy atomic write of a mark (R133). -/
def State.storeOne (s : State) (m : Mark) (pa : Nat) (bs : List Byte) : State :=
  match s.passUnder m none pa bs with
  | (s, true) => s
  | (s, false) => { s.store pa bs with past := s.record m none pa (s.bytes pa bs.length) :: s.past }

/-- Bytes stored to physical memory with a mark; a fibre's store of 16 bytes is two of 8 (R133). -/
def State.storeAs (s : State) (m : Mark) (pa : Nat) (bs : List Byte) : State :=
  match s.releasing m with
  | (s, m) =>
    if m.who.isSome ∧ 8 < bs.length then (s.storeOne m pa (bs.take 8)).storeOne m (pa + 8) (bs.drop 8) else s.storeOne m pa bs

/-- The record of bytes of a crew's scratchpad about to be overwritten, kept for the crew's other fibres (R142). -/
def State.noteScr (s : State) (m : Mark) (crew off : Nat) (old : List Byte) : State :=
  match s.releasing m with
  | (s, m) =>
    if 8 < old.length then
      { s with pastScr := s.record m (some crew) (off + 8) (old.drop 8) :: s.record m (some crew) off (old.take 8) :: s.pastScr }
    else { s with pastScr := s.record m (some crew) off old :: s.pastScr }

/-- The place of the mark of an engine operation's issue among the records of writes: beyond every location. -/
def issuePlace (order : Nat) : Nat := 2 ^ 60 + order

/-- The issue of an engine operation by a fibre, kept as a record of no bytes, so that what it happens-before is told (R139, R150). -/
def State.noteIssue (s : State) (q : FibreId) (order : Nat) : State :=
  { s with pastScr := { s.record { who := some q } (some q.1) (issuePlace order) [] with tags := [] } :: s.pastScr }

/-- The releases that the writes of an engine operation of fibres carry, as it issues: their fences', and for a scratchpad destination,
whose landing synchronises like an STS fill (R154), one of crew scope for each. The issue is noted. -/
def State.issueTags (s : State) (scratch : Bool) (order : Nat) : List FibreId → State × List (List Tag)
  | [] => (s, [])
  | q :: qs =>
    let own := s.carries q
    match (if scratch then (match s.release 1 q with
        | (s, t) => (s, t :: own)) else (s.noteIssue q order, own)) with
    | (s, ts) => match s.issueTags scratch order qs with
      | (s, r) => (s, ts :: r)

/-- An engine operation of a crew issued again: what its issue happens-before is told of its new place in the order of issue (R150). -/
def State.renote (s : State) (c old new : Nat) : State :=
  { s with pastScr := s.pastScr.flatMap fun e =>
      if e.crew == some c && e.pa == issuePlace old && old != new then [e, { e with pa := issuePlace new }] else [e] }

/-- The issue of a crew's engine operation happens-before what one of some fibres does. -/
def State.issueKnown (s : State) (c order : Nat) (qs : List FibreId) : Bool :=
  s.pastScr.any fun e => e.crew == some c && e.pa == issuePlace order && qs.any e.knownTo

/-- Scratchpad bytes written by an engine: what stood there before is seen no more (R154). -/
def State.settleScr (s : State) (c off n : Nat) : State :=
  { s with pastScr := s.pastScr.filter fun e => !e.meets (some c) off n }

/-- Scratchpad bytes of a crew about to be overwritten by an engine's landing, which every fibre is bound to see and which carries
releases as a full-setting STS does (R138, R154). -/
def State.landScr (s : State) (c off : Nat) (ts : List Tag) (old : List Byte) : State :=
  let t := s.settleScr c off old.length
  { t with pastScr := s.record { tags := ts } (some c) off old :: t.pastScr }

end Sys2Proof.Machine
end

