-- ==== Sys2Proof/Machine/Numerics.lean ====
section
/-!
DEFINITION. Number formats, rounding, carried forms, NaN payloads and the special functions (13 R192 to R210), over exact
values: a sign, a whole number and a power of two.
-/
namespace Sys2Proof.Machine

/-- An exact value. A NaN is held in its FP32 form (R208); a zero keeps its sign. -/
inductive Num where
  | nan (w : Word)
  | inf (neg : Bool)
  /-- ± m × 2^e -/
  | fin (neg : Bool) (m : Nat) (e : Int)
  deriving DecidableEq, Repr

/-- A binary interchange format: exponent bits, fraction bits (R192, R193). -/
structure Fmt where
  ebits : Nat
  fbits : Nat
  deriving DecidableEq, Repr

/-- FP32, BF16, FP16, E4M3 and E5M2 by their codes (R192). -/
def fmtOf : Nat → Fmt
  | 1 => ⟨8, 7⟩
  | 2 => ⟨5, 10⟩
  | 3 => ⟨4, 3⟩
  | 4 => ⟨5, 2⟩
  | _ => ⟨8, 23⟩

/-- The exponent bias of a format. -/
def Fmt.bias (t : Fmt) : Int := 2 ^ (t.ebits - 1) - 1
/-- The exponent of the smallest normal binade. -/
def Fmt.emin (t : Fmt) : Int := 1 - t.bias
/-- Bits of the format. -/
def Fmt.bits (t : Fmt) : Nat := 1 + t.ebits + t.fbits

/-! ## Reading encodings (R193, R194, R208, R223) -/

/-- The quiet FP32 NaN of a sign and top fraction bits. -/
def quietNaN (w : Word) : Word := w ||| 0x00400000

/-- A format's bits as an exact value; `code` 3 is E4M3, whose only NaN is all ones (R193). -/
def decodeFloat (code : Nat) (v : Nat) : Num :=
  let t := fmtOf code
  let f := bitsAt v 0 t.fbits
  let x := bitsAt v t.fbits t.ebits
  let neg := bitsAt v (t.ebits + t.fbits) 1 == 1
  let top := 2 ^ t.ebits - 1
  if code = 3 ∧ x = top ∧ f = 7 then .nan (if neg then 0xFFC00000 else 0x7FC00000)
  else if code ≠ 3 ∧ x = top then
    if f = 0 then .inf neg
    else .nan (BitVec.ofNat 32 ((if neg then 2 ^ 31 else 0) + 255 * 2 ^ 23 + f * 2 ^ (23 - t.fbits)))
  else if x = 0 then .fin neg f (t.emin - t.fbits)
  else .fin neg (2 ^ t.fbits + f) (x - t.bias - t.fbits)

/-- The position of the highest set bit of a number; 0 for 0. -/
def topBit (n : Nat) : Nat := n.log2

/-- An MK8 byte as an exact value (R194). -/
def decodeMk8 (v : Nat) : Num :=
  let neg := bitsAt v 7 1 == 1
  let c := bitsAt v 0 7
  if c = 0 then (if neg then .nan 0x7FC00000 else .fin false 0 0)
  else
    let m := topBit c
    let k := if 2 ≤ m then 2 else m
    let base : Int := if m = 0 then -19 else if m = 1 then -18 else 4 * (m : Int) - 24
    let x := bitsAt c (m - k) k
    let f := bitsAt c 0 (m - k)
    .fin neg (2 ^ (m - k) + f) (base + x - (m - k : Nat))

/-- A register's bits as an exact value in a format of R192 (R223). -/
def interpret (code : Nat) (w : Word) : Num :=
  match code with
  | 5 => decodeMk8 (w.toNat % 256)
  | 6 => let i := (w.setWidth 8).toInt; .fin (decide (i < 0)) i.natAbs 0
  | 7 => .fin (decide (w.toInt < 0)) w.toInt.natAbs 0
  | c => decodeFloat c w.toNat

/-- An FP32 register as an exact value. -/
def f32 (w : Word) : Num := decodeFloat 0 w.toNat

/-! ## Binades and precision (R197) -/

/-- The binade of a nonzero m × 2^e. -/
def binade (m : Nat) (e : Int) : Int := e + topBit m

/-- p_T(e): significant bits that a format's values carry in a binade (R197). -/
def precision (code : Nat) (e : Int) : Int :=
  match code with
  | 5 => if 0 ≤ e then 5 else if -4 ≤ e then 4 else if -8 ≤ e then 3 else if -12 ≤ e then 2 else if -19 ≤ e then 1 else 0
  | 6 => min (max 0 (e + 1)) 8
  | 7 => max 0 (e + 1)
  | c =>
    let t := fmtOf c
    if t.emin ≤ e then t.fbits + 1 else max 0 (e - (t.emin - t.fbits) + 1)

/-- The exponent of the grid that a format's values keep about a value of a binade: the spacing of the extended value set
(R197, R199); below the least positive value, that value. -/
def quantum (code : Nat) (e : Int) : Int :=
  match code with
  | 5 => if e < -19 then -19 else e - precision 5 e + 1
  | 6 => 0
  | 7 => 0
  | c => max e (fmtOf c).emin - (fmtOf c).fbits

/-! ## Rounding (R198, R199) -/

/-- Rounding modes. -/
inductive Mode where
  | rn
  | rz
  | ru
  | rd
  | rna
  deriving DecidableEq, Repr

/-- m × 2^e in units of 2^q: the whole part, and the discarded part with its unit. -/
def onGrid (m : Nat) (e q : Int) : Nat × Nat × Nat :=
  if q ≤ e then (m * 2 ^ (e - q).toNat, 0, 1)
  else (m / 2 ^ (q - e).toNat, m % 2 ^ (q - e).toNat, 2 ^ (q - e).toNat)

/-- The neighbour that a mode chooses on the grid of 2^q, and whether anything was discarded. `odd` tells whether the lower
neighbour is odd. -/
def roundGrid (mode : Mode) (neg : Bool) (odd : Nat → Bool) (m : Nat) (e q : Int) : Nat × Bool :=
  match onGrid m e q with
  | (n, r, u) =>
    let up := match mode with
      | .rn => decide (u < 2 * r) || (decide (2 * r = u) && odd n)
      | .rz => false
      | .ru => decide (r ≠ 0) && !neg
      | .rd => decide (r ≠ 0) && neg
      | .rna => decide (u ≤ 2 * r) && decide (r ≠ 0)
    (if up then n + 1 else n, decide (r ≠ 0))

/-- The lower neighbour n is odd: its lowest significand bit, or for MK8 its code's bit 0, which in the one-bit binades is
the parity of the binade (R195, R199). -/
def oddAt (code : Nat) (e : Int) (n : Nat) : Bool :=
  if code = 5 ∧ precision 5 e = 1 then decide (e % 2 = 1) else decide (n % 2 = 1)

/-- a × 2^x ≤ b × 2^y. -/
def dyLe (a : Nat) (x : Int) (b : Nat) (y : Int) : Bool :=
  if x ≤ y then decide (a ≤ b * 2 ^ (y - x).toNat) else decide (a * 2 ^ (x - y).toNat ≤ b)

/-- The largest finite value of a format: m × 2^e (R192). -/
def largest (code : Nat) : Nat × Int :=
  match code with
  | 3 => (448, 0)
  | 5 => (31, -1)
  | c =>
    let t := fmtOf c
    (2 ^ (t.fbits + 1) - 1, t.bias - t.fbits)

/-- The encoding of n × 2^q in a floating format, which holds it exactly. -/
def encodeFloat (code : Nat) (neg : Bool) (n : Nat) (q : Int) : Nat :=
  let t := fmtOf code
  let s := if neg then 2 ^ (t.ebits + t.fbits) else 0
  if n = 0 then s
  else
    let e := binade n q
    if t.emin ≤ e then
      s + (e + t.bias).toNat * 2 ^ t.fbits + ((onGrid n q (e - t.fbits)).1 - 2 ^ t.fbits)
    else s + (onGrid n q (t.emin - t.fbits)).1

/-- The encoding of n × 2^q in MK8, which holds it exactly (R194). -/
def encodeMk8 (neg : Bool) (n : Nat) (q : Int) : Nat :=
  if n = 0 then 0
  else
    let e := binade n q
    let s := if neg then 128 else 0
    if e = -19 then s + 1
    else if e ≤ -17 then s + 2 + (e + 18).toNat
    else
      let m := ((e + 24) / 4).toNat
      s + 2 ^ m + (e - (4 * (m : Int) - 24)).toNat * 2 ^ (m - 2) + ((onGrid n q (e - (m - 2 : Nat))).1 - 2 ^ (m - 2))

/-- A format's encoding of its largest finite value. -/
def encodeLargest (code : Nat) (neg : Bool) : Nat :=
  if code = 5 then encodeMk8 neg (largest 5).1 (largest 5).2 else encodeFloat code neg (largest code).1 (largest code).2

/-- A format's encoding of an infinity, or of what stands for one: E4M3 has a NaN of the sign, MK8 its only NaN (R200). -/
def encodeInf (code : Nat) (neg : Bool) : Nat :=
  match code with
  | 3 => if neg then 0xFF else 0x7F
  | 5 => 0x80
  | c =>
    let t := fmtOf c
    (if neg then 2 ^ (t.ebits + t.fbits) else 0) + (2 ^ t.ebits - 1) * 2 ^ t.fbits

/-- NarrowNaN (R208): a NaN in FP32 form to a format, the quiet bit forced. -/
def narrowNaN (code : Nat) (w : Word) : Nat :=
  let s := bitsAt w.toNat 31 1
  match code with
  | 0 => (quietNaN w).toNat
  | 1 => (quietNaN w).toNat / 2 ^ 16
  | 2 => s * 2 ^ 15 + 31 * 2 ^ 10 + bitsAt (quietNaN w).toNat 13 10
  | 3 => s * 128 + 127
  | 4 => s * 128 + 31 * 4 + bitsAt (quietNaN w).toNat 21 2
  | 5 => 0x80
  | _ => 0

/-- OverflowResult (R200). -/
def overflowResult (code : Nat) (neg : Bool) (mode : Mode) (sat : Bool) : Nat :=
  let toLargest := sat || (match mode with
    | .rn => false
    | .rna => false
    | .rz => true
    | .ru => neg
    | .rd => !neg)
  if toLargest then encodeLargest code neg else encodeInf code neg

/-- An integer rounded and clamped to INT8 or INT32 (R199, R200): the number, and whether it differs from the value. -/
def roundInt (code : Nat) (mode : Mode) (neg : Bool) (m : Nat) (e : Int) : Int × Bool :=
  let hi : Int := if code = 6 then 127 else 2 ^ 31 - 1
  let lo : Int := if code = 6 then -128 else -2 ^ 31
  let r := roundGrid mode neg (fun n => decide (n % 2 = 1)) m e 0
  let v : Int := if neg then -(r.1 : Int) else r.1
  (max lo (min hi v), r.2 || decide (v < lo) || decide (hi < v))

/-- FinalRound (R199, R200): the bits of a value in a format, and whether they differ from it. -/
def finalRound (x : Num) (code : Nat) (mode : Mode) (sat : Bool) : Nat × Bool :=
  let width := if code = 6 then 8 else 32
  match x with
  | .nan w => (narrowNaN code w, decide (6 ≤ code))
  | .inf neg =>
    if 6 ≤ code then
      let hi : Int := if code = 6 then 127 else 2 ^ 31 - 1
      ((if neg then -hi - 1 else hi) % 2 ^ width |>.toNat, true)
    else if sat then (encodeLargest code neg, true)
    else (encodeInf code neg, code == 3 || code == 5)
  | .fin neg m e =>
    if 6 ≤ code then
      let r := roundInt code mode neg m e
      (r.1 % 2 ^ width |>.toNat, r.2)
    else if m = 0 then (if code = 5 then 0 else encodeFloat code neg 0 0, false)
    else
      let b := binade m e
      let q := quantum code b
      let r := roundGrid mode neg (oddAt code b) m e q
      if dyLe r.1 q (largest code).1 (largest code).2 then
        (if code = 5 then encodeMk8 neg r.1 q else encodeFloat code neg r.1 q, r.2)
      else (overflowResult code neg mode sat, true)

/-- The mode field of R198: modes 1 to 6, with rn.sat as rn that saturates. -/
def modeOf : Nat → Mode × Bool
  | 2 => (.rz, false)
  | 3 => (.ru, false)
  | 4 => (.rd, false)
  | 5 => (.rna, false)
  | 6 => (.rn, true)
  | _ => (.rn, false)

/-- Carry (R201): the FP32 container, and whether it differs from the value. -/
def carry (x : Num) (code : Nat) : Word × Bool :=
  match x with
  | .nan w => (quietNaN w, false)
  | .inf neg => (BitVec.ofNat 32 (encodeInf 0 neg), false)
  | .fin neg m e =>
    if m = 0 then (BitVec.ofNat 32 (encodeFloat 0 neg 0 0), false)
    else
      let b := binade m e
      let q := b - (precision code b + 2) + 1
      match onGrid m e q with
      | (n, r, _) =>
        let n := if r ≠ 0 ∧ n % 2 = 0 then n + 1 else n
        (BitVec.ofNat 32 (encodeFloat 0 neg n q), decide (r ≠ 0))

/-! ## NaNs of invalid operations (R206, R207) -/

/-- h17 of an instruction address (R207). -/
def h17 (a : Nat) : Nat := (a / 2 ^ 2 ^^^ a / 2 ^ 19 ^^^ a / 2 ^ 36) % 2 ^ 17

/-- The NaN that an invalid operation writes in FP32, BF16 or FP16 (R206). -/
def invalidNaN (code lane h : Nat) : Nat :=
  match code with
  | 1 => 0x7FC0 + lane * 2 + bitsAt h 16 1
  | 2 => 0x7E00 + lane * 16 + bitsAt h 13 4
  | _ => 0x7FC00000 + lane * 2 ^ 17 + h

/-! ## Exact arithmetic -/

/-- A signed whole number and exponent as a value; an exact zero takes the sign given. -/
def ofInt (zeroNeg : Bool) (v e : Int) : Num := .fin (if v = 0 then zeroNeg else decide (v < 0)) v.natAbs e

/-- The signed whole number of a sign and magnitude. -/
def signed (neg : Bool) (m : Nat) : Int := if neg then -(m : Int) else m

/-- The exact sum of two finite values: a zero sum of unlike signs is +0, but −0 in rd; of like signs, that sign (R214). -/
def addFin (mode : Mode) (n1 : Bool) (m1 : Nat) (e1 : Int) (n2 : Bool) (m2 : Nat) (e2 : Int) : Num :=
  let e := min e1 e2
  let v := signed n1 m1 * 2 ^ (e1 - e).toNat + signed n2 m2 * 2 ^ (e2 - e).toNat
  ofInt (if n1 == n2 then n1 else mode == .rd) v e

/-- The sum of two values that are not NaNs; none where it is invalid (R214). -/
def addNum (mode : Mode) : Num → Num → Option Num
  | .inf a, .inf b => if a == b then some (.inf a) else none
  | .inf a, _ => some (.inf a)
  | _, .inf b => some (.inf b)
  | .fin n1 m1 e1, .fin n2 m2 e2 => some (addFin mode n1 m1 e1 n2 m2 e2)
  | _, _ => none

/-- The product of two values that are not NaNs; none where it is invalid (R214). -/
def mulNum : Num → Num → Option Num
  | .inf a, .inf b => some (.inf (a != b))
  | .inf a, .fin b m _ => if m = 0 then none else some (.inf (a != b))
  | .fin a m _, .inf b => if m = 0 then none else some (.inf (a != b))
  | .fin n1 m1 e1, .fin n2 m2 e2 => some (.fin (n1 != n2) (m1 * m2) (e1 + e2))
  | _, _ => none

/-- A value with its sign changed. A NaN keeps its own (R213). -/
def negNum : Num → Num
  | .nan w => .nan w
  | .inf a => .inf (!a)
  | .fin a m e => .fin (!a) m e

/-- The first NaN in operand order, in FP32 form (R208). -/
def firstNaN (l : List Num) : Option Word :=
  l.findSome? fun x => match x with
    | .nan w => some w
    | _ => none

/-- The result of an operation rounded once to a floating format (R213, R220): NaN operands first, then invalid cases, then
the exact result. The bits, and whether they are inexact. -/
def roundOp (code : Nat) (mode : Mode) (nan : Nat) (xs : List Num) (r : Option Num) : Nat × Bool :=
  match firstNaN xs with
  | some w => (narrowNaN code w, false)
  | none => match r with
    | none => (nan, true)
    | some v => finalRound v code mode false

/-- FADD, FSUB, FMUL, FFMA on one element (R213). -/
inductive FOp where
  | add
  | sub
  | mul
  | fma
  deriving DecidableEq, Repr

/-- A floating operation on exact operands, rounded once to a format. A difference is the sum with the negated subtrahend, also of zeros
of unlike sign: (-0) - (+0) is -0 and (+0) - (-0) is +0 in every mode (R213, R214; DEDUCED, log 58). -/
def floatOp (op : FOp) (code : Nat) (mode : Mode) (nan : Nat) (x y z : Num) : Nat × Bool :=
  match op with
  | .add => roundOp code mode nan [x, y] (addNum mode x y)
  | .sub => roundOp code mode nan [x, y] (addNum mode x (negNum y))
  | .mul => roundOp code mode nan [x, y] (mulNum x y)
  | .fma => roundOp code mode nan [x, y, z] ((mulNum x y).bind fun p => addNum mode p z)

/-! ## Comparison, minimum and maximum (R215, R216) -/

/-- A value's place in the order of numbers: negative infinity lowest; none for a NaN. -/
def numLt (x y : Num) : Bool :=
  match x, y with
  | .inf a, .inf b => a && !b
  | .inf a, .fin _ _ _ => a
  | .fin _ _ _, .inf b => !b
  | .fin n1 m1 e1, .fin n2 m2 e2 =>
    let e := min e1 e2
    decide (signed n1 m1 * 2 ^ (e1 - e).toNat < signed n2 m2 * 2 ^ (e2 - e).toNat)
  | _, _ => false

/-- Equal as numbers, +0 = −0. -/
def numEq (x y : Num) : Bool :=
  match x, y with
  | .nan _, _ => false
  | _, .nan _ => false
  | _, _ => !numLt x y && !numLt y x

/-- A NaN. -/
def isNaN : Num → Bool
  | .nan _ => true
  | _ => false

/-- The sign of a value. -/
def numNeg : Num → Bool
  | .nan w => w.msb
  | .inf a => a
  | .fin a _ _ => a

/-- The order of FMIN and FMAX: −0 below +0 (R215). -/
def minLt (x y : Num) : Bool := numLt x y || (numEq x y && numNeg x && !numNeg y)

/-- FMIN or FMAX on two encodings of a format with s = 0 (NaN-propagating) or 1 (number-preferring) (R215). -/
def floatMinMax (code : Nat) (isMax num : Bool) (a b : Nat) : Nat :=
  let x := decodeFloat code a
  let y := decodeFloat code b
  match x, y with
  | .nan w, .nan _ => narrowNaN code w
  | .nan w, _ => if num then b else narrowNaN code w
  | _, .nan w => if num then a else narrowNaN code w
  | _, _ => if (if isMax then minLt x y else minLt y x) then b else a

/-! ## Special functions (R209, R210)

exp2, log2, sinpi, cospi and tanh are computed in fixed point with `fracBits` fraction bits, then rounded with a last bit
that marks the value as not exact. PRESUMED, log 14: no FP32 argument's value comes so near a rounding boundary. -/

/-- Fraction bits of the fixed-point computations. -/
def fracBits : Nat := 480
/-- One in fixed point. -/
def fxOne : Nat := 2 ^ fracBits
/-- A fixed-point product. -/
def fxMul (a b : Nat) : Nat := a * b / fxOne

/-- The sum of a series: each term from the one before. -/
def fxSeries (next : Nat → Nat → Nat) : Nat → Nat → Nat → Nat
  | 0, _, _ => 0
  | fuel + 1, k, t => t + fxSeries next fuel (k + 1) (next k t)

/-- The alternating sum of a series with its positive and negative terms apart. -/
def fxAlt (next : Nat → Nat → Nat) : Nat → Nat → Nat → Bool → Nat × Nat
  | 0, _, _, _ => (0, 0)
  | fuel + 1, k, t, pos =>
    let r := fxAlt next fuel (k + 1) (next k t) (!pos)
    if pos then (t + r.1, r.2) else (r.1, t + r.2)

/-- ln 2 = Σ 1 / (k 2^k). -/
def fxLn2 : Nat := (List.range 480).foldl (fun a k => a + fxOne / ((k + 1) * 2 ^ (k + 1))) 0

/-- atan (1 / n) = Σ ± 1 / ((2k + 1) n^(2k + 1)). -/
def fxAtanInv (n : Nat) : Nat :=
  let r := (List.range 210).foldl (fun (a : Nat × Nat × Nat) k =>
    let t := a.2.2 / (2 * k + 1)
    (if k % 2 = 0 then a.1 + t else a.1, if k % 2 = 1 then a.2.1 + t else a.2.1, a.2.2 / (n * n))) (0, 0, fxOne / n)
  r.1 - r.2.1

/-- π = 16 atan (1 / 5) − 4 atan (1 / 239). -/
def fxPi : Nat := 16 * fxAtanInv 5 - 4 * fxAtanInv 239

/-- e^t for 0 ≤ t ≤ 1 in fixed point. -/
def fxExp (t : Nat) : Nat := fxSeries (fun k x => fxMul x t / (k + 1)) 110 0 fxOne

/-- The fixed-point number of m × 2^e, cut. -/
def toFx (m : Nat) (e : Int) : Nat := (onGrid m e (-(fracBits : Int))).1

/-- A fixed-point value as one that is not exact: a last bit is set below it. -/
def stickyFx (neg : Bool) (v : Nat) (scale : Int) : Num := .fin neg (2 * v + 1) (scale - fracBits - 1)

/-- 2^x for finite nonzero x that is not an integer of the exact range: an integer power and a fraction's power. -/
def exp2Num (neg : Bool) (m : Nat) (e : Int) : Num :=
  if 9 ≤ binade m e then (if neg then .fin false 1 (-400) else .fin false 1 400)
  else
    let v := toFx m e
    let w := v / fxOne
    let f := v % fxOne
    if m % 2 ^ (-e).toNat = 0 ∨ 0 ≤ e then .fin false 1 (signed neg (onGrid m e 0).1)
    else if neg then stickyFx false (fxExp (fxMul (fxOne - f) fxLn2)) (-(w : Int) - 1)
    else stickyFx false (fxExp (fxMul f fxLn2)) w

/-- atanh series: Σ z^(2k + 1) / (2k + 1). -/
def fxAtanh (z : Nat) : Nat :=
  let z2 := fxMul z z
  ((List.range 160).foldl (fun (a : Nat × Nat) k => (a.1 + a.2 / (2 * k + 1), fxMul a.2 z2)) (0, z)).1

/-- log2 of m × 2^e, m > 0 and no power of two: of 1 ≤ t < 2 by 2 atanh ((t − 1) / (t + 1)) / ln 2. -/
def log2Num (m : Nat) (e : Int) : Num :=
  let b := binade m e
  let t := toFx m (e - b)
  let frac := 2 * fxAtanh ((t - fxOne) * fxOne / (t + fxOne)) * fxOne / fxLn2
  let v : Int := b * fxOne + frac
  if 0 ≤ v then stickyFx false v.toNat 0 else stickyFx true ((-v).toNat - 1) 0

/-- sin t for 0 ≤ t ≤ π / 2 in fixed point. -/
def fxSin (t : Nat) : Nat :=
  let t2 := fxMul t t
  let r := fxAlt (fun k x => fxMul x t2 / ((2 * k + 2) * (2 * k + 3))) 60 0 t true
  r.1 - r.2

/-- |sin (π x)| for 0 < x < 1 / 2 given as m × 2^e, scaled so that small arguments keep their precision. -/
def sinPiMag (neg : Bool) (m : Nat) (e : Int) : Num :=
  if binade m e < -40 then
    -- below 2^-40, π x (1 − (π x)² / 6) rounds as π x cut just below
    stickyFx neg (m * fxPi - m * fxPi / 2 ^ 60) e
  else stickyFx neg (fxSin (fxMul fxPi (toFx m e))) 0

/-- sinpi of ± m × 2^e (R210): the argument reduced exactly modulo 2. -/
def sinPiNum (neg : Bool) (m : Nat) (e : Int) : Num :=
  if 0 ≤ e then .fin neg 0 0
  else
    let one := 2 ^ (-e).toNat
    let r := m % (2 * one)
    let flip := decide (one ≤ r)
    let r := r % one
    if r = 0 then .fin neg 0 0
    else
      let sgn := neg != flip
      if 2 * r = one then .fin sgn 1 0
      else sinPiMag sgn (if one < 2 * r then one - r else r) e

/-- cospi of ± m × 2^e (R210): sin (π (1/2 − |x|)) after exact reduction. -/
def cosPiNum (m : Nat) (e : Int) : Num :=
  if 0 ≤ e then .fin (decide (e = 0) && decide (m % 2 = 1)) 1 0
  else
    let one := 2 ^ (-e).toNat
    let r := m % (2 * one)
    let r := if one < r then 2 * one - r else r
    if r = 0 then .fin false 1 0
    else if r = one then .fin true 1 0
    else if 2 * r = one then .fin false 0 0
    else if 2 * r < one then
      -- cos (π x) = sin (π (1 / 2 − x))
      if binade r e < -200 then stickyFx false (fxOne - 1) 0
      else sinPiMag false (one - 2 * r) (e - 1)
    else sinPiMag true (2 * r - one) (e - 1)

/-- tanh of ± m × 2^e: 1 − 2 / (e^(2x) + 1). -/
def tanhNum (neg : Bool) (m : Nat) (e : Int) : Num :=
  let b := binade m e
  if b < -13 then .fin neg (m * 2 ^ 60 - 1) (e - 60)
  else if 5 ≤ b then stickyFx neg (fxOne - 1) 0
  else
    let t := toFx m (e - 5)
    let x := fxExp (2 * t)
    let y := (List.range 5).foldl (fun a _ => fxMul a a) x
    stickyFx neg ((y - fxOne) * fxOne / (y + fxOne)) 0

/-- The whole square root of a number below 4^fuel, a bit at a time from the top. -/
def isqrt (n : Nat) : Nat → Nat → Nat
  | 0, r => r
  | fuel + 1, r => let c := r + 2 ^ fuel; isqrt n fuel (if c * c ≤ n then c else r)

/-- The square root of m × 2^e, exact or marked as not exact. -/
def sqrtNum (m : Nat) (e : Int) : Num :=
  let m := if e % 2 = 0 then m else 2 * m
  let e := if e % 2 = 0 then e else e - 1
  let n := m * 2 ^ 128
  let r := isqrt n 90 0
  .fin false (2 * r + (if r * r = n then 0 else 1)) (e / 2 - 64 - 1)

/-- 1 / (m × 2^e), exact or marked as not exact. -/
def rcpNum (neg : Bool) (m : Nat) (e : Int) : Num :=
  let n := 2 ^ 128
  .fin neg (2 * (n / m) + (if n % m = 0 then 0 else 1)) (-e - 128 - 1)

/-- 1 / √(m × 2^e), exact or marked as not exact. -/
def rsqrtNum (m : Nat) (e : Int) : Num :=
  let m := if e % 2 = 0 then m else 2 * m
  let e := if e % 2 = 0 then e else e - 1
  let n := 2 ^ 256 / m
  let r := isqrt n 129 0
  .fin false (2 * r + (if r * r * m = 2 ^ 256 then 0 else 1)) (-(e / 2) - 128 - 1)

/-- FSPF by its code s (R210, R218): the FP32 result and whether it is inexact; `nan` is the NaN of an invalid operation. log2 of
1.0 is +0, of whose sign the table says nothing (DESIGN CHOICE, log 14). -/
def specialFn (s : Nat) (nan : Nat) (a : Word) : Nat × Bool :=
  let inf := fun neg : Bool => encodeInf 0 neg
  let one := 0x3F800000
  let round := fun x : Num => finalRound x 0 .rn false
  match s, f32 a with
  | _, .nan w => ((quietNaN w).toNat, false)
  | 0, .inf n => (if n then 0x80000000 else 0, false)
  | 0, .fin n m e => if m = 0 then (inf n, true) else round (rcpNum n m e)
  | 1, .inf n => if n then (nan, true) else (0, false)
  | 1, .fin n m e => if m = 0 then (inf n, true) else if n then (nan, true) else round (rsqrtNum m e)
  | 2, .inf n => if n then (nan, true) else (inf false, false)
  | 2, .fin n m e => if m = 0 then (a.toNat, false) else if n then (nan, true) else round (sqrtNum m e)
  | 3, .inf n => (if n then 0 else inf false, false)
  | 3, .fin n m e => if m = 0 then (one, false) else round (exp2Num n m e)
  | 4, .inf n => if n then (nan, true) else (inf false, false)
  | 4, .fin n m e =>
    if m = 0 then (inf true, true)
    else if n then (nan, true)
    else if m = 2 ^ topBit m then round (ofInt false (binade m e) 0)
    else round (log2Num m e)
  | 5, .inf _ => (nan, true)
  | 5, .fin n m e => round (sinPiNum n m e)
  | 6, .inf _ => (nan, true)
  | 6, .fin _ m e => if m = 0 then (one, false) else round (cosPiNum m e)
  | _, .inf n => (if n then 0xBF800000 else one, false)
  | _, .fin n m e => if m = 0 then (a.toNat, false) else round (tanhNum n m e)

/-! ## PLRED combinations (R115, R116) -/

/-- The NaN among two FP32 patterns whose quiet-forced pattern is least (R115). -/
def leastNaN (a b : Word) : Option Word :=
  match isNaN (f32 a), isNaN (f32 b) with
  | true, true => some (if (quietNaN a).toNat ≤ (quietNaN b).toNat then quietNaN a else quietNaN b)
  | true, false => some (quietNaN a)
  | false, true => some (quietNaN b)
  | false, false => none

/-- The combination of two values by PLRED's code s, `nan` the NaN of an invalid sum (R115, R116). -/
def plredWith (nan : Nat) (s : Nat) (a b : Word) : Word :=
  match s with
  | 0 => a + b
  | 1 => if a.toInt ≤ b.toInt then a else b
  | 2 => if a.toInt ≤ b.toInt then b else a
  | 3 => if a.toNat ≤ b.toNat then a else b
  | 4 => if a.toNat ≤ b.toNat then b else a
  | 7 => match leastNaN a b with
    | some w => w
    | none => BitVec.ofNat 32 (floatOp .add 0 .rn nan (f32 a) (f32 b) (.fin false 0 0)).1
  | _ => match leastNaN a b with
    | some w => w
    | none => BitVec.ofNat 32 (floatMinMax 0 (s == 6) false a.toNat b.toNat)

end Sys2Proof.Machine
end

