-- ==== Sys2Proof/Machine/Places.lean ====
section
/-!
DEFINITION. Where things lie: the tables that base registers name, the places of physical memory and their homes, the bytes that only
the device writes, and memory as a read finds it, partials merged (06 R99, R102, R114; 08 R129; 21 R310; 24 R356).
-/
namespace Sys2Proof.Machine

/-! ## Base registers and descriptors -/

/-- The table base of a base register whose LOCK is set; none where LOCK = 0: the table is not walked (R356). -/
def State.table? (s : State) (k : Nat) : Option Nat :=
  match s.aon.bases[k]? with
  | some r => if r.toNat % 2 = 1 then some (bitsAt r.toNat 12 40 * 4096) else none
  | none => none

/-- Address of the address-space descriptor of an ASID (R102). -/
def State.spaceAt? (s : State) (asid : Nat) : Option Nat := (s.table? 0).map (· + 64 * asid)

/-! ## Physical places (R99) -/

/-- The 48 bits that a walk is indexed by (R94). -/
def va48 (va : DWord) : Nat := va.toNat % 2 ^ 48

/-- Bytes of a page by its size code (R94). -/
def pageBytes (size : Nat) : Nat := if size = 0 then 2 ^ 16 else if size = 1 then 2 ^ 21 else 2 ^ 30
/-- The physical address of a VA under a translation of its page. -/
def Translation.pa (t : Translation) (va : Nat) : Nat := t.frame + va % pageBytes t.size
/-- The physical address of a buffered word (R131, R159). -/
def BufWord.pa (w : BufWord) : Nat := w.tr.pa (va48 w.va)
/-- The frame lies in the bonded DRAM of a stack. -/
def inDram (pa : Nat) : Bool := decide (pa < 2 ^ 41) && decide (bitsAt pa 36 2 = 0)
/-- The frame lies in the CXL window. -/
def inCxl (pa : Nat) : Bool := decide (0x1000000000000 ≤ pa) && decide (pa < 0x1040000000000)
/-- The frame lies in the MMIO window. -/
def inMmio (pa : Nat) : Bool := decide (0x8000000000000 ≤ pa) && decide (pa < 0x10000000000000)
/-- The stack that a frame names; 0 for CXL and MMIO. -/
def stackOf (pa : Nat) : Nat := if inDram pa then bitsAt pa 38 3 else 0
/-- The channel that a frame names; 0 for CXL and MMIO. -/
def chanOf (pa : Nat) : Nat := if inDram pa then bitsAt pa 31 5 else 0
/-- The die that is home to a frame (R129): its stack's base die, the slice PA[10:8] for CXL, the I/O die for MMIO. -/
def homeDie (pa : Nat) : Nat := if inDram pa then bitsAt pa 38 3 else if inCxl pa then bitsAt pa 8 3 else 8
/-- The die whose generation accepts an access (R105): the I/O die for CXL and MMIO frames. -/
def genDie (pa : Nat) : Nat := if inDram pa then bitsAt pa 38 3 else 8

/-! ## Bytes that only the device writes (R102, R310) -/

/-- A byte of memory that only the device writes: a generation in an address-space descriptor (R102), the status word of a queue
whose descriptor has ENABLE = 1 (R310). While ENABLE = 0 software creates the queue and writes every field (DEDUCED, log 35). The
entries of a dirty-log ring, whose fields R108 marks read-only, are no such bytes: a store by software to one lands as in any memory,
since the ring is reused only once software has consumed it (R5, R108; DEDUCED, log 35). -/
def State.deviceOwned (s : State) (pa : Nat) : Bool :=
  (match s.table? 0 with
    | some t => decide (t ≤ pa) && decide (pa < t + 64 * 4096) && decide (0x10 ≤ (pa - t) % 64) && decide ((pa - t) % 64 < 0x14)
    | none => false)
  || (match s.table? 2 with
    | some t => decide (t ≤ pa) && decide (pa < t + 256 * 4096) && decide (0x18 ≤ (pa - t) % 256) && decide ((pa - t) % 256 < 0x20)
        && (s.byte ((pa - t) / 256 * 256 + t + 0x0B)).getLsbD 7
    | none => false)

/-- The bytes that a write by an agent other than the device leaves in memory: those that only the device writes stay. -/
def State.softBytes (s : State) (pa : Nat) (bs : List Byte) : List Byte :=
  if (List.range bs.length).any fun i => s.deviceOwned (pa + i) then
    bs.mapIdx fun i b => if s.deviceOwned (pa + i) then s.byte (pa + i) else b
  else bs

/-! ## Memory as a read finds it (R114) -/

/-- Bytes of a range with pending partials combined into their elements, as a read that merges them first finds them. -/
def State.freshBytes (s : State) (pa n : Nat) : List Byte :=
  if s.partials.isEmpty then s.bytes pa n
  else
    let a := pa / 4 * 4
    let bs := s.partials.foldl (fun bs p =>
      if p.pa < a ∨ a + bs.length < p.pa + 4 ∨ s.deviceOwned p.pa = true then bs
      else
        let w := plredWith p.nan p.op (leWord ((bs.drop (p.pa - a)).take 4)) p.value
        bs.take (p.pa - a) ++ leBytes 4 w.toNat ++ bs.drop (p.pa - a + 4)) (s.bytes a ((pa % 4 + n + 3) / 4 * 4))
    (bs.drop (pa % 4)).take n
/-- A 32-bit word of physical memory. -/
def State.word32 (s : State) (pa : Nat) : Nat := leNat (s.freshBytes pa 4)
/-- A 64-bit word of physical memory. -/
def State.word64 (s : State) (pa : Nat) : Nat := leNat (s.freshBytes pa 8)

end Sys2Proof.Machine
end

