-- ==== Sys2Proof/Machine/Home.lean ====
section
/-!
DEFINITION. The homes of lines: ownership by engines and placed parts, partials of reduce-state lines, the memory-side L2,
encryption, and errors in memory (06 R113 to R116; 08 R129, R130; 10 R153, R159; 23 R337).
-/
namespace Sys2Proof.Machine

/-! ## Ownership of lines (R153, R113) -/

/-- An engine operation or an accepted placed part owns the physical line: an access that reaches its home is held. -/
def State.owned (s : State) (line : Nat) : Bool :=
  s.crews.any (fun k => k.copies.any (fun j => j.line == some line && j.fault.isNone)
      || k.stores.any fun j => j.lines.contains line)
    || s.parts.any fun p => p.accepted && p.pd / 64 == line

/-- Some of `n` lines from a physical line is owned so. -/
def State.ownedIn (s : State) (line n : Nat) : Bool :=
  let hit := fun l : Nat => decide (line ≤ l) && decide (l < line + n)
  s.crews.any (fun k => k.copies.any (fun j => j.line.any hit && j.fault.isNone) || k.stores.any fun j => j.lines.any hit)
    || s.parts.any fun p => p.accepted && hit (p.pd / 64)

/-- Some engine operation or accepted part may own a line. -/
def State.ownsSome (s : State) : Bool :=
  s.crews.any (fun k => !k.copies.isEmpty || !k.stores.isEmpty) || s.parts.any Part.accepted

/-- An operation earlier in the order of ownership owns the line (R153). -/
def State.ownedBefore (s : State) (line order : Nat) : Bool :=
  s.crews.any (fun k => k.copies.any (fun j => j.line == some line && j.fault.isNone && j.order < order)
      || k.stores.any fun j => j.lines.contains line && j.order < order)
    || s.parts.any fun p => p.accepted && p.pd / 64 == line && p.order < order

/-! ## Encryption (R130) -/

/-- Bytes of an encrypted page of bonded DRAM as an address space sees them: as another space's key leaves them where the line
was last written under that key, which is free. CXL memory is never encrypted. An access without ENC finds the plain bytes, and its
writes leave the line under the key that it had (DESIGN CHOICE, log 10). -/
def State.decrypt (s : State) (asid : Nat) (enc : Bool) (pa : Nat) (bs : List Byte) : List Byte :=
  let o := sget 0 s.encOwner (pa / 64)
  if enc ∧ inDram pa ∧ o ≠ 0 ∧ o ≠ asid + 1 then bs.mapIdx fun i b => Config.foreignKeyByte (o - 1) asid (pa + i) b else bs

/-- The record of a write as an address space sees what the write replaced: decrypted, where its page is encrypted and the bytes stood
under another space's key (R130). -/
def Past.under (asid : Nat) (enc : Bool) (e : Past) : Past :=
  if enc ∧ inDram e.pa then
    { e with old := e.old.mapIdx fun i b =>
        let o := e.keys.getD ((e.pa + i) / 64 - e.pa / 64) 0
        if o ≠ 0 ∧ o ≠ asid + 1 then Config.foreignKeyByte (o - 1) asid (e.pa + i) b else b }
  else e

/-- Before a write for an address space to a line of an encrypted page: what the write leaves of a line under
another space's key has been filled under the writer's, and the line is its own (R130): so is a line that is written whole, for those
who may still see what stood there. -/
def State.takeKey (s : State) (asid : Nat) (enc : Bool) (pa : Nat) : State :=
  if enc ∧ inDram pa then
    let line := pa / 64
    let o := sget 0 s.encOwner line
    let s := if o = 0 ∨ o = asid + 1 then s
      else s.store (64 * line) (s.decrypt asid true (64 * line) (s.bytes (64 * line) 64))
    { s with encOwner := sset 0 line (asid + 1) s.encOwner }
  else s

/-! ## Signals that WAITSIGs wait for (R318) -/

/-- The home of a signal evaluates a WAITSIG's condition after a write of `n` bytes to its line: the watch after it. -/
def State.evaluated (s : State) (pa n : Nat) (ws : List Word) (w : Watch) : Watch :=
  if inMmio w.pa = false ∧ meetsRange pa n (w.pa / 64 * 64) 64 = true
      ∧ waitsigHolds ws (leDWord (s.decrypt w.asid w.enc w.pa (s.freshBytes w.pa 8))) = true then { w with met := true } else w

/-- A write of `n` bytes has been made: each WAITSIG that waits for a signal on a line written is evaluated, and a condition that comes
to hold is an event for its queue (R317, R318). -/
def State.tellSignals (s : State) (pa n : Nat) : State :=
  let tell := fun p : Packet => { p with watched := p.watched.map (s.evaluated pa n p.words) }
  (s.queues.filter fun q => q.2.packets.any fun p => tell p != p).foldl (fun t q =>
    (t.modQueue q.1 fun x => { x with packets := x.packets.map tell }).post (.queue q.1)) s

/-! ## Reduce-state lines (R114, R115) -/

/-- A partial merged into its element in its line's L2 sector, a write of the home's (R130); an invalid sum names its latest
contribution (R114, R116). -/
def State.mergeElement (s : State) (p : Partial) : State :=
  let s := s.takeKey p.asid p.enc p.pa
  (s.storeAs { tags := p.tags }
    p.pa (s.softBytes p.pa (leBytes 4 (plredWith p.nan p.op (leWord (s.bytes p.pa 4)) p.value).toNat))).tellSignals p.pa 4

/-- Every pending partial of a line merged into its element (R114), each no longer pending as it merges: no read from then on combines
it again (R318). -/
def State.mergeLine (s : State) (line : Nat) : State :=
  (s.partials.filter fun p => p.pa / 64 == line).foldl (fun t p => ({ t with partials := t.partials.erase p } : State).mergeElement p) s

/-! ## The memory-side L2 (R129) -/

/-- A sector that its L2 slice holds. -/
def State.l2Valid (s : State) (line : Nat) : Bool := (sget none s.l2 line).isSome

/-- A sector evicted: the partials of its line merge first (R114), and a dirty one is written back, over what its DRAM words held
(R129). What an expander returns as poisoned stays so (R355). -/
def State.evictSector (s : State) (line : Nat) : State :=
  let s := s.mergeLine line
  match sget none s.l2 line with
  | none => s
  | some dirty =>
    let hit := fun p : Poison => match p with
      | .dram x => decide (x / 8 = line) && !inCxl (64 * line)
      | _ => false
    { s with
      l2 := sset none line none s.l2
      l2Next := s.l2Next.filter (· != line)
      rel := if dirty then { s.rel with poison := s.rel.poison.filter fun p => !hit p } else s.rel }

/-- Lines of 256 bytes that a slice of 96 MiB holds in one of its ways, 16 of them (R129; the number of ways is not stated:
DESIGN CHOICE, log 49). -/
def l2WayLines : Nat := 24576

/-- Lines that the slice of a die holds: a way under test or fenced is not allocated (R346). -/
def State.l2Lines (s : State) (die : Nat) : Nat :=
  let out := (s.rel.fenced ++ s.rel.underTest).filter fun u => match u with
    | .l2Way d w => d == die && decide (w < 16)
    | _ => false
  l2WayLines * (16 - out.eraseDups.length)

/-- The sectors that a die's slice holds. -/
def State.l2Of (s : State) (die : Nat) : List Nat := (s.l2.map Prod.fst).filter fun x => homeDie (64 * x) == die

/-- The sectors of the line that a slice gives up next: one that holds a sector marked by a stream store (R164). Which line else it
is the spec leaves open; here the lowest (DESIGN CHOICE, log 49). -/
def State.nextOut (s : State) (die : Nat) : List Nat :=
  let mine := s.l2Of die
  match (mine.find? s.l2Next.contains).orElse fun _ => mine.head? with
  | none => []
  | some x => mine.filter fun y => y / 4 == x / 4

/-- The sectors that leave a slice for a line of 256 bytes that it has no room for. -/
def State.crowdedOut (s : State) (line : Nat) : List Nat :=
  let die := homeDie (64 * line)
  let mine := s.l2Of die
  if mine.any (fun x => x / 4 == line / 4) ∨ ((mine.map (· / 4)).eraseDups.length < s.l2Lines die) then [] else s.nextOut die

/-- A sector allocated for a read or a write of cached memory: a write that covers it whole reads no memory, any other fills it
first, and a DRAM error met by the fill poisons it (R129, R337); poison that a CXL expander returns stays with its doublewords, and each
read of them reports it (R355). MMIO, and pages of MTYPE 2, are never cached (R97). -/
def State.touchSector (s : State) (mtype line : Nat) (write whole : Bool) : State :=
  if inMmio (64 * line) ∨ 2 ≤ mtype then s
  else match sget none s.l2 line with
    | some d => if write && !d then { s with l2 := sset none line (some true) s.l2 } else s
    | none =>
      let s := (s.crowdedOut line).foldl State.evictSector s
      let bad := !whole && !inCxl (64 * line) && s.rel.poison.any fun p => match p with
        | .dram x => decide (x / 8 = line)
        | _ => false
      { s with
        l2 := sset none line (some write) s.l2
        rel := if bad then { s.rel with poison := s.rel.poison ++ [.l2 line] } else s.rel }

/-! ## Contributions -/

/-- A contribution meets the partials of its element: combined into one of the same operation, or beside it as a partial
of its own; a different operation first forces the merge (R114, R115). The line takes its place in the L2, where it is
dirty from then on (R129). -/
def State.contribute (s : State) (p : Partial) : State :=
  let s := s.touchSector 0 (p.pa / 64) true false
  let s := if s.partials.any fun x => x.pa == p.pa && x.op != p.op then s.mergeLine (p.pa / 64) else s
  match s.partials.find? fun x => x.pa == p.pa with
  | none => { s with partials := s.partials ++ [p] }
  | some _ =>
    if Config.newPartial s.draws then { s.draw with partials := s.partials ++ [p] }
    else { s.draw with partials := (s.partials.zipIdx.map fun x =>
      if (s.partials.findIdx? fun y => y.pa == p.pa) == some x.2 then
        { x.1 with value := plredWith p.nan p.op x.1.value p.value, nan := p.nan, tags := p.tags ++ x.1.tags, asid := p.asid, enc := p.enc }
      else x.1) }

/-- A slice with a way less: lines are written back until the rest hold what it keeps (R346). -/
def State.shrinkL2 (s : State) (die : Nat) : Nat → State
  | 0 => s
  | n + 1 =>
    if ((s.l2Of die).map (· / 4)).eraseDups.length ≤ s.l2Lines die then s
    else ((s.nextOut die).foldl State.evictSector s).shrinkL2 die n

/-! ## Errors in memory (R337) -/

/-- The uncorrectable error that a read of `n` bytes would consume: ECC unit and PA. A DRAM word is read only where the L2 does
not hold its sector; poison from a CXL expander is met there too (R355). -/
def State.eccAt (s : State) (pa n : Nat) : Option (Nat × Nat) :=
  if s.rel.poison.contains (.l2 (pa / 64)) then some (3, pa)
  else if s.l2Valid (pa / 64) ∧ ¬ inCxl pa then none
  else (List.range ((n + 7) / 8)).findSome? fun i =>
    if s.rel.poison.contains (.dram (pa / 8 + i)) then some (4, pa) else none

/-- Sectors overwritten whole lose their poison (R337), and so do doublewords of CXL memory, whose poison is their own (R355). -/
def State.cleanSectors (s : State) (pa n : Nat) : State :=
  let hit := fun p : Poison => match p with
    | .l2 x => decide (pa ≤ 64 * x) && decide (64 * x + 64 ≤ pa + n)
    | .dram x => inCxl (8 * x) && decide (pa ≤ 8 * x) && decide (8 * x + 8 ≤ pa + n)
    | _ => false
  if s.rel.poison.any hit then { s with rel := { s.rel with poison := s.rel.poison.filter fun p => !hit p } } else s

/-! ## Reads at a home -/

/-- `n` bytes of one line at its home, pending partials merged first (R114, R129). -/
def State.homeRead (s : State) (asid : Nat) (tr : Translation) (pa n : Nat) :
    State × List Byte :=
  let s := (s.mergeLine (pa / 64)).touchSector tr.mtype (pa / 64) false false
  (s, s.decrypt asid tr.enc pa (s.bytes pa n))

/-- Every line that a range of bytes touches has its pending partials merged (R114). -/
def State.mergeLines (s : State) (pa n : Nat) : State :=
  if s.partials.isEmpty then s
  else (List.range ((pa % 64 + n + 63) / 64)).foldl (fun t i => t.mergeLine (pa / 64 + i)) s

/-! ## Writes by the device itself -/

/-- Bytes written to physical memory by the device for itself, pending partials of their lines merged first (R114). -/
def State.put (s : State) (pa : Nat) (bs : List Byte) : State :=
  ((s.mergeLines pa bs.length).store pa bs).tellSignals pa bs.length
/-- A 64-bit word written by the device. -/
def State.put64 (s : State) (pa v : Nat) : State := s.put pa (leBytes 8 v)
/-- A 32-bit word written by the device. -/
def State.put32 (s : State) (pa v : Nat) : State := s.put pa (leBytes 4 v)

/-- Whole sectors written by the device for itself: no error stands in them, nor in the DRAM words under them, any more (R337). -/
def State.putWhole (s : State) (pa : Nat) (bs : List Byte) : State :=
  let hit := fun p : Poison => match p with
    | .l2 x => decide (pa ≤ 64 * x) && decide (64 * x + 64 ≤ pa + bs.length)
    | .dram x => decide (pa ≤ 8 * x) && decide (8 * x + 8 ≤ pa + bs.length)
    | _ => false
  let t := s.put pa bs
  { t with rel := { t.rel with poison := t.rel.poison.filter fun p => !hit p, correctable := t.rel.correctable.filter fun p => !hit p } }

/-! ## Entries of the error log (R347, R348) -/

/-- Bytes of an entry stored at the error ring's producer index, where the ring's base register is locked (R347, R356). -/
def State.ringEntry (s : State) (bs : List Byte) : State :=
  match s.table? 5 with
  | none => s
  | some base => s.put (base + 32 * (s.aon.producer.toNat % 2 ^ s.aon.ringN)) bs

/-- An entry written to the error ring, and the producer index advanced; nothing is written while the ring's base register
is not locked (R347, R348, R356). -/
def State.logEntry (s : State) (kind unit loc asid queue tag addr : Nat) : State :=
  let s1 := s.ringEntry
    (leBytes 4 (kind + 256 * unit) ++ leBytes 4 loc ++ leBytes 4 (asid + 2 ^ 12 * queue) ++ leBytes 4 tag
      ++ leBytes 8 addr ++ leBytes 8 s.rel.errSeq.toNat)
  { s1 with aon := { s1.aon with producer := s1.aon.producer + 1 }, rel := { s1.rel with errSeq := s1.rel.errSeq + 1 } }

/-- Queue and TAG of a crew's launch, as an entry names them. -/
def State.logNames (s : State) (k : Crew) : Nat × Nat :=
  let l := s.launches[k.desc.launch]?
  ((l.map Launch.queue).getD 0, (l.map fun x => bitsAt (x.words.headD 0).toNat 16 16).getD 0)

/-! ## Paired crews' buffers over memory (R159) -/

/-- A buffered word laid over bytes read from physical address `pa`. -/
def BufWord.laid (w : BufWord) (pa : Nat) (bs : List Byte) : List Byte :=
  let data := match w.plred with
    | none => w.data
    | some (op, nan) => plredWith nan op (leWord ((bs.drop (w.pa - pa)).take 4)) w.data
  if w.plred.isSome ∧ (w.pa < pa ∨ pa + bs.length < w.pa + 4) then bs
  else bs.mapIdx fun i b =>
    let a := pa + i
    if w.pa ≤ a ∧ a < w.pa + 4 ∧ w.mask.getLsbD (a - w.pa) then BitVec.ofNat 8 (data.toNat / 2 ^ (8 * (a - w.pa)))
    else b

/-- Bytes of memory as a paired copy's own loads see them: its buffered writes over what memory holds, by the locations that they
name (R131, R159). -/
def PairHalf.overlay (p : PairHalf) (pa : Nat) (bs : List Byte) : List Byte := p.buffer.foldl (fun bs w => w.laid pa bs) bs

end Sys2Proof.Machine
end

