-- ==== Sys2Proof/Machine/Translate.lean ====
section
/-!
DEFINITION. Two-stage translation, apertures, executors, TLBs, A and D bits, the dirty log, snapshots
(06 R94 to R109; 23 R342, R343; 24 R354 to R356).
-/
namespace Sys2Proof.Machine

/-! ## Descriptors (R102, R283) -/

/-- Bytes 0x00 to 0x0F and the log size of a descriptor as memory holds them (R102). -/
def State.readDesc (s : State) (d : Nat) : SpaceDesc :=
  { root1 := BitVec.ofNat 64 (s.word64 d), root2 := BitVec.ofNat 64 (s.word64 (d + 8)),
    logSize := bitsAt (s.word32 (d + 0x14)) 4 5 }

/-- The descriptor in force: as latched at the last GENBUMP or when the ASID was initialised, else as memory holds it
(R102). DESIGN CHOICE, log 2. -/
def State.space? (s : State) (asid : Nat) : Option SpaceDesc :=
  match s.spaceAt? asid with
  | none => none
  | some d =>
    some ((sget none s.spaces asid).getD (s.readDesc d))

/-- The 512 bytes of an ASID's trap-table block as memory holds them (R283). -/
def State.readTraps (s : State) (asid : Nat) : Option (List Byte) := (s.table? 1).map fun t => s.freshBytes (t + 512 * asid) 512

/-- An ASID's trap-table block in force: as latched at the last GENBUMP or when the ASID was initialised, else as memory holds
it (R283). DESIGN CHOICE, log 2. -/
def State.traps? (s : State) (asid : Nat) : Option (List Byte) :=
  match s.readTraps asid with
  | none => none
  | some b => some ((sget none s.traps asid).getD b)

/-- The descriptor and the trap-table block of an ASID latched as memory now holds them (R102, R106, R283). -/
def State.latchSpace (s : State) (asid : Nat) : State :=
  { s with
    spaces := match s.spaceAt? asid with
      | none => s.spaces
      | some d => sset none asid (some (s.readDesc d)) s.spaces
    traps := match s.readTraps asid with
      | none => s.traps
      | some b => sset none asid (some b) s.traps }

/-! ## Apertures (R354) -/

/-- An aperture of R354: host port 0 or 1, or a peer index. -/
inductive Aperture where
  | host (h : Nat)
  | peer (p : Nat)
  deriving DecidableEq, Repr

/-- The aperture of an MMIO address, and the offset in it (R354). -/
def apertureOf (pa : Nat) : Option (Aperture × Nat) :=
  if 0xA000000000000 ≤ pa ∧ pa < 0xA000000000000 + 2 * 0x400000000000 then
    some (.host ((pa - 0xA000000000000) / 0x400000000000), (pa - 0xA000000000000) % 0x400000000000)
  else if 0x9000000000000 ≤ pa ∧ pa < 0x9000000000000 + 16 * 0x20000000000 then
    some (.peer ((pa - 0x9000000000000) / 0x20000000000), (pa - 0x9000000000000) % 0x20000000000)
  else none

/-- A leaf frame lies where R99 places memory, within the installed CXL capacity (R355) and not in an unbound peer
aperture (R354). -/
def State.frameOk (s : State) (pa : Nat) : Bool :=
  inDram pa || (inCxl pa && decide (pa - 0x1000000000000 < s.aon.expanders.sum))
    || (inMmio pa && (match apertureOf pa with
      | some (.peer p, _) => s.aon.peers.getD p 255 != 255
      | _ => true))

/-! ## Walks (R94 to R101) -/

/-- What an access needs of a translation (R96). -/
structure Need where
  write  : Bool := false
  fetch  : Bool := false
  /-- made by a privileged fibre or for one -/
  priv   : Bool := false
  /-- a placed operation, PLRED or CHUNK (R101) -/
  placed : Bool := false
  deriving DecidableEq, Repr

/-- A finished walk: the translation, its leaf entries, and the leaf entries whose A it sets (R98, R100). -/
structure Walk where
  tr    : Translation
  leaf1 : Nat
  size1 : Nat
  /-- stage-2 leaf entry of the frame, its size code and the guest-physical address it maps -/
  leaf2 : Option (Nat × Nat × Nat)
  used  : List Nat
  deriving DecidableEq, Repr

/-- Index into the table of a level (R94). -/
def levelIndex (level va : Nat) : Nat :=
  match level with
  | 0 => bitsAt va 39 9
  | 1 => bitsAt va 30 9
  | 2 => bitsAt va 21 9
  | _ => bitsAt va 16 5

/-- The SIZE code of a leaf at a level; none at level 0 (R94). -/
def leafSize (level : Nat) : Option Nat :=
  match level with
  | 0 => none
  | 1 => some 2
  | 2 => some 1
  | _ => some 0

/-- The frame address of an entry: PA[51:16]. -/
def pteFrame (e : Nat) : Nat := bitsAt e 16 36 * 2 ^ 16

/-- Checks 1 to 4 of R96 on an entry of a level, for stage 1 or 2: the subcause's low bits. The must-be-zero fields of a
table pointer are every field but V, the frame and SIZE (R94); those of a stage-2 leaf include EX, NS, ENC, K, C (R100). -/
def pteCheck (stage2 : Bool) (level e : Nat) : Option Nat :=
  let size := bitsAt e 52 4
  if e % 2 = 0 then some 0
  else if ¬ ((size = 15 ∧ level < 3) ∨ leafSize level = some size) then some 4
  else if bitsAt e 56 8 ≠ 0 ∨ bitsAt e 11 1 ≠ 0 then some 5
  else if size = 15 then (if bitsAt e 1 15 ≠ 0 then some 5 else none)
  else if stage2 ∧ (bitsAt e 3 5 ≠ 0 ∨ bitsAt e 10 1 ≠ 0) then some 5
  else if pteFrame e % pageBytes size ≠ 0 then some 5
  else none

/-- Stage-2 walk of a guest-physical address from a table: the leaf entry's address, the entry, and its size; or the
subcause. -/
def State.walk2 (s : State) (gpa : Nat) : Nat → Nat → Nat → Except Nat (Nat × Nat × Nat)
  | 0, _, _ => .error 0x10
  | fuel + 1, level, table =>
    let at_ := table + 8 * levelIndex level gpa
    let e := s.word64 at_
    match pteCheck true level e with
    | some c => .error (0x10 + c)
    | none =>
      if bitsAt e 52 4 = 15 then s.walk2 gpa fuel (level + 1) (pteFrame e)
      else .ok (at_, e, bitsAt e 52 4)

/-- A guest-physical address through stage 2 to its leaf entry. Its bits [51:48] must be 0: nonzero ones raise MBZ at stage 2, the
spec naming no subcause (DESIGN CHOICE, log 48). -/
def State.through2 (s : State) (gpa root : Nat) : Except Nat (Nat × Nat × Nat) :=
  if bitsAt gpa 48 4 ≠ 0 then .error 0x15 else s.walk2 gpa 4 0 root

/-- A guest-physical address through stage 2, for a stage-1 table: the host-physical address, the stage-2 leaf used, and
MTYPE; MTYPE and range are checked at the leaf (R96, R99, R100). -/
def State.stage2 (s : State) (root gpa : Nat) : Except Nat (Nat × Nat × Nat) :=
  match s.through2 gpa root with
    | .error c => .error c
    | .ok (at_, e, size) =>
      let pa := pteFrame e + gpa % pageBytes size
      let mt := bitsAt e 12 4
      if 2 < mt then .error 0x17
      else if ¬ s.frameOk pa then .error 0x18
      else if inMmio pa ∧ mt ≠ 2 then .error 0x17
      else .ok (pa, at_, mt)

/-- Stage-1 walk: the leaf entry's address, the entry, its size, and the stage-2 entries used for tables. -/
def State.walk1 (s : State) (root2 : Option Nat) (va : Nat) :
    Nat → Nat → Nat → List Nat → Except Nat (Nat × Nat × Nat × List Nat)
  | 0, _, _, _ => .error 0
  | fuel + 1, level, table, used =>
    match (match root2 with
      | none => Except.ok (table, used)
      | some r => match s.stage2 r table with
        | .ok (pa, l2, _) => .ok (pa, used ++ [l2])
        | .error c => .error c) with
    | .error c => .error c
    | .ok (tpa, used) =>
      let at_ := tpa + 8 * levelIndex level va
      let e := s.word64 at_
      match pteCheck false level e with
      | some c => .error c
      | none =>
        if bitsAt e 52 4 = 15 then s.walk1 root2 va fuel (level + 1) (pteFrame e) used
        else .ok (at_, e, bitsAt e 52 4, used)

/-- Permissions of a leaf in the order K, W, X (R96). -/
def permCheck (stage : Nat) (need : Need) (e : Nat) : Option Nat :=
  if stage = 1 ∧ bitsAt e 3 1 = 1 ∧ ¬ need.priv then some 3
  else if need.write ∧ bitsAt e 1 1 = 0 then some (16 * (stage - 1) + 1)
  else if need.fetch ∧ bitsAt e 2 1 = 0 then some (16 * (stage - 1) + 2)
  else none

/-- A whole walk (R94 to R101): stage 1 to its leaf; there EX, MTYPE, range, then permissions, then stage 2. A placed
operation checks stage 2 up to its range, then PLACE-TYPE, then the permissions of both stages.
DESIGN CHOICE, log 48: where the descriptor table's base register is not locked the walk fails with NOT-VALID; the MTYPE of an
MMIO frame is tested after the frame's range, and under stage 2 on the combined type, failing as MTYPE of stage 2; pages of
two sizes are reported and cached with the smaller size and its frame. -/
def State.walk (s : State) (asid va : Nat) (need : Need) : Except Nat Walk :=
  match s.space? asid with
  | none => .error 0
  | some desc =>
    let root1 := bitsAt desc.root1.toNat 16 36 * 2 ^ 16
    let root2 := if desc.root2.toNat % 2 = 1 then some (bitsAt desc.root2.toNat 16 36 * 2 ^ 16) else none
    match s.walk1 root2 va 4 0 root1 [] with
    | .error c => .error c
    | .ok (l1, e, size, used) =>
      let mt1 := bitsAt e 12 4
      let frame := pteFrame e
      let pageOff := va % pageBytes size
      if bitsAt e 4 2 = 3 then .error 6
      else if 2 < mt1 then .error 7
      else match root2 with
        | none =>
          if ¬ s.frameOk frame then .error 8
          else if inMmio frame ∧ mt1 ≠ 2 then .error 7
          else if need.placed ∧ (mt1 = 2 ∨ inMmio frame) then .error 9
          else match permCheck 1 need e with
            | some c => .error c
            | none => .ok
              { tr := { frame := frame, size := size, mtype := mt1, enc := bitsAt e 7 1 = 1, ns := bitsAt e 6 1 = 1,
                        ex := bitsAt e 4 2, kernel := bitsAt e 3 1 = 1, writable := bitsAt e 1 1 = 1,
                        executable := bitsAt e 2 1 = 1, snapshot := bitsAt e 10 1 = 1,
                        w1 := bitsAt e 1 1 = 1, x1 := bitsAt e 2 1 = 1 },
                leaf1 := l1, size1 := size, leaf2 := none, used := l1 :: used }
        | some r =>
          let first := if need.placed then none else permCheck 1 need e
          match first with
          | some c => .error c
          | none =>
            let gpa := frame + pageOff
            match s.through2 gpa r with
            | .error c => .error c
            | .ok (l2, e2, size2) =>
              let mt2 := bitsAt e2 12 4
              let mt := max mt1 mt2
              let pa := pteFrame e2 + gpa % pageBytes size2
              if 2 < mt2 then .error 0x17
              else if ¬ s.frameOk pa then .error 0x18
              else if inMmio pa ∧ mt ≠ 2 then .error 0x17
              else if need.placed ∧ (mt = 2 ∨ inMmio pa) then .error 9
              else match (permCheck 1 need e).orElse (fun _ => permCheck 2 need e2) with
                | some c => .error c
                | none =>
                  let size' := min size size2
                  .ok
                  { tr := { frame := pa - pa % pageBytes size', size := size', mtype := mt, enc := bitsAt e 7 1 = 1,
                            ns := bitsAt e 6 1 = 1, ex := bitsAt e 4 2, kernel := bitsAt e 3 1 = 1,
                            writable := bitsAt e 1 1 = 1 && bitsAt e2 1 1 = 1,
                            executable := bitsAt e 2 1 = 1 && bitsAt e2 2 1 = 1, snapshot := bitsAt e 10 1 = 1,
                            w1 := bitsAt e 1 1 = 1, x1 := bitsAt e 2 1 = 1 },
                    leaf1 := l1, size1 := size, leaf2 := some (l2, size2, gpa), used := l1 :: l2 :: used }

/-! ## A and D bits, and the dirty log (R98, R108) -/

/-- Bit `b` of the entry at `at_` set by atomic OR. -/
def State.orBit (s : State) (at_ b : Nat) : State :=
  let e := s.word64 at_
  if bitsAt e b 1 = 1 then s else s.put64 at_ (e + 2 ^ b)

/-- A stage-1 leaf lets a walk go on to stage 2: EX, MTYPE and, but for a placed operation, its permissions pass (R96, R101). -/
def leafPasses (need : Need) (e : Nat) : Bool :=
  bitsAt e 4 2 != 3 && decide (bitsAt e 12 4 ≤ 2) && (need.placed || (permCheck 1 need e).isNone)

/-- The stage-2 leaf entries that a walk uses for stage-1 tables and for the leaf frame, whether or not it ends in a
translation. -/
def State.used1 (s : State) (need : Need) (r va : Nat) : Nat → Nat → Nat → List Nat
  | 0, _, _ => []
  | fuel + 1, level, table =>
    match s.through2 table r with
    | .error _ => []
    | .ok (l2, _, _) =>
      match s.stage2 r table with
      | .error _ => [l2]
      | .ok (pa, _, _) =>
        let e := s.word64 (pa + 8 * levelIndex level va)
        match pteCheck false level e with
        | some _ => [l2]
        | none =>
          if bitsAt e 52 4 = 15 then l2 :: s.used1 need r va fuel (level + 1) (pteFrame e)
          else if ¬ leafPasses need e then [l2]
          else match s.through2 (pteFrame e + va % pageBytes (bitsAt e 52 4)) r with
            | .error _ => [l2]
            | .ok (l, _, _) => [l2, l]

/-- The stage-2 leaf entries that a walk of a VA uses. -/
def State.stage2Used (s : State) (asid va : Nat) (need : Need) : List Nat :=
  match s.space? asid with
  | none => []
  | some d =>
    if d.root2.toNat % 2 = 1 then s.used1 need (bitsAt d.root2.toNat 16 36 * 2 ^ 16) va 4 0 (bitsAt d.root1.toNat 16 36 * 2 ^ 16)
    else []

/-- Stage-2 A set by a walk that uses the entries, whatever the walk ends in (R100). -/
def State.stage2A (s : State) (asid va : Nat) (need : Need) : State :=
  (s.stage2Used asid va need).foldl (fun t e => t.orBit e 9) s

/-- An entry appended to the dirty-log ring of an address space, or its overflow bit set (R108). -/
def State.logDirty (s : State) (asid stage addr size : Nat) : State :=
  match s.spaceAt? asid, s.space? asid with
  | some d, some sd =>
    let ctl := s.word32 (d + 0x14)
    if ctl % 2 = 0 ∨ bitsAt ctl 1 1 ≠ stage - 1 then s
    else
      let n := sd.logSize
      let prod := s.word32 (d + 0x20)
      let cons := s.word32 (d + 0x24)
      if (prod + 2 ^ 32 - cons) % 2 ^ 32 = 2 ^ n then s.put32 (d + 0x14) (if bitsAt ctl 2 1 = 1 then ctl else ctl + 4)
      else
        let ring := s.word64 (d + 0x18)
        (s.put64 (ring + 8 * (prod % 2 ^ n)) (addr / 2 ^ 16 * 2 ^ 16 + 4 * (stage - 1) + size)).put32 (d + 0x20)
          ((prod + 1) % 2 ^ 32)
  | _, _ => s

/-- D set in a leaf entry of a stage, its transition logged first (R98, R108). -/
def State.setDirty (s : State) (asid stage at_ addr size : Nat) : State :=
  if bitsAt (s.word64 at_) 8 1 = 1 then s else (s.logDirty asid stage addr size).orBit at_ 8

/-- A 48-bit virtual address as the 64-bit VA it stands for: bits [63:48] repeat bit 47 (R53). -/
def fullVa (va : Nat) : Nat := if bitsAt va 47 1 = 1 then va % 2 ^ 48 + (2 ^ 64 - 2 ^ 48) else va % 2 ^ 48

/-- The first address of the page of a size code that holds an address. -/
def pageStart (a size : Nat) : Nat := a - a % pageBytes size

/-- D set in the leaf entries of both stages for a write to a VA; the log tells the page's address (R98, R100, R108). -/
def State.setLeaves (s : State) (asid va leaf1 size1 : Nat) (leaf2 : Option (Nat × Nat × Nat)) : State :=
  let s := s.setDirty asid 1 leaf1 (pageStart (fullVa va) size1) size1
  match leaf2 with
  | some (l2, size2, gpa) => s.setDirty asid 2 l2 (pageStart gpa size2) size2
  | none => s

/-- What a finished walk sets: A in every leaf it used, and for a write D in the leaves of both stages (R98, R100). The
device's own update of a stage-1 entry sets no D in the stage-2 entry that maps the table (DESIGN CHOICE, log 48). -/
def State.applyWalk (s : State) (asid va : Nat) (write : Bool) (w : Walk) : State :=
  let s := w.used.foldl (fun t e => t.orBit e 9) s
  if write then s.setLeaves asid va w.leaf1 w.size1 w.leaf2 else s

/-- D reads 1 in the leaf entries of both stages. -/
def State.leavesDirty (s : State) (leaf1 : Nat) (leaf2 : Option (Nat × Nat × Nat)) : Bool :=
  bitsAt (s.word64 leaf1) 8 1 == 1 && (match leaf2 with
    | some (l2, _, _) => bitsAt (s.word64 l2) 8 1 == 1
    | none => true)

/-! ## The entries that a walk reads -/

/-- The entries that a stage-2 walk of a guest-physical address reads. -/
def State.reads2 (s : State) (gpa : Nat) : Nat → Nat → Nat → List Nat
  | 0, _, _ => []
  | fuel + 1, level, table =>
    let at_ := table + 8 * levelIndex level gpa
    let e := s.word64 at_
    at_ :: if (pteCheck true level e).isNone ∧ bitsAt e 52 4 = 15 then s.reads2 gpa fuel (level + 1) (pteFrame e) else []

/-- The entries that a walk reads from a stage-1 table on. -/
def State.reads1 (s : State) (root2 : Option Nat) (va : Nat) : Nat → Nat → Nat → List Nat
  | 0, _, _ => []
  | fuel + 1, level, table =>
    let through := fun gpa : Nat => match root2 with
      | some r => s.reads2 gpa 4 0 r
      | none => []
    through table ++ (match (match root2 with
        | some r => (s.stage2 r table).toOption.map Prod.fst
        | none => some table) with
      | none => []
      | some tpa =>
        let e := s.word64 (tpa + 8 * levelIndex level va)
        (tpa + 8 * levelIndex level va) :: (if (pteCheck false level e).isSome then []
          else if bitsAt e 52 4 = 15 then s.reads1 root2 va fuel (level + 1) (pteFrame e)
          else through (pteFrame e + va % pageBytes (bitsAt e 52 4))))

/-- The entries that a walk of a VA reads, of both stages. -/
def State.walkReads (s : State) (asid va : Nat) : List Nat :=
  match s.space? asid with
  | none => []
  | some d =>
    let root2 := if d.root2.toNat % 2 = 1 then some (bitsAt d.root2.toNat 16 36 * 2 ^ 16) else none
    s.reads1 root2 va 4 0 (bitsAt d.root1.toNat 16 36 * 2 ^ 16)

/-- Single-bit errors in the entries that a walk reads are corrected, written back and logged (R337, R348 kind 1): for the launch of a crew
of the address space on the core that walks. Of several such crews the entry tells the first (DESIGN CHOICE, log 18). -/
def State.mendWalk (s : State) (core asid va : Nat) : State :=
  if s.rel.correctable.isEmpty then s
  else
    let at_ := s.walkReads asid va
    let hit := s.rel.correctable.filter fun p => match p with
      | .l2 x => at_.any fun a => a / 64 == x
      | .dram x => at_.any fun a => a / 8 == x
      | _ => false
    let names := ((s.crews.find? fun k => k.status == .resident && k.core == core && k.desc.asid == asid).map s.logNames).getD (0, 0)
    hit.foldl (fun t p => match p with
      | .l2 x => t.logEntry 1 3 core asid names.1 names.2 (64 * x)
      | .dram x => t.logEntry 1 4 core asid names.1 names.2 (8 * x)
      | _ => t) { s with rel := { s.rel with correctable := s.rel.correctable.filter fun p => !hit.contains p } }

/-! ## TLBs (R105) -/

/-- The generation a core holds for an address space. -/
def State.gen (s : State) (asid : Nat) : Nat := s.genAt asid 0

/-- A cached translation covers an address. -/
def TlbEntry.covers (e : TlbEntry) (asid gen va : Nat) : Bool :=
  e.asid == asid && e.gen == gen && e.page == va / pageBytes e.tr.size

/-- The permissions of a cached translation, in the order K, W, X, and the stage that denies (R96, R101): stage 1 where its own bit
denies, else stage 2. -/
def Translation.allows (t : Translation) (need : Need) : Option Nat :=
  if need.placed ∧ (t.mtype = 2 ∨ inMmio t.frame) then some 9
  else if t.kernel ∧ ¬ need.priv then some 3
  else if need.write ∧ ¬ t.writable then some (if t.w1 then 0x11 else 1)
  else if need.fetch ∧ ¬ t.executable then some (if t.x1 then 0x12 else 2)
  else none

/-- Translation by a walk, which installs an entry in the core's TLB. -/
def State.fillTlb (s : State) (core asid va : Nat) (need : Need) : State × Except Nat Translation :=
  let s := s.mendWalk core asid va
  match s.walk asid va need with
  | .error c => (s.stage2A asid va need, .error c)
  | .ok w =>
    let s := s.applyWalk asid va need.write w
    let g := s.gen asid
    (s.modCore core fun c =>
      { c with tlb := { asid := asid, page := va / pageBytes w.tr.size, gen := g, tr := w.tr,
                        dirty := s.leavesDirty w.leaf1 w.leaf2, leaf1 := w.leaf1, size1 := w.size1, leaf2 := w.leaf2 }
                      :: c.tlb.filter (fun e => !e.covers asid g va) }, .ok w.tr)

/-- A walk now gives what a cached entry holds: the same translation and, where the entry has D = 1, D still 1. -/
def State.walkAgrees (s : State) (asid va : Nat) (e : TlbEntry) : Bool :=
  match s.walk asid va { priv := true } with
  | .ok w => w.tr == e.tr && (!e.dirty || s.leavesDirty w.leaf1 w.leaf2)
  | .error _ => false

/-- The leaf entries of a cached translation still hold V = 1 and the frames that it was filled from (R98). -/
def State.entryStands (s : State) (e : TlbEntry) : Bool :=
  let e1 := s.word64 e.leaf1
  match e.leaf2 with
  | none => e1 % 2 == 1 && pteFrame e1 == e.tr.frame
  | some (l2, size2, gpa) =>
    let e2 := s.word64 l2
    e1 % 2 == 1 && e2 % 2 == 1 && pteFrame e1 == pageStart gpa e.size1
      && pageStart (pteFrame e2 + gpa % pageBytes size2) e.tr.size == e.tr.frame

/-- A write through a cached entry whose D is not known to be 1: D is set in its leaves where they still stand, else the walk
starts again (R98). -/
def State.dirtyThrough (s : State) (core asid va : Nat) (need : Need) (e : TlbEntry) : State × Except Nat Translation :=
  if s.entryStands e then
    ((s.setLeaves asid va e.leaf1 e.size1 e.leaf2).modCore core fun c =>
      { c with tlb := c.tlb.map fun x => if x = e then { x with dirty := true } else x }, .ok e.tr)
  else s.fillTlb core asid va need

/-- Translation of an address by an agent of a core (R94 to R98, R105, R106): through a cached entry of the current
generation where there is one. With D cached as 1, or for no write, no entry is read then and no bit set. Where the tables
have changed since it was filled, whether the cached entry or the tables are used is free. -/
def State.translate (s : State) (core asid va : Nat) (need : Need) : State × Except Nat Translation :=
  match (s.coreAt core).tlb.find? (fun e => e.covers asid (s.gen asid) va) with
  | none => s.fillTlb core asid va need
  | some e =>
    let through := fun s : State => match e.tr.allows need with
      | some c => (s, .error c)
      | none => if need.write ∧ ¬ e.dirty then s.dirtyThrough core asid va need e else (s, .ok e.tr)
    if s.walkAgrees asid va e then through s
    else if Config.tlbDropped s.draws then s.draw.fillTlb core asid va need
    else through s.draw

/-! ## What a translation finds at homes (R113, R153, R337) -/

/-- Where an address space's dirty log lies, which a 0 to 1 transition of D reads and writes: its control words and the entry at the
producer index (R108). -/
def State.logPlaces (s : State) (asid : Nat) : List Nat :=
  match s.spaceAt? asid, s.space? asid with
  | some d, some sd =>
    if s.word32 (d + 0x14) % 2 = 0 then [] else [d + 0x14, s.word64 (d + 0x18) + 8 * (s.word32 (d + 0x20) % 2 ^ sd.logSize)]
  | _, _ => []

/-- What a write sets beside its bytes: the log, where a leaf entry's D is 0 (R98, R108). -/
def State.dirtyPlaces (s : State) (asid leaf1 : Nat) (leaf2 : Option (Nat × Nat × Nat)) : List Nat :=
  if s.leavesDirty leaf1 leaf2 then [] else s.logPlaces asid

/-- The places of memory that a walk of a VA reads or sets (R98, R108). -/
def State.walkPlaces (s : State) (asid va : Nat) (write : Bool) : List Nat :=
  s.walkReads asid va ++ if write then (match s.walk asid va { write := true, priv := true } with
    | .ok w => s.dirtyPlaces asid w.leaf1 w.leaf2
    | .error _ => []) else []

/-- The places of memory that translation of a VA for a core reads or sets: those of its walk, unless a cached entry serves it that the
tables agree with; for a write through such an entry whose D is not known to be 1, its leaf entries (R98, R105, R108). -/
def State.translationPlaces (s : State) (core asid va : Nat) (write : Bool) : List Nat :=
  let walked := s.walkPlaces asid va write
  match (s.coreAt core).tlb.find? fun e => e.covers asid (s.gen asid) va with
  | none => walked
  | some e => (if write && !e.dirty then e.leaf1 :: (e.leaf2.map Prod.fst).toList ++ s.dirtyPlaces asid e.leaf1 e.leaf2 else [])
      ++ if s.walkAgrees asid va e then [] else walked

/-- Some of them lies on a line that an engine or an accepted part owns: the access is held at its home (R113, R153). -/
def State.walkHeld (s : State) (core asid va : Nat) (write : Bool) : Bool :=
  s.ownsSome && (s.translationPlaces core asid va write).any fun a => s.owned (a / 64)

/-- The uncorrectable error that translation would consume in an entry of the tables: ECC unit and PA (R337). -/
def State.walkError (s : State) (core asid va : Nat) (write : Bool) : Option (Nat × Nat) :=
  if s.rel.poison.isEmpty then none else (s.translationPlaces core asid va write).findSome? fun a => s.eccAt a 8

/-! ## Errors that the device itself meets (R337, R346, R348) -/

/-- The unit of hardware that an error names: a DRAM row, an L2 way of the line's home (the entry names none of its ways), or
the core (R346, R348). -/
def errorUnit (unit loc addr : Nat) : HwUnit :=
  if unit = 4 then .dramRow addr
  else if unit = 3 then .l2Way (homeDie addr) 0
  else if 256 ≤ loc then .sequencer (loc - 256)
  else .core loc

/-- An error other than a corrected one has firmware test the unit that it names (R346). -/
def State.orderTest (s : State) (kind unit loc addr : Nat) : State :=
  if kind = 2 ∨ kind = 4 ∨ kind = 5 ∨ kind = 6 then
    { s with inbox := s.inbox ++ [(.unitSelfTest, { hw := errorUnit unit loc addr })] }
  else s

/-- An entry of the error log. An error other than a corrected one has firmware test the unit that it names (R346). -/
def State.logError (s : State) (kind unit loc asid queue tag addr : Nat) : State :=
  (s.orderTest kind unit loc addr).logEntry kind unit loc asid queue tag addr

/-- An error that an agent which is no core meets, for an address space: logged, and raising nothing (R337, R348; log 18). -/
def State.logAgent (s : State) (unit asid queue tag pa : Nat) : State :=
  (s.orderTest 2 unit 0x3FF pa).draw.logEntry (Config.silentKind s.draws) unit 0x3FF asid queue tag pa

/-- What such an agent's read of bytes meets: single-bit errors are corrected and logged, an uncorrectable one is logged (R337). -/
def State.devMeets (s : State) (asid pa n : Nat) : State :=
  let hit := fun p : Poison => match p with
    | .l2 x => x == pa / 64
    | .dram x => decide (pa / 8 ≤ x) && decide (x < pa / 8 + (n + 7) / 8)
    | _ => false
  let s := if s.rel.correctable.any hit then
      ({ s with rel := { s.rel with correctable := s.rel.correctable.filter fun p => !hit p } }).logEntry 1
        (if s.rel.correctable.contains (.l2 (pa / 64)) then 3 else 4) 0x3FF asid 0 0 pa
    else s
  match s.eccAt pa n with
  | some e => s.logAgent e.1 asid 0 0 e.2
  | none => s

/-- The places that the device's own read of `n` bytes of one page reaches: the entries of its walk, and the bytes. -/
def State.devPlaces (s : State) (asid va n : Nat) : List (Nat × Nat) :=
  (s.walkReads asid va).map (fun a => (a, 8)) ++ match s.walk asid va { priv := true } with
    | .ok w => if inMmio (w.tr.pa va) then [] else [(w.tr.pa va, n)]
    | .error _ => []

/-- The uncorrectable error that the device's own read of `n` bytes of one page would consume: ECC unit and PA (R337). -/
def State.devError (s : State) (asid va n : Nat) : Option (Nat × Nat) :=
  if s.rel.poison.isEmpty then none else (s.devPlaces asid va n).findSome? fun x => s.eccAt x.1 x.2

/-- What the device's own read of `n` bytes of one page meets, its walk's entries among them (R337). -/
def State.devReadMeets (s : State) (asid va n : Nat) : State :=
  if s.rel.poison.isEmpty ∧ s.rel.correctable.isEmpty = true then s
  else (s.devPlaces asid va n).foldl (fun t x => t.devMeets asid x.1 x.2) s

/-! ## Paired copies' buffered words (R105, R159) -/

/-- A buffered word as it stands now: one stored through a translation whose generation has passed is translated again, as an access that
its home rejects is (R105, R107). None where the page no longer translates: the word is then given up (DESIGN CHOICE, log 55). -/
def BufWord.now (s : State) (asid : Nat) (w : BufWord) : Option BufWord :=
  if w.gen = s.gen asid then some w
  else (s.walk asid (va48 w.va) { write := true, priv := true }).toOption.map fun x => { w with tr := x.tr, gen := s.gen asid }

/-- Bytes of memory as a paired copy's own reads see them, its buffered writes over them as they stand now (R131, R159). -/
def State.overlaid (s : State) (asid : Nat) (pair : Option PairHalf) (pa : Nat) (bs : List Byte) : List Byte :=
  match pair with
  | some p => ({ p with buffer := p.buffer.filterMap (BufWord.now s asid) } : PairHalf).overlay pa bs
  | none => bs

/-! ## Executors (R103) -/

/-- An effective executor. -/
inductive Executor where
  | core
  | stack (s : Nat)
  | bank (s c : Nat)
  deriving DecidableEq, Repr

/-- The effective executor of a page (R103): BANK on an encrypted page becomes STACK, any kind on a CXL or MMIO frame
becomes CORE. -/
def Translation.executor (t : Translation) : Executor :=
  if ¬ inDram t.frame ∨ t.ex = 0 then .core
  else if t.ex = 2 ∧ ¬ t.enc then .bank (stackOf t.frame) (chanOf t.frame)
  else .stack (stackOf t.frame)

/-- The code of an executor as XLQ and R9 report it. -/
def Executor.code : Executor → Nat
  | .core => 0
  | .stack _ => 1
  | .bank _ _ => 2

/-! ## Snapshots (R342, R343) -/

/-- The recovery descriptor of an ASID (R343). -/
def State.recovery? (s : State) (asid : Nat) : Option Nat := (s.table? 3).map (· + 64 * asid)

/-- A granule's original already stands in the snapshot log. -/
def State.logged (s : State) (log pa : Nat) : Nat → Bool
  | 0 => false
  | n + 1 => s.word64 (log + 16 * n) == pa || s.logged log pa n

/-- Before a protected launch's first write to a 64 KiB granule of a C page: the granule copied to the snapshot pool and
logged. A full pool or log stops the launch's snapshots, and is logged as an error of kind 7 by the caller (R342). -/
def State.snapshotGranule (s : State) (asid pa : Nat) : State × Bool :=
  match s.recovery? asid with
  | none => (s, false)
  | some d =>
    let g := pa / 2 ^ 16 * 2 ^ 16
    let pool := s.word64 d
    let poolSize := s.word32 (d + 8)
    let log := s.word64 (d + 0x10)
    let cap := s.word32 (d + 0x18)
    let n := s.word32 (d + 0x1C)
    if s.logged log g n then (s, true)
    else if poolSize ≤ n ∨ cap ≤ n then (s, false)
    else
      let s := s.putWhole (pool + 2 ^ 16 * n) (s.freshBytes g (2 ^ 16))
      let s := s.put (log + 16 * n) (leBytes 8 g ++ leBytes 4 n ++ leBytes 4 0)
      (s.put32 (d + 0x1C) (n + 1), true)

end Sys2Proof.Machine
end

