-- ==== Sys2Proof/Machine/Ops.lean ====
section
/-!
DEFINITION. The named operations of the machine: registers and predicates of a fibre, units and their active lanes, code
objects and fetch, register blocks, taking a fault and returning from one, the end of crews and launches, and the one
wrapper through which every instruction issues (03 R20 to R36; 04 R43 to R60; 19 R281 to R288; 01 R8).
-/
namespace Sys2Proof.Machine

/-- The outcome of one step. -/
abbrev Res := Host.Outcome State Fault Refusal

/-! ## Lists by place -/

/-- The elements at the named places changed, each told its place. -/
def modAt {α : Type} (is : List Nat) (g : Nat → α → α) (l : List α) : List α :=
  l.mapIdx fun i x => if is.contains i then g i x else x

/-! ## Registers and predicates -/

/-- Register `n` of a fibre (R34). -/
def Fibre.reg (f : Fibre) (n : Nat) : Reg := f.regs.getD n Reg.zero
/-- The value of register `n`. -/
def Fibre.val (f : Fibre) (n : Nat) : Word := (f.reg n).val
/-- The S bit of register `n`. -/
def Fibre.sbit (f : Fibre) (n : Nat) : Bool := (f.reg n).s
/-- The pair W(n): register n + 1 holds bits [63:32] (R61). -/
def Fibre.pair (f : Fibre) (n : Nat) : DWord := f.val (n + 1) ++ f.val n
/-- Register `n` written; its block is dirty (R296). -/
def Fibre.setReg (f : Fibre) (n : Nat) (r : Reg) : Fibre :=
  { f with regs := f.regs.set n r, dirty := f.dirty.insert (n / 8) }
/-- A register pair written, both halves with one S (R62). -/
def Fibre.setPair (f : Fibre) (n : Nat) (v : DWord) (s : Bool) : Fibre :=
  (f.setReg n { val := v.extractLsb' 0 32, s := s }).setReg (n + 1) { val := v.extractLsb' 32 32, s := s }
/-- Predicate `n`; p0 reads 1 (R20). -/
def Fibre.pred (f : Fibre) (n : Nat) : Bool := n == 0 || f.preds.getLsbD n
/-- Predicate `n` written; p0 takes no write (R61). -/
def Fibre.setPred (f : Fibre) (n : Nat) (b : Bool) : Fibre :=
  if n = 0 then f
  else { f with preds := if b then f.preds ||| BitVec.twoPow 96 n else f.preds &&& ~~~(BitVec.twoPow 96 n) }
/-- A fibre that is not there: an empty slot (R22). -/
def Fibre.empty : Fibre :=
  { live := false, bound := true, priv := false, handler := false, codeBase := 0, pc := 0, hdr := 0, hdrWord := 0, clause := [], preds := 0,
    size := 0, regs := [], dirty := [], home := 0, part := 0, gang := 0, sub := 0, ident := 0, rep := none, wait := .none,
    waited := false, nextLane := 0, accepted := none, passed := false, didx := 0, dcount := 0, behind := 0, clkh := 0, dflt := [],
    bin := none, cols := [], issuedAt := 0, late := [] }

/-! ## Units -/

/-- The fibre is live and belongs to the unit (R23, R24, R28). -/
def Fibre.inUnit (f : Fibre) : UnitKind → Bool
  | .gang g q => f.live && f.bound && f.gang == g && f.sub == q
  | .bin b => f.live && !f.bound && f.bin == some b

/-- The unit a live fibre belongs to. -/
def Fibre.unit (f : Fibre) : UnitKind := if f.bound then .gang f.gang f.sub else .bin (f.bin.getD 0)

/-- The places of a unit's live fibres, in ascending lane order. -/
def Crew.members (k : Crew) (u : UnitKind) : List Nat :=
  (List.range 32).filterMap fun l => k.fibres.findIdx? fun f => f.inUnit u && f.home == l

/-- Fibre at a place. -/
def Crew.fibre (k : Crew) (i : Nat) : Fibre := k.fibres.getD i Fibre.empty
/-- Fibres at places changed. -/
def Crew.modFibres (k : Crew) (is : List Nat) (g : Nat → Fibre → Fibre) : Crew := { k with fibres := modAt is g k.fibres }
/-- Fibres of a crew changed. -/
def State.modFibres (s : State) (c : Nat) (is : List Nat) (g : Nat → Fibre → Fibre) : State :=
  s.modCrew c fun k => k.modFibres is g

/-- The same bound gang, or the same bin. -/
def sameGang : UnitKind → UnitKind → Bool
  | .gang a _, .gang b _ => a == b
  | .bin a, .bin b => a == b
  | _, _ => false

/-- The tokens that a unit sees (R21). -/
def Crew.tokens (k : Crew) : UnitKind → Tokens
  | .gang g _ => k.gangs.getD g Tokens.fresh
  | .bin b => match k.bins[b]? with
    | some n => n.tokens
    | none => Tokens.fresh
/-- The tokens of a unit changed. -/
def Crew.modTokens (k : Crew) (u : UnitKind) (g : Tokens → Tokens) : Crew :=
  match u with
  | .gang n _ => { k with gangs := k.gangs.modify n g }
  | .bin b => { k with bins := k.bins.modify b fun n => { n with tokens := g n.tokens } }

/-- Every token of a mask is complete: its count is 0 (R181). -/
def Tokens.complete (t : Tokens) (mask : BitVec 8) : Bool :=
  (List.range 8).all fun k => !mask.getLsbD k || t.counts.getD k 0 == 0

/-- What an instruction's own effect is told: the issuing unit, its crew as it stood, its live fibres and its active ones
by place in ascending lane order, and what REP adds to its register numbers (R23, R56). -/
structure Ctx where
  u    : UnitId
  crew : Crew
  all  : List Nat
  act  : List Nat
  kd   : Nat
  ka   : Nat
  kb   : Nat
  kc   : Nat
  deriving DecidableEq, Repr

/-- Operand d's register number in this repeat. -/
def Ctx.d {w : Nat} (c : Ctx) (r : BitVec w) : Nat := r.toNat + c.kd
/-- Operand a's register number in this repeat. -/
def Ctx.a {w : Nat} (c : Ctx) (r : BitVec w) : Nat := r.toNat + c.ka
/-- Operand b's register number in this repeat. -/
def Ctx.b {w : Nat} (c : Ctx) (r : BitVec w) : Nat := r.toNat + c.kb
/-- Operand c's register number in this repeat. -/
def Ctx.c {w : Nat} (c : Ctx) (r : BitVec w) : Nat := r.toNat + c.kc
/-- Fibre at a place, as it stood at issue. -/
def Ctx.fibre (c : Ctx) (i : Nat) : Fibre := c.crew.fibre i
/-- Lane of the fibre at a place. -/
def Ctx.lane (c : Ctx) (i : Nat) : Nat := (c.fibre i).home
/-- Every lane-register file of the active lanes changed, each from its own fibre (R61). -/
def Ctx.onActive (c : Ctx) (g : Fibre → Fibre) (s : State) : State := s.modFibres c.u.crew c.act fun _ f => g f
/-- The kind of core that issues. -/
def Ctx.kind (c : Ctx) : Kind := c.crew.kind
/-- The core that issues. -/
def Ctx.core (c : Ctx) : Nat := c.crew.core
/-- The address space. -/
def Ctx.asid (c : Ctx) : Nat := c.crew.desc.asid
/-- The privilege of the issuing unit's fibres (R20). -/
def Ctx.priv (c : Ctx) : Bool := (c.fibre (c.all.headD 0)).priv
/-- The code offset of the instruction. -/
def Ctx.pc (c : Ctx) : Word := (c.fibre (c.all.headD 0)).pc
/-- The text that the core runs: L on a latency core (R252). -/
def Kind.isL (k : Kind) : Bool := k == .latency
/-- Bytes of an instruction of a text: a base word in D, a doubleword in L. -/
def Kind.step (k : Kind) : Nat := if k.isL then 8 else 4
/-- The number %kind reads (R252). -/
def Kind.code : Kind → Nat
  | .density => 0
  | .latency => 1
  | .sequencer => 2

/-- How an instruction's own effect ends. -/
inductive Eff where
  /-- complete: every fibre of the unit goes on at Next -/
  | next (s : State)
  /-- complete: the named fibres go to their targets, the unit's others to Next (R68) -/
  | jump (s : State) (ts : List (Nat × Word))
  /-- not complete: the unit stays at the instruction -/
  | stay (s : State)
  /-- complete, and the unit's fibres have been placed already -/
  | left (s : State)
  /-- a fault (R281): cause, subcause, INFO, the lanes named, their record entries, and what a deferred copy fault records
  instead of the issuing instruction (R183, R285) -/
  | raise (s : State) (cause sub info : Nat) (lanes : List Nat) (entries : List (Nat × List Nat))
  /-- the deferred copy fault attached to a token (R183) -/
  | deferred (s : State) (d : Deferred)
  /-- the launch ends with a cause (R288) -/
  | endLaunch (s : State) (cause : Nat)

/-! ## Cause codes (R281) -/

/-- Cause codes of R281. -/
def causeOp : Nat := 0x01
def causeField : Nat := 0x02
def causeClause : Nat := 0x03
def causeLoose : Nat := 0x04
def causePrivilege : Nat := 0x05
def causeWindow : Nat := 0x06
def causeAddress : Nat := 0x07
def causeTranslation : Nat := 0x08
def causeSplitPlace : Nat := 0x09
def causeMatrixBounds : Nat := 0x0A
def causeIndirect : Nat := 0x0B
def causeRegDeadlock : Nat := 0x0C
def causeTrap : Nat := 0x0E
def causeSysc : Nat := 0x0F
def causeEcc : Nat := 0x10
def causeHalt : Nat := 0x20

/-! ## Lane entries, and ECC (R286, R337) -/

/-- A lane entry of ADDRESS (R286). -/
def addrEntry (va : Nat) : List Nat := [va % 2 ^ 32, va / 2 ^ 32]

/-- ECC at the lanes told, each with its unit and PA or number; INFO tells the first lane's unit (R285, R286). Where the lanes
fail at different units the spec does not say which INFO tells (DESIGN CHOICE, log 18). -/
def eccFault (s : State) : List (Nat × Nat × Nat) → Option Eff
  | [] => none
  | e :: es => some (.raise s causeEcc 0 e.2.1 ((e :: es).map Prod.fst) ((e :: es).map fun y => (y.1, addrEntry y.2.2)))

/-! ## Reading memory for the device (R273, R283) -/

/-- Bytes of memory through a translation of an address space, decrypted line by line (R130). -/
def State.plainBytes (s : State) (asid : Nat) (tr : Translation) (pa n : Nat) : List Byte :=
  if tr.enc then
    (List.range ((pa % 64 + n + 63) / 64)).flatMap fun i =>
      let a := max pa (pa / 64 * 64 + 64 * i)
      s.decrypt asid true a (s.freshBytes a (min (pa + n) (pa / 64 * 64 + 64 * i + 64) - a))
  else s.freshBytes pa n

/-- `n` bytes from a VA by walks that install nothing, a byte at a time where a page ends; none where a page does not
translate. Where the page is a device window, the bytes are those that memory holds at its address: what the device itself reads there
the spec does not say (DESIGN CHOICE, log 12). -/
def State.peek (s : State) (asid : Nat) (priv : Bool) (va n : Nat) : Option (List Byte) :=
  let n1 := min n (2 ^ 16 - va % 2 ^ 16)
  match s.walk asid va { priv := priv } with
  | .error _ => none
  | .ok w =>
    if n1 = n then some (s.plainBytes asid w.tr (w.tr.pa va) n)
    else match s.walk asid (va + n1) { priv := priv } with
      | .error _ => none
      | .ok w2 => some (s.plainBytes asid w.tr (w.tr.pa va) n1 ++ s.plainBytes asid w2.tr (w2.tr.pa (va + n1)) (n - n1))

/-- A number of `n` little-endian bytes at a VA, as the device reads it. -/
def State.peekNat (s : State) (asid va n : Nat) : Option Nat := (s.peek asid true va n).map leNat

/-- What the device's own read of up to 16 bytes at a VA leaves: stage-2 A in the entries that its walk uses, and the errors that it
meets logged, the single-bit ones corrected (R100, R337). -/
def State.peeked (s : State) (asid va : Nat) : State :=
  (s.devReadMeets asid (va % 2 ^ 48) 16).stage2A asid (va % 2 ^ 48) { priv := true }

/-- The same for each of the VAs that the device reads. -/
def State.peekedAll (s : State) (asid : Nat) (vas : List Nat) : State := vas.foldl (fun t va => t.peeked asid va) s

/-- Some of `n` bytes from a VA lies on a line that an engine or an accepted part owns, or is reached by a walk that reads one: the
device's read or write there is held at its home (R113, R153). -/
def State.areaHeld (s : State) (asid va n : Nat) (write : Bool) : Bool :=
  s.ownsSome && (List.range ((va % 2 ^ 16 + n + 2 ^ 16 - 1) / 2 ^ 16)).any fun i =>
    let at_ := max va (va / 2 ^ 16 * 2 ^ 16 + 2 ^ 16 * i)
    let m := min (va + n) (va / 2 ^ 16 * 2 ^ 16 + 2 ^ 16 * (i + 1)) - at_
    let at_ := at_ % 2 ^ 48
    (s.walkPlaces asid at_ write).any (fun a => s.owned (a / 64)) || match s.walk asid at_ { write := write, priv := true } with
      | .ok w => let pa := w.tr.pa at_; s.ownedIn (pa / 64) ((pa % 64 + m + 63) / 64)
      | .error _ => false

/-- The uncorrectable error that reading up to 16 bytes from each of some VAs would consume (R337). -/
def State.readsError (s : State) (asid : Nat) (vas : List Nat) : Option (Nat × Nat) :=
  if s.rel.poison.isEmpty then none else vas.findSome? fun va => s.devError asid (va % 2 ^ 48) 16

/-- The same for up to 16 bytes that the device reads from each of some VAs. -/
def State.readsHeld (s : State) (asid : Nat) (vas : List Nat) : Bool := vas.any fun va => s.areaHeld asid va 16 false

/-- Copies of a line dropped from a core's L1, under any tag. -/
def State.dropL1 (s : State) (core line : Nat) : State :=
  s.modCore core fun x => { x with l1 := x.l1.filter fun l => l.line != line }

/-- Bytes within a page written by the device for an address space and a core: an ENC line under the space's key, and no copy
of a line written left in the core's L1. -/
def State.deviceStore (s : State) (core asid : Nat) (tr : Translation) (pa : Nat) (bs : List Byte) : State :=
  let lines := (List.range ((pa % 64 + bs.length + 63) / 64)).map (pa / 64 + ·)
  let s := lines.foldl (fun t n => (t.mergeLine n).takeKey asid tr.enc (max pa (64 * n))) s
  let s := lines.foldl (fun t n => t.touchSector tr.mtype n true (decide (pa ≤ 64 * n) && decide (64 * n + 64 ≤ pa + bs.length))) s
  let s := ((s.store pa bs).cleanSectors pa bs.length).tellSignals pa bs.length
  s.modCore core fun x => { x with l1 := x.l1.filter fun l => !lines.contains l.line }

/-- Bytes written to a VA by the device, page by page, with A and D as for a privileged write; a page that does not
translate takes nothing. -/
def State.poke (s : State) (core asid va : Nat) : Nat → List Byte → State
  | 0, _ => s
  | fuel + 1, bs =>
    if bs.isEmpty then s
    else
      let n1 := 2 ^ 16 - va % 2 ^ 16
      let s := match s.walk asid va { write := true, priv := true } with
        | .error _ => s.peeked asid va
        | .ok w => (s.applyWalk asid va true w).deviceStore core asid w.tr (w.tr.pa va) (bs.take n1)
      s.poke core asid (va + n1) fuel (bs.drop n1)

/-! ## Code objects (R321 to R323, R256) -/

/-- An entry of the entry table (R323). -/
structure Entry where
  dpc : Nat
  lpc : Nat
  scratch : Nat
  dblk : Nat
  lblk : Nat
  acc : Nat
  deriving DecidableEq, Repr

/-- The section of a type: its offset and size (R322). -/
def State.section? (s : State) (asid base ty : Nat) : Option (Nat × Nat) :=
  match s.peekNat asid base 4, s.peekNat asid (base + 0x48) 4, s.peekNat asid (base + 0x50) 8 with
  | some magic, some n, some off =>
    if magic ≠ 0x214F5848 then none
    else ((List.range (min n 16)).filterMap fun i =>
      match s.peekNat asid (base + off + 32 * i) 4, s.peekNat asid (base + off + 32 * i + 8) 8,
          s.peekNat asid (base + off + 32 * i + 16) 8 with
      | some t, some o, some z => if t = ty then some (o, z) else none
      | _, _, _ => none).head?
  | _, _, _ => none

/-- The VAs that finding the section of a type reads: the header and the section table (R322). -/
def State.sectionReads (s : State) (asid base : Nat) : List Nat :=
  [base, base + 0x48, base + 0x50] ++ (match s.peekNat asid (base + 0x48) 4, s.peekNat asid (base + 0x50) 8 with
    | some n, some off => (List.range (min n 16)).map fun i => base + off + 32 * i
    | _, _ => [])

/-- Entries of the entry table: its size divided by 16 (R283). -/
def State.entryCount (s : State) (asid base : Nat) : Nat :=
  match s.section? asid base 3 with
  | some (_, z) => z / 16
  | none => 0

/-- Entry `i` of a code object (R323). -/
def State.entry? (s : State) (asid base i : Nat) : Option Entry :=
  match s.section? asid base 3 with
  | none => none
  | some (off, z) =>
    if z / 16 ≤ i then none
    else match s.peek asid true (base + off + 16 * i) 16 with
      | none => none
      | some b =>
        let w := leNat (b.drop 12)
        some { dpc := leNat (b.take 4), lpc := leNat ((b.drop 4).take 4), scratch := leNat ((b.drop 8).take 4),
               dblk := bitsAt w 0 8, lblk := bitsAt w 8 8, acc := bitsAt w 16 8 }

/-- The VAs that reading entry `i` of a code object reads. -/
def State.entryReads (s : State) (asid base i : Nat) : List Nat :=
  s.sectionReads asid base ++ match s.section? asid base 3 with
    | some (off, z) => if z / 16 ≤ i then [] else [base + off + 16 * i]
    | none => []

/-- The PC of an entry for a kind of core; none where it has no such text (R283, R323). -/
def Entry.pc? (e : Entry) (k : Kind) : Option Nat :=
  let p := if k.isL then e.lpc else e.dpc
  if p = 0xFFFFFFFF then none else some p

/-- The window of an entry for a kind of core, in blocks. -/
def Entry.blocks (e : Entry) (k : Kind) : Nat := if k.isL then e.lblk else e.dblk

/-- The state-map record of a dovetail index: its 16 bytes and its pairs, N of at most 64 (R256). -/
def State.stateMap? (s : State) (asid base idx : Nat) : Option (List Byte) :=
  match s.section? asid base 4, s.section? asid base 5 with
  | some (o4, z4), some (o5, _) =>
    if z4 / 4 ≤ idx then none
    else match s.peekNat asid (base + o4 + 4 * idx) 4 with
      | some r => if r = 0xFFFFFFFF then none
        else match s.peek asid true (base + o5 + r) 16 with
          | some b => s.peek asid true (base + o5 + r) (16 + 2 * min (leNat ((b.drop 8).take 2)) 64)
          | none => none
      | none => none
  | _, _ => none

/-- The VAs that reading the state-map record of a dovetail index reads, 4 KiB apart at most. -/
def State.mapReads (s : State) (asid base idx : Nat) : List Nat :=
  s.sectionReads asid base ++ match s.section? asid base 4, s.section? asid base 5 with
    | some (o4, z4), some (o5, _) =>
      if z4 / 4 ≤ idx then []
      else (base + o4 + 4 * idx) :: (match s.peekNat asid (base + o4 + 4 * idx) 4 with
        | some r => if r = 0xFFFFFFFF then [] else [base + o5 + r, base + o5 + r + 143]
        | none => [])
    | _, _ => []

/-! ## Code offsets (R39) -/

/-- The VA of a code offset of a fibre (R39). -/
def Fibre.codeVa (f : Fibre) (off : Word) : Nat := (f.codeBase.toNat + off.toNat) % 2 ^ 64

/-! ## Register blocks of a core (R35, R252) -/

/-- Blocks of a core's register file. -/
def Kind.blocks : Kind → Nat
  | .sequencer => 64
  | _ => 512
/-- Largest window, in blocks. -/
def Kind.maxWindow (k : Kind) : Nat := if k.isL then 32 else 8
/-- Fibres a core holds at most (R27): 2,048 on a density core, 512 on a latency core; a sequencer, which forks none, holds
8 gangs. -/
def Kind.maxFibres : Kind → Nat
  | .density => 2048
  | .latency => 512
  | .sequencer => 256
/-- Bound gangs a crew has at most (R252). -/
def Kind.maxGangs : Kind → Nat
  | .density => 32
  | .latency => 16
  | .sequencer => 8
/-- Resident crews' bench sets (R274). -/
def Kind.benchSets : Kind → Nat
  | .density => 64
  | .latency => 16
  | .sequencer => 8

/-- The kind of a core by its %core number (R65, R351). -/
def kindOfCore (n : Nat) : Kind := if 256 ≤ n then .sequencer else if n % 32 < 28 then .density else .latency

/-- Places of the crews that a core holds. -/
def State.residents (s : State) (core : Nat) : List Nat :=
  (List.range s.crews.length).filter fun c => match s.crews[c]? with
    | some k => k.status == .resident && k.core == core
    | none => false

/-- Blocks of a crew's bound gangs: each gang's largest live window (R261, R262). -/
def Crew.boundBlocks (k : Crew) : Nat :=
  ((List.range k.gangs.length).map fun g =>
    (k.fibres.map fun f => if f.live && f.bound && f.gang == g then f.size else 0).foldl max 0).sum

/-- The columns that loose fibres hold: home slot and block (R35). -/
def columnsOf (fs : List Fibre) : List (Nat × Nat) :=
  (fs.filter fun f => f.live && !f.bound).flatMap fun f => f.cols.map fun b => (f.home, b)

/-- A number put into a rising list. -/
def insertRising (n : Nat) : List Nat → List Nat
  | [] => [n]
  | x :: r => if n < x then n :: x :: r else if n = x then x :: r else x :: insertRising n r

/-- Blocks that columns lie in, in order: a block is held until its last column is released (R35). -/
def blocksOf (cs : List (Nat × Nat)) : List Nat := cs.foldl (fun l x => insertRising x.2 l) []

/-- Blocks of loose fibres (R35). -/
def looseBlocks (fs : List Fibre) : Nat := (blocksOf (columnsOf fs)).length

/-- The blocks that a loose window of `n` blocks of a home slot lies in, beside the columns that others hold: the first contiguous
run of those given to loose fibres in which the slot is free, with further ones above the last where the run reaches it (R34, R35).
Which run it is the spec does not say; the core may move a window that has no room to grow where it lies (DESIGN CHOICE, log 50). -/
def allot (cs : List (Nat × Nat)) (home n : Nat) : List Nat :=
  let pool := blocksOf cs
  let free := fun r => ((pool.drop r).take n).all fun b => !cs.contains (home, b)
  let r := ((List.range pool.length).find? free).getD pool.length
  (pool.drop r).take n ++ (List.range (r + n - pool.length)).map ((pool.getLast?.map (· + 1)).getD 0 + ·)

/-- Blocks in use on a core (R35). -/
def State.blocksUsed (s : State) (core : Nat) : Nat :=
  let ks := (s.residents core).filterMap fun c => s.crews[c]?
  (ks.map Crew.boundBlocks).sum + looseBlocks (ks.flatMap Crew.fibres)

/-- Columns held on a core. -/
def State.columns (s : State) (core : Nat) : List (Nat × Nat) :=
  columnsOf (((s.residents core).filterMap fun c => s.crews[c]?).flatMap Crew.fibres)

/-- Loose fibres of a crew whose windows have grown, or have no blocks yet, given a run for each window, one after another. -/
def State.allotLoose (s : State) (c : Nat) (is : List Nat) : State :=
  is.foldl (fun t i => match t.crews[c]? with
    | none => t
    | some k =>
      let f := k.fibre i
      if f.bound ∨ ¬ f.live ∨ f.size ≤ f.cols.length then t
      else
        let t := t.modFibres c [i] fun _ f => { f with cols := [] }
        let run := allot (t.columns k.core) f.home f.size
        t.modFibres c [i] fun _ f => { f with cols := run }) s

/-- Blocks of a bound gang's run: its largest live window (R261). -/
def Crew.runOf (k : Crew) (g : Nat) : Nat :=
  (k.fibres.map fun f => if f.live && f.bound && f.gang == g then f.size else 0).foldl max 0

/-- The first block of a fibre's window in its core's register file (R20): the core keeps the runs of its bound gangs one after
another and the blocks of loose fibres after them (DESIGN CHOICE, log 50: the core assigns it). -/
def State.windowBase (s : State) (c i : Nat) : BitVec 9 :=
  match s.crews[c]? with
  | none => 0
  | some k =>
    let f := k.fibre i
    let runs := fun cs : List Nat => ((cs.filterMap fun x => s.crews[x]?).map Crew.boundBlocks).sum
    if f.bound then
      BitVec.ofNat 9 (runs ((s.residents k.core).filter (· < c)) + ((List.range f.gang).map k.runOf).sum)
    else
      BitVec.ofNat 9 (runs (s.residents k.core) + (blocksOf (s.columns k.core)).idxOf (f.cols.headD 0))

/-- Live fibres on a core, beside which each crew may have a handler fibre (R27, R291). -/
def State.fibresOn (s : State) (core : Nat) : Nat :=
  (((s.residents core).filterMap fun c => s.crews[c]?).map fun k => (k.fibres.filter fun f => f.live && !f.handler).length).sum

/-- A core within its blocks and fibre slots (R27, R35, R252). -/
def State.coreFits (s : State) (core : Nat) : Bool :=
  decide (s.blocksUsed core ≤ (kindOfCore core).blocks) && decide (s.fibresOn core ≤ (kindOfCore core).maxFibres)

/-! ## The error log (R347, R348) -/

/-- An entry about a crew's launch. -/
def State.logCrew (s : State) (kind unit : Nat) (c : Nat) (addr : Nat) : State :=
  match s.crews[c]? with
  | none => s
  | some k => s.logError kind unit k.core k.desc.asid (s.logNames k).1 (s.logNames k).2 addr

/-- An uncorrectable error that no instruction consumes: logged, and raising nothing; the unit is tested (R337, R346). R348 gives
no kind for it, which is free (log 18). -/
def State.logSilent (s : State) (unit c addr : Nat) : State :=
  match s.crews[c]? with
  | none => s
  | some k => (s.orderTest 2 unit k.core addr).draw.logEntry (Config.silentKind s.draws) unit k.core k.desc.asid (s.logNames k).1
      (s.logNames k).2 addr

/-! ## Errors in memory (R337) -/

/-- Single-bit errors that a read meets are corrected, written back and logged (R337, R348 kind 1). -/
def State.correctAt (s : State) (c : Nat) (pa n : Nat) : State :=
  let hit := s.rel.correctable.filter fun p => match p with
    | .l2 x => x == pa / 64
    | .dram x => decide (pa / 8 ≤ x) && decide (x < pa / 8 + (n + 7) / 8)
    | _ => false
  if hit.isEmpty then s
  else
    let s := { s with rel := { s.rel with correctable := s.rel.correctable.filter fun p => !hit.contains p } }
    hit.foldl (fun t p => t.logCrew 1 (match p with
      | .l2 _ => 3
      | _ => 4) c pa) s

/-! ## Instruction fetch (R55, R67) -/

/-- The values of a range that writes since a step have replaced, the newest first: every write undone in turn. -/
def replaced (since pa : Nat) : List Byte → List Past → List (List Byte)
  | _, [] => []
  | bs, e :: r =>
    if since ≤ e.at_ ∧ pa < e.pa + e.old.length ∧ e.pa < pa + bs.length then
      let bs' := bs.mapIdx fun i b => if e.pa ≤ pa + i ∧ pa + i < e.pa + e.old.length then e.old.getD (pa + i - e.pa) b else b
      bs' :: replaced since pa bs' r
    else replaced since pa bs r

/-- The word of this core's instruction cache at a VA. -/
def CoreSt.cached? (x : CoreSt) (asid va : Nat) : Option Word :=
  (x.icache.find? fun c => c.asid == asid && c.va == va).map ICell.word

/-- Why a word of code is not to be had: TRANSLATION with its subcause and the VA, or ECC with its unit and the PA. -/
structure FetchStop where
  cause : Nat
  sub   : Nat
  place : Nat
  deriving DecidableEq, Repr

/-- The lane entry of a fetch that stops (R286). -/
def FetchStop.entry (e : FetchStop) : List Nat :=
  [e.place % 2 ^ 32, e.place / 2 ^ 32] ++ if e.cause = causeTranslation then [e.sub + 64] else []

/-- A word of code for a crew. Until the core executes IFENCE, a word is its new value or any that it has had
since the last one, or what the core's instruction cache holds: which is free, and is so at each fetch (R55). A paired copy
sees its own buffered writes (R159). A word whose memory, or an entry of whose walk, holds an uncorrectable error raises ECC unless the
instruction cache has it (R337). -/
def State.fetch (s : State) (core asid : Nat) (priv : Bool) (c : Nat) (pair : Option PairHalf) (va : Nat) :
    State × Except FetchStop Word :=
  match (if ((s.coreAt core).cached? asid va).isSome then none else s.walkError core asid va false),
      s.translate core asid va { fetch := true, priv := priv } with
  | some e, _ => (s, .error { cause := causeEcc, sub := e.1, place := e.2 })
  | none, (s, .error e) => (s, .error { cause := causeTranslation, sub := e, place := va })
  | none, (s, .ok tr) =>
    match s.eccAt (tr.pa va) 4, (s.coreAt core).cached? asid va with
    | some e, none => (s, .error { cause := causeEcc, sub := e.1, place := e.2 })
    | some _, some w => (s, .ok w)
    | none, _ =>
    match (s.correctAt c (tr.pa va) 4).homeRead asid tr (tr.pa va) 4 with
    | (s, bs) =>
      let mine := s.overlaid asid pair (tr.pa va) bs
      let new := leWord mine
      let olds := (((replaced (s.coreAt core).ifence (tr.pa va) bs (s.past.map (Past.under asid tr.enc))).map leWord)
        ++ (if mine = bs then [] else [leWord bs]) ++ ((s.coreAt core).cached? asid va).toList).filter (· != new)
      let put := fun (s : State) (w : Word) => s.modCore core fun k =>
        { k with icache := { asid := asid, va := va, word := w } :: k.icache.filter fun c => c.asid != asid || c.va != va }
      match olds with
      | [] => (put s new, .ok new)
      | _ :: _ =>
        let w := (new :: olds).getD (Config.fetchOld s.draws % (olds.length + 1)) new
        (put s.draw w, .ok w)

/-- Consecutive words of code; of a fetch that fails, why. -/
def State.fetchWords (s : State) (core asid : Nat) (priv : Bool) (c : Nat) (pair : Option PairHalf) (va : Nat) :
    Nat → State × Except FetchStop (List Word)
  | 0 => (s, .ok [])
  | n + 1 => match s.fetch core asid priv c pair va with
    | (s, .error e) => (s, .error e)
    | (s, .ok w) => match s.fetchWords core asid priv c pair (va + 4) n with
      | (s, .error e) => (s, .error e)
      | (s, .ok ws) => (s, .ok (w :: ws))

/-- A fetch of a word would reach a line that an engine or an accepted part owns, and is held at its home (R153, R156). -/
def State.fetchHeld (s : State) (core asid : Nat) (priv : Bool) (va : Nat) : Bool :=
  ((s.coreAt core).cached? asid va).isNone && (s.walkHeld core asid va false || match s.walk asid va { fetch := true, priv := priv } with
    | .ok w => s.owned (w.tr.pa va / 64)
    | .error _ => false)

/-! ## Mirroring (R338, R339) -/

/-- Blocks of the mirrored crews resident on a core. -/
def State.mirrorBlocks (s : State) (core : Nat) : Nat :=
  let ks := ((s.residents core).filterMap fun c => s.crews[c]?).filter Crew.mirror
  (ks.map Crew.boundBlocks).sum + looseBlocks (ks.flatMap Crew.fibres)

/-- Mirroring stands on a core: it has not been revoked there, and at most 256 blocks are in use (R338, R339). -/
def State.mirroring (s : State) (core : Nat) : Bool :=
  (s.coreAt core).revoked.isEmpty && decide (s.blocksUsed core ≤ 256)

/-- A grant that turned one state into another: where mirrors stood before it, and the blocks then in use and those mirrors no
longer fit, every mirror on the core is freed and the revocation of each mirrored crew that was resident logged (R339). -/
def State.revokeMirrors (s before : State) (core : Nat) : State :=
  let mirrored := (before.residents core).filter fun c => match before.crews[c]? with
    | some k => k.mirror
    | none => false
  if before.mirroring core = true ∧ ¬ mirrored.isEmpty
      ∧ (kindOfCore core).blocks < s.blocksUsed core + before.mirrorBlocks core then
    mirrored.foldl (fun t c => t.logCrew 3 0 c 0) (s.modCore core fun k => { k with revoked := before.residents core })
  else s

/-- Once no crew that was resident at a revocation remains, mirroring stands again (R339). -/
def State.restoreMirrors (s : State) (core : Nat) : State :=
  s.modCore core fun k => if k.revoked.any (s.residents core).contains then k else { k with revoked := [] }

/-! ## New fibres (R20, R21, R8) -/

/-- A window of zeros (R21). -/
def newRegs (blocks : Nat) : List Reg := List.replicate (8 * blocks) Reg.zero

/-! ## Sub-gangs and bins (R24, R28) -/

/-- Nothing of the instruction at the fibre's PC has taken effect: it waits on nothing, for tokens, at a dovetail point, for a line of a
home, for register blocks, or behind a fault of its crew. -/
def Fibre.unissued (f : Fibre) : Bool :=
  f.nextLane == 0 && f.accepted.isNone && (match f.wait with
    | .none => true
    | .tokens _ => true
    | .dovetail => true
    | .held => true
    | .blocks => true
    | .behindFault => true
    | _ => false)

/-- A fibre at an issue point: a D clause header, or an L doubleword, of which nothing has been issued, at repeat index 0
(R24). -/
def Fibre.atIssuePoint (f : Fibre) : Bool :=
  f.pc == f.hdr && f.unissued && (f.rep.map Rep.k).getD 0 == 0

/-- Two live fibres of one gang belong to one sub-gang: they stood in one already and stand at one PC with one partition
code, or they meet at an issue point (R24, R87). -/
def Fibre.together (f g : Fibre) : Bool :=
  f.pc == g.pc && f.part == g.part && (f.sub == g.sub || (f.atIssuePoint && g.atIssuePoint))

/-- A fibre of two sub-gangs that have met: it issues its instruction from the start, and waits for what that waits for. Where one of
them stood under a REP at index 0 the merged sub-gang goes on as its lowest lane did (DESIGN CHOICE, log 50). -/
def Fibre.met (lead f : Fibre) : Fibre := { f with wait := .none, waited := false, clause := [], rep := lead.rep }

/-- The sub-gangs of a gang formed anew: each fibre joins that of the lowest lane it belongs with, and a sub-gang is named
by its lowest lane (R24). -/
def Crew.regroup (k : Crew) (g : Nat) : Crew :=
  let mine := fun f : Fibre => f.live && f.bound && f.gang == g
  let lead := fun f : Fibre => (k.fibres.filter mine).find? fun h => h.together f
  { k with fibres := k.fibres.map fun f =>
      if mine f then
        let f' := { f with sub := ((lead f).map Fibre.home).getD f.home }
        if (k.fibres.filter mine).any fun h => h.sub != f.sub && (lead h).map Fibre.home == (lead f).map Fibre.home then Fibre.met ((lead f).getD f) f'
        else f'
      else f }

/-- Two loose fibres may share a bin: one key, two slots, and both with nothing of their instruction issued, or both at the same
lane of it (R28, R168, R258). That fibres which a restore brings back at different lanes of one instruction, or in different waits, do
not share a bin, which the key of R28 does not tell, is the model's choice (DESIGN CHOICE, log 50). -/
def Fibre.binsWith (h f : Fibre) : Bool :=
  !h.handler && h.pc == f.pc && h.part == f.part && h.home != f.home
    && ((h.unissued && f.unissued) || (h.nextLane == f.nextLane && h.wait == f.wait))

/-- A bin of a crew that a loose fibre may enter (R28): not issued, no handler in it, its key the fibre's, its slot free. Of
several such bins the spec names none: the oldest (DESIGN CHOICE, log 50). -/
def Crew.binFor (k : Crew) (f : Fibre) : Option Nat :=
  (List.range k.bins.length).find? fun b =>
    let ms := k.fibres.filter fun h => h.live && !h.bound && h.bin == some b
    (match k.bins[b]? with
      | some n => !n.issued
      | none => false)
      && !ms.isEmpty && ms.all fun h => h.binsWith f

/-- A loose fibre enters the binner (R28). -/
def Crew.enterBin (k : Crew) (now i : Nat) : Crew :=
  match k.binFor (k.fibre i) with
  | some b =>
    let fresh := (k.fibre i).unissued
    { k with fibres := k.fibres.mapIdx fun j f =>
               let f := if j == i then { f with bin := some b } else f
               if fresh && f.live && !f.bound && f.bin == some b then { f with wait := .none, waited := false } else f
             bins := k.bins.modify b fun n => { n with changed := now, aged := false } }
  | none =>
    { k with fibres := modAt [i] (fun _ f => { f with bin := some k.bins.length }) k.fibres,
             bins := k.bins ++ [{ tokens := Tokens.fresh, issued := false, aged := false, born := now, changed := now }] }

/-- The live fibres of an issued bin return to the binner under their new keys (R28); a handler fibre stays alone. -/
def Crew.rebin (k : Crew) (now b : Nat) : Crew :=
  let ms := k.members (.bin b)
  let k := { k with fibres := modAt ms (fun _ f => if f.handler then f else { f with bin := none }) k.fibres }
  ms.foldl (fun k i => if (k.fibre i).handler then k else k.enterBin now i) k

/-- An issued bin's fibres still share a PC. -/
def Crew.binTogether (k : Crew) (b : Nat) : Bool :=
  match (k.members (.bin b)).map fun i => (k.fibre i).pc with
  | [] => true
  | p :: ps => ps.all (· == p)

/-- The sub-gangs of every gang formed anew (R24). -/
def Crew.regroupAll (k : Crew) : Crew := (List.range k.gangs.length).foldl Crew.regroup k

/-- A unit's gang regrouped, or its bin's fibres sent back to the binner where they part. -/
def State.settle (s : State) (u : UnitId) : State :=
  s.modCrew u.crew fun k => match u.kind with
    | .gang g _ => k.regroup g
    | .bin b => if k.binTogether b then k else k.rebin s.now b

/-! ## Completing an instruction -/

/-- A fibre past its instruction: under REP at the next repeat; else at Next, which ends a D clause after its last word and
every L doubleword. DCOUNT counts it, saturating (R56, R246, R254, R285). Where a header read again at a resume no longer counts the
recorded instruction (R45), the word after that instruction is entered as a header (DESIGN CHOICE, log 53). -/
def Fibre.advance (kind : Kind) (f : Fibre) : Fibre :=
  let f := { f with dcount := min (f.dcount + 1) 0xFFFFFF, waited := false, nextLane := 0, accepted := none, wait := .none,
                    behind := 0 }
  match f.rep with
  | some r =>
    if r.k + 1 < r.count then { f with rep := some { r with k := r.k + 1 } }
    else
      let pc := f.pc + BitVec.ofNat 32 kind.step
      if kind.isL ∨ hdrCount f.hdrWord < (pc - f.hdr).toNat / 4 then
        { f with rep := none, pc := pc, hdr := pc, clause := [] }
      else { f with rep := none, pc := pc }
  | none =>
    let pc := f.pc + BitVec.ofNat 32 kind.step
    if kind.isL ∨ hdrCount f.hdrWord < (pc - f.hdr).toNat / 4 then { f with pc := pc, hdr := pc, clause := [] }
    else { f with pc := pc }

/-- A fibre sent to a target in a step, where it stands at an issue point; a target at or below its PC places it behind
every other ready sub-gang (R25). -/
def Fibre.goto (now : Nat) (target : Word) (f : Fibre) : Fibre :=
  { f with dcount := min (f.dcount + 1) 0xFFFFFF, waited := false, nextLane := 0, accepted := none, wait := .none,
           behind := if target.toNat ≤ f.pc.toNat then now + 1 else 0, rep := none, pc := target, hdr := target, clause := [] }

/-- The step is over. -/
def State.done (s : State) : State := { s with now := s.now + 1, turn := none }

/-! ## The end of crews and launches (R31, R71, R269, R288) -/

/-- A crew has nothing left to do: no live fibre and no engine operation (R31, R71). -/
def Crew.finished (k : Crew) : Bool :=
  k.fibres.all (fun f => !f.live) && k.copies.all (fun j => j.fault.isSome) && k.mats.isEmpty
    && k.stores.all (fun j => j.fault.isSome)

/-- Cycles of a crew's present residency (R269): a latency core's count one half, rounded up. -/
def State.residency (s : State) (k : Crew) : Nat :=
  let c := Config.residencyCycles k.core k.since s.now
  if k.kind.isL then (c + 1) / 2 else c

/-- A deficit within its limits (R268). -/
def clampDeficit (d : Int) (quantum : Nat) : Int :=
  max (-(2 ^ 47)) (min d (min (2 ^ 47) (4 * 256 * (max quantum 1 : Nat))))

/-- QUANTUM of a queue's scheduling word; 0 acts as 1 (R266). -/
def State.quantum (s : State) (q : Nat) : Nat := max 1 (bitsAt (s.queueAt q).sched 0 24)
/-- Priority level of a queue (R266). -/
def State.prio (s : State) (q : Nat) : Nat := bitsAt (s.queueAt q).sched 30 2

/-- A queue's deficit changed, within its limits. -/
def State.charge (s : State) (q : Nat) (d : Int) : State :=
  let quantum := s.quantum q
  s.modQueue q fun x => { x with deficit := clampDeficit (x.deficit + d) quantum }

/-- A crew leaves its core: no unit of it keeps an active slot, no request of it waits (R31). -/
def State.leaveCore (s : State) (c : Nat) : State :=
  match s.crews[c]? with
  | none => s
  | some k =>
    (s.modCore k.core fun x =>
      { x with active := x.active.filter fun u => u.crew != c, swaps := x.swaps.filter fun u => u.1.crew != c,
               requests := x.requests.filter fun r => r.crew != c }).restoreMirrors k.core

/-- A lane copy of a loose bin that is still to land: it runs to completion whatever becomes of its crew (R288, R289). -/
def LaneCopy.runsOn (j : LaneCopy) : Bool :=
  (match j.unit with
    | .bin _ => true
    | .gang _ _ => false) && j.fault.isNone && decide (j.done < j.len)

/-- What a crew's fibres wrote, know of or have read becomes bound to be seen by all, since the places of its fibres are about to
name others; nothing is kept of what they released or heard (DEDUCED, log 5). -/
def State.settleCrew (s : State) (c : Nat) : State :=
  let mine := fun q : FibreId => q.1 == c
  { s with
    past := s.past.map fun e => match e.known with
      | some ks => if ks.any mine ∨ e.seen.any mine then { e with known := none, rels := [] } else e
      | none => e
    pastScr := s.pastScr.filter fun e => e.crew != some c || e.old.isEmpty
    sync := { s.sync with
      fenced := s.sync.fenced.filter fun x => !mine x.1
      heard := s.sync.heard.filter fun x => !mine x.1
      fulls := s.sync.fulls.filter fun x => !mine x.by_
      fills := s.sync.fills.filter fun x => x.1.1 != c
      bench := s.sync.bench.filter fun x => x.1.1 != c
      early := s.sync.early.filter fun x => !mine x.fibre } }

/-- A core whose carve-out may change, a crew having been placed on it or having ended there (R124). -/
def State.settleCarve (s : State) (core : Nat) : State := s.modCore core fun x => { x with carveDue := true }

/-- A queue's estimate and deficit once a crew of it has ended: the estimate charged back, the last residency charged (R269). -/
def State.chargeBack (s : State) (q : Nat) (est last cost : Nat) : State :=
  (s.charge q ((est : Int) - last)).modQueue q fun x => { x with est := cost }

/-- A crew that has ended (R31, R269): its resources are released, its queue is charged back the estimate and charged the
last residency, and the queue's estimate becomes the crew's cost. Copies of a loose bin still to land go on (R288, R289). -/
def State.endCrew (s : State) (c : Nat) : State :=
  match s.crews[c]? with
  | none => s
  | some k =>
    let last := if k.status == .resident then s.residency k else 0
    let q := (s.launches[k.desc.launch]?.map Launch.queue).getD 0
    let s := s.modCrew c fun k => { k with
      status := .ended, cost := k.cost + last, copies := k.copies.filter LaneCopy.runsOn, mats := [], stores := [] }
    let s := ((s.leaveCore c).settleCrew c).settleCarve k.core
    (s.chargeBack q k.est last (k.cost + last)).modLaunch k.desc.launch fun l => { l with ended := l.ended + 1 }

/-- A crew that has finished ends (R31). A paired crew ends with its partner, after its last comparison (R340). -/
def State.checkCrewEnd (s : State) (c : Nat) : State :=
  match s.crews[c]? with
  | none => s
  | some k => if k.status == .resident && k.finished && k.pair.isNone then s.endCrew c else s

/-- Another part of a part's instruction has been accepted: the instruction goes on to retire (R118, R288). -/
def State.begun (s : State) (p : Part) : Bool := s.parts.any fun q => q.accepted && q.crew == p.crew && q.issue == p.issue

/-- A launch's resident and saved crews stop and are released; what has begun of a placed instruction goes on (R118, R288). -/
def State.stopCrews (s : State) (l : Nat) : State :=
  let s := (List.range s.crews.length).foldl (fun t c => match t.crews[c]? with
    | some k => if k.desc.launch == l && k.status != .ended then t.endCrew c else t
    | none => t) s
  let mine := (List.range s.crews.length).filter fun c => match s.crews[c]? with
    | some k => k.desc.launch == l
    | none => false
  { s with parts := s.parts.filter fun p => p.accepted || !mine.contains p.crew || s.begun p,
           bumps := s.bumps.filter fun b => !mine.contains b.unit.crew }

/-- A launch ends with a cause (R288): its resident and saved crews stop and are released, crews not yet placed never are;
the first cause stands. What is left to the command core is LAUNCH_END_WITH_CAUSE. -/
def State.endLaunch (s : State) (l cause : Nat) : State :=
  let s := s.modLaunch l fun x => { x with cause := x.cause.orElse fun _ => some (BitVec.ofNat 8 cause) }
  s.stopCrews l

/-! ## Taking a fault (R282 to R286, R8) -/

/-- The installed handler of a cause for an address space and a kind of core, by the trap table in force: its PC within its own
code object, its base and its window; none counts as not installed (R283). -/
def State.handler? (s : State) (asid cause : Nat) (kind : Kind) : Option (Nat × Nat × Nat) :=
  match s.traps? asid with
  | none => none
  | some t =>
    let base := leNat ((t.drop (16 * cause)).take 8)
    let w := leNat ((t.drop (16 * cause + 8)).take 4)
    if bitsAt w 31 1 = 0 then none
    else match s.entry? asid base (bitsAt w 0 12) with
      | none => none
      | some en => (en.pc? kind).map fun pc => (pc, base, en.blocks kind)

/-- PC_twin (R246): the other text's address of the last dovetail point passed, or of the kernel's entry; 0xFFFF_FFFF where
there is no other text. -/
def State.pcTwin (s : State) (d : CrewDesc) (kind : Kind) (f : Fibre) : Nat :=
  let base := d.codeBase.toNat
  if f.passed then
    match s.stateMap? d.asid base f.didx with
    | some r => if kind.isL then leNat (r.take 4) else leNat ((r.drop 4).take 4)
    | none => 0xFFFFFFFF
  else match s.entry? d.asid base d.entry with
    | some e => if kind.isL then e.dpc else e.lpc
    | none => 0xFFFFFFFF

/-- A mask of lanes as a number. -/
def laneMask (ls : List Nat) : Nat := ((List.range 32).map fun l => if ls.contains l then 2 ^ l else 0).sum

/-- What a fault record tells beside the state (R285). -/
structure FaultInfo where
  cause  : Nat
  sub    : Nat
  info   : Nat
  /-- lanes of the faulting lane mask, and the active lane mask -/
  lanes  : List Nat
  active : List Nat
  /-- lane entries: up to eight words each -/
  entries : List (Nat × List Nat)
  /-- the kind of core that `pcRun` ran on -/
  kind   : Kind
  pcRun  : Word
  hdr    : Word
  obs    : Word
  word   : Word
  ext    : Word
  rep    : Nat
  deriving DecidableEq, Repr

/-- The words of a lane entry, padded to eight. -/
def pad8 (ws : List Nat) : List Nat := (ws ++ List.replicate 8 0).take 8

/-- The 1,088 bytes of a fault record (R285, R246). The fibre told is the faulting one of the lowest lane. -/
def State.faultRecord (s : State) (k : Crew) (u : UnitKind) (f : Fibre) (x : FaultInfo) (seq : DWord) : List Byte :=
  let text := x.kind.code + (if f.passed then 4 * f.didx + 2 ^ 13 else 0)
  let place := match u with
    | .gang g _ => g + 32 * x.rep
    | .bin _ => 32 * x.rep + 2 ^ 11
  let head := [x.cause + 256 * x.sub, text, x.pcRun.toNat, s.pcTwin k.desc x.kind f, laneMask x.lanes, f.dcount,
    laneMask x.active, x.info, x.hdr.toNat, place, seq.toNat % 2 ^ 32, seq.toNat / 2 ^ 32, x.word.toNat, x.ext.toNat,
    x.obs.toNat, 0]
  let lanes := (List.range 32).flatMap fun l =>
    if x.lanes.contains l then pad8 (((x.entries.find? fun e => e.1 == l).map Prod.snd).getD []) else pad8 []
  (head ++ lanes).flatMap (leBytes 4)

/-- The trap-return link (R287). -/
def trapLink (seq : DWord) (u : UnitKind) : Nat :=
  let sel := match u with
    | .gang g _ => 4 * g
    | .bin _ => 2 ^ 7
  seq.toNat % 2 ^ 16 * 2 ^ 16 + sel + 1

/-- The handler fibre of R8 and R284: loose, privileged, every register 0 but v0:v1, the record's VA, and v7, the link. Its
code base is the handler's own code object. Its creator is the fibre whose lane slot it takes (DEDUCED, log 20). -/
def handlerFibre (ctx : DWord) (codeBase pc blocks home : Nat) (from_ : Fibre) (link : Nat) (bin : Nat) : Fibre :=
  let va := ctx + 0x100
  let pc := BitVec.ofNat 32 pc
  let f : Fibre :=
    { Fibre.empty with
      live := true, bound := false, priv := true, handler := true, codeBase := BitVec.ofNat 64 codeBase, pc := pc,
      hdr := pc, size := blocks, regs := newRegs blocks, dirty := List.range blocks, home := home,
      gang := from_.gang, ident := from_.ident, bin := some bin }
  ((f.setReg 0 { val := va.extractLsb' 0 32, s := false }).setReg 1 { val := va.extractLsb' 32 32, s := false }).setReg 7
    { val := BitVec.ofNat 32 link, s := false }

/-- The crew with the handler fibre of a fault, the faulting unit waiting (R284 step 4). -/
def Crew.withHandler (k : Crew) (h : HeldFault) (now : Nat) (base pc blocks : Nat) : Crew :=
  let seq := k.faultSeq + 1
  let ms := k.members h.unit
  let f := k.fibre ((ms.find? fun i => (k.fibre i).home == h.home).getD (ms.headD 0))
  { k with
    faultSeq := seq
    delivery := some { unit := h.unit, cause := h.cause, fibre := k.fibres.length, token := h.token, lanes := h.lanes }
    heldFault := none
    fibres := modAt ms (fun _ f => { f with wait := .inDelivery }) k.fibres
      ++ [{ handlerFibre k.desc.ctx base pc blocks h.home f (trapLink seq h.unit) k.bins.length with issuedAt := now }]
    bins := k.bins ++ [{ tokens := Tokens.fresh, issued := true, aged := false, born := now, changed := now }] }

/-- The VAs that delivering a fault of a crew by a handler reads: of the handler's entry, and of what tells PC_twin (R246, R283). -/
def State.deliveryReads (s : State) (k : Crew) (h : HeldFault) (base : Nat) : List Nat :=
  let entry := match s.traps? k.desc.asid with
    | some t => bitsAt (leNat ((t.drop (16 * h.cause.toNat + 8)).take 4)) 0 12
    | none => 0
  let own := k.desc.codeBase.toNat
  let f := k.fibre (((k.members h.unit).find? fun i => h.lanes.contains (k.fibre i).home).getD ((k.members h.unit).headD 0))
  s.entryReads k.desc.asid base entry
    ++ if f.passed then s.mapReads k.desc.asid own f.didx else s.entryReads k.desc.asid own k.desc.entry

/-- The place of a crew's fault record: offset 0x100 of its context area (R284). -/
def Crew.recordVa (k : Crew) : Nat := (k.desc.ctx.toNat + 0x100) % 2 ^ 64

/-- A crew's fault record cannot be written yet: an engine or an accepted part owns a line of it (R113, R153). -/
def State.recordHeld (s : State) (k : Crew) : Bool := s.areaHeld k.desc.asid k.recordVa 1088 true

/-- Delivers a fault whose record is made (R284): the sequence number rises, the record goes to offset 0x100 of the context
area, the handler fibre is created and the faulting unit waits. Without an installed handler the launch ends with the cause
(R282). Without room for the handler's window, and while the record's lines are owned, the fault is held. -/
def State.deliver (s : State) (c : Nat) (h : HeldFault) : State :=
  match s.crews[c]? with
  | none => s
  | some k =>
    match s.handler? k.desc.asid h.cause.toNat k.kind with
    | none => s.endLaunch k.desc.launch h.cause.toNat
    | some (pc, base, blocks) =>
      let s' := { s with crews := s.crews.set c (k.withHandler h s.now base pc blocks) }
      let s' := s'.allotLoose c [k.fibres.length]
      if s'.coreFits k.core ∧ s.recordHeld k = false then
        let rec_ := h.record.take 0x28 ++ leBytes 8 (k.faultSeq + 1).toNat ++ h.record.drop 0x30
        ((s'.revokeMirrors s k.core).peekedAll k.desc.asid (s.deliveryReads k h base)).poke k.core k.desc.asid k.recordVa 3 rec_
      else s.modCrew c fun k => { k with
        heldFault := some h
        fibres := modAt (k.members h.unit) (fun _ f => { f with wait := .inDelivery }) k.fibres }

/-- A paired copy whose buffered writes are given up (R344 step 1). -/
def PairHalf.discard (p : PairHalf) : PairHalf := { p with signature := 0, buffer := [] }

/-- What the paired copies of a launch have buffered given up. -/
def State.discardPairs (s : State) (l : Nat) : State :=
  { s with crews := s.crews.map fun k => if k.desc.launch = l then { k with pair := k.pair.map PairHalf.discard } else k }

/-- A protected launch that has met an error rolls back, or ends where it may not: its crews stop and their buffered writes are discarded,
and PROTECTED_ROLLBACK does the rest (R344 step 1). -/
def State.stopProtected (s : State) (l cause : Nat) : State :=
  match s.launches[l]? with
  | none => s
  | some x =>
    if x.rollbacks < 2 ∧ ¬ x.noSnapshot then
      ((s.stopCrews l).discardPairs l).modLaunch l fun x => { x with rolling := true }
    else s.endLaunch l cause

/-- What the error log will tell of an uncorrectable error that a launch's crew consumed (R348). -/
def State.noteError (s : State) (k : Crew) (x : FaultInfo) : State :=
  if x.cause = causeEcc then
    let entry := (x.entries.head?.map Prod.snd).getD []
    s.modLaunch k.desc.launch fun l => { l with
      errUnit := x.info, errCore := k.core, errAddr := entry.getD 0 0 + 2 ^ 32 * entry.getD 1 0 }
  else s

/-- Takes a fault: the one operation through which every instruction and every fetch raises one (R282 to R286).
A unit that faults while another fault of its crew is in delivery stays at the instruction, without effect, and issues it
again later. A handler fibre's fault ends the launch. An uncorrectable error of a protected launch rolls it back (R344). A
fault on a stack sequencer is held while the crew moves to a density core (R265). -/
def State.takeFault (s : State) (u : UnitId) (x : FaultInfo) (token : Option Nat) : State :=
  match s.crews[u.crew]? with
  | none => s
  | some k =>
    let ms := k.members u.kind
    let f := k.fibre ((ms.find? fun i => x.lanes.contains (k.fibre i).home).getD (ms.headD 0))
    let s := s.noteError k x
    let isProtected := match s.launches[k.desc.launch]? with
      | some l => pktProtected l.words
      | none => false
    if x.cause = causeEcc ∧ isProtected = true then s.stopProtected k.desc.launch x.cause
    else if f.handler then s.endLaunch k.desc.launch x.cause
    else if k.delivery.isSome ∨ k.heldFault.isSome then
      s.modFibres u.crew ms fun _ f => { f with wait := .behindFault }
    else
      let h : HeldFault :=
        { unit := u.kind, cause := BitVec.ofNat 8 x.cause, lanes := x.lanes, token := token,
          home := x.lanes.foldl min (if x.lanes.isEmpty then (k.fibre (ms.headD 0)).home else 31),
          record := s.faultRecord k u.kind f x (k.faultSeq + 1) }
      if k.kind == .sequencer then
        s.modCrew u.crew fun k =>
          { k with heldFault := some h, returning := true,
                   fibres := modAt ms (fun _ f => { f with wait := .inDelivery }) k.fibres }
      else s.deliver u.crew h

/-- The base word and extension word of the instruction at a fibre's PC, from the words it has latched (R285). -/
def Fibre.faultWords (kind : Kind) (f : Fibre) : Word × Word :=
  if kind.isL then (f.clause.getD 1 0, f.clause.getD 0 0)
  else (f.clause.getD ((f.pc - f.hdr).toNat / 4 - 1) 0, 0)

/-- The record fields of a fault at the issuing instruction. -/
def Ctx.faultInfo (c : Ctx) (cause sub info : Nat) (lanes : List Nat) (entries : List (Nat × List Nat)) : FaultInfo :=
  let f := c.fibre (c.all.headD 0)
  let w := f.faultWords c.kind
  { cause := cause, sub := sub, info := info, lanes := lanes, active := c.act.map c.lane, entries := entries,
    kind := c.kind, pcRun := f.pc, hdr := if c.kind.isL then f.pc else f.hdr, obs := f.pc, word := w.1, ext := w.2, rep := (f.rep.map Rep.k).getD 0 }

/-- The record fields of a deferred copy fault that the issuing instruction observes (R183, R285, R286). -/
def Ctx.deferredInfo (c : Ctx) (d : Deferred) : FaultInfo :=
  let f := c.fibre (c.all.headD 0)
  { cause := d.cause.toNat % 256, sub := d.info.toNat % 32,
    info := if d.cause.toNat = causeTranslation then 2 ^ 31 else d.info.toNat / 32,
    lanes := d.entries.map Prod.fst, active := d.active,
    entries := d.entries.map fun e => (e.1, e.2.map BitVec.toNat), kind := d.kind, pcRun := d.pc,
    hdr := if c.kind.isL then f.pc else f.hdr, obs := f.pc, word := d.word, ext := d.ext,
    rep := (f.rep.map Rep.k).getD 0 }

/-! ## Returning from a fault (R287) -/

/-- A fibre let go on after its fault: at the faulting instruction again, or at Next. After ILLEGAL-CLAUSE, Next is the
address after the clause that the faulting header counts; a skipped instruction under REP gives up its other repeats. Inside a D clause the header and the words are
read again before it issues (R45). -/
def Fibre.resume (kind : Kind) (skip : Bool) (clauseNext : Option Word) (f : Fibre) : Fibre :=
  if skip then
    match clauseNext with
    | some n => { f.goto 0 n with dcount := f.dcount }
    | none => { ({ f with rep := none } : Fibre).advance kind with dcount := f.dcount, clause := [] }
  else { f with wait := .none, waited := false, clause := [] }

/-- Source and destination of a form are global: s 0 g2s, 1 s2g, 2 g2g, 3 s2s (R182). -/
def srcGlobal (s : Nat) : Bool := s == 0 || s == 2
/-- The destination of a form is global. -/
def dstGlobal (s : Nat) : Bool := s == 1 || s == 2

/-- The translation of a VA as a core's cached entries give it, or the tables where none covers it. -/
def State.translation? (s : State) (core asid va : Nat) : Option Translation :=
  match (s.coreAt core).tlb.find? fun e => e.covers asid (s.gen asid) va with
  | some e => some e.tr
  | none => (s.walk asid va { priv := true }).toOption.map Walk.tr

/-- The physical line that an engine's write to a VA will own: none for a destination that is not ordinary memory (R153). -/
def State.engineLine (s : State) (core asid va : Nat) : Option Nat :=
  match s.translation? core asid va with
  | none => none
  | some tr => let pa := tr.pa va; if inMmio pa then none else some (pa / 64)

/-- Bytes of an STC destination format (R53). -/
def stcBytes (fmt : BitVec 3) : Nat :=
  match fmt.toNat with
  | 0 => 4
  | 7 => 4
  | 1 => 2
  | 2 => 2
  | _ => 1

/-- Bytes of an element of a destination format. -/
def fmtBytes (fmt : Nat) : Nat := stcBytes (BitVec.ofNat 3 fmt)

/-- PITCH, FMT, MODE and SPACE of an ACCST block's word 2 (R189). -/
def storePitch (w : Word) : Nat := bitsAt w.toNat 16 16
/-- Format code. -/
def storeFmt (w : Word) : Nat := bitsAt w.toNat 8 3
/-- Final mode. -/
def storeMode (w : Word) : Nat := bitsAt w.toNat 11 3
/-- The destination is in scratchpad. -/
def storeScratch (w : Word) : Bool := w.getLsbD 7

/-- The physical lines that a tile store's remaining rows touch (R153). -/
def State.rowLines (s : State) (core asid : Nat) (dest : DWord) (pitch n m : Nat) : List Nat :=
  ((List.range 128).flatMap fun r =>
    if r < m then []
    else
      let at_ := (dest + BitVec.ofNat 64 (r * pitch)).toNat % 2 ^ 48
      (List.range (n / 64 + 2)).filterMap fun i =>
        if at_ + n ≤ at_ / 64 * 64 + 64 * i then none else s.engineLine core asid (at_ / 64 * 64 + 64 * i)).eraseDups

/-- The lines that a lane copy of an address space takes as it is issued again (R153, R183, R184). -/
def LaneCopy.retake (s : State) (core asid : Nat) (j : LaneCopy) : LaneCopy :=
  { j with fault := none, bytes := none,
           line := if dstGlobal j.form && decide (j.done < j.len) then s.engineLine core asid (j.dst.toNat % 2 ^ 48) else none }

/-- The lines that a tile store takes as it is issued again for its remaining rows. -/
def StoreJob.retake (s : State) (core asid : Nat) (j : StoreJob) : StoreJob :=
  let x := j.block.getD 2 0
  { j with fault := none, lines := if storeScratch x then []
      else s.rowLines core asid (j.block.getD 1 0 ++ j.block.getD 0 0) (storePitch x) (128 * fmtBytes (storeFmt x)) j.done }

/-- The lines that the engine operations of a crew took which were issued in a step. -/
def Crew.linesSince (k : Crew) (order : Nat) : List Nat :=
  (k.copies.filter fun j => decide (order ≤ j.order)).filterMap LaneCopy.line
    ++ (k.stores.filter fun j => decide (order ≤ j.order)).flatMap StoreJob.lines

/-- The deferred fault that was delivered is done with: with SKIP the lane copies that it names, or its matrix operation, are dropped,
else they are issued again on the same token, and own their lines from now (R153, R183, R287). -/
def State.answerDeferred (s : State) (k : Crew) (u : UnitKind) (token : Nat) (skip : Bool) : Crew :=
  match (k.tokens u).deferred.find? fun d => d.token == token with
  | none => k
  | some d =>
    let k := k.modTokens u fun t => { t with
      deferred := t.deferred.filter fun x => x.group != d.group
      counts := if skip then t.counts else t.counts.modify token (· + 1) }
    if skip then
      { k with copies := k.copies.filter fun j => j.group != d.group,
               mats := k.mats.filter fun j => j.order != d.group
               stores := k.stores.filter fun j => j.order != d.group }
    else
      { k with
        copies := k.copies.map fun j =>
          if j.group == d.group then { j.retake s k.core k.desc.asid with order := s.tick, group := s.tick } else j
        mats := k.mats.map fun j => if j.order == d.group then { j with failed := false, order := s.tick } else j
        stores := k.stores.map fun j =>
          if j.order == d.group then { j.retake s k.core k.desc.asid with order := s.tick } else j }

/-- The places in the order of issue of the engine operations that a delivered deferred fault has issued again. -/
def Crew.answered (k : Crew) (u : UnitKind) (token : Nat) : List Nat :=
  match (k.tokens u).deferred.find? fun d => d.token == token with
  | none => []
  | some d => ((k.copies.filter fun j => j.group == d.group).map LaneCopy.order ++ (k.stores.filter fun j => j.order == d.group).map StoreJob.order).eraseDups

/-- RET through a trap-return link (R287): none where the link does not name the fault in delivery. The handler fibre ends
and returns its blocks; the unit resumes; units that waited behind the fault issue again. The core drops the lines that copies issued
again have taken from its L1 (R128, R153). -/
def State.trapReturn (s : State) (u : UnitId) (link : Word) : Option State :=
  match s.crews[u.crew]? with
  | none => none
  | some k =>
    match k.delivery with
    | none => none
    | some d =>
      let loose := link.getLsbD 7
      let okUnit := match d.unit with
        | .gang g _ => !loose && bitsAt link.toNat 2 5 == g
        | .bin _ => loose
      if ¬ (okUnit = true ∧ link.toNat / 2 ^ 16 = k.faultSeq.toNat % 2 ^ 16) then none
      else
        let skip := link.getLsbD 1 || d.cause.toNat == causeTrap || d.cause.toNat == causeSysc
        let ms := k.members d.unit
        let f0 := k.fibre (ms.headD 0)
        let head := if f0.hdrWord = 0 then BitVec.ofNat 32 ((s.peekNat k.desc.asid (f0.codeVa f0.hdr) 4).getD 0) else f0.hdrWord
        let clauseNext :=
          if d.cause.toNat = causeClause ∧ ¬ k.kind.isL then some (f0.hdr + BitVec.ofNat 32 (4 * (hdrCount head + 1)))
          else none
        let dropToken := skip && d.token.isSome
        let fibres := k.fibres.mapIdx fun i f =>
          if i == d.fibre then { f with live := false, regs := [], dirty := [], cols := [] }
          else if ms.contains i then
            (if dropToken then { f with wait := .none, waited := false, clause := [] } else f.resume k.kind skip clauseNext)
          else if f.wait == .behindFault then { f with wait := .none }
          else f
        let k := { k with fibres := fibres, delivery := none }
        let again := match d.token with
          | some t => if skip then [] else k.answered d.unit t
          | none => []
        let k := match d.token with
          | some t => s.answerDeferred k d.unit t skip
          | none => k
        let s := again.foldl (fun t o => t.renote u.crew o t.tick) { s with crews := s.crews.set u.crew k.regroupAll }
        some (((k.linesSince s.tick).foldl (fun t l => t.dropL1 k.core l) s).settle { u with kind := d.unit })

/-! ## Issuing an instruction -/

/-- The step of a REP code (R56). -/
def repStep (code : Nat) : Nat := if code = 3 then 4 else code

/-- The tokens that must be complete before the instruction at a fibre's PC issues: the header's at WFROM in D, before the
first repeat; WMASK of the extension in L (R43, R46). -/
def issueMask (kind : Kind) (pf : Prefix) (hdr : Word) (f : Fibre) : BitVec 8 :=
  if f.waited || (f.rep.map Rep.k).getD 0 != 0 then 0
  else if kind.isL then pf.wait
  else if hdrWfrom hdr = (f.pc - f.hdr).toNat / 4 - 1 ∧ hdrWfrom hdr ≠ 15 then hdrWmask hdr else 0

/-- A fibre's operand lies outside its window (R34); one that names no register of the lane has span 0. -/
def outside (o : Operand) (off : Nat) (f : Fibre) : Bool := o.span != 0 && decide (8 * f.size < o.num + off + o.span)

/-- A nonzero step for a field that the repeated instruction lacks (R56). -/
def stepFault (i : Info) (r : Rep) : Bool :=
  (r.stepD != 0 && i.d.isNone) || (r.stepA != 0 && i.a.isNone) || (r.stepB != 0 && i.b.isNone)
    || (r.stepC != 0 && i.c.isNone)

/-- Operands with what REP adds to their numbers. -/
def Ctx.operands (c : Ctx) (i : Info) : List (Operand × Nat) :=
  (i.d.toList.map (·, c.kd)) ++ (i.a.toList.map (·, c.ka)) ++ (i.b.toList.map (·, c.kb)) ++ (i.c.toList.map (·, c.kc))

/-- The registers that an instruction reads, with what REP adds to their numbers. -/
def Ctx.sources (c : Ctx) (i : Instr) : List (Operand × Nat) :=
  let x := i.info
  ((if i.readsD then x.d.toList else []).map (·, c.kd)) ++ (x.a.toList.map (·, c.ka)) ++ (x.b.toList.map (·, c.kb))
    ++ (x.c.toList.map (·, c.kc))

/-- The registers that an instruction writes when it completes: its field d, and the link v7 of a call. -/
def Ctx.targets (c : Ctx) (i : Instr) : List (Operand × Nat) :=
  if i.links then [(⟨7, 1, 1⟩, 0)] else if i.holdsD then [] else i.info.d.toList.map (·, c.kd)

/-- Register numbers of operands. -/
def numbersOf (os : List (Operand × Nat)) : List Nat := os.flatMap fun o => (List.range o.1.span).map (o.1.num + o.2 + ·)

/-- The token of an instruction that arms one, and whether it is a CPA (R181). -/
def Instr.arms : Instr → Option (Nat × Bool)
  | .cpaD _ _ _ t _ => some (t.toNat, true)
  | .cpaL _ _ _ t _ => some (t.toNat, true)
  | .mmaf8aD _ t => some (t.toNat, false)
  | .mmaf8aL _ t => some (t.toNat, false)
  | .mmaf8bD _ t => some (t.toNat, false)
  | .mmaf8bL _ t => some (t.toNat, false)
  | .mmak8D _ _ _ t => some (t.toNat, false)
  | .mmak8L _ _ _ t => some (t.toNat, false)
  | .mmab16D _ t => some (t.toNat, false)
  | .mmab16L _ t => some (t.toNat, false)
  | .mmah16D _ t => some (t.toNat, false)
  | .mmah16L _ t => some (t.toNat, false)
  | .mmai8D _ t => some (t.toNat, false)
  | .mmai8L _ t => some (t.toNat, false)
  | .accstD _ t => some (t.toNat, false)
  | .accstL _ t => some (t.toNat, false)
  | _ => none

/-- The active lanes whose registers an instruction reads: of an MMA or ACCST the elected lane alone, the lowest (R230, R285). -/
def Ctx.readers (c : Ctx) (i : Instr) : List Nat :=
  match Instr.arms i with
  | some (_, false) => c.act.take 1
  | _ => c.act

/-- The uncorrectable errors in registers that the active lanes read: lane, ECC unit 0 or 1, register number (R337). An
instruction that reads no S meets no error of the sticky plane. -/
def State.badRegs (s : State) (c : Ctx) (i : Instr) : List (Nat × Nat × Nat) :=
  (c.readers i).filterMap fun p => (numbersOf (c.sources i)).findSome? fun r =>
    if s.rel.poison.contains (.register c.u.crew p r) then some (c.lane p, 0, r)
    else if !i.ignoresS && s.rel.poison.contains (.sticky c.u.crew p r) then some (c.lane p, 1, r)
    else none

/-- Those that no mirror serves (R337, R338). -/
def State.regError (s : State) (c : Ctx) (i : Instr) : List (Nat × Nat × Nat) :=
  if s.mirroring c.core ∧ c.crew.mirror then [] else s.badRegs c i

/-- The single-bit errors in registers that the active lanes read. -/
def State.weakRegs (s : State) (c : Ctx) (i : Instr) : List Poison :=
  (c.readers i).flatMap fun p => ((numbersOf (c.sources i)).map (Poison.register c.u.crew p ·)).filter s.rel.correctable.contains

/-- Reads of registers that meet an error and go on: a single-bit error is corrected, written back and logged; an uncorrectable
one that the mirror serves is logged (R337, R338, R348 kinds 1 and 2). -/
def State.serveRegs (s : State) (c : Ctx) (i : Instr) : State :=
  let weak := s.weakRegs c i
  let s := (s.badRegs c i).foldl (fun t e => t.logCrew 2 e.2.1 c.u.crew e.2.2) s
  if weak.isEmpty then s
  else weak.foldl (fun t p => match p with
      | .register _ _ r => t.logCrew 1 0 c.u.crew r
      | _ => t) { s with rel := { s.rel with correctable := s.rel.correctable.filter fun p => !weak.contains p } }

/-- The errors that stand in registers which the active lanes are about to write. -/
def State.staleRegs (s : State) (c : Ctx) (i : Instr) : List Poison :=
  (s.rel.poison ++ s.rel.correctable).filter fun p => c.act.any fun f => (numbersOf (c.targets i)).any fun r =>
    p == .register c.u.crew f r || p == .sticky c.u.crew f r

/-- The state without the errors named. -/
def State.without (s : State) (ps : List Poison) : State :=
  { s with rel := { s.rel with
      poison := s.rel.poison.filter fun p => !ps.contains p
      correctable := s.rel.correctable.filter fun p => !ps.contains p } }

/-- An effect that completes has written its registers anew: the errors that stood in them are gone. -/
def Eff.fresh (ps : List Poison) (e : Eff) : Eff :=
  if ps.isEmpty then e
  else match e with
    | .next s => .next (s.without ps)
    | .jump s ts => .jump (s.without ps) ts
    | e => e

/-- Every active lane named (R285). -/
def Ctx.raiseAll (c : Ctx) (s : State) (cause info : Nat) : Eff := .raise s cause 0 info (c.act.map c.lane) []

/-- A FORK whose block count exceeds the largest window of the kind (R73). On a stack sequencer, of which R73 says nothing, it is
checked before the return trap that FORK takes there (R92), as an encoding fault would be (DESIGN CHOICE, log 53). -/
def Instr.tooWide (k : Kind) : Instr → Bool
  | .forkD _ n => decide (k.maxWindow < n.toNat)
  | .forkL _ n => decide (k.maxWindow < n.toNat)
  | .forkTryD _ _ n => decide (k.maxWindow < n.toNat)
  | .forkTryL _ _ n => decide (k.maxWindow < n.toNat)
  | _ => false

/-- The checks of R60 that every instruction shares, in their order, then the return trap of R264 and the registers' ECC; WINDOW names
the lanes whose registers the instruction reads (R285);
none where the instruction's own effect may begin. -/
def Ctx.check (c : Ctx) (pf : Prefix) (i : Instr) (rep : Option Rep) (s : State) : Option Eff :=
  let x := i.info
  if i.encFault pf = some .illegalOp then some (c.raiseAll s causeOp 0)
  else if i.encFault pf = some .illegalField ∨ (rep.map (stepFault x)).getD false = true
      ∨ (c.operands x).any (fun o => decide ((o.1.num + o.2) % o.1.align ≠ 0)) = true then some (c.raiseAll s causeField 0)
  else if x.loose = true ∧ c.all.any (fun p => !(c.fibre p).bound) = true then some (c.raiseAll s causeLoose 0)
  else if x.priv = true ∧ c.all.any (fun p => !(c.fibre p).priv) = true then some (c.raiseAll s causePrivilege 0)
  else
    let out := (c.readers i).filter fun p => Instr.tooWide c.kind i || (c.operands x).any fun o => outside o.1 o.2 (c.fibre p)
    if ¬ out.isEmpty then some (.raise s causeWindow 0 0 (out.map c.lane) [])
    else if c.kind = .sequencer ∧ ¬ x.seq then
      some (.stay (s.modCrew c.u.crew fun k => { k with returning := true }))
    else match s.regError c i with
      | [] => none
      | e :: es => some (.raise s causeEcc 0 e.2.1 ((e :: es).map Prod.fst) ((e :: es).map fun y => (y.1, [y.2.2, 0])))

/-- The issuing unit as an instruction sees it: none where the unit has no live fibre. -/
def State.ctx? (s : State) (u : UnitId) (pf : Prefix) : Option Ctx :=
  match s.crews[u.crew]? with
  | none => none
  | some k =>
    match k.members u.kind with
    | [] => none
    | m :: ms =>
      let rep := (k.fibre m).rep
      let step := fun g : Rep → Nat => (rep.map fun r => r.k * g r).getD 0
      some { u := u, crew := k, all := m :: ms,
             act := (m :: ms).filter fun p => (k.fibre p).pred pf.guard.toNat != pf.neg,
             kd := step Rep.stepD, ka := step Rep.stepA, kb := step Rep.stepB, kc := step Rep.stepC }

/-- A unit whose effect has ended as told: its fibres moved on, its fault taken, its launch ended. -/
def Ctx.conclude (c : Ctx) : Eff → State
  | .next s => (s.modFibres c.u.crew c.all fun _ f => f.advance c.kind).settle c.u
  | .jump s ts => (s.modFibres c.u.crew c.all fun i f => match ts.find? fun t => t.1 == i with
      | some t => f.goto s.now t.2
      | none => f.advance c.kind).settle c.u
  | .stay s => s
  | .left s => s.settle c.u
  | .raise s cause sub info lanes entries => s.takeFault c.u (c.faultInfo cause sub info lanes entries) none
  | .deferred s d => s.takeFault c.u (c.deferredInfo d) (some d.token)
  | .endLaunch s cause => s.endLaunch c.crew.desc.launch cause

/-- Every token of a mask observed: the wait for them, then a deferred copy fault attached to one of them; none where the
instruction may go on (R155, R183, R185). -/
def Ctx.observe (c : Ctx) (mask : BitVec 8) (s : State) : Option Eff :=
  let t := c.crew.tokens c.u.kind
  if t.complete mask then (t.deferred.find? fun d => mask.getLsbD d.token).map (Eff.deferred s)
  else some (.stay (s.modFibres c.u.crew c.all fun _ f => { f with wait := .tokens mask }))

/-- What stands before an instruction's checks: the token wait of its clause or extension (R43, R46, R183). -/
def Ctx.tokenWait (c : Ctx) (pf : Prefix) (hdr : Word) (s : State) : Option Eff :=
  let mask := issueMask c.kind pf hdr (c.fibre (c.all.headD 0))
  if mask = 0 then none else c.observe mask s

/-- Its issue would raise a token count above 255, or exceed the crew's 4,096 lane copies or 32 matrix operations and tile
stores: it stalls before its checks (R181, R359). -/
def Ctx.stalled (c : Ctx) (i : Instr) : Bool :=
  match Instr.arms i with
  | none => false
  | some (t, isCopy) =>
    !c.act.isEmpty
      && (decide (255 ≤ (c.crew.tokens c.u.kind).counts.getD t 0)
        || (isCopy && decide (4096 < (c.crew.copies.filter fun j => decide (j.done < j.len)).length + c.act.length))
        || (!isCopy && decide (32 ≤ c.crew.mats.length + c.crew.stores.length)))

/-- A block request is the unit's: a fibre of it stands in the request (R35). -/
def Ctx.owns (c : Ctx) (r : Request) : Bool := r.crew == c.u.crew && r.members.any c.all.contains

/-- The unit stands at the first instruction of a latched D clause that is a dovetail point, outside any REP (R253). -/
def Ctx.atDovetail (c : Ctx) : Bool :=
  let f := c.fibre (c.all.headD 0)
  !c.kind.isL && hdrDove f.hdrWord && f.pc == f.hdr + 4 && f.rep.isNone

/-- The unit stops here for a pending migration: it stands before the first instruction of a dovetail clause, has issued nothing
of it, and is not about to repeat it after a fault, having passed the point (R247, R254, R258). -/
def Ctx.mustStop (c : Ctx) : Bool :=
  let f := c.fibre (c.all.headD 0)
  c.atDovetail && c.crew.pending.isSome && f.unissued
    && !(f.passed && f.didx == hdrDidx f.hdrWord && f.dcount == 0)

/-- The unit stops before the first instruction of its dovetail clause: it stands at the header again, and no request of it
waits (R258). -/
def Ctx.stopAtDovetail (c : Ctx) (s : State) : State :=
  (s.modCore c.core fun x => { x with requests := x.requests.filter fun r => !c.owns r }).modFibres c.u.crew c.all fun _ f =>
    { f with pc := f.hdr, clause := [], hdrWord := 0, waited := false, wait := .dovetail }

/-- Issuing the first instruction of a dovetail clause passes the point (R254), and an instruction whose token wait is over
does not wait again when it is retried (R43). -/
def Ctx.begin (c : Ctx) (pf : Prefix) (s : State) : State :=
  let f := c.fibre (c.all.headD 0)
  let s := if issueMask c.kind pf f.hdrWord f = 0 then s
    else s.modFibres c.u.crew c.all fun _ f => { f with waited := true }
  if c.atDovetail then
    s.modFibres c.u.crew c.all fun _ f => { f with passed := true, didx := hdrDidx f.hdrWord, dcount := 0 }
  else s

/-- The unit's fibres marked as issuing now (R26, R276). -/
def Ctx.stamped (c : Ctx) (s : State) : State := s.modFibres c.u.crew c.all fun _ f => { f with issuedAt := s.now }

/-- The state in which an instruction's checks and its own effect begin. -/
def Ctx.start (c : Ctx) (pf : Prefix) (s : State) : State := c.begin pf (c.stamped s)

/-- Fibres of the unit in which a loose bin's copy fault is pending (R289). -/
def Ctx.loosePending (c : Ctx) : List (Nat × Deferred) := c.all.flatMap fun i => (c.fibre i).dflt.map fun d => (i, d)

/-- The unit raises a copy fault that fibres of it were saved with, at its next instruction (R290): its record tells the copies' own
instruction and lanes (R183, R246). It waits while another fault of the crew is in delivery. -/
def Ctx.raiseLoose (c : Ctx) (ps : List (Nat × Deferred)) (s : State) : State :=
  if c.crew.delivery.isSome ∨ c.crew.heldFault.isSome then
    s.modFibres c.u.crew c.all fun _ f => { f with wait := .behindFault }
  else match ps with
    | [] => s
    | p :: _ => (s.modFibres c.u.crew c.all fun _ f => { f with dflt := f.dflt.erase p.2 }).takeFault c.u
        (c.deferredInfo p.2) none

/-! ## Loads that may return a later write (R134) -/

/-- The instruction orders its fibre's accesses, waits for what they may depend on, hands them to another agent, or ends or moves the
fibre: no load before it returns a later write. -/
def Instr.orders : Instr → Bool
  | .fenceD _ _ _ => true
  | .fenceL _ _ _ => true
  | .ifenceD => true
  | .ifenceL => true
  | .ldaqD _ _ _ _ _ => true
  | .ldaqL _ _ _ _ _ => true
  | .strlD _ _ _ _ _ => true
  | .strlL _ _ _ _ _ => true
  | .ldsD _ _ _ m _ => m != 0
  | .ldsL _ _ _ m _ => m != 0
  | .stsD _ _ _ m _ => m != 0
  | .stsL _ _ _ m _ => m != 0
  | .tokqD _ _ _ => true
  | .tokqL _ _ _ => true
  | .waittD _ => true
  | .waittL _ => true
  | .cpaD _ _ _ _ _ => true
  | .cpaL _ _ _ _ _ => true
  | .mmaf8aD _ _ => true
  | .mmaf8aL _ _ => true
  | .mmaf8bD _ _ => true
  | .mmaf8bL _ _ => true
  | .mmak8D _ _ _ _ => true
  | .mmak8L _ _ _ _ => true
  | .mmab16D _ _ => true
  | .mmab16L _ _ => true
  | .mmah16D _ _ => true
  | .mmah16L _ _ => true
  | .mmai8D _ _ => true
  | .mmai8L _ _ => true
  | .accrdD _ _ _ _ => true
  | .accrdL _ _ _ _ => true
  | .accwrD _ _ => true
  | .accwrL _ _ => true
  | .acczD _ => true
  | .acczL _ => true
  | .accstD _ _ => true
  | .accstL _ _ => true
  | .pliD _ _ _ _ => true
  | .pliL _ _ _ _ => true
  | .plfD _ _ _ _ => true
  | .plfL _ _ _ _ => true
  | .plredD _ _ _ => true
  | .plredL _ _ _ => true
  | .chunkD _ _ => true
  | .chunkL _ _ => true
  | .forkD _ _ => true
  | .forkL _ _ => true
  | .forkTryD _ _ _ => true
  | .forkTryL _ _ _ => true
  | .endD => true
  | .endL => true
  | .trapD _ => true
  | .trapL _ => true
  | .syscD _ => true
  | .syscL _ => true
  | .genbumpD => true
  | .genbumpL => true
  | .ckptD => true
  | .ckptL => true
  | .haltD => true
  | .haltL => true
  | .migrD _ => true
  | .migrL _ => true
  | .barD _ => true
  | .barL _ => true
  | .arvD _ _ _ => true
  | .arvL _ _ _ => true
  | .awtD _ _ _ => true
  | .awtL _ _ _ => true
  | .dvtL _ => true
  | _ => false

/-- A load that may return a later write itself; its own meaning tells what it settles. -/
def Instr.isPlainLoad : Instr → Bool
  | .ldD _ _ _ _ _ => true
  | .ldL _ _ _ _ _ => true
  | .ldxD _ _ _ _ => true
  | .ldxL _ _ _ _ => true
  | .ldsD _ _ _ m _ => m == 0
  | .ldsL _ _ _ m _ => m == 0
  | _ => false

/-- Registers of the active lanes named again: a load that they hold returns no later write any more. -/
def Ctx.dropLate (c : Ctx) (regs : List Nat) (s : State) : State :=
  s.modFibres c.u.crew c.act fun _ f => { f with late := f.late.filter fun r => !regs.contains r }

/-- The registers whose loads an instruction settles: those it names; every one, where it orders. -/
def Ctx.useLate (c : Ctx) (i : Instr) (s : State) : State :=
  if Instr.orders i then s.modFibres c.u.crew c.act fun _ f => { f with late := [] }
  else c.dropLate (numbersOf (c.operands i.info ++ if i.links then [((⟨7, 1, 1⟩ : Operand), 0)] else [])) s

/-- An effect whose instruction has had its part in it has settled the loads that it uses or orders (R134). -/
def Eff.used (c : Ctx) (i : Instr) (e : Eff) : Eff :=
  if Instr.isPlainLoad i then e
  else match e with
    | .next s => .next (c.useLate i s)
    | .jump s ts => .jump (c.useLate i s) ts
    | .stay s => .stay (c.useLate i s)
    | .left s => .left (c.useLate i s)
    | e => e

/-- Issues an instruction from the unit whose turn it is: token wait, dovetail stop, shared checks, then its own effect
(R43 to R60, R254, R258). Every meaning of an instruction of a text goes through here. -/
def issue (i : Instr) (body : Ctx → State → Eff) (s : State) : Res :=
  match s.turn with
  | some (.issue u pf) =>
    match s.ctx? u pf with
    | none => .fault .noIssuer
    | some c =>
      let f := c.fibre (c.all.headD 0)
      let s := c.stamped s
      match c.loosePending with
      | p :: ps => .next (c.raiseLoose (p :: ps) s).done
      | [] => match c.tokenWait pf f.hdrWord s with
      | some e => .next (c.conclude e).done
      | none =>
        if c.mustStop then .next (c.stopAtDovetail s).done
        else if c.stalled i then .next s.done
        else
        let s := c.begin pf s
        match c.check pf i f.rep s with
        | some e => .next (c.conclude e).done
        | none => .next (c.conclude (((body c (s.serveRegs c i)).fresh (s.staleRegs c i)).used c i)).done
  | _ => .fault .noIssuer

/-- Makes an event's move with the arguments its turn holds. -/
def onEvent (body : EvArg → State → State) (s : State) : Res :=
  match s.turn with
  | some (.event _ a) => .next (body a s).done
  | _ => .fault .noEvent

end Sys2Proof.Machine
end

