-- ==== Sys2Proof/Machine/Operands.lean ====
section
/-!
DEFINITION. Operand forms: lane registers and pairs, immediates, predicates, branch targets, global and scratchpad
addresses (04 R50 to R54; 05 R61, R67 to R70).
-/
namespace Sys2Proof.Machine

/-- A state with the free values of another drawn: nothing else of a failed check stands (R161). -/
def State.keepDraws (s t : State) : State := { s with draws := t.draws }

/-- A state with what the checks of a failed instruction leave beside the free values they drew: stage-2 A in the entries that
their walks of the VAs used (R100). Stage-1 A and TLB fills, which may stand, do not (R161; DESIGN CHOICE, log 48). -/
def State.keepWalks (s t : State) (asid : Nat) (vas : List Nat) : State :=
  ((vas.flatMap fun va => t.stage2Used asid va { priv := true, placed := true }).filter fun e => bitsAt (t.word64 e) 9 1 == 1).foldl (fun t e => t.orBit e 9)
    (s.keepDraws t)

/-- The unit waits at the instruction, which issues again. -/
def Ctx.waitFor (c : Ctx) (w : Wait) (s : State) : Eff :=
  .stay (s.modFibres c.u.crew c.all fun _ f => { f with wait := w })

/-! ## Results in lane registers and predicates -/

/-- One register of every active lane gets a value computed from that lane's fibre (R61). -/
def writeLanes (c : Ctx) (d : Nat) (g : Fibre → Reg) (s : State) : Eff := .next (c.onActive (fun f => f.setReg d (g f)) s)

/-- A register pair of every active lane, both halves with one S (R61, R62). -/
def writePairs (c : Ctx) (d : Nat) (g : Fibre → DWord × Bool) (s : State) : Eff :=
  .next (c.onActive (fun f => f.setPair d (g f).1 (g f).2) s)

/-- A predicate of every active lane (R61). -/
def writePreds (c : Ctx) (p : Nat) (g : Fibre → Bool) (s : State) : Eff :=
  .next (c.onActive (fun f => f.setPred p (g f)) s)

/-- One register of every active lane gets a value that may depend on the other lanes as they stood at issue (R6). -/
def writeEach (c : Ctx) (d : Nat) (g : Nat → Reg) (s : State) : Eff :=
  .next (s.modFibres c.u.crew c.act fun i f => f.setReg d (g i))

/-! ## Immediates (R50) -/

/-- A sign-extended immediate as a 32-bit value. -/
def sx {w : Nat} (i : BitVec w) : Word := i.signExtend 32

/-! ## Branch targets (R54, R68) -/

/-- The target of a format-B word: from the clause header in D, from the doubleword in L. -/
def branchTarget (c : Ctx) (o : BitVec 21) : Word :=
  let f := c.fibre (c.all.headD 0)
  (if c.kind.isL then f.pc else f.hdr) + 4 * sx o

/-- Where execution goes on after the last instruction of a D clause, and after a doubleword in L. -/
def nextPc (c : Ctx) : Word := c.pc + BitVec.ofNat 32 c.kind.step

/-- A target that BRX and RET may name: a multiple of 4 in D, of 8 in L (R44, R46). -/
def targetAligned (c : Ctx) (t : Word) : Bool := t.toNat % c.kind.step == 0

/-! ## Addresses (R53, R160) -/

/-- Bytes of a size code: 8, 16, 32, 64, 128 bits, then the signed 8- and 16-bit forms (R14). -/
def sizeBytes (sz : BitVec 3) : Nat :=
  match sz.toNat with
  | 0 => 1
  | 1 => 2
  | 2 => 4
  | 3 => 8
  | 4 => 16
  | 5 => 1
  | 6 => 2
  | _ => 4

/-- A 64-bit global address: base pair plus a scaled offset. -/
def globalVa (base : DWord) (off : Int) (scale : Nat) : DWord := base + BitVec.ofInt 64 (off * scale)

/-- Bits [63:48] equal bit 47 (R53). -/
def canonical (va : DWord) : Bool := va.toNat < 2 ^ 47 || 2 ^ 64 - 2 ^ 47 ≤ va.toNat

/-- A scratchpad address: single register plus a scaled offset, modulo 2^32. -/
def scratchAddr (base : Word) (off : Int) (scale : Nat) : Nat := (base + BitVec.ofInt 32 (off * scale)).toNat

/-- A scratchpad access is aligned and inside the crew's scratchpad (R125). -/
def scratchOk (k : Crew) (a n : Nat) : Bool :=
  a % n == 0 && decide (k.scrBase ≤ a) && decide (a + n ≤ k.scrBase + k.desc.scrSize)

end Sys2Proof.Machine
end

