-- ==== Sys2Proof/Machine/Flags.lean ====
section
/-!
DEFINITION. The flag computations: the S bit of integer results (05 R62), the conditions that write predicates
(05 R82, R83), clamps (05 R74).
-/
namespace Sys2Proof.Machine

/-- S of a result: the OR of the S bits of the registers read (R62). -/
def sOf (f : Fibre) (ns : List Nat) : Bool := ns.any f.sbit

/-- S of a result that reads pairs: both halves of each (R62). -/
def sOfPairs (f : Fibre) (ns : List Nat) : Bool := ns.any fun n => f.sbit n || f.sbit (n + 1)

/-- The conditions of ICMP: eq, ne, lt, le, signed (R82). -/
def icmpHolds (cond : BitVec 2) (a b : Word) : Bool :=
  match cond.toNat with
  | 0 => a == b
  | 1 => a != b
  | 2 => decide (a.toInt < b.toInt)
  | _ => decide (a.toInt ≤ b.toInt)

/-- The conditions of ICMPU: lt, le, unsigned (R82). -/
def icmpuHolds (cond : BitVec 2) (a b : Word) : Bool :=
  if cond.toNat = 0 then decide (a.toNat < b.toNat) else decide (a.toNat ≤ b.toNat)

/-- An exact result clamped to a range: the value, and whether the clamp changed it (R74). -/
def clampTo (lo hi v : Int) : Int × Bool := (max lo (min hi v), decide (v < lo) || decide (hi < v))

/-- A clamped sum or difference of 32 bits with its S (R62, R74). -/
def clamped (lo hi v : Int) (s : Bool) : Reg :=
  let r := clampTo lo hi v
  { val := BitVec.ofInt 32 r.1, s := s || r.2 }

end Sys2Proof.Machine
end

