-- ==== Sys2Proof/Machine/Ordering.lean ====
section
/-!
DEFINITION. What an agent need not see yet: scopes, acquires and fences, the older values that a plain read may return, and the
plain loads that may still return a later one (09 R131 to R146; 03 R26).
-/
namespace Sys2Proof.Machine

/-! ## Scopes (R136) -/

/-- The die that holds a core: compute die n div 32, base die of a sequencer's stack (R351). -/
def dieOfCore (core : Nat) : Nat := if 256 ≤ core then 8 + (core - 256) / 16 else core / 32

/-- The crew that a crew's program runs as: of a pair the first copy (R159). -/
def State.runsAs (s : State) (c : Nat) : Nat :=
  match (s.crews[c]?).bind Crew.pair with
  | some p => if p.first then c else p.partner
  | none => c

/-- Two fibres lie within a scope of each other (R136). -/
def State.within (s : State) (scope : Nat) (x y : FibreId) : Bool :=
  match s.crews[x.1]?, s.crews[y.1]? with
  | some k, some j =>
    let f := k.fibre x.2
    let g := j.fibre y.2
    let same := s.runsAs x.1 == s.runsAs y.1
    match scope with
    | 0 => x == y || (same && f.bound && g.bound && f.gang == g.gang)
    | 1 => same
    | 2 => k.core == j.core || same
    | 3 => dieOfCore k.core == dieOfCore j.core || same
    | _ => true
  | _, _ => false

/-- Fibres of a unit by their places. -/
def Ctx.ids (c : Ctx) (ps : List Nat) : List FibreId := ps.map fun p => (c.u.crew, p)

/-! ## Acquires (R137 to R139) -/

/-- An acquire at a scope that has read the writes which carry the releases told: what each of them covers happens-before what the
fibre does from now, where the two fibres lie within both scopes of each other (R138, R139). -/
def State.takeTags (s : State) (scope : Nat) (q : FibreId) (ts : List Tag) : State :=
  match (ts.filter fun t => s.within t.scope t.by_ q && s.within scope t.by_ q).map Tag.id with
  | [] => s
  | ids =>
    let take := fun e : Past => if e.rels.any ids.contains then e.learn q else e
    { s with past := s.past.map take, pastScr := s.pastScr.map take }

/-- A fibre's read has returned writes that carry releases, of which those that would tell it something are kept (R138). -/
def State.hear (s : State) (q : FibreId) (ts : List Tag) : State :=
  match ts.filter fun t => (s.past ++ s.pastScr).any fun e => e.rels.contains t.id && !e.knownTo q with
  | [] => s
  | new => { s with sync := { s.sync with
      heard := (new.map fun t => (q, t, s.now)) ++ s.sync.heard.filter fun h => !(h.1 == q && new.any fun t => t.id == h.2.1.id) } }

/-- An acquire by a fibre at a scope whose acquiring reads are those that it has made since a step (R138). -/
def State.acquireAs (s : State) (scope since : Nat) (q : FibreId) : State :=
  s.takeTags scope q ((s.sync.heard.filter fun h => h.1 == q && decide (since ≤ h.2.2)).map fun h => h.2.1)

/-- The reads of an instruction acquire, in every lane (R138). -/
def State.acquireNow (s : State) (scope : Nat) (qs : List FibreId) : State := qs.foldl (fun t q => t.acquireAs scope t.now q) s

/-! ## Fences (R137, R144) -/

/-- A release fence of a fibre: its later writes carry it (R137). -/
def State.releaseFence (s : State) (scope : Nat) (q : FibreId) : State :=
  match s.release scope q with
  | (s, t) => { s with sync := { s.sync with
      fenced := (q, t) :: s.sync.fenced.filter fun x => !(x.1 == q && decide (x.2.scope ≤ scope)) } }

/-- A full fence of a fibre: it follows every full fence made before it (R144), acquires what earlier reads have returned, and
releases. -/
def State.fullFence (s : State) (scope : Nat) (q : FibreId) : State :=
  let s := ((s.takeTags scope q s.sync.fulls).acquireAs scope 0 q).releaseFence scope q
  { s with sync := { s.sync with
      fulls := ((s.sync.fenced.head?).map Prod.snd).toList ++ s.sync.fulls.filter fun t => !(t.by_ == q && decide (t.scope ≤ scope)) } }

/-- FENCE by its kind code, in every lane: 0 full, 1 acquire, 2 release (R137, R171). -/
def State.fenceAll (s : State) (kind scope : Nat) (qs : List FibreId) : State :=
  qs.foldl (fun t q => match kind with
    | 0 => t.fullFence scope q
    | 1 => t.acquireAs scope 0 q
    | _ => t.releaseFence scope q) s

/-! ## Barriers and new fibres (R141, R73) -/

/-- What happens-before one of some fibres comes to happen-before them all (R141). -/
def State.joinAll (s : State) (qs : List FibreId) : State :=
  let join := fun e : Past => match e.known with
    | some ks => if ks.any qs.contains then { e with known := some (qs.foldl (fun l q => l.insert q) ks) } else e
    | none => e
  { s with past := s.past.map join, pastScr := s.pastScr.map join }

/-- A fibre that another creates is bound to see what its creator is. -/
def State.inherit (s : State) (parent child : FibreId) : State :=
  let give := fun e : Past =>
    let e := if e.knownTo parent then e.learn child else e
    if e.seen.contains parent then { e with seen := e.seen.insert child } else e
  { s with past := s.past.map give, pastScr := s.pastScr.map give }

/-! ## Older values (R128, R132 to R134, R142) -/

/-- What a fibre's read of at most 8 bytes of physical memory returns, of an address space and through a page that is encrypted or not,
whose newest bytes are given: which of the writes that it may miss it misses is free. A read past L1 binds its core (R128, R130). -/
def State.readOne (s : State) (q : FibreId) (past : Bool) (asid : Nat) (enc : Bool) (pa : Nat) (bs : List Byte) : State × List Byte :=
  let core := s.coreOf q
  let es := s.past.filter fun e => e.meets none pa bs.length && (e.known.isSome || !e.tags.isEmpty)
  if es.isEmpty then (s, bs)
  else
    let free := es.any fun e => e.missable s.now core q
    let x := lookAt none pa bs.length (fun e => e.missable s.now core q) (Past.read q (if past then some core else none))
      (if free then Config.readsPast s.draws else 0) [] s.past
    ((({ (if free then s.draw else s) with past := x.after } : State).hear q x.tags), x.missed.foldl (fun bs e => (e.under asid enc).undo pa bs) bs)

/-- What a fibre's read returns: a read of 16 bytes is two of 8 (R133). -/
def State.readAs (s : State) (q : FibreId) (past : Bool) (asid : Nat) (enc : Bool) (pa : Nat) (bs : List Byte) : State × List Byte :=
  if bs.length ≤ 8 then s.readOne q past asid enc pa bs
  else match s.readOne q past asid enc pa (bs.take 8) with
    | (s, lo) => match s.readOne q past asid enc (pa + 8) (bs.drop 8) with
      | (s, hi) => (s, lo ++ hi)

/-- A fibre has read the newest bytes of a range past L1, as a read-modify-write does (R128, R145). -/
def State.sawAll (s : State) (q : FibreId) (pa n : Nat) : State :=
  if s.past.any fun e => e.meets none pa n && (e.known.isSome || !e.tags.isEmpty) then
    let x := lookAt none pa n (fun _ => false) (Past.read q (some (s.coreOf q))) 0 [] s.past
    ({ s with past := x.after } : State).hear q x.tags
  else s

/-- A fibre has read an older copy of a range in L1, where the writes that it missed are the newest ones without which the bytes are
those read, as few as do; none where no run of the newest writes is. -/
def State.sawWhole? (s : State) (q : FibreId) (asid : Nat) (enc : Bool) (pa : Nat) (bs : List Byte) : Option State :=
  let es := s.past.filter fun e => e.meets none pa bs.length
  let at_ := fun k : Nat => (es.take k).foldl (fun bs e => (e.under asid enc).undo pa bs) (s.decrypt asid enc pa (s.bytes pa bs.length))
  ((List.range (es.length + 1)).find? fun k => at_ k == bs).map fun k =>
    let x := lookAt none pa bs.length (fun _ => true) (Past.read q none) (2 ^ k - 1) [] s.past
    ({ s with past := x.after } : State).hear q x.tags

/-- A fibre has read an older copy of a range in L1 (R132, R140): the whole of it as some run of the newest writes left it, or, where
the core's own later writes stand in the copy among older bytes, each byte as it was left. -/
def State.sawOlder (s : State) (q : FibreId) (asid : Nat) (enc : Bool) (pa : Nat) (bs : List Byte) : State :=
  match s.sawWhole? q asid enc pa bs with
  | some t => t
  | none => bs.zipIdx.foldl (fun t b => (t.sawWhole? q asid enc (pa + b.2) [b.1]).getD t) s

/-- What a fibre's plain read of at most 8 bytes of its crew's scratchpad returns whose newest bytes are given. -/
def State.readScrOne (s : State) (q : FibreId) (off : Nat) (bs : List Byte) : State × List Byte :=
  let core := s.coreOf q
  let es := s.pastScr.filter fun e => e.meets (some q.1) off bs.length
  if es.isEmpty then (s, bs)
  else
    let free := es.any fun e => e.missable s.now core q
    let x := lookAt (some q.1) off bs.length (fun e => e.missable s.now core q) (Past.read q none)
      (if free then Config.readsPast s.draws else 0) [] s.pastScr
    ((({ (if free then s.draw else s) with pastScr := x.after } : State).hear q x.tags), x.missed.foldl (fun bs e => e.undo off bs) bs)

/-- What a fibre's plain read of its crew's scratchpad returns: a read of 16 bytes is two of 8 (R133). -/
def State.readScrAs (s : State) (q : FibreId) (off : Nat) (bs : List Byte) : State × List Byte :=
  if bs.length ≤ 8 then s.readScrOne q off bs
  else match s.readScrOne q off (bs.take 8) with
    | (s, lo) => match s.readScrOne q (off + 8) (bs.drop 8) with
      | (s, hi) => (s, lo ++ hi)

/-- A fibre has read the newest bytes of a range of scratchpad, as a read-modify-write or a read of a full granule does (R132, R137,
R145). -/
def State.sawScr (s : State) (q : FibreId) (off n : Nat) : State :=
  let x := lookAt (some q.1) off n (fun _ => false) (Past.read q none) 0 [] s.pastScr
  ({ s with pastScr := x.after } : State).hear q x.tags

/-! ## Releases carried by granules and bench registers (R142, R154) -/

/-- The releases that an engine's fill of a granule carries. -/
def State.fillTags (s : State) (c g : Nat) : List Tag := ((s.sync.fills.find? fun x => x.1 == (c, g)).map Prod.snd).getD []

/-- An engine's landing that sets a granule full carries releases, beside those of the landings that set it full before: a read of the
full granule follows them all, until it is emptied (R154). -/
def State.addFills (s : State) (c g : Nat) (ts : List Tag) : State :=
  if ts.isEmpty then s
  else { s with sync := { s.sync with fills := ((c, g), ts ++ s.fillTags c g) :: s.sync.fills.filter fun x => x.1 != (c, g) } }

/-- The granule has been set empty. -/
def State.clearFills (s : State) (c g : Nat) : State :=
  { s with sync := { s.sync with fills := s.sync.fills.filter fun x => x.1 != (c, g) } }

/-- The releases that the write a bench register holds carries. -/
def State.benchTags (s : State) (c n : Nat) : List Tag := ((s.sync.bench.find? fun x => x.1 == (c, n)).map Prod.snd).getD []

/-- A fibre's write to a bench register carries its fences' releases, and a read-modify-write those of the write before it (R138,
R145). -/
def State.writeBench (s : State) (q : FibreId) (n : Nat) (rmw : Bool) : State :=
  let ts := s.carries q ++ if rmw then s.benchTags q.1 n else []
  if ts.isEmpty ∧ s.sync.bench.all (fun x => x.1 != (q.1, n)) then s
  else { s with sync := { s.sync with bench := ((q.1, n), ts) :: s.sync.bench.filter fun x => x.1 != (q.1, n) } }

/-! ## Loads that return a later write (R134) -/

/-- A loaded value put into its registers, zero- or sign-extended, S = 0 (R163). -/
def putLoad (d : Nat) (sz : BitVec 3) (bs : List Byte) (f : Fibre) : Fibre :=
  let w := fun i : Nat => leWord ((bs.drop (4 * i)).take 4)
  let r := fun v : Word => ({ val := v, s := false } : Reg)
  match sz.toNat with
  | 3 => (f.setReg d (r (w 0))).setReg (d + 1) (r (w 1))
  | 4 => (((f.setReg d (r (w 0))).setReg (d + 1) (r (w 1))).setReg (d + 2) (r (w 2))).setReg (d + 3) (r (w 3))
  | 5 => f.setReg d (r (((w 0).setWidth 8).signExtend 32))
  | 6 => f.setReg d (r (((w 0).setWidth 16).signExtend 32))
  | _ => f.setReg d (r (w 0))

/-- The registers that hold what a load returned. -/
def Early.regs (e : Early) : List Nat := (List.range (if e.image ∨ e.len < 8 then 1 else e.len / 4)).map (e.reg + ·)

/-- What a load returns put into its registers (R163, R166). -/
def Early.put (e : Early) (bs : List Byte) (f : Fibre) : Fibre :=
  if e.image then f.setReg e.reg { val := leWord (bs.take 4), s := bitsAt (leNat bs) 32 1 == 1 } else putLoad e.reg e.size bs f

/-- Nothing that the load's fibre has issued since orders the load or names its registers. -/
def State.isEarly (s : State) (e : Early) : Bool :=
  match s.crews[e.fibre.1]? with
  | some k => k.status == .resident && (k.fibre e.fibre.2).live && e.regs.all (k.fibre e.fibre.2).late.contains
  | none => false

/-- A fibre makes another access to bytes that loads of it read: those loads are settled (R132). -/
def State.settleEarly (s : State) (q : FibreId) (scratch : Bool) (place n : Nat) : State :=
  if s.sync.early.isEmpty then s
  else { s with sync := { s.sync with early := s.sync.early.filter fun x =>
    !(x.fibre == q && x.scratch == scratch && meetsRange x.place x.len place n) } }

/-- A plain load has been made, which may yet return a later write; what its registers held before is settled. -/
def State.addEarly (s : State) (e : Early) : State :=
  ({ s with sync := { s.sync with early := e :: s.sync.early.filter fun x =>
      !(x.fibre == e.fibre && (x.regs.any e.regs.contains || !s.isEarly x)) } } : State).modFibres e.fibre.1 [e.fibre.2]
    fun _ f => { f with late := e.regs ++ f.late.filter fun r => !e.regs.contains r }

/-- A write has been made to bytes of physical memory or of a crew's scratchpad: loads of its own fibre there are settled, and which
others return it is free (R134); a core whose fibre returns it keeps no older copy of the line (R128, R132). `now` gives the newest bytes
of a load; none where it cannot be made now. -/
def State.reach (s : State) (who : Option FibreId) (crew : Option Nat) (pa n : Nat) (now : State → Early → Option (List Byte)) :
    State :=
  let hit := fun e : Early => e.scratch == crew.isSome && (crew.isNone || crew == some e.fibre.1) && meetsRange pa n e.place e.len
  if s.sync.early.all fun e => !hit e then s
  else
    let mine := (who.map s.withTwins).getD []
    let s := { s with sync := { s.sync with early := s.sync.early.filter fun e => !(hit e && mine.contains e.fibre) } }
    (s.sync.early.filter fun e => hit e && s.isEarly e).foldl (fun t e =>
      match (if Config.readsAhead t.draws then now t e else none) with
      | none => t.draw
      | some bs =>
        let t := t.draw.modFibres e.fibre.1 [e.fibre.2] fun _ f => e.put bs f
        if e.scratch then t.sawScr e.fibre e.place e.len
        else (t.dropL1 (t.coreOf e.fibre) (e.place / 64)).sawAll e.fibre e.place e.len) s

end Sys2Proof.Machine
end

