-- ==== Sys2Proof/Machine/Access.lean ====
section
/-!
DEFINITION. Accesses to global memory and to scratchpad by fibres and engines: checks, L1, device windows, reduce-state
partials, line ownership, paired crews' buffers (08 R125 to R130; 09 R140, R143; 10 R149, R153, R159; 11 R160 to R162;
06 R114, R115; 23 R337, R340, R342).
-/
namespace Sys2Proof.Machine

/-! ## Device windows (R99, R149, R311, R354, R356) -/

/-- First address of the registers of the always-on domain. -/
def mmioBase : Nat := 0x8000000000000
/-- First kick register. -/
def kickBase : Nat := 0x8080000000000
/-- Notify page of queue 0. -/
def notifyBase : Nat := 0x8100000000000

/-- A register of the always-on domain as it reads (R356). -/
def State.aonRead (s : State) (off : Nat) : DWord :=
  if off < 0x30 then s.aon.bases.getD (off / 8) 0
  else if off = 0x30 then BitVec.ofNat 64 s.aon.ringN
  else if off = 0x38 then s.aon.producer
  else sget 0 s.aon.other off

/-- An address of a queue's control register. -/
def isControl (pa : Nat) : Bool :=
  decide (notifyBase ≤ pa) && decide (pa < notifyBase + 0x20000 * 4096) && decide (0x10000 ≤ (pa - notifyBase) % 0x20000)
    && decide ((pa - notifyBase) % 0x20000 < 0x10008)

/-- A byte read from a device window: of a register of the always-on domain; of a queue's control register, which reads 0; or one that
a host, a peer or a register whose reads the spec does not describe supplies, which is free. -/
def State.mmioByte (s : State) (a : Nat) : Byte :=
  if mmioBase ≤ a ∧ a < mmioBase + 0x10000 then
    BitVec.ofNat 8 ((s.aonRead ((a - mmioBase) / 8 * 8)).toNat / 2 ^ (8 * (a % 8)))
  else if isControl a then 0
  else Config.apertureByte s.draws a

/-- `n` bytes read from a device window, of as many registers as they lie in (R356). -/
def State.mmioRead (s : State) (pa n : Nat) : State × List Byte := (s.draw, (List.range n).map fun i => s.mmioByte (pa + i))

/-- The port that serves an aperture address: host ports 0 and 1, then a peer module's (R149, R354). -/
def State.portOf (s : State) (pa : Nat) : Option Nat :=
  match apertureOf pa with
  | some (.host h, _) => some h
  | some (.peer p, _) => some (2 + s.aon.peers.getD p 0)
  | none => none

/-- A request of a crew leaves through the port of its aperture, in order, addressed by its offset there (R354): a write, or an atomic
sent as one (R149). -/
def State.sendOut (s : State) (c pa : Nat) (data : List Byte) (atom : Option (Nat × Nat × DWord × DWord)) : State :=
  { s with outbound := s.outbound ++
      [{ ident := s.tick + s.outbound.length, crew := c, port := (s.portOf pa).getD 0, write := true,
         address := ((apertureOf pa).map Prod.snd).getD pa, data := data, atom := atom }] }

/-- Bytes of one register of a device window written: the write reaches the always-on domain, a queue or a graph slot as the move of
that name, in the order of the writes. DESIGN CHOICE, log 12: a store narrower than a 64-bit register writes the register's other bytes
as 0. -/
def State.registerStore (s : State) (pa : Nat) (bs : List Byte) : State :=
  let v : DWord := BitVec.ofNat 64 (leNat (List.replicate (pa % 8) 0 ++ bs))
  let post := fun (i : Instr) (n : Nat) => { s with inbox := s.inbox ++ [(i, { n := n, v := v })] }
  if mmioBase ≤ pa ∧ pa < mmioBase + 0x30 then post .baseRegisterWrite ((pa - mmioBase) / 8 * 8)
  else if notifyBase ≤ pa ∧ pa < notifyBase + 0x20000 * 4096 then
    let q := (pa - notifyBase) / 0x20000
    if (pa - notifyBase) % 0x20000 < 8 then post .notify q
    else if isControl pa then
      let s := if v.getLsbD 0 then { s with inbox := s.inbox ++ [(Instr.thaw, { n := q, v := v })] } else s
      if v.getLsbD 1 then { s with inbox := s.inbox ++ [(Instr.abandon, { n := q, v := v })] } else s
    else s
  else if kickBase ≤ pa ∧ pa < kickBase + 8 * 1024 then post .graphKick ((pa - kickBase) / 8)
  else post .registerWrite ((pa - mmioBase) / 8 * 8)

/-- Bytes from `pa` by the 64-bit registers that they lie in. -/
def byRegister (pa : Nat) (bs : List Byte) : List (Nat × List Byte) :=
  (List.range ((pa % 8 + bs.length + 7) / 8)).map fun i =>
    let lo := 8 * i - pa % 8
    (pa + lo, (bs.drop lo).take (8 * (i + 1) - pa % 8 - lo))

/-- Bytes written to a device window: a write through an aperture leaves by its port; any other reaches the registers that it names
(R149, R356). -/
def State.mmioWrite (s : State) (c pa : Nat) (bs : List Byte) : State :=
  if (apertureOf pa).isSome then s.sendOut c pa bs none
  else (byRegister pa bs).foldl (fun t x => t.registerStore x.1 x.2) s

/-! ## Paired crews' buffers (R159, R340) -/

/-- One step of CRC-64 with the ECMA-182 polynomial. -/
def crcStep (crc : BitVec 64) (bit : Bool) : BitVec 64 :=
  let x := crc <<< 1
  if crc.msb != bit then x ^^^ 0x42F0E1EBA9EA3693#64 else x

/-- CRC-64 of bytes, initial value 0, each byte's highest bit first (R340). -/
def crc64 (bs : List Byte) : BitVec 64 :=
  bs.foldl (fun crc b => (List.range 8).foldl (fun x i => crcStep x (b.getLsbD (7 - i))) crc) 0

/-- The record of a buffered word (R340): its VA, a byte mask, the data with unmasked bytes 0. -/
def pairRecord (va : DWord) (mask : BitVec 4) (w : Word) : List Byte :=
  leBytes 8 va.toNat ++ leBytes 4 mask.toNat ++ leBytes 4 w.toNat

/-- Bytes from `va` split into the aligned words they touch, for a store of a mark and a cache mode through a translation of a generation
(R340). -/
def splitWords (m : Mark) (tr : Translation) (gen va mode : Nat) (bs : List Byte) : List BufWord :=
  (List.range ((va % 4 + bs.length + 3) / 4)).map fun i =>
    let w := va / 4 + i
    let cells := (List.range 4).map fun j =>
      if va ≤ 4 * w + j ∧ 4 * w + j < va + bs.length then some (bs.getD (4 * w + j - va) 0) else none
    { va := BitVec.ofNat 64 (4 * w)
      mask := BitVec.ofNat 4 ((List.range 4).map fun j => if (cells.getD j none).isSome then 2 ^ j else 0).sum
      data := leWord (cells.map fun x => x.getD 0), plred := none, mode := mode, tr := tr, gen := gen, who := m.who.map Prod.snd,
      release := m.release, tags := m.tags }

/-- Words appended to a paired crew's buffer, its signature with them (R340). -/
def PairHalf.append (p : PairHalf) (ws : List BufWord) : PairHalf :=
  { p with buffer := p.buffer ++ ws,
           signature := ws.foldl (fun x w => x + crc64 (pairRecord w.va w.mask w.data)) p.signature }

/-- Bytes appended to a paired crew's buffer. -/
def PairHalf.push (p : PairHalf) (m : Mark) (tr : Translation) (gen va mode : Nat) (bs : List Byte) : PairHalf :=
  p.append (splitWords m tr gen va mode bs)

/-- Words that placed parts of a crew on their way will put into its buffer. -/
def State.wordsInFlight (s : State) (c : Nat) : Nat :=
  (s.parts.map fun p => if p.crew = c then (if p.major = 0x6F then 1 else 16) else 0).sum

/-- The copy of a paired crew must compare before `n` more words enter its buffer, beside those on their way (R159, R340). -/
def State.bufferFull (s : State) (c n : Nat) : Bool :=
  match (s.crews[c]?).bind Crew.pair with
  | some p => decide (1024 < p.buffer.length + s.wordsInFlight c + n)
  | none => false

/-! ## L1 (R123, R128) -/

/-- The line of this core's L1 that a tag names. -/
def CoreSt.l1At (x : CoreSt) (asid gen line : Nat) : Option L1Line :=
  x.l1.find? fun l => l.asid == asid && l.gen == gen && l.line == line

/-- A core's L1 invalidated, as an acquire wider than core does (R143). -/
def State.clearL1 (s : State) (core : Nat) : State := s.modCore core fun x => { x with l1 := [] }

/-- Part of a list of bytes replaced. -/
def splice (l : List Byte) (off : Nat) (bs : List Byte) : List Byte := l.take off ++ bs ++ l.drop (off + bs.length)

/-! ## Reads and writes of global memory -/

/-- A load of normal memory is served by a line of the core's L1 (R128). -/
def State.l1Hit (s : State) (core asid : Nat) (tr : Translation) (va mode : Nat) : Bool :=
  mode != 2 && tr.mtype == 0 && !inMmio (tr.pa va) && ((s.coreAt core).l1At asid (s.gen asid) (tr.pa va / 64)).isSome

/-- The way of its set that takes a new line: a way of L1 with no line, else that of a line filled by a stream load, else any,
which is free (R123, R128). A line's set is its number in physical memory mod 2,048: DESIGN CHOICE, log 6. -/
def CoreSt.wayFor (x : CoreSt) (line choice : Nat) : Nat :=
  let mine := x.l1.filter fun l => l.line % 2048 == line % 2048
  let ways := (List.range 8).filter fun w => decide (x.carve ≤ w)
  match (ways.filter fun w => mine.all fun l => l.way != w).head? with
  | some w => w
  | none => match mine.find? L1Line.stream with
    | some l => l.way
    | none => ways.getD (choice % max ways.length 1) 7

/-- A line filled into the core's L1 over what its way held in its set; no other copy of it stays there. -/
def CoreSt.fillL1 (x : CoreSt) (l : L1Line) : CoreSt :=
  { x with l1 := l :: x.l1.filter fun o => o.line != l.line && !(o.line % 2048 == l.line % 2048 && o.way == l.way) }

/-- The bytes that a home would give: what memory holds with pending partials combined, as the address space sees them. -/
def State.homeBytes (s : State) (asid : Nat) (tr : Translation) (pa n : Nat) : List Byte :=
  s.decrypt asid tr.enc pa (s.freshBytes pa n)

/-- A line of the core's L1 that would serve a load, but whose bytes are no longer those of its home, may have been replaced, which is
free (R128, R140). -/
def State.mayReplace (s : State) (core asid : Nat) (tr : Translation) (va n mode : Nat) : State :=
  let pa := tr.pa va
  match (if s.l1Hit core asid tr va mode then (s.coreAt core).l1At asid (s.gen asid) (pa / 64) else none) with
  | none => s
  | some l =>
    if (l.data.drop (pa % 64)).take n = s.homeBytes asid tr pa n then s
    else if Config.l1Replaced s.draws then s.draw.dropL1 core (pa / 64)
    else s.draw

/-- A load by a fibre or engine of a core: through L1 for normal memory unless the mode bypasses it, which drops the line from
L1 whatever its memory type. L1 keeps no line of a poisoned sector, so that each read of it meets the error (R123, R128, R337). -/
def State.gread (s : State) (core asid : Nat) (tr : Translation) (va n mode : Nat) : State × List Byte :=
  let pa := tr.pa va
  if inMmio pa then s.mmioRead pa n
  else if mode = 2 then (s.dropL1 core (pa / 64)).homeRead asid tr pa n
  else if tr.mtype ≠ 0 then s.homeRead asid tr pa n
  else
    let g := s.gen asid
    match (s.coreAt core).l1At asid g (pa / 64) with
    | some l => (s, (l.data.drop (pa % 64)).take n)
    | none => match s.homeRead asid tr (pa / 64 * 64) 64 with
      | (s, d) =>
        let w := (s.coreAt core).wayFor (pa / 64) (Config.l1Victim s.draws)
        (if s.rel.poison.contains (.l2 (pa / 64)) then s
         else s.draw.modCore core fun x => x.fillL1
          { asid := asid, gen := g, line := pa / 64, data := d, way := w, stream := mode == 1 }, (d.drop (pa % 64)).take n)

/-- The launch of a crew is protected (R342). -/
def State.protectedCrew (s : State) (c : Nat) : Bool :=
  match (s.crews[c]?).bind fun k => s.launches[k.desc.launch]? with
  | some l => pktProtected l.words
  | none => false

/-- An engine or an executor working for a crew of a protected launch has met an uncorrectable error, told by its unit and place: the
launch rolls back, or ends where it may not (R337, R342, R344). -/
def State.engineError (s : State) (k : Crew) (e : Nat × Nat) : State :=
  (s.modLaunch k.desc.launch fun l => { l with errUnit := e.1, errCore := k.core, errAddr := e.2 }).stopProtected k.desc.launch causeEcc

/-- Every line of a 64 KiB granule has its pending partials merged: its bytes are about to be read (R114). -/
def State.mergeGranule (s : State) (pa : Nat) : State :=
  ((s.partials.filter fun p => p.pa / 2 ^ 16 == pa / 2 ^ 16).map fun p => p.pa / 64).foldl State.mergeLine s

/-- Before a write for a crew to a C page of its protected launch, the granule's snapshot; a full pool or log is logged, and
the launch takes no more (R342). -/
def State.snapshotFirst (s : State) (c asid : Nat) (tr : Translation) (pa : Nat) : State :=
  if tr.snapshot ∧ s.protectedCrew c = true ∧ ((s.crews[c]?).bind fun k => s.launches[k.desc.launch]?).all (fun l => !l.noSnapshot) then
    match (s.mergeGranule pa).snapshotGranule asid pa with
    | (s, true) => s
    | (s, false) =>
      let l := (s.crews[c]?.map fun k => k.desc.launch).getD 0
      (s.logCrew 7 0 c pa).modLaunch l fun x => { x with noSnapshot := true }
  else s

/-- A line of L1 after such a write. -/
def L1Line.written (asid : Nat) (tr : Translation) (pa mode : Nat) (bs : List Byte) (l : L1Line) : Option L1Line :=
  if l.line ≠ pa / 64 then some l
  else if mode = 2 ∨ (tr.enc = true ∧ l.asid ≠ asid) then none
  else some { l with data := splice l.data (pa % 64) bs }

/-- The lines of a core's L1 after a write by one of its fibres or engines: a copy is updated, whatever its tag, or dropped where
the mode bypasses L1 or the copy is another address space's of an encrypted page (R128, R140, R164). -/
def State.writeL1 (s : State) (core asid : Nat) (tr : Translation) (pa mode : Nat) (bs : List Byte) : State :=
  s.modCore core fun x => { x with l1 := x.l1.filterMap (L1Line.written asid tr pa mode bs) }

/-- A stream store marks the sector that it wrote as the next of its slice to be replaced (R164). -/
def State.markNext (s : State) (mode line : Nat) : State :=
  if mode = 1 ∧ s.l2Valid line = true ∧ s.l2Next.contains line = false then { s with l2Next := line :: s.l2Next } else s

/-- What a load that is still early would return now: its home's bytes; none where the access would be held there or meet an error. -/
def Early.atHome (s : State) (e : Early) : Option (List Byte) :=
  if s.owned (e.place / 64) ∨ (s.eccAt e.place e.len).isSome then none
  else
    let bs := s.decrypt e.asid e.enc e.place (s.freshBytes e.place e.len)
    some (s.overlaid e.asid ((s.crews[e.fibre.1]?).bind Crew.pair) e.place bs)

/-- A write performed at its home for a crew, or for no crew: the granule's snapshot first where one is due (R342), pending partials
merged, then the bytes into the home's L2; the core's L1 follows, or keeps no copy where the write has entered coherence order before
the newest one. Which fibres are bound to see it, and which early loads return it,
its mark says (R132, R134). -/
def State.homeWrite (s : State) (c core asid : Nat) (m : Mark) (tr : Translation) (pa mode : Nat) (bs : List Byte) : State :=
  let s := (s.snapshotFirst c asid tr pa).mergeLine (pa / 64)
  let s := (s.takeKey asid tr.enc pa).touchSector tr.mtype (pa / 64) true (decide (pa % 64 = 0) && decide (bs.length = 64))
  let bs := s.softBytes pa bs
  let t := ((s.markNext mode (pa / 64)).storeAs { m with fixed := decide (2 ≤ tr.mtype) } pa bs).cleanSectors pa bs.length
  let t := if t.bytes pa bs.length = bs then t.writeL1 core asid tr pa mode bs else t.dropL1 core (pa / 64)
  (t.reach m.who none pa bs.length Early.atHome).tellSignals pa bs.length

/-- A write for a crew: to a device window; into a paired copy's buffer; or to its home. It is a fibre's own, or an engine's. -/
def State.gwrite (s : State) (c : Nat) (m : Mark) (tr : Translation) (va mode : Nat) (bs : List Byte) : State :=
  match s.crews[c]? with
  | none => s
  | some k =>
    let pa := tr.pa (va % 2 ^ 48)
    if k.pair.isSome then
      let own := match m.who with
        | some q => s.settleEarly q false pa bs.length
        | none => s
      own.modCrew c fun k => { k with pair := k.pair.map fun p => p.push m tr (s.gen k.desc.asid) va mode bs }
    else if inMmio pa then s.mmioWrite c pa bs
    else s.homeWrite c k.core k.desc.asid m tr pa mode bs

/-! ## Comparison points (R159, R341) -/

/-- Bytes of buffered words performed for a crew at their home, through the translation that they now stand under. -/
def State.drainBytes (s : State) (c core asid : Nat) (w : BufWord) (pa : Nat) (bs : List Byte) : State :=
  let m : Mark := { who := w.who.map fun i => (c, i), release := w.release, tags := w.tags }
  if inMmio pa then s.mmioWrite c pa bs else s.homeWrite c core asid m w.tr pa w.mode bs

/-- A buffered word performed: a contribution meets its element, and the line leaves the core's L1; masked bytes, which stand together,
are one write (R133). -/
def State.drainWord (s : State) (c core asid : Nat) (w : BufWord) : State :=
  match w.plred with
  | some (op, nan) => ((s.snapshotFirst c asid w.tr w.pa).contribute
      { pa := w.pa, op := op, value := w.data, nan := nan, tags := w.tags, asid := asid, enc := w.tr.enc }).dropL1 core (w.pa / 64)
  | none =>
    let js := (List.range 4).filter w.mask.getLsbD
    s.drainBytes c core asid w (w.pa + js.headD 0) (js.map fun j => w.data.extractLsb' (8 * j) 8)

/-- Two buffered words are the halves of one doubleword that one write stored (R133). -/
def BufWord.halves (w x : BufWord) : Bool :=
  w.va.toNat % 8 == 0 && x.va == w.va + 4 && w.mask == 15 && x.mask == 15 && w.plred.isNone && x.plred.isNone
    && w.mode == x.mode && w.who == x.who && w.release == x.release && w.tr == x.tr && w.gen == x.gen

/-- Buffered words performed in program order, the two halves of one doubleword together. -/
def State.drainWords (s : State) (c core asid : Nat) : List BufWord → State
  | [] => s
  | [w] => s.drainWord c core asid w
  | w :: x :: r =>
    if w.halves x then
      (s.drainBytes c core asid w w.pa (leBytes 4 w.data.toNat ++ leBytes 4 x.data.toNat)).drainWords c core asid r
    else (s.drainWord c core asid w).drainWords c core asid (x :: r)

/-- The buffered words of an address space as they stand now, with A and D set by the walks of those translated again (R98, R105). -/
def State.renewWords (s : State) (asid : Nat) (ws : List BufWord) : State × List BufWord :=
  ((ws.filter fun w => w.gen != s.gen asid).foldl (fun t w =>
    match t.walk asid (va48 w.va) { write := true, priv := true } with
    | .ok x => t.applyWalk asid (va48 w.va) true x
    | .error _ => t.stage2A asid (va48 w.va) { write := true, priv := true }) s, ws.filterMap (BufWord.now s asid))

/-- The physical lines of buffered words. -/
def bufLines (ws : List BufWord) : List Nat := (ws.map fun w => w.pa / 64).eraseDups

/-- A line of a buffered word, or of a walk that translates it again, belongs to an engine operation or an accepted part of another crew
than the two copies: the drain is held (R113, R153). -/
def State.drainHeld (s : State) (a b asid : Nat) (ws : List BufWord) : Bool :=
  s.ownsSome && (bufLines (ws.filterMap (BufWord.now s asid)) ++ (ws.filter fun w : BufWord => w.gen != s.gen asid).flatMap (fun w : BufWord =>
      (s.walkReads asid (va48 w.va) ++ s.logPlaces asid).map (· / 64))).any fun line =>
    s.crews.zipIdx.any (fun x => x.2 != a && x.2 != b && (x.1.copies.any (fun j => j.line == some line && j.fault.isNone)
      || x.1.stores.any fun j => j.lines.contains line))
    || s.parts.any fun p => p.accepted && p.pd / 64 == line && p.crew != a && p.crew != b

/-- Lines dropped from a core's L1. -/
def State.dropLines (s : State) (core : Nat) (lines : List Nat) : State :=
  s.modCore core fun x => { x with l1 := x.l1.filter fun l => !lines.contains l.line }

/-- Two units of a pair's copies stand at one point: the same gang or both a bin, the same lanes, the same PC. -/
def standAlike (k : Crew) (u : UnitKind) (k' : Crew) (v : UnitKind) : Bool :=
  let lanes := fun (k : Crew) (u : UnitKind) => (k.members u).map fun i => (k.fibre i).home
  let pc := fun (k : Crew) (u : UnitKind) => (k.fibre ((k.members u).headD 0)).pc
  (match u, v with
    | .gang a _, .gang b _ => a == b
    | .bin _, .bin _ => true
    | _, _ => false) && lanes k u == lanes k' v && pc k u == pc k' v

/-- The units of a copy that stand at a comparison point where the other copy stands too (R341). -/
def Crew.matched (k k' : Crew) : List UnitKind :=
  match k.pair, k'.pair with
  | some p, some q => p.arrived.filter fun u => q.arrived.any fun v => standAlike k u k' v
  | _, _ => []

/-- A paired copy with its buffer and signature emptied, the named units let past their comparison. -/
def Crew.passComparison (k : Crew) (us : List UnitKind) : Crew :=
  { k with
    fibres := k.fibres.map fun f => if f.wait == .pair && us.contains f.unit then { f with wait := .none } else f
    pair := k.pair.map fun p =>
      { p with signature := 0, buffer := [], arrived := p.arrived.filter fun u => !us.contains u, passed := p.passed ++ us } }

/-- One copy's buffer performed at the homes, both copies' buffers emptied, the lines written dropped from the other copy's L1
(R140), and the units that stand at one point in both let past it (R341). -/
def State.drainPair (s : State) (c : Nat) : State :=
  match s.crews[c]? with
  | none => s
  | some k => match k.pair with
    | none => s
    | some p => match s.crews[p.partner]? with
      | none => s
      | some k' =>
        let us := k.matched k'
        let vs := k'.matched k
        match s.renewWords k.desc.asid p.buffer with
        | (s, ws) => (((s.drainWords c k.core k.desc.asid ws).dropLines k'.core (bufLines ws)).modCrew c
            fun k => k.passComparison us).modCrew p.partner fun k => k.passComparison vs

/-- The unit waits at a comparison point for the other copy (R341). -/
def Ctx.arrive (c : Ctx) (s : State) : State :=
  (s.modCrew c.u.crew fun k =>
    { k with pair := k.pair.map fun p => { p with arrived := p.arrived ++ [c.u.kind] } }).modFibres c.u.crew c.all
      fun _ f => { f with wait := .pair }

/-- What a comparison point asks of a unit: none where it may go on, its comparison being done or its crew unpaired; else it
waits for the other copy (R341). -/
def Ctx.compare (c : Ctx) (s : State) : Option Eff :=
  match c.crew.pair with
  | none => none
  | some p => if p.passed.contains c.u.kind then none else some (.stay (c.arrive s))

/-- The unit has used its comparison. -/
def Ctx.compared (c : Ctx) (s : State) : State :=
  if c.crew.pair.isSome then
    s.modCrew c.u.crew fun k =>
      { k with pair := k.pair.map fun p => { p with passed := p.passed.filter fun u => u != c.u.kind } }
  else s

/-- The port of the aperture that an engine's write to a VA goes through. -/
def State.enginePort (s : State) (core asid : Nat) (va : DWord) : Option Nat :=
  match s.translation? core asid (va48 va) with
  | some tr => s.portOf (tr.pa (va48 va))
  | none => none

/-- Ports through which a tile store has rows still to send. -/
def State.storePorts (s : State) (core asid : Nat) (j : StoreJob) : List Nat :=
  let x := j.block.getD 2 0
  (List.range 128).flatMap fun r =>
    if r < j.done then []
    else
      let row : DWord := (j.block.getD 1 0 ++ j.block.getD 0 0) + BitVec.ofNat 64 (r * storePitch x)
      (s.enginePort core asid row).toList ++ (s.enginePort core asid (row + BitVec.ofNat 64 (128 * fmtBytes (storeFmt x) - 1))).toList

/-- Ports through which those engine operations of a crew have writes still to send that are told by unit, fibre and place in the order
of issue (R147, R149). -/
def State.unsentPorts (s : State) (k : Crew) (pick : UnitKind → Nat → Nat → Bool) : List Nat :=
  ((k.copies.filter fun j => pick j.unit j.fibre j.order && j.fault.isNone && dstGlobal j.form
      && decide (j.done < j.len)).filterMap fun j => s.enginePort k.core k.desc.asid j.dst)
    ++ (k.stores.filter fun j => pick j.unit j.fibre j.order && j.fault.isNone
        && !storeScratch (j.block.getD 2 0)).flatMap fun j => s.storePorts k.core k.desc.asid j

/-- Engine operations of other crews, whose issue happens-before what one of some fibres does, have aperture writes still to send. -/
def State.followsUnsent (s : State) (c : Nat) (qs : List FibreId) : Bool :=
  s.crews.zipIdx.any fun x => x.2 != c && x.1.pair.isNone
    && !(s.unsentPorts x.1 fun _ _ order => s.issueKnown x.2 order qs).isEmpty

/-- The engine operations of a crew with global destinations have put their writes where they go. -/
def Crew.enginesLanded (k : Crew) : Bool :=
  k.copies.all (fun j => j.fault.isSome || !dstGlobal j.form || decide (j.len ≤ j.done))
    && k.stores.all fun j => j.fault.isSome || storeScratch (j.block.getD 2 0) || decide (128 ≤ j.done)

/-- A release of fibres of a crew completes: its placed parts have taken effect (R157); a paired copy's engines have put their writes
into its buffer, which the comparison drains (R159); and for system scope the engine writes through apertures that it follows have
been sent, and every write that has left through a port is acknowledged (R147, R150). -/
def State.released (s : State) (c scope : Nat) (qs : List FibreId) : Bool :=
  s.parts.all (fun p => p.crew != c)
    && (match s.crews[c]? with
      | some k => (k.pair.isNone || k.enginesLanded) && (scope != 5 || (s.unsentPorts k fun _ _ _ => true).isEmpty)
      | none => true)
    && (scope != 5 || (!s.followsUnsent c qs && s.outbound.all fun o => !o.write))

/-! ## Checks of a memory instruction (R160, R161) -/

/-- One lane's global access: fibre place, base pair, effective address. -/
structure GAccess where
  idx  : Nat
  base : DWord
  ea   : DWord
  deriving DecidableEq, Repr

/-- The ADDRESS check of a global access (R160). -/
def GAccess.bad (g : GAccess) (n : Nat) : Bool := !canonical g.base || !canonical g.ea || g.ea.toNat % n != 0

/-- A lane entry of TRANSLATION (R286): VA, subcause, write, fetch, engine. -/
def translEntry (va : DWord) (sub : Nat) (write fetch engine : Bool) : List Nat :=
  [va.toNat % 2 ^ 32, va.toNat / 2 ^ 32, sub + 32 * write.toNat + 64 * fetch.toNat + 128 * engine.toNat]

/-- The translations of a list of accesses, lane by lane; each lane its translation or its subcause. -/
def translateLanes (core asid : Nat) (need : Need) : List GAccess → State → State × List (GAccess × Except Nat Translation)
  | [], s => (s, [])
  | g :: gs, s =>
    match s.translate core asid (va48 g.ea) need with
    | (s, r) => match translateLanes core asid need gs s with
      | (s, rs) => (s, (g, r) :: rs)

/-- The lanes that failed translation. -/
def failedLanes (rs : List (GAccess × Except Nat Translation)) : List (GAccess × Nat) :=
  rs.filterMap fun x => match x.2 with
    | .error e => some (x.1, e)
    | .ok _ => none

/-- The lanes that translated. -/
def passedLanes (rs : List (GAccess × Except Nat Translation)) : List (GAccess × Translation) :=
  rs.filterMap fun x => match x.2 with
    | .error _ => none
    | .ok t => some (x.1, t)

/-- The translation of some VA that the unit reads or writes is held (R113, R153). -/
def Ctx.walksHeld (c : Ctx) (write : Bool) (vas : List DWord) (s : State) : Bool := vas.any fun v => s.walkHeld c.core c.asid (va48 v) write

/-- The lanes whose translation would consume an uncorrectable error of the tables, each with its unit and PA (R337). -/
def Ctx.walkErrors (c : Ctx) (write : Bool) (gs : List GAccess) (s : State) : List (Nat × Nat × Nat) :=
  gs.filterMap fun g => (s.walkError c.core c.asid (va48 g.ea) write).map fun e => (c.lane g.idx, e)

/-- TRANSLATION in the lanes told of those checked, whose walks' stage-2 A stands (R100, R161). -/
def Ctx.translationFault (c : Ctx) (write : Bool) (gs : List GAccess) (s s' : State) (x : GAccess × Nat) (xs : List (GAccess × Nat)) : Eff :=
  .raise (s.keepWalks s' c.asid (gs.map fun g => va48 g.ea)) causeTranslation x.2 0 ((x :: xs).map fun g => c.lane g.1.idx)
    ((x :: xs).map fun g => (c.lane g.1.idx, translEntry g.1.ea g.2 write false false))

/-- Each lane's translation, which fails still where `post` gives a subcause for its address. -/
def postLanes (post : Nat → Option Nat) (rs : List (GAccess × Except Nat Translation)) : List (GAccess × Except Nat Translation) :=
  rs.map fun x => match x.2 with
    | .error e => (x.1, Except.error e)
    | .ok t => match post (t.pa (va48 x.1.ea)) with
      | some e => (x.1, Except.error e)
      | none => (x.1, Except.ok t)

/-- The fault of an instruction some of whose lanes meet an uncorrectable error in an entry of the tables: TRANSLATION in the other lanes
that fail it, else ECC in those (R161, R337; of the two the spec does not tell the order: DESIGN CHOICE, log 18). -/
def Ctx.tableFault (c : Ctx) (post : Nat → Option Nat) (need : Need) (gs : List GAccess) (es : List (Nat × Nat × Nat)) (s : State) : Eff :=
  let sound := gs.filter fun g => es.all fun e => e.1 != c.lane g.idx
  match translateLanes c.core c.asid need sound s with
  | (s', rs) => match failedLanes (postLanes post rs) with
    | x :: xs => c.translationFault need.write sound s s' x xs
    | [] => (eccFault (s.keepWalks s' c.asid (sound.map fun g => va48 g.ea)) es).getD (c.waitFor .held s)

/-- The checks of R161 on global accesses of `n` bytes: ADDRESS in any lane, then TRANSLATION in any lane, a translated
address failing still where `post` gives a subcause. Every lane named fails the cause raised. -/
def Ctx.checkWith (c : Ctx) (post : Nat → Option Nat) (need : Need) (n : Nat) (gs : List GAccess) (s : State) :
    Except Eff (State × List (GAccess × Translation)) :=
  let bad := gs.filter fun g => g.bad n
  if ¬ bad.isEmpty then
    .error (.raise s causeAddress 0 0 (bad.map fun g => c.lane g.idx)
      (bad.map fun g => (c.lane g.idx, addrEntry g.ea.toNat)))
  else if c.walksHeld need.write (gs.map GAccess.ea) s then .error (c.waitFor .held s)
  else match c.walkErrors need.write gs s with
    | e :: es => .error (c.tableFault post need gs (e :: es) s)
    | [] => match translateLanes c.core c.asid need gs s with
      | (s', rs) => match failedLanes (postLanes post rs) with
        | [] => .ok (s', passedLanes (postLanes post rs))
        | x :: xs => .error (c.translationFault need.write gs s s' x xs)

/-- The checks of R161 of an access that any mapped page accepts. -/
def Ctx.checkGlobal (c : Ctx) (need : Need) (n : Nat) (gs : List GAccess) (s : State) :
    Except Eff (State × List (GAccess × Translation)) := c.checkWith (fun _ => none) need n gs s

/-- Some access falls on a line that an engine or an accepted part owns (R153). -/
def anyOwned (s : State) (gs : List (GAccess × Translation)) : Bool := gs.any fun g => s.owned (g.2.pa (va48 g.1.ea) / 64)

/-- The accesses of a load that reach the homes of their lines: those that the core's L1 does not serve. -/
def Ctx.homeward (c : Ctx) (mode : Nat) (gs : List (GAccess × Translation)) (s : State) : List (GAccess × Translation) :=
  gs.filter fun g => !s.l1Hit c.core c.asid g.2 (va48 g.1.ea) mode

/-- An access through an aperture would pass a write that an engine of its gang, or of a fibre of its unit wherever that fibre was binned
then, has still to send there (R28, R147, R149). -/
def Ctx.passesEngine (c : Ctx) (gs : List (GAccess × Translation)) (s : State) : Bool :=
  let ports := gs.filterMap fun g => s.portOf (g.2.pa (va48 g.1.ea))
  !ports.isEmpty && (s.unsentPorts c.crew fun u f order => (sameGang c.u.kind u || c.all.contains f) && decide (order < s.tick)).any ports.contains

/-- The lanes whose read would consume an uncorrectable error (R337, R161). -/
def Ctx.eccLanes (c : Ctx) (n : Nat) (gs : List (GAccess × Translation)) (s : State) : Option Eff :=
  eccFault s (gs.filterMap fun g => (s.eccAt (g.2.pa (va48 g.1.ea)) n).map fun e => (c.lane g.1.idx, e))

/-- The effective addresses of the active lanes: a pair register plus a scaled offset (R160). -/
def Ctx.globalLanes (c : Ctx) (a : Nat) (off : Int) (n : Nat) : List GAccess :=
  c.act.map fun i => let b := (c.fibre i).pair a; { idx := i, base := b, ea := globalVa b off n }

/-! ## Scratchpad (R125, R127) -/

/-- Bytes of a crew's scratchpad at a core scratchpad address. -/
def Crew.scrRead (k : Crew) (a n : Nat) : List Byte := getBytes k.scr (a - k.scrBase) n
/-- Bytes stored in a crew's scratchpad at a core scratchpad address. -/
def Crew.scrWrite (k : Crew) (a : Nat) (bs : List Byte) : Crew := { k with scr := putBytes k.scr (a - k.scrBase) bs }
/-- The granule of a scratchpad address, from the crew's first (R127). -/
def Crew.granule (k : Crew) (a : Nat) : Nat := (a - k.scrBase) / 16
/-- A granule is full. -/
def Crew.isFull (k : Crew) (g : Nat) : Bool := k.full.contains g
/-- A granule set full or empty. -/
def Crew.setFull (k : Crew) (g : Nat) (b : Bool) : Crew :=
  { k with full := if b then insertRising g k.full else k.full.filter (· != g) }

/-- Single-bit errors in a crew's scratchpad bytes corrected and logged (R337, R348). -/
def State.correctScr (s : State) (c off n : Nat) : State :=
  let hit := fun p : Poison => (List.range ((n + 3) / 4)).any fun i => p == .scratch c (off / 4 + i)
  if s.rel.correctable.any hit then
    ({ s with rel := { s.rel with correctable := s.rel.correctable.filter fun p => !hit p } }).logCrew 1 2 c off
  else s

/-- Words of a crew's scratchpad overwritten whole: the errors that stood in them are gone. -/
def State.cleanScr (s : State) (c off n : Nat) : State :=
  let hit := fun p : Poison => match p with
    | .scratch x w => x == c && decide (off ≤ 4 * w) && decide (4 * w + 4 ≤ off + n)
    | _ => false
  { s with rel := { s.rel with
      poison := s.rel.poison.filter fun p => !hit p
      correctable := s.rel.correctable.filter fun p => !hit p } }

/-- A word of a crew's scratchpad holds an uncorrectable error (R337). -/
def State.scrError (s : State) (c off n : Nat) : Bool :=
  (List.range ((n + 3) / 4)).any fun i => s.rel.poison.contains (.scratch c (off / 4 + i))

end Sys2Proof.Machine
end

