-- ==== Sys2Proof/Machine/ControlOps.lean ====
section
/-!
DEFINITION. Control: special registers, REP, branches, calls, returns, the end of fibres, traps, FORK and the granting of
register blocks, entering a clause and dovetail points (05 R65 to R73; 04 R41 to R46, R56; 03 R24 to R36; 17 R254, R258,
R260 to R262).
-/
namespace Sys2Proof.Machine

/-- NOP has no effect (R64). -/
def bodyNop (_ : Ctx) (s : State) : Eff := .next s

/-! ## Special registers (R65, R66) -/

/-- Cycles of a core from one step to another: the sum of those of the steps between. -/
def cyclesBetween (core from_ to_ : Nat) : Nat :=
  ((List.range (to_ - from_)).map fun i => Config.issueCycles core (from_ + i)).sum

/-- The cycle counter of a core: every issue cycle since module reset, and what SWRITE has added. -/
def State.clk (s : State) (core : Nat) : DWord :=
  (s.coreAt core).clkAdj + BitVec.ofNat 64 (cyclesBetween core s.epoch s.now)

/-- The generation as %gen reads it: while a GENBUMP of the address space waits, the old or the new one. -/
def State.readGen (s : State) (asid : Nat) : State × Word :=
  let g := BitVec.ofNat 32 (s.gen asid)
  if s.bumps.any fun b => b.asid == asid then
    (s.draw, if Config.oldGeneration s.draws then BitVec.ofNat 32 ((s.gen asid + 2 ^ 16 - 1) % 2 ^ 16) else g)
  else (s, g)

/-- VA of a fibre's stack area; 0 for a loose or handler fibre (R291, R332). -/
def stackVa (k : Crew) (f : Fibre) : DWord :=
  if f.bound then k.desc.stkBase + BitVec.ofNat 64 (k.desc.stkStride.toNat * f.ident) else 0

/-- What a special register reads for a fibre, but for the counter and the generation (R65). -/
def special (k : Crew) (f : Fibre) (x : Nat) : Word :=
  let n := BitVec.ofNat 32
  match x with
  | 0 => n f.home
  | 1 => n f.ident
  | 2 => n f.gang
  | 3 => n k.desc.x
  | 4 => n k.desc.y
  | 5 => n k.desc.z
  | 6 => n k.desc.ncrewx
  | 7 => n k.gangs.length
  | 8 => k.desc.args.extractLsb' 0 32
  | 9 => k.desc.args.extractLsb' 32 32
  | 10 => n k.scrBase
  | 11 => n k.desc.scrSize
  | 12 => n k.accBase
  | 13 => if k.kind = .sequencer then 0 else n k.desc.accCount
  | 14 => n k.core
  | 15 => n k.kind.code
  | 16 => (stackVa k f).extractLsb' 0 32
  | 17 => (stackVa k f).extractLsb' 32 32
  | 18 => n f.part
  | 20 => f.clkh
  | _ => 0

/-- SREAD (R65): S = 0; reading %clk latches its high half. -/
def bodySread (d x : Nat) (c : Ctx) (s : State) : Eff :=
  match x with
  | 19 =>
    let t := s.clk c.core
    .next (c.onActive (fun f => { f.setReg d { val := t.extractLsb' 0 32, s := false } with clkh := t.extractLsb' 32 32 }) s)
  | 21 =>
    if c.act.isEmpty then .next s
    else
      let r := s.readGen c.asid
      writeLanes c d (fun _ => { val := r.2, s := false }) r.1
  | _ => writeLanes c d (fun f => { val := special c.crew f x, s := false }) s

/-- SWRITE (R66): half of the core's counter from the highest active lane. -/
def bodySwrite (a x : Nat) (c : Ctx) (s : State) : Eff :=
  match c.act.getLast? with
  | none => .next s
  | some i =>
    let v := (c.fibre i).val a
    let t := s.clk c.core
    let t' : DWord := if x = 19 then t.extractLsb' 32 32 ++ v else v ++ t.extractLsb' 0 32
    .next (s.modCore c.core fun k => { k with clkAdj := k.clkAdj + (t' - t) })

/-! ## REP (R56) -/

/-- Fibres past an instruction that DCOUNT does not count. -/
def Fibre.pass (kind : Kind) (f : Fibre) : Fibre := { (Fibre.advance kind { f with rep := none }) with dcount := f.dcount }

/-- A REP of an L text may not be followed by a control transfer, another REP or DVT. -/
def badAfterRep (w : Word) : Bool := isTransfer (majorOf w) || majorOf w == 0x07 || majorOf w == 0x73

/-- REP: the following instruction issues count times. In L, what may not follow raises ILLEGAL-CLAUSE here: after a fault of the REP's
own encoding, since L has no clause entry at which ILLEGAL-CLAUSE would come first (R60; DESIGN CHOICE, log 53). -/
def bodyRep (n sd sa sb sc : Nat) (c : Ctx) (s : State) : Eff :=
  let r : Rep := { count := n + 1, stepD := repStep sd, stepA := repStep sa, stepB := repStep sb, stepC := repStep sc, k := 0 }
  let f := c.fibre (c.all.headD 0)
  let go := fun s : State => s.modFibres c.u.crew c.all fun _ f => { f.pass c.kind with rep := some r }
  if c.kind.isL then
    if s.fetchHeld c.core c.asid c.priv (f.codeVa (f.pc + 12)) then c.waitFor .held s
    else match s.fetch c.core c.asid c.priv c.u.crew c.crew.pair (f.codeVa (f.pc + 12)) with
    | (s', .error _) => .left (go s')
    | (s', .ok w) =>
      if badAfterRep w then .raise s' causeClause 0 0 (c.all.map c.lane) [] else .left (go s')
  else .left (go s)

/-! ## Branches (R68 to R70) -/

/-- The link written to v7 of the active lanes. -/
def Ctx.link (c : Ctx) (s : State) : State := c.onActive (fun f => f.setReg 7 { val := nextPc c, s := false }) s

/-- BRA and CALL. -/
def bodyBra (call : Bool) (o : BitVec 21) (c : Ctx) (s : State) : Eff :=
  let t := branchTarget c o
  .jump (if call then c.link s else s) (c.act.map (·, t))

/-- The lanes whose register target fails a check: INDIRECT-TARGET, each lane's offset in its entry (R286). -/
def Ctx.indirect (c : Ctx) (bad : List (Nat × Word)) (s : State) : Eff :=
  .raise s causeIndirect 0 0 (bad.map fun x => c.lane x.1) (bad.map fun x => (c.lane x.1, [x.2.toNat]))

/-- The first word at every target, or why it is not to be had. -/
def fetchTargets (c : Ctx) : List (Nat × Word) → State → State × List (Nat × Word × Except FetchStop Word)
  | [], s => (s, [])
  | (i, t) :: r, s =>
    match s.fetch c.core c.asid c.priv c.u.crew c.crew.pair ((c.fibre i).codeVa t) with
    | (s, w) => match fetchTargets c r s with
      | (s, ws) => (s, (i, t, w) :: ws)

/-- The targets whose fetch stops with a cause. -/
def stopsOf (cause : Nat) (ws : List (Nat × Word × Except FetchStop Word)) : List (Nat × FetchStop) :=
  ws.filterMap fun w => match w.2.2 with
    | .error e => if e.cause = cause then some (w.1, e) else none
    | .ok _ => none

/-- The word that BRX enters carries LAND (R44, R46). -/
def landed (c : Ctx) (w : Word) : Bool := if c.kind.isL then w.getLsbD 1 else hdrLand w

/-- BRX: alignment, fetch and LAND of every target, then the branch (R69). -/
def bodyBrx (a : Nat) (call : Bool) (c : Ctx) (s : State) : Eff :=
  let ts := c.act.map fun i => (i, (c.fibre i).val a)
  let bad := ts.filter fun t => !targetAligned c t.2
  if ¬ bad.isEmpty then c.indirect bad s
  else if ts.any fun t => s.fetchHeld c.core c.asid c.priv ((c.fibre t.1).codeVa t.2) then c.waitFor .held s
  else match fetchTargets c ts s with
    | (s', ws) =>
      let lacking := ws.filterMap fun w => match w.2.2 with
        | .error _ => none
        | .ok x => if landed c x then none else some (w.1, w.2.1)
      match stopsOf causeTranslation ws, stopsOf causeEcc ws with
      | x :: xs, _ => .raise s' causeTranslation x.2.sub 0 ((x :: xs).map fun y => c.lane y.1)
          ((x :: xs).map fun y => (c.lane y.1, y.2.entry))
      | [], x :: xs => .raise s' causeEcc 0 x.2.sub ((x :: xs).map fun y => c.lane y.1)
          ((x :: xs).map fun y => (c.lane y.1, y.2.entry))
      | [], [] =>
        if ¬ lacking.isEmpty then c.indirect lacking s'
        else .jump (if call then c.link s' else s') ts

/-- RET: the link of every active lane; a trap-return link in a handler fibre resumes the faulting unit (R70, R287). -/
def bodyRet (a : Nat) (c : Ctx) (s : State) : Eff :=
  let ts := c.act.map fun i => (i, (c.fibre i).val a)
  let trap := ts.find? fun t => t.2.getLsbD 0 && (c.fibre t.1).handler && (c.fibre t.1).priv
  match trap with
  | some t => match s.trapReturn c.u t.2 with
    | some s' => .left s'
    | none => c.indirect [t] s
  | none =>
    let bad := ts.filter fun t => !targetAligned c t.2
    if ¬ bad.isEmpty then c.indirect bad s else .jump s ts

/-! ## Crew barriers (R174) -/

/-- The crew's live bound fibres, by %fibre. -/
def Crew.liveBound (k : Crew) : List Nat := (k.fibres.filter fun f => f.live && f.bound).map Fibre.ident

/-- A fibre that waits at a barrier whose phase has completed goes on at the next instruction. -/
def Fibre.leaveBar (kind : Kind) (n : Nat) (f : Fibre) : Fibre :=
  match f.wait with
  | .bar m _ => if m = n then Fibre.advance kind f else f
  | _ => f

/-- A phase that is complete: the phase flips, the arrivals empty, the waiters go on. -/
def Crew.testBarrier (k : Crew) (n : Nat) : Crew :=
  let b := k.barriers.getD n { phase := false, arrived := [] }
  let live := k.liveBound
  if b.arrived.isEmpty ∨ ¬ live.all b.arrived.contains then k
  else { k with barriers := k.barriers.set n { phase := !b.phase, arrived := [] },
                fibres := k.fibres.map (Fibre.leaveBar k.kind n) }

/-- Every barrier tested again, as when a fibre ends. -/
def Crew.testBarriers (k : Crew) : Crew :=
  (List.range 16).foldl Crew.testBarrier
    { k with barriers := k.barriers.map fun b => { b with arrived := b.arrived.filter k.liveBound.contains } }

/-- Where a barrier of a crew has completed since the crew stood as told, what its live bound fibres did before it
happens-before what any of them does after it (R141). -/
def State.meet (s : State) (c : Nat) (old : Crew) : State :=
  match s.crews[c]? with
  | none => s
  | some k =>
    if k.barriers.map Barrier.phase = old.barriers.map Barrier.phase then s
    else
      s.joinAll (((List.range k.fibres.length).filter fun i => (k.fibre i).live && (k.fibre i).bound).map fun i => (c, i))

/-! ## The end of fibres (R71) -/

/-- The unit's gang or bin has no live fibre but those that end. -/
def Ctx.lastOfGang (c : Ctx) : Bool :=
  match c.u.kind with
  | .gang g _ => c.crew.fibres.zipIdx.all fun x => !(x.1.live && x.1.bound && x.1.gang == g) || c.act.contains x.2
  | .bin _ => c.all.all c.act.contains

/-- END: the active fibres end and return their windows; the last of a gang observes every token (R183); a handler fibre's
END ends the launch with the delivered cause (R287). -/
def bodyEnd (c : Ctx) (s : State) : Eff :=
  if c.act.isEmpty then .next s
  else if c.act.any fun i => (c.fibre i).handler then
    .endLaunch s ((c.crew.delivery.map fun d => d.cause.toNat).getD causeHalt)
  else match (if c.lastOfGang then (c.crew.tokens c.u.kind).deferred.head? else none) with
    | some d => .deferred s d
    | none =>
      let rest := c.all.filter fun i => !c.act.contains i
      let s := s.modCrew c.u.crew fun k =>
        let k := k.modFibres c.act fun _ f => { f with live := false, regs := [], dirty := [], cols := [] }
        let k := k.modFibres rest fun _ f => f.advance c.kind
        let k := k.testBarriers.regroupAll
        match c.u.kind with
        | .bin b => k.rebin s.now b
        | .gang _ _ => k
      .left (((s.meet c.u.crew c.crew).restoreMirrors c.core).checkCrewEnd c.u.crew)

/-! ## Traps (R72) -/

/-- TRAP and SYSC: a precise fault with the code in INFO; nothing where no lane is active. -/
def bodyTrap (cause code : Nat) (c : Ctx) (s : State) : Eff :=
  if c.act.isEmpty then .next s else c.raiseAll s cause code

/-! ## Granting register blocks (R35) -/

/-- A handler's window waits on a core: it is granted ahead of every request (R284). One whose record waits for a line asks for no
blocks yet. -/
def State.handlerWaits (s : State) (core : Nat) : Bool :=
  core < 256 && (s.residents core).any fun c => match s.crews[c]? with
    | some k => k.heldFault.isSome && !s.recordHeld k
    | none => false

/-- A fibre of a request still stands at its instruction, waiting for its blocks or about to issue it again: the request is pending. -/
def State.stillAsks (s : State) (r : Request) : Bool :=
  match s.crews[r.crew]? with
  | some k => k.status == .resident && r.members.any fun i =>
    let f := k.fibre i
    f.live && f.pc == r.pc && (match f.wait with
      | .blocks => true
      | .none => true
      | .held => true
      | .tokens _ => true
      | _ => false)
  | none => false

/-- The block requests that wait on a core, in order of arrival (R35). -/
def State.requestsOn (s : State) (core : Nat) : List Request := (s.coreAt core).requests.filter s.stillAsks

/-- A try form can be granted now: it fits and nothing waits on the core. -/
def grantTry (c : Ctx) (s grown : State) : Bool :=
  (s.requestsOn c.core).isEmpty && !s.handlerWaits c.core && grown.coreFits c.core

/-- A waiting form can be granted now: it fits, and it is the oldest request or there is none. -/
def grantWait (c : Ctx) (s grown : State) : Bool :=
  (match s.requestsOn c.core with
    | [] => true
    | r :: _ => c.owns r)
    && !s.handlerWaits c.core && grown.coreFits c.core

/-- The unit's request withdrawn once granted, mirrors giving way where the blocks are needed (R339). -/
def Ctx.granted (c : Ctx) (before s : State) : State :=
  (s.modCore c.core fun k => { k with requests := k.requests.filter fun r => !c.owns r }).revokeMirrors before c.core

/-- The unit waits for its blocks in arrival order: of sub-gangs that have merged the earliest request stands, for what the merged one
asks (R24, R35). -/
def Ctx.request (c : Ctx) (places : List Nat) (grow : Nat) (forks : List (Nat × Nat)) (asked : Nat) (s : State) : Eff :=
  let mine : Request := { crew := c.u.crew, members := c.all, pc := c.pc, places := places, grow := grow, forks := forks, asked := asked }
  let s := s.modCore c.core fun k => { k with requests := match k.requests.findIdx? c.owns with
    | none => k.requests ++ [mine]
    | some n => k.requests.take n ++ mine :: (k.requests.drop (n + 1)).filter fun r => !c.owns r }
  .stay (s.modFibres c.u.crew c.all fun _ f => { f with wait := .blocks })

/-! ## FORK (R73, R27) -/

/-- The loose fibre that a lane's FORK creates (R20, R21). -/
def childOf (f : Fibre) (pc blocks : Nat) : Fibre :=
  let pc := BitVec.ofNat 32 pc
  { Fibre.empty with
    live := true, bound := false, priv := f.priv, codeBase := f.codeBase, pc := pc, hdr := pc,
    size := blocks, regs := f.regs.take 8 ++ newRegs (blocks - 1), dirty := List.range blocks, home := f.home,
    part := f.part, gang := f.gang, ident := f.ident }

/-- The crew with a child of every active lane, in the binner (R28), its window in columns of the core's loose blocks (R35). A
child is bound to see what its creator is (DEDUCED, log 5). -/
def Ctx.create (c : Ctx) (blocks : Nat) (pcs : List Nat) (s : State) : State :=
  let kids := (c.act.zip pcs).map fun x => { childOf (c.fibre x.1) x.2 blocks with issuedAt := s.now }
  let n := c.crew.fibres.length
  let s := s.modCrew c.u.crew fun k =>
    (List.range kids.length).foldl (fun k i => k.enterBin s.now (n + i)) { k with fibres := k.fibres ++ kids }
  let s := c.act.zipIdx.foldl (fun t x => t.inherit (c.u.crew, x.1) (c.u.crew, n + x.2)) s
  s.allotLoose c.u.crew ((List.range kids.length).map (n + ·))

/-- The VAs that a FORK reads: of the entry that each active lane names (R73, R323). -/
def Ctx.forkReads (c : Ctx) (a : Nat) (s : State) : List Nat :=
  c.act.flatMap fun i => s.entryReads c.asid (c.fibre (c.all.headD 0)).codeBase.toNat ((c.fibre i).val a).toNat

/-- The device's read for a unit of up to 16 bytes from some VA is held at its home (R113, R153). -/
def Ctx.readsHeld (c : Ctx) (vas : List Nat) (s : State) : Bool := s.readsHeld c.asid vas

/-- The active lanes whose FORK would consume an uncorrectable error as it reads its entry, each with its unit and PA (R337). -/
def Ctx.forkErrors (c : Ctx) (a : Nat) (s : State) : List (Nat × Nat × Nat) :=
  c.act.filterMap fun i => (s.readsError c.asid
    (s.entryReads c.asid (c.fibre (c.all.headD 0)).codeBase.toNat ((c.fibre i).val a).toNat)).map fun e => (c.lane i, e)

/-- FORK and FORK.try: one loose fibre for each active lane, all or none. DESIGN CHOICE, log 50: it is granted where the windows,
packed by home slot as R35 gives, fit; what it asked for, as a fault record tells, is its active lanes times its blocks, as R73
counts. DESIGN CHOICE, log 51: a code object whose header or entry table does not read has no entries; an entry within the count
whose bytes do not read sends the child to PC 0xFFFF_FFFF. Whatever it ends in, its reads have used the entries that translate them
(R100). -/
def bodyFork (a blocks : Nat) (try_ : Option Nat) (c : Ctx) (s : State) : Eff :=
  let base := (c.fibre (c.all.headD 0)).codeBase.toNat
  let n := s.entryCount c.asid base
  let bad := c.act.filter fun i => decide (n ≤ ((c.fibre i).val a).toNat)
  let reads := c.forkReads a s
  let t := s.peekedAll c.asid reads
  if c.act.isEmpty then .next s
  else if c.readsHeld reads s then c.waitFor .held s
  else match eccFault s (c.forkErrors a s) with
  | some e => e
  | none =>
  if ¬ bad.isEmpty then c.indirect (bad.map fun i => (i, (c.fibre i).val a)) t
  else
    let s := t
    let pcs := c.act.map fun i => match s.entry? c.asid base ((c.fibre i).val a).toNat with
      | some e => if c.kind.isL then e.lpc else e.dpc
      | none => 0xFFFFFFFF
    let grown := c.create blocks pcs s
    match try_ with
    | some p =>
      if grantTry c s grown then .next (c.onActive (fun f => f.setPred p true) (c.granted s grown))
      else writePreds c p (fun _ => false) s
    | none =>
      if grantWait c s grown then .next (c.granted s grown)
      else c.request [] 0 (c.act.map fun i => (c.lane i, blocks)) (c.act.length * blocks) s

/-! ## REGACQ and REGREL (R261, R262) -/

/-- A window grown by `n` blocks, which read 0. -/
def Fibre.grow (n : Nat) (f : Fibre) : Fibre :=
  { f with size := f.size + n, regs := f.regs ++ newRegs n, dirty := List.range (f.size + n) }

/-- A window shrunk by `n` blocks. -/
def Fibre.shrink (n : Nat) (f : Fibre) : Fibre :=
  { f with size := f.size - n, regs := f.regs.take (8 * (f.size - n)), dirty := List.range (f.size - n),
           cols := f.cols.take (f.size - n) }

/-- REGACQ: WINDOW where a window would pass the kind's limit; else granted, waited for, or refused in a predicate. -/
def bodyRegacq (n : Nat) (try_ : Option Nat) (c : Ctx) (s : State) : Eff :=
  let bad := c.act.filter fun i => decide (c.kind.maxWindow < (c.fibre i).size + n)
  if c.act.isEmpty then .next s
  else if ¬ bad.isEmpty then .raise s causeWindow 0 0 (bad.map c.lane) []
  else
    let grown := (c.onActive (Fibre.grow n) s).allotLoose c.u.crew c.act
    match try_ with
    | some p =>
      if grantTry c s grown then .next (c.onActive (fun f => f.setPred p true) (c.granted s grown))
      else writePreds c p (fun _ => false) s
    | none =>
      if grantWait c s grown then .next (c.granted s grown)
      else c.request c.act n [] (grown.blocksUsed c.core - s.blocksUsed c.core) s

/-- REGREL: WINDOW where a window would fall below one block; else every active window shrinks. -/
def bodyRegrel (n : Nat) (c : Ctx) (s : State) : Eff :=
  let bad := c.act.filter fun i => decide ((c.fibre i).size < n + 1)
  if ¬ bad.isEmpty then .raise s causeWindow 0 0 (bad.map c.lane) []
  else .next (c.onActive (Fibre.shrink n) s)

/-! ## Dovetail points and MIGR (R257, R258, R260) -/

/-- The VA of the header field that tells the texts of a crew's code object (R321). -/
def CrewDesc.textsVa (d : CrewDesc) : Nat := d.codeBase.toNat + 0x4C

/-- The code object of the crew has a text for a kind of core, as its header says (R321). -/
def State.hasText (s : State) (d : CrewDesc) (k : Kind) : Bool :=
  match s.peekNat d.asid d.textsVa 4 with
  | some w => bitsAt w (if k.isL then 1 else 0) 1 == 1
  | none => false

/-- MIGR: a pending request for the named kind, where it can be honoured (R257). The header is read where the request could be
honoured otherwise. -/
def bodyMigr (x : Nat) (c : Ctx) (s : State) : Eff :=
  let k : Kind := if x = 0 then .latency else .density
  if c.act.isEmpty ∨ k = c.kind ∨ (k = .latency ∧ 16 < c.crew.gangs.length) ∨ c.crew.pending.isSome = true then .next s
  else if c.readsHeld [c.crew.desc.textsVa] s then c.waitFor .held s
  else match s.readsError c.asid [c.crew.desc.textsVa] with
  | some e => .raise s causeEcc 0 e.1 (c.act.map c.lane) (c.act.map fun i => (c.lane i, addrEntry e.2))
  | none =>
    let t := s.peekedAll c.asid [c.crew.desc.textsVa]
    .next (if s.hasText c.crew.desc k then t.modCrew c.u.crew fun w => { w with pending := some k } else t)

/-- DVT: under a pending request the unit stops here; else it passes the point (R254, R258, R260). -/
def bodyDvt (idx : Nat) (c : Ctx) (s : State) : Eff :=
  if c.crew.pending.isSome then .stay (s.modFibres c.u.crew c.all fun _ f => { f with wait := .dovetail })
  else .left (s.modFibres c.u.crew c.all fun _ f =>
    { f.pass c.kind with passed := true, didx := idx, dcount := 0 })

/-! ## Entering a clause (R41 to R45, R67) -/

/-- A fault at a D clause header, or at the fetch of a code word: it names every live fibre of the unit (R285). -/
def Ctx.atFetch (c : Ctx) (cause sub info : Nat) (word : Word) (entry : List Nat) (s : State) : State :=
  let f := c.fibre (c.all.headD 0)
  let lanes := c.all.map c.lane
  s.takeFault c.u
    { cause := cause, sub := sub, info := info, lanes := lanes, active := lanes, entries := lanes.map fun l => (l, entry),
      kind := c.kind, pcRun := f.pc, hdr := f.hdr, obs := f.pc, word := word, ext := 0, rep := (f.rep.map Rep.k).getD 0 } none

/-- The fault of a code word that is not to be had: TRANSLATION, or ECC (R337). -/
def Ctx.fetchFault (c : Ctx) (e : FetchStop) (word : Word) (s : State) : State :=
  if e.cause = causeTranslation then c.atFetch e.cause e.sub 0 word e.entry s else c.atFetch e.cause 0 e.sub word e.entry s

/-- The unit with the words of its clause latched (R41). -/
def Ctx.latch (c : Ctx) (h : Word) (ws : List Word) (pc : Word) (s : State) : State :=
  s.modFibres c.u.crew c.all fun _ f => { f with hdrWord := h, clause := ws, pc := pc, wait := .none }

/-- A fetch of one of `n` words at a code offset would be held (R153, R156). -/
def Ctx.fetchWaits (c : Ctx) (off : Word) (n : Nat) (s : State) : Bool :=
  let f := c.fibre (c.all.headD 0)
  (List.range n).any fun i => s.fetchHeld c.core c.asid c.priv (f.codeVa off + 4 * i)

/-- The unit waits before a fetch. -/
def Ctx.holdFetch (c : Ctx) (s : State) : State := s.modFibres c.u.crew c.all fun _ f => { f with wait := .held }

/-- Words of code at an offset for the unit, as fetched. -/
def Ctx.code (c : Ctx) (off : Word) (n : Nat) (s : State) : State × Except FetchStop (List Word) :=
  s.fetchWords c.core c.asid c.priv c.u.crew c.crew.pair ((c.fibre (c.all.headD 0)).codeVa off) n

/-- A REP whose repeats are under way, read again from its word (R56). Where that word is a REP no longer, the count and the steps
stay as they were (DESIGN CHOICE, log 53). -/
def Rep.reread (r : Rep) (w : Word) : Rep :=
  if majorOf w = 0x07 then
    { count := (fld w 15 6).toNat + 1, stepD := repStep (fld w 13 2).toNat, stepA := repStep (fld w 11 2).toNat,
      stepB := repStep (fld w 9 2).toNat, stepC := repStep (fld w 7 2).toNat, k := r.k }
  else r

/-- A clause header as the loader's walk knows it: a word that no state-map record names is no dovetail point, whatever its
DOVE bit (R253). -/
def State.pointHdr (s : State) (asid base : Nat) (hdr h : Word) : Word :=
  match (if hdrDove h then s.stateMap? asid base (hdrDidx h) else some []) with
  | none => h &&& ~~~(BitVec.twoPow 32 12)
  | some r => if r.isEmpty ∨ leNat (r.take 4) = hdr.toNat then h else h &&& ~~~(BitVec.twoPow 32 12)

/-- The VAs that telling a dovetail point by its state-map record reads: those of a header with DOVE. -/
def State.pointReads (s : State) (asid base : Nat) (h : Word) : List Nat := if hdrDove h then s.mapReads asid base (hdrDidx h) else []

/-- Control enters a D clause at the unit's header: the dovetail stop, then the checks of R41. -/
def Ctx.enterClause (c : Ctx) (s : State) : State :=
  let f := c.fibre (c.all.headD 0)
  if c.fetchWaits f.hdr 1 s then c.holdFetch s
  else match c.code f.hdr 1 s with
  | (s', .error e) => c.fetchFault e 0 s'
  | (s', .ok hs) =>
    let h := hs.headD 0
    let bad := fun s : State => c.atFetch causeClause 0 0 h [] (s.modFibres c.u.crew c.all fun _ f => { f with hdrWord := h })
    if ¬ headerOk h then bad s'
    else if c.fetchWaits (f.hdr + 4) (hdrCount h) s' then c.holdFetch s'
    else match c.code (f.hdr + 4) (hdrCount h) s' with
      | (s'', .error e) => c.fetchFault e h s''
      | (s'', .ok ws) =>
        let p := s''.pointHdr c.asid f.codeBase.toNat f.hdr h
        let reads := s''.pointReads c.asid f.codeBase.toNat h
        if ¬ clauseOk h ws then bad s''
        else if c.readsHeld reads s'' then c.holdFetch s''
        else match s''.readsError c.asid reads with
        | some e => c.fetchFault { cause := causeEcc, sub := e.1, place := e.2 } h s''
        | none =>
        let s'' := s''.peekedAll c.asid reads
        if hdrDove p ∧ c.crew.pending.isSome then
          s''.modFibres c.u.crew c.all fun _ f => { f with wait := .dovetail, hdrWord := p }
        else c.latch p ws (f.hdr + 4) s''

/-- A unit that stands inside a D clause whose words it has not latched reads the header and the words again, without the
checks of R41 (R45): up to the recorded instruction, whatever COUNT the header now has; a REP under way is read again (R56). -/
def Ctx.resumeClause (c : Ctx) (s : State) : State :=
  let f := c.fibre (c.all.headD 0)
  if c.fetchWaits f.hdr 1 s then c.holdFetch s
  else match c.code f.hdr 1 s with
  | (s', .error e) => c.fetchFault e 0 s'
  | (s', .ok hs) =>
    let h := hs.headD 0
    let n := max (hdrCount h) ((f.pc - f.hdr).toNat / 4)
    if c.fetchWaits (f.hdr + 4) n s' then c.holdFetch s'
    else match c.code (f.hdr + 4) n s' with
    | (s'', .error e) => c.fetchFault e h s''
    | (s'', .ok ws) =>
      let reads := s''.pointReads c.asid f.codeBase.toNat h
      if c.readsHeld reads s'' then c.holdFetch s''
      else match s''.readsError c.asid reads with
      | some e => c.fetchFault { cause := causeEcc, sub := e.1, place := e.2 } h s''
      | none => (c.latch (s''.pointHdr c.asid f.codeBase.toNat f.hdr h) ws f.pc (s''.peekedAll c.asid reads)).modFibres c.u.crew c.all fun _ f =>
        { f with rep := f.rep.map fun r =>
            if r.k = 0 then r else r.reread (ws.getD ((f.pc - f.hdr).toNat / 4 - 2) 0) }

/-- CLAUSE_ENTRY: the unit enters the clause at its header, or goes on inside one. -/
def evClauseEntry (a : EvArg) (s : State) : State :=
  match s.ctx? a.unit Prefix.plain with
  | none => s
  | some c =>
    let f := c.fibre (c.all.headD 0)
    if c.kind.isL ∨ ¬ f.clause.isEmpty then s
    else if f.pc = f.hdr then c.enterClause s else c.resumeClause s

/-- An L unit's doubleword fetched and latched, extension first; or the fault of its fetch taken (R46, R67). A REP under
way is read again from the doubleword before (R56). -/
def Ctx.fetchL (c : Ctx) (s : State) : State :=
  let f := c.fibre (c.all.headD 0)
  let again := (f.rep.map Rep.k).getD 0 != 0
  if c.fetchWaits f.pc 2 s || (again && c.fetchWaits (f.pc - 4) 1 s) then c.holdFetch s
  else match c.code f.pc 2 s with
  | (s', .error e) => c.fetchFault e 0 s'
  | (s', .ok ws) =>
    match (if again then c.code (f.pc - 4) 1 s' else (s', .ok [])) with
    | (s'', .error e) => c.fetchFault e 0 s''
    | (s'', .ok w) => s''.modFibres c.u.crew c.all fun _ f =>
      { f with clause := ws, wait := .none, rep := f.rep.map fun r => if again then r.reread (w.headD 0) else r }

end Sys2Proof.Machine
end

