-- ==== Sys2Proof/Machine/FloatOps.lean ====
section
/-!
DEFINITION. The floating, packed and conversion operations on lanes, shared by the two texts (14 R211 to R225).
-/
namespace Sys2Proof.Machine

/-- The address of the issuing instruction's first word, for the NaN hash (R207). -/
def Fibre.instrVa (f : Fibre) : Nat := f.codeVa f.pc

/-- The NaN that an invalid operation of a fibre's instruction writes in a format (R206). -/
def Fibre.nan (f : Fibre) (code : Nat) : Nat := invalidNaN code f.home (h17 f.instrVa)

/-- The rounding field of FADD, FSUB, FMUL and FFMA, and of the packed instructions (R212). -/
def floatMode : Nat → Mode
  | 1 => .rz
  | 2 => .ru
  | 3 => .rd
  | 4 => .rna
  | _ => .rn

/-- A two-operand FP32 operation (R213). -/
def bodyFloat (op : FOp) (d a b s : Nat) (c : Ctx) (st : State) : Eff :=
  writeLanes c d (fun f =>
    let r := floatOp op 0 (floatMode s) (f.nan 0) (f32 (f.val a)) (f32 (f.val b)) (.fin false 0 0)
    { val := BitVec.ofNat 32 r.1, s := sOf f [a, b] || r.2 }) st

/-- FFMA: a × b + c rounded once (R213). -/
def bodyFfma (d a b cc s : Nat) (c : Ctx) (st : State) : Eff :=
  writeLanes c d (fun f =>
    let r := floatOp .fma 0 (floatMode s) (f.nan 0) (f32 (f.val a)) (f32 (f.val b)) (f32 (f.val cc))
    { val := BitVec.ofNat 32 r.1, s := sOf f [a, b, cc] || r.2 }) st

/-- FMIN and FMAX, NaN-propagating or number-preferring (R215). -/
def bodyFminmax (isMax : Bool) (d a b s : Nat) (c : Ctx) (st : State) : Eff :=
  writeLanes c d (fun f =>
    { val := BitVec.ofNat 32 (floatMinMax 0 isMax (s == 1) (f.val a).toNat (f.val b).toNat), s := sOf f [a, b] }) st

/-- The conditions of FCMP: eq, lt, le, un (R216). -/
def fcmpHolds (cond : BitVec 2) (a b : Word) : Bool :=
  let x := f32 a
  let y := f32 b
  let un := isNaN x || isNaN y
  match cond.toNat with
  | 0 => !un && numEq x y
  | 1 => !un && numLt x y
  | 2 => !un && (numLt x y || numEq x y)
  | _ => un

/-- FCMP (R216). -/
def bodyFcmp (p a b : Nat) (cond : BitVec 2) (c : Ctx) (st : State) : Eff :=
  writePreds c p (fun f => fcmpHolds cond (f.val a) (f.val b)) st

/-- FCMPX: the comparison, and the OR of the operands' S in the next predicate (R217). -/
def bodyFcmpx (p a b : Nat) (cond : BitVec 2) (c : Ctx) (st : State) : Eff :=
  .next (c.onActive (fun f => (f.setPred p (fcmpHolds cond (f.val a) (f.val b))).setPred (p + 1) (sOf f [a, b])) st)

/-- FSPF (R218). -/
def bodyFspf (d a s : Nat) (c : Ctx) (st : State) : Eff :=
  writeLanes c d (fun f =>
    let r := specialFn s (f.nan 0) (f.val a)
    { val := BitVec.ofNat 32 r.1, s := sOf f [a] || r.2 }) st

/-- FSGN: bit 31 changed alone (R219). -/
def bodyFsgn (d a b s : Nat) (c : Ctx) (st : State) : Eff :=
  writeLanes c d (fun f =>
    let sign := match s with
      | 0 => false
      | 1 => !(f.val a).msb
      | 2 => true
      | _ => (f.val b).msb
    { val := BitVec.ofBool sign ++ (f.val a).extractLsb' 0 31, s := sOf f (if s = 3 then [a, b] else [a]) }) st

/-- Element 0 or 1 of a packed register (R193). -/
def half (w : Word) (i : Nat) : Nat := bitsAt w.toNat (16 * i) 16

/-- A packed operation on both elements, each rounded once to its type; the elements share one S (R220). -/
def bodyPacked (op : FOp) (d a b s : Nat) (cc : Option Nat) (c : Ctx) (st : State) : Eff :=
  let code := if s % 2 = 0 then 1 else 2
  writeLanes c d (fun f =>
    let el := fun i => floatOp op code (floatMode (s / 2)) (f.nan code) (decodeFloat code (half (f.val a) i))
      (decodeFloat code (half (f.val b) i))
      (match cc with
        | some n => decodeFloat code (half (f.val n) i)
        | none => .fin false 0 0)
    { val := BitVec.ofNat 32 ((el 1).1 * 2 ^ 16 + (el 0).1),
      s := sOf f ([a, b] ++ cc.toList) || (el 0).2 || (el 1).2 }) st

/-- HMNX2: minimum or maximum of each element, NaN-propagating (R221). -/
def bodyHmnx (d a b : Nat) (isMax f16 : Bool) (c : Ctx) (st : State) : Eff :=
  let code := if f16 then 2 else 1
  writeLanes c d (fun f =>
    let el := fun i => floatMinMax code isMax false (half (f.val a) i) (half (f.val b) i)
    { val := BitVec.ofNat 32 (el 1 * 2 ^ 16 + el 0), s := sOf f [a, b] }) st

/-- CVT: a carry or a final conversion of the source's exact value (R224). -/
def bodyCvt (d a src dst mode : Nat) (c : Ctx) (st : State) : Eff :=
  writeLanes c d (fun f =>
    let x := interpret src (f.val a)
    if mode = 0 then
      let r := carry x dst
      { val := r.1, s := f.sbit a || r.2 }
    else
      let r := finalRound x dst (modeOf mode).1 (modeOf mode).2
      { val := BitVec.ofNat 32 r.1, s := f.sbit a || r.2 }) st

/-- PKB: the low byte or half of a put into d at byte n (R225). -/
def bodyPkb (d a : Nat) (isHalf : Bool) (n : Nat) (c : Ctx) (st : State) : Eff :=
  let mask : Word := BitVec.ofNat 32 (if isHalf then 2 ^ 16 - 1 else 2 ^ 8 - 1)
  writeLanes c d (fun f =>
    { val := (f.val d &&& ~~~(mask <<< (8 * n))) ||| ((f.val a &&& mask) <<< (8 * n)), s := sOf f [d, a] }) st

end Sys2Proof.Machine
end

