-- ==== Sys2Proof/Machine/IntegerOps.lean ====
section
/-!
DEFINITION. The integer, move and bit-field operations on values, shared by the two texts (05 R64, R74 to R82).
-/
namespace Sys2Proof.Machine

/-- IADD by its code s: wrapping, 64-bit, saturating signed, saturating unsigned (R74). -/
def bodyAdd (d a b s : Nat) (c : Ctx) (st : State) : Eff :=
  match s with
  | 1 => writePairs c d (fun f => (f.pair a + f.pair b, sOfPairs f [a, b])) st
  | 2 => writeLanes c d (fun f => clamped (-2 ^ 31) (2 ^ 31 - 1) ((f.val a).toInt + (f.val b).toInt) (sOf f [a, b])) st
  | 3 => writeLanes c d (fun f => clamped 0 (2 ^ 32 - 1) ((f.val a).toNat + (f.val b).toNat) (sOf f [a, b])) st
  | _ => writeLanes c d (fun f => { val := f.val a + f.val b, s := sOf f [a, b] }) st

/-- ISUB by its code s (R74). -/
def bodySub (d a b s : Nat) (c : Ctx) (st : State) : Eff :=
  match s with
  | 1 => writePairs c d (fun f => (f.pair a - f.pair b, sOfPairs f [a, b])) st
  | 2 => writeLanes c d (fun f => clamped (-2 ^ 31) (2 ^ 31 - 1) ((f.val a).toInt - (f.val b).toInt) (sOf f [a, b])) st
  | 3 => writeLanes c d (fun f => clamped 0 (2 ^ 32 - 1) ((f.val a).toNat - ((f.val b).toNat : Int)) (sOf f [a, b])) st
  | _ => writeLanes c d (fun f => { val := f.val a - f.val b, s := sOf f [a, b] }) st

/-- IMUL by its code s: low, high signed, high unsigned, 64-bit (R75). -/
def bodyMul (d a b s : Nat) (c : Ctx) (st : State) : Eff :=
  match s with
  | 1 => writeLanes c d (fun f =>
      { val := BitVec.ofInt 32 ((f.val a).toInt * (f.val b).toInt / 2 ^ 32), s := sOf f [a, b] }) st
  | 2 => writeLanes c d (fun f =>
      { val := BitVec.ofNat 32 ((f.val a).toNat * (f.val b).toNat / 2 ^ 32), s := sOf f [a, b] }) st
  | 3 => writePairs c d (fun f => (f.pair a * f.pair b, sOfPairs f [a, b])) st
  | _ => writeLanes c d (fun f => { val := f.val a * f.val b, s := sOf f [a, b] }) st

/-- IMAD: a × b + c, low 32 bits (R75). -/
def bodyMad (d a b cc : Nat) (c : Ctx) (st : State) : Eff :=
  writeLanes c d (fun f => { val := f.val a * f.val b + f.val cc, s := sOf f [a, b, cc] }) st

/-- The quotient of IDIV: truncated; all ones for a divisor of 0; INT_MIN / −1 is INT_MIN (R76). -/
def idiv (signed : Bool) (a b : Word) : Word :=
  if b = 0 then BitVec.allOnes 32
  else if signed then BitVec.ofInt 32 (a.toInt.tdiv b.toInt) else BitVec.ofNat 32 (a.toNat / b.toNat)

/-- The remainder of IREM: the sign of the dividend; the dividend for a divisor of 0; 0 for INT_MIN / −1 (R76). -/
def irem (signed : Bool) (a b : Word) : Word :=
  if b = 0 then a
  else if signed then BitVec.ofInt 32 (a.toInt.tmod b.toInt) else BitVec.ofNat 32 (a.toNat % b.toNat)

/-- The lesser value, signed or unsigned (R77). -/
def imin (signed : Bool) (a b : Word) : Word :=
  if signed then (if a.toInt ≤ b.toInt then a else b) else (if a.toNat ≤ b.toNat then a else b)

/-- The greater value, signed or unsigned (R77). -/
def imax (signed : Bool) (a b : Word) : Word :=
  if signed then (if a.toInt ≤ b.toInt then b else a) else (if a.toNat ≤ b.toNat then b else a)

/-- A two-operand 32-bit result with the S of R62. -/
def bodyBin (g : Word → Word → Word) (d a b : Nat) (c : Ctx) (st : State) : Eff :=
  writeLanes c d (fun f => { val := g (f.val a) (f.val b), s := sOf f [a, b] }) st

/-- A register and an immediate to a 32-bit result with the S of R62. -/
def bodyImm (g : Word → Word) (d a : Nat) (c : Ctx) (st : State) : Eff :=
  writeLanes c d (fun f => { val := g (f.val a), s := sOf f [a] }) st

/-- A 64-bit value from a pair and a count register, with the S of R62. -/
def bodyShiftWide (g : DWord → Nat → DWord) (d a b : Nat) (c : Ctx) (st : State) : Eff :=
  writePairs c d (fun f => (g (f.pair a) ((f.val b).toNat % 64), sOfPairs f [a] || sOf f [b])) st

/-- SHL by its code s: 32-bit, 64-bit (R79). -/
def bodyShl (d a b s : Nat) (c : Ctx) (st : State) : Eff :=
  if s = 1 then bodyShiftWide (fun x n => x <<< n) d a b c st
  else bodyBin (fun x y => x <<< (y.toNat % 32)) d a b c st

/-- SHR by its code s: logical, arithmetic, and both for 64 bits (R79). -/
def bodyShr (d a b s : Nat) (c : Ctx) (st : State) : Eff :=
  match s with
  | 1 => bodyBin (fun x y => x.sshiftRight (y.toNat % 32)) d a b c st
  | 2 => bodyShiftWide (fun x n => x >>> n) d a b c st
  | 3 => bodyShiftWide (fun x n => x.sshiftRight n) d a b c st
  | _ => bodyBin (fun x y => x >>> (y.toNat % 32)) d a b c st

/-- The effective length of a bit field: cut at bit 31 (R80). -/
def fieldLen (b : Word) : Nat := min (bitsAt b.toNat 8 5) (32 - bitsAt b.toNat 0 5)

/-- BFX: the field at b[4:0] of length b[12:8], extended by its sign or by zeros (R80). -/
def bfx (signed : Bool) (a b : Word) : Word :=
  let e := fieldLen b
  let f := bitsAt a.toNat (bitsAt b.toNat 0 5) e
  if e = 0 then 0
  else if signed ∧ bitsAt f (e - 1) 1 = 1 then BitVec.ofInt 32 ((f : Int) - 2 ^ e)
  else BitVec.ofNat 32 f

/-- BFI: d with the field of b replaced by a's low bits (R80). -/
def bfi (d a b : Word) : Word :=
  let pos := bitsAt b.toNat 0 5
  let mask : Word := BitVec.ofNat 32 ((2 ^ fieldLen b - 1) * 2 ^ pos)
  (d &&& ~~~mask) ||| ((a <<< pos) &&& mask)

/-- BFI as an instruction: d is a source as well (R80). -/
def bodyBfi (d a b : Nat) (c : Ctx) (st : State) : Eff :=
  writeLanes c d (fun f => { val := bfi (f.val d) (f.val a) (f.val b), s := sOf f [d, a, b] }) st

/-- The number of set bits (R81). -/
def popc (a : Word) : Word := BitVec.ofNat 32 ((List.range 32).filter a.getLsbD).length

/-- The number of leading zeros; 32 for 0 (R81). -/
def clz (a : Word) : Word :=
  BitVec.ofNat 32 (((List.range 32).find? fun i => a.getLsbD (31 - i)).getD 32)

/-- Bit i moved to bit 31 − i (R81). -/
def brev (a : Word) : Word := BitVec.ofNat 32 ((List.range 32).map fun i => if a.getLsbD i then 2 ^ (31 - i) else 0).sum

/-- |a| modulo 2^32 (R81). -/
def iabs (a : Word) : Word := BitVec.ofInt 32 (a.toInt.natAbs : Int)

/-- A one-operand 32-bit result with the S of R62. -/
def bodyUn (g : Word → Word) (d a : Nat) (c : Ctx) (st : State) : Eff := bodyImm g d a c st

/-- SEL: a where predicate k holds, else b, with the chosen register's S (R81). -/
def bodySel (d a b k : Nat) (c : Ctx) (st : State) : Eff :=
  writeLanes c d (fun f => if f.pred k then f.reg a else f.reg b) st

/-- LEA: a + (b << s), low 32 bits (R81). -/
def bodyLea (d a b s : Nat) (c : Ctx) (st : State) : Eff := bodyBin (fun x y => x + (y <<< s)) d a b c st

/-- MOVI: in every live fibre of the sub-gang, the sign-extended immediate with S = 0 (R64). -/
def bodyMovi (d : Nat) (i : BitVec 19) (c : Ctx) (st : State) : Eff :=
  .next (st.modFibres c.u.crew c.all fun _ f => f.setReg d { val := sx i, s := false })

/-- MOVHI: in every live fibre of the sub-gang, bits [31:19] replaced; S and the other bits unchanged (R64). -/
def bodyMovhi (d : Nat) (i : BitVec 13) (c : Ctx) (st : State) : Eff :=
  .next (st.modFibres c.u.crew c.all fun _ f =>
    f.setReg d { val := i ++ (f.val d).extractLsb' 0 19, s := f.sbit d })

/-- MOV: the value, with its S kept or cleared (R64). -/
def bodyMov (d a s : Nat) (c : Ctx) (st : State) : Eff :=
  writeLanes c d (fun f => { val := f.val a, s := s == 0 && f.sbit a }) st

/-- ICMP and ICMPU: the condition into a predicate (R82). -/
def bodyCmp (g : Word → Word → Bool) (p a b : Nat) (c : Ctx) (st : State) : Eff :=
  writePreds c p (fun f => g (f.val a) (f.val b)) st

end Sys2Proof.Machine
end

