-- ==== Sys2Proof/Machine/MemoryOps.lean ====
section
/-!
DEFINITION. Loads, stores, register images, conversions with store, scratchpad accesses and their granules, acquire and
release, atomics, fences, prefetches (11 R160 to R173; 09 R132 to R145; 10 R149, R150).
-/
namespace Sys2Proof.Machine

/-! ## Global loads and stores -/

/-- A lane's plain read of global memory: what L1 or the home holds, or an older value that the fibre may still see; a read that its
home serves binds its core (R128, R132, R134). `kept` holds the bytes of a line that the core's L1 held when the instruction began. Through
a page of MTYPE 2 a fibre's reads keep their order, and return the newest bytes (R97). -/
def readLane (c : Ctx) (n mode : Nat) (kept : Option (List Byte)) (g : GAccess) (t : Translation) (s : State) : State × List Byte :=
  let pa := t.pa (va48 g.ea)
  let q : FibreId := (c.u.crew, g.idx)
  match (match kept with
    | some bs => (s, bs)
    | none => (s.correctAt c.u.crew pa n).gread c.core c.asid t (va48 g.ea) n mode) with
  | (s, bs) =>
    if inMmio pa then (s, bs)
    else
      let s := s.settleEarly q false pa n
      if 2 ≤ t.mtype then (s.sawAll q pa n, bs)
      else if bs = s.homeBytes c.asid t pa n then s.readAs q kept.isNone c.asid t.enc pa bs
      else (s.sawOlder q c.asid t.enc pa bs, bs)

/-- The bytes of the lanes that the core's L1 serves as the instruction begins, by place (R128, R161). -/
def Ctx.keptLanes (c : Ctx) (n mode : Nat) (gs : List (GAccess × Translation)) (s : State) : List (Nat × List Byte) :=
  gs.filterMap fun g =>
    let pa := g.2.pa (va48 g.1.ea)
    (if s.l1Hit c.core c.asid g.2 (va48 g.1.ea) mode then (s.coreAt c.core).l1At c.asid (s.gen c.asid) (pa / 64) else none).map fun l =>
      (g.1.idx, (l.data.drop (pa % 64)).take n)

/-- Bytes read by each lane, in ascending lane order. -/
def readLanes (c : Ctx) (n mode : Nat) (kept : List (Nat × List Byte)) : List (GAccess × Translation) → State → State × List (Nat × List Byte)
  | [], s => (s, [])
  | (g, t) :: r, s =>
    match readLane c n mode ((kept.find? fun x => x.1 == g.idx).map Prod.snd) g t s with
    | (s, bs) => match readLanes c n mode kept r s with
      | (s, rs) => (s, (g.idx, s.overlaid c.asid c.crew.pair (t.pa (va48 g.ea)) bs) :: rs)

/-- Fibres that an instruction of a unit writes for in other lanes where a lane of it writes `n` bytes: each is bound to see the writes
of the others, which enter the coherence order in ascending lane order (R132). -/
def Ctx.overlapping (c : Ctx) (n : Nat) (ws : List (Nat × Nat)) (i a : Nat) : List FibreId :=
  (ws.filter fun w => w.1 != i && meetsRange a n w.2 n).map fun w => (c.u.crew, w.1)

/-- Bytes written by each lane, in ascending lane order, so that the highest lane's byte stays (R132); a release write releases. -/
def writeGlobal (c : Ctx) (mode : Nat) (release : Option Nat) (data : Fibre → List Byte) (gs : List (GAccess × Translation))
    (s : State) : State :=
  let places := gs.map fun x => (x.1.idx, x.2.pa (va48 x.1.ea))
  gs.foldl (fun t x =>
    let bs := data (c.fibre x.1.idx)
    t.gwrite c.u.crew { who := some (c.u.crew, x.1.idx), release := release
                        also := c.overlapping bs.length places x.1.idx (x.2.pa (va48 x.1.ea)) } x.2 x.1.ea.toNat mode bs) s

/-- The unit gives up its active slot, as at a load that misses L1 (R276). -/
def Ctx.leaveSlot (c : Ctx) (s : State) : State :=
  s.modCore c.core fun x => { x with active := x.active.filter fun u => u != c.u }

/-- Lines of the core's L1 that a load would hit may have been replaced before it reaches them (R128). -/
def Ctx.replacing (c : Ctx) (n mode : Nat) (gs : List (GAccess × Translation)) (s : State) : State :=
  gs.foldl (fun t g => t.mayReplace c.core c.asid g.2 (va48 g.1.ea) n mode) s

/-- A global read of `n` bytes in every active lane: its checks, the wait where a line it needs of a home is owned, then what the
instruction does with the bytes, and what remains of the reads in `after`. A load that misses L1 gives up its unit's slot (R153, R161,
R276). -/
def loadWith (c : Ctx) (a : Nat) (off : Int) (n mode : Nat) (put : List Byte → Fibre → Fibre)
    (after : List (GAccess × Translation) → State → State) (s : State) : Eff :=
  match c.checkGlobal { priv := c.priv } n (c.globalLanes a off n) s with
  | .error e => e
  | .ok (s', ts) =>
    let s' := c.replacing n mode ts s'
    let home := c.homeward mode ts s'
    if anyOwned s' home ∨ c.passesEngine ts s' = true then c.waitFor .held (s.keepDraws s')
    else match c.eccLanes n home s' with
      | some e => e
      | none => match readLanes c n mode (c.keptLanes n mode ts s') ts s' with
        | (s'', rs) =>
          let s'' := if home.isEmpty then s'' else c.leaveSlot s''
          .next (after ts (rs.foldl (fun t r => t.modFibres c.u.crew [r.1] fun _ f => put r.2 f) s''))

/-- A global write of `n` bytes in every active lane: the checks, the wait for lines that an engine owns and for room in a
paired copy's buffer, then the bytes (R153, R159, R161). -/
def storeGlobal (c : Ctx) (a : Nat) (off : Int) (n mode : Nat) (data : Fibre → List Byte) (s : State) : Eff :=
  match c.checkGlobal { write := true, priv := c.priv } n (c.globalLanes a off n) s with
  | .error e => e
  | .ok (s', ts) =>
    if anyOwned s' ts ∨ c.passesEngine ts s' = true then c.waitFor .held (s.keepDraws s')
    else if s.bufferFull c.u.crew (ts.length * ((n + 3) / 4)) then
      match c.compare (s.keepDraws s') with
      | some e => e
      | none => .next (c.compared (writeGlobal c mode none data ts s'))
    else .next (writeGlobal c mode none data ts s')

/-- The bytes that a store of size code sz takes from its registers (R164). -/
def storeBytes (d : Nat) (sz : BitVec 3) (f : Fibre) : List Byte :=
  match sz.toNat with
  | 3 => leBytes 8 (f.pair d).toNat
  | 4 => leBytes 8 (f.pair d).toNat ++ leBytes 8 (f.pair (d + 2)).toNat
  | _ => leBytes (sizeBytes sz) (f.val d).toNat

/-- Registers that an access of a size names: its value's and its address's. -/
def accessRegs (d a : Nat) (sz : BitVec 3) : List Nat := [a, a + 1] ++ (List.range ((sizeBytes sz + 3) / 4)).map (d + ·)

/-- A plain load has been made in some lanes; what it names holds no unsettled load any more. Through memory that is no device window and
no page of MTYPE 2 it may itself, until something names its registers or orders it, return a later write (R97, R134). -/
def Ctx.mayAnswerLate (c : Ctx) (d a : Nat) (sz : BitVec 3) (image : Bool) (gs : List (GAccess × Translation)) (s : State) : State :=
  gs.foldl (fun t g =>
    let pa := g.2.pa (va48 g.1.ea)
    if inMmio pa ∨ 2 ≤ g.2.mtype then t
    else t.addEarly { fibre := (c.u.crew, g.1.idx), scratch := false, place := pa, len := sizeBytes sz,
                      asid := c.asid, enc := g.2.enc, reg := d, size := sz, image := image })
    (c.dropLate (accessRegs d a sz) s)

/-- LD (R163). -/
def bodyLd (d a : Nat) (sz : BitVec 3) (mode : Nat) (off : BitVec 4) (c : Ctx) (s : State) : Eff :=
  loadWith c a off.toInt (sizeBytes sz) mode (putLoad d sz) (c.mayAnswerLate d a sz false) s

/-- ST (R164). -/
def bodySt (d a : Nat) (sz : BitVec 3) (mode : Nat) (off : BitVec 4) (c : Ctx) (s : State) : Eff :=
  storeGlobal c a off.toInt (sizeBytes sz) mode (storeBytes d sz) s

/-- STX: the register image, the value with S in bit 32 (R166). -/
def bodyStx (d a mode : Nat) (off : BitVec 4) (c : Ctx) (s : State) : Eff :=
  storeGlobal c a off.toInt 8 mode (fun f => leBytes 8 ((f.val d).toNat + 2 ^ 32 * (f.sbit d).toNat)) s

/-- LDX: the value and S restored from the image (R166). -/
def bodyLdx (d a mode : Nat) (off : BitVec 4) (c : Ctx) (s : State) : Eff :=
  loadWith c a off.toInt 8 mode
    (fun bs f => f.setReg d { val := leWord (bs.take 4), s := bitsAt (leNat bs) 32 1 == 1 }) (c.mayAnswerLate d a 3 true) s

/-- STC: the final conversion of a carried value, and its store (R167). -/
def bodyStc (d a fmt mode off : Nat) (c : Ctx) (s : State) : Eff :=
  let n := stcBytes (BitVec.ofNat 3 fmt)
  storeGlobal c a off n 0
    (fun f => leBytes n (finalRound (interpret 0 (f.val d)) fmt (modeOf mode).1 (modeOf mode).2).1) s

/-- PREF: the line into L1 or into its home only; a lane that fails a check, or would wait for a line of its walk, is dropped, its walk
setting nothing (R113, R153, R165). An uncorrectable error in an entry that its walk reads is logged, and raises nothing (R337). -/
def prefLane (c : Ctx) (mode : Nat) (s : State) (g : GAccess) : State :=
  if g.bad 1 ∨ s.walkHeld c.core c.asid (va48 g.ea) false = true then s
  else match s.walkError c.core c.asid (va48 g.ea) false with
  | some e => s.logSilent e.1 c.u.crew e.2
  | none => match s.translate c.core c.asid (va48 g.ea) { priv := c.priv } with
    | (s', .error _) => s.keepDraws s'
    | (s', .ok t) =>
      let line := t.pa (va48 g.ea) / 64
      if inMmio (t.pa (va48 g.ea)) ∨ s'.owned line = true then s'
      else if t.mtype ≠ 0 ∨ mode = 2 then s'.touchSector t.mtype line false false
      else (s'.gread c.core c.asid t (va48 g.ea) 1 mode).1

/-- PREF (R165). -/
def bodyPref (a mode : Nat) (off : BitVec 4) (c : Ctx) (s : State) : Eff :=
  .next ((c.globalLanes a off.toInt 1).foldl (prefLane c mode) s)

/-- IPREF: the line of code at the target into the core's instruction cache; a target that fails is dropped (R173). -/
def bodyIpref (o : BitVec 21) (c : Ctx) (s : State) : Eff :=
  if c.act.isEmpty then .next s
  else
    let va := (c.fibre (c.all.headD 0)).codeVa (branchTarget c o)
    if s.fetchHeld c.core c.asid c.priv (va / 64 * 64) then .next s
    else match s.fetchWords c.core c.asid c.priv c.u.crew c.crew.pair (va / 64 * 64) 16 with
    | (s', .error _) => .next (s.keepDraws s')
    | (s', .ok _) => .next (if va % c.kind.step = 0 then s' else s.keepDraws s')

/-! ## Acquire and release (R169) -/

/-- A core's L1 cleared where the scope of an acquire is wider than core (R143). -/
def State.acquired (s : State) (core scope : Nat) : State := if 2 < scope then s.clearL1 core else s

/-- LDAQ: an acquire read: the core's L1 is emptied first where its scope is wider than core, and what the releases that its reads have
returned cover happens-before what its fibres do next (R138, R143, R169). -/
def bodyLdaq (d a : Nat) (sz : BitVec 3) (scope off : Nat) (c : Ctx) (s : State) : Eff :=
  if c.act.isEmpty then .next s
  else match loadWith c a off (sizeBytes sz) 0 (putLoad d sz) (fun _ t => t.acquireNow scope (c.ids c.act)) (s.acquired c.core scope) with
    | .raise s' cause sub info lanes entries =>
      .raise (s.keepWalks s' c.asid ((c.globalLanes a off (sizeBytes sz)).map fun g => va48 g.ea)) cause sub info lanes entries
    | .stay s' => .stay s'
    | e => e

/-- A paired unit's STRL has its write in the copy's buffer. -/
def Ctx.hasPushed (c : Ctx) : Bool := (c.crew.pair.map fun p => p.pushed.contains c.u.kind).getD false

/-- Whether it has. -/
def Ctx.setPushed (c : Ctx) (b : Bool) (s : State) : State :=
  s.modCrew c.u.crew fun k => { k with pair := k.pair.map fun p =>
    { p with pushed := if b then p.pushed ++ [c.u.kind] else p.pushed.filter fun u => u != c.u.kind } }

/-- A paired copy's STRL: its write enters the buffer, then it waits for the comparison that drains it, and completes (R159). -/
def Ctx.pairedRelease (c : Ctx) (scope : Nat) (data : Fibre → List Byte) (ts : List (GAccess × Translation)) (n : Nat) (s s' : State) :
    Eff :=
  if c.hasPushed then
    match c.compare s with
    | some e => e
    | none => .next (c.setPushed false (c.compared s))
  else match (if s.bufferFull c.u.crew (ts.length * ((n + 3) / 4)) then c.compare s else none) with
    | some e => e
    | none => .stay (c.arrive (c.setPushed true (c.compared (writeGlobal c 0 (some scope) data ts s'))))

/-- STRL: a release write; it waits until what precedes it has completed, and for a paired copy's comparison after its own write
(R149, R150, R157, R159, R169). -/
def bodyStrl (d a : Nat) (sz : BitVec 3) (scope off : Nat) (c : Ctx) (s : State) : Eff :=
  if c.act.isEmpty then .next s
  else match c.checkGlobal { write := true, priv := c.priv } (sizeBytes sz) (c.globalLanes a off (sizeBytes sz)) s with
    | .error e => e
    | .ok (s', ts) =>
      if anyOwned s' ts ∨ c.passesEngine ts s' = true ∨ ¬ s.released c.u.crew scope (c.ids c.act) then c.waitFor .held (s.keepDraws s')
      else if c.crew.pair.isSome then c.pairedRelease scope (storeBytes d sz) ts (sizeBytes sz) (s.keepDraws s') s'
      else .next (writeGlobal c 0 (some scope) (storeBytes d sz) ts s')

/-! ## Fences (R171, R172) -/

/-- FENCE: with engines, every token observed first; a release or full fence waits for what precedes it and for a paired
copy's comparison; an acquire or full fence wider than core clears the core's L1 (R143, R155, R159, R171). -/
def bodyFence (engines : Bool) (kind scope : Nat) (c : Ctx) (s : State) : Eff :=
  if c.act.isEmpty then .next s
  else match (if engines then c.observe (BitVec.allOnes 8) s else none) with
    | some e => e
    | none =>
      if kind ≠ 1 ∧ ¬ s.released c.u.crew scope (c.ids c.act) then c.waitFor .held s
      else match c.compare s with
        | some e => e
        | none =>
          let s := c.compared s
          .next ((if kind = 2 then s else s.acquired c.core scope).fenceAll kind scope (c.ids c.act))

/-- The engine operations of a gang or bin are all complete. -/
def Crew.gangIdle (k : Crew) (u : UnitKind) : Bool := (k.tokens u).complete (BitVec.allOnes 8)

/-- A lane copy or tile store to global memory, whose issue happens-before what some fibres do, has writes still to land. -/
def State.copiesAhead (s : State) (qs : List FibreId) : Bool :=
  s.crews.zipIdx.any fun x =>
    x.1.copies.any (fun j => j.fault.isNone && dstGlobal j.form && decide (j.done < j.len) && s.issueKnown x.2 j.order qs)
      || x.1.stores.any fun j => j.fault.isNone && !storeScratch (j.block.getD 2 0) && decide (j.done < 128) && s.issueKnown x.2 j.order qs

/-- IFENCE: every engine operation of the gang observed, what copies that precede it elsewhere have still to write awaited, a paired copy's
writes compared and drained, then the core's instruction cache emptied (R139, R156, R159, R172). -/
def bodyIfence (c : Ctx) (s : State) : Eff :=
  if c.act.isEmpty then .next s
  else match c.observe (BitVec.allOnes 8) s with
    | some e => e
    | none =>
      if s.copiesAhead (c.ids c.act) ∨ (c.crew.pair.isSome ∧ ¬ s.released c.u.crew 1 (c.ids c.act)) then c.waitFor .held s
      else match c.compare s with
        | some e => e
        | none => .next ((c.compared s).modCore c.core fun k => { k with icache := [], ifence := s.now })

/-! ## Atomics (R170) -/

/-- The new value of an atomic by its code, from the old value, the operand and the comparand. -/
def atomNew (op : Nat) (old b cmp : Word) : Word :=
  match op with
  | 0 => old + b
  | 1 => imin true old b
  | 2 => imax true old b
  | 3 => old &&& b
  | 4 => old ||| b
  | 5 => old ^^^ b
  | 6 => b
  | _ => if old = cmp then b else old

/-- An atomic writes: a cas whose comparison fails does not. -/
def atomWrites (op : Nat) (old cmp : Word) : Bool := op < 7 || old == cmp

/-- A page that an ATOM does not accept: an MMIO frame that is no aperture (R162). -/
def atomPlace (pa : Nat) : Option Nat := if inMmio pa ∧ (apertureOf pa).isNone then some 9 else none

/-- A write's translation of a lane, with what it sets (R98). -/
def Ctx.marked (c : Ctx) (va : Nat) (s : State) : State :=
  match s.translate c.core c.asid va { write := true, priv := c.priv } with
  | (s', .ok _) => s'
  | (s', .error _) => s'

/-- One lane's ATOM at its home, where any L1 copy of the issuing core is dropped, or sent through an aperture as one request,
whose answer is free (R128, R145, R149). -/
def atomLane (c : Ctx) (op d b : Nat) (g : GAccess) (t : Translation) (s : State) : State × Word :=
  let f := c.fibre g.idx
  let pa := t.pa (va48 g.ea)
  if inMmio pa then
    match s.mmioRead pa 4 with
    | (s, bs) =>
      let s := if atomWrites op (leWord bs) (f.val d) then c.marked (va48 g.ea) s else s
      (s.sendOut c.u.crew pa [] (some (op, 2, (f.val b).setWidth 64, (f.val d).setWidth 64)), leWord bs)
  else
    match ((s.correctAt c.u.crew pa 4).dropL1 c.core (pa / 64)).homeRead c.asid t pa 4 with
    | (s, bs) =>
      let old := leWord bs
      let q : FibreId := (c.u.crew, g.idx)
      let s := (s.withTwins q).foldl (fun t x => (t.settleEarly x false pa 4).sawAll x pa 4) s
      if atomWrites op old (f.val d) then
        ((c.marked (va48 g.ea) s).homeWrite c.u.crew c.core c.asid { who := some q, rmw := true } t pa 2
          (leBytes 4 (atomNew op old (f.val b) (f.val d)).toNat), old)
      else (s, old)

/-- Lanes of an ATOM in ascending order: the values they replaced, by place. -/
def atomLanes (c : Ctx) (op d b : Nat) : List (GAccess × Translation) → State → State × List (Nat × Word)
  | [], s => (s, [])
  | (g, t) :: r, s =>
    match atomLane c op d b g t s with
    | (s, w) => match atomLanes c op d b r s with
      | (s, ws) => (s, (g.idx, w) :: ws)

/-- Results of a global ATOM or CHUNK that the first copy of a pair has performed for both, at lines of which the other copy's core keeps
no older copy in its L1 (R128, R132, R159). -/
def Ctx.delivered (c : Ctx) (lines : List Nat) (rs : List (Nat × DWord)) (s : State) : State :=
  match c.crew.pair with
  | some p =>
    let core := ((s.crews[p.partner]?).map Crew.core).getD c.core
    (s.dropLines core lines).modCrew p.partner fun k => { k with pair := k.pair.map fun h => { h with results := h.results ++ [(c.pc, rs)] } }
  | none => s

/-- A second copy's ATOM or CHUNK takes the first copy's results, and waits until it has them (R159). -/
def Ctx.second (c : Ctx) (put : DWord → Fibre → Fibre) (s : State) : Option Eff :=
  match c.crew.pair with
  | none => none
  | some p =>
    if p.first then none
    else match p.results.find? fun x => x.1 == c.pc && x.2.map Prod.fst == c.act.map c.lane with
      | none => some (c.waitFor .held s)
      | some (pc, rs) =>
        let s := s.modCrew c.u.crew fun k =>
          { k with pair := k.pair.map fun h => { h with results := h.results.erase (pc, rs) } }
        some (.next (c.compared (s.modFibres c.u.crew c.act fun _ f =>
          match rs.find? fun r => r.1 == f.home with
          | some r => put r.2 f
          | none => f)))

/-- ATOM: one read-modify-write per active lane, in ascending lane order (R170). -/
def bodyAtom (d a b op : Nat) (c : Ctx) (s : State) : Eff :=
  let put := fun (v : DWord) (f : Fibre) => f.setReg d { val := v.extractLsb' 0 32, s := false }
  let gs := c.globalLanes a 0 4
  if c.act.isEmpty then .next s
  else match c.checkWith atomPlace { write := true, priv := c.priv } 4 gs s with
    | .error e => e
    | .ok (sw, _) =>
      match translateLanes c.core c.asid { priv := c.priv } gs (s.keepDraws sw) with
      | (s', rs) =>
        let ts := passedLanes rs
        if anyOwned s' ts ∨ ts.length < gs.length ∨ c.passesEngine ts s' = true then c.waitFor .held (s.keepDraws s')
        else match c.eccLanes 4 ts s' with
          | some e => e
          | none => match c.compare (s.keepDraws s') with
            | some e => e
            | none => match c.second put (s.keepDraws s') with
              | some e => e
              | none => match atomLanes c op d b ts s' with
                | (s'', ws) =>
                  let s'' := c.delivered (ts.map fun x => x.2.pa (va48 x.1.ea) / 64) (ws.map fun w => (c.lane w.1, w.2.setWidth 64)) (c.compared s'')
                  .next (ws.foldl (fun t w => t.modFibres c.u.crew [w.1] fun _ f => put (w.2.setWidth 64) f) s'')

/-! ## Scratchpad (R168, R170) -/

/-- One lane's scratchpad access: fibre place and address. -/
abbrev SAccess := Nat × Nat

/-- Scratchpad addresses of the active lanes from a lane number up. -/
def Ctx.scratchLanes (c : Ctx) (a : Nat) (off : Int) (n : Nat) : List SAccess :=
  let from_ := (c.fibre (c.all.headD 0)).nextLane
  (c.act.filter fun i => decide (from_ ≤ c.lane i)).map fun i => (i, scratchAddr ((c.fibre i).val a) off n)

/-- The ADDRESS check of scratchpad accesses (R125, R160). -/
def Ctx.badScratch (c : Ctx) (n : Nat) (xs : List SAccess) (s : State) : Option Eff :=
  match xs.filter fun x => !scratchOk c.crew x.2 n with
  | [] => none
  | y :: ys => some (.raise s causeAddress 0 0 ((y :: ys).map fun x => c.lane x.1)
      ((y :: ys).map fun x => (c.lane x.1, addrEntry x.2)))

/-- The lanes whose scratchpad read would consume an uncorrectable error: ECC, unit 2 (R337). -/
def Ctx.eccScratch (c : Ctx) (n : Nat) (xs : List SAccess) (s : State) : Option Eff :=
  match xs.filter fun x => s.scrError c.u.crew (x.2 - c.crew.scrBase) n with
  | [] => none
  | y :: ys => some (.raise s causeEcc 0 2 ((y :: ys).map fun x => c.lane x.1)
      ((y :: ys).map fun x => (c.lane x.1, addrEntry x.2)))

/-- The unit waits at a lane of a waiting LDS, STS or AWT, the lanes below performed (R168, R178). -/
def Ctx.waitLane (c : Ctx) (w : Wait) (lane : Nat) (s : State) : Eff :=
  .stay (s.modFibres c.u.crew c.all fun _ f => { f with wait := w, nextLane := lane })

/-- The crew as it now stands. -/
def Ctx.now (c : Ctx) (s : State) : Crew := (s.crews[c.u.crew]?).getD c.crew

/-- A plain LDS of a lane that has been made may still return a later write (R134). -/
def Ctx.mayAnswerLateScr (c : Ctx) (d : Nat) (sz : BitVec 3) (i off : Nat) (s : State) : State :=
  s.addEarly { fibre := (c.u.crew, i), scratch := true, place := off, len := sizeBytes sz, asid := c.asid, enc := false,
               reg := d, size := sz, image := false }

/-- What a lane's LDS reads whose newest bytes are given: plain, it may miss other fibres' late stores; wait-full and consume are
acquires of crew scope of the granule's bytes, whatever filled it (R134, R137, R138, R154). -/
def State.ldsRead (s : State) (q : FibreId) (mode g off : Nat) (now : List Byte) : State × List Byte :=
  let s := s.settleEarly q true off now.length
  if mode = 0 then s.readScrAs q off now
  else
    let ts := newestTags (some q.1) (16 * g) 16 s.pastScr ++ s.fillTags q.1 g
    ((s.sawScr q off now.length).takeTags 1 q ts, now)

/-- LDS, lane by lane (R168). -/
def ldsLanes (c : Ctx) (d : Nat) (sz : BitVec 3) (mode : Nat) : List SAccess → State → Eff
  | [], s => .next s
  | (i, ea) :: r, s =>
    let k := c.now s
    let g := k.granule ea
    let off := ea - k.scrBase
    if mode ≠ 0 ∧ ¬ k.isFull g then c.waitLane .granule (c.lane i) s
    else
      let s := s.correctScr c.u.crew off (sizeBytes sz)
      match s.ldsRead (c.u.crew, i) mode g off (k.scrRead ea (sizeBytes sz)) with
      | (s, bs) =>
        let s := s.modCrew c.u.crew fun k =>
          let k := k.modFibres [i] fun _ f => putLoad d sz bs f
          if mode = 2 then k.setFull g false else k
        ldsLanes c d sz mode r
          (if mode = 0 then c.mayAnswerLateScr d sz i off s else if mode = 2 then s.clearFills c.u.crew g else s)

/-- LDS (R168). -/
def bodyLds (d a : Nat) (sz : BitVec 3) (mode : Nat) (off : BitVec 4) (c : Ctx) (s : State) : Eff :=
  let xs := c.scratchLanes a off.toInt (sizeBytes sz)
  match c.badScratch (sizeBytes sz) xs s with
  | some e => e
  | none => match c.eccScratch (sizeBytes sz) xs s with
    | some e => e
    | none => ldsLanes c d sz mode xs (if mode = 0 then c.dropLate (accessRegs d a sz) s else s)

/-- What a load of scratchpad that is still early would return now. -/
def Early.inScratch (s : State) (e : Early) : Option (List Byte) :=
  if s.scrError e.fibre.1 e.place e.len then none else (s.crews[e.fibre.1]?).map fun k => getBytes k.scr e.place e.len

/-- A scratchpad write of a lane by a mark, over the bytes that it replaces: other fibres may miss it for a while, unless it is a
release that they acquire, and loads that are early may return it (R134, R137). A plain one of at most 8 bytes may enter coherence order
before the newest write there. -/
def State.scrStore (s : State) (m : Mark) (c : Nat) (ea : Nat) (bs : List Byte) (full : Crew → Crew) : State :=
  match s.crews[c]? with
  | none => s
  | some k =>
    let off := ea - k.scrBase
    let s := match (if m.release.isNone ∧ bs.length ≤ 8 then s.passUnder m (some c) off bs else (s, false)) with
      | (s, true) => s
      | (s, false) => (s.noteScr m c off (k.scrRead ea bs.length)).modCrew c fun k => full (k.scrWrite ea bs)
    s.reach m.who (some c) off bs.length Early.inScratch

/-- STS, lane by lane: plain, fill, wait-empty then fill; a fill is a release of crew scope (R137, R168). -/
def stsLanes (c : Ctx) (d : Nat) (sz : BitVec 3) (mode : Nat) : List SAccess → State → Eff
  | [], s => .next s
  | (i, ea) :: r, s =>
    let k := c.now s
    let g := k.granule ea
    if mode = 2 ∧ k.isFull g then c.waitLane .granule (c.lane i) s
    else
      let m : Mark := { who := some (c.u.crew, i), also := c.overlapping (sizeBytes sz) ((i, ea) :: r) i ea,
                        release := if mode = 0 then none else some 1 }
      let s := s.cleanScr c.u.crew (ea - k.scrBase) (sizeBytes sz)
      stsLanes c d sz mode r (s.scrStore m c.u.crew ea (storeBytes d sz (c.fibre i)) fun k =>
        if mode = 0 then k else k.setFull g true)

/-- A release that writes no buffered memory (STS fill, ARV): it waits for what precedes it and for a paired copy's comparison,
then acts (R157, R159, R179). -/
def Ctx.releasing (c : Ctx) (body : State → Eff) (s : State) : Eff :=
  if ¬ s.released c.u.crew 1 (c.ids c.act) then c.waitFor .held s
  else match c.compare s with
    | some e => e
    | none => match body s with
      | .next t => .next (c.compared t)
      | e => e

/-- STS (R168). -/
def bodySts (d a : Nat) (sz : BitVec 3) (mode : Nat) (off : BitVec 4) (c : Ctx) (s : State) : Eff :=
  let xs := c.scratchLanes a off.toInt (sizeBytes sz)
  match c.badScratch (sizeBytes sz) xs s with
  | some e => e
  | none =>
    if mode = 0 ∨ c.act.isEmpty = true then
      stsLanes c d sz mode xs s
    else c.releasing (stsLanes c d sz mode xs) s

/-- ATOMS, lane by lane (R145, R170). -/
def atomsLanes (c : Ctx) (d b op : Nat) : List SAccess → State → State
  | [], s => s
  | (i, ea) :: r, s =>
    let off := ea - c.crew.scrBase
    let q : FibreId := (c.u.crew, i)
    let f := c.fibre i
    let s := s.correctScr c.u.crew off 4
    let old := leWord ((c.now s).scrRead ea 4)
    let s := (s.settleEarly q true off 4).sawScr q off 4
    let s := if atomWrites op old (f.val d) then
        s.scrStore { who := some q, rmw := true } c.u.crew ea (leBytes 4 (atomNew op old (f.val b) (f.val d)).toNat) id
      else s
    atomsLanes c d b op r (s.modFibres c.u.crew [i] fun _ f => f.setReg d { val := old, s := false })

/-- ATOMS (R170). -/
def bodyAtoms (d a b op : Nat) (c : Ctx) (s : State) : Eff :=
  let xs := c.scratchLanes a 0 4
  match c.badScratch 4 xs s with
  | some e => e
  | none => match c.eccScratch 4 xs s with
    | some e => e
    | none => .next (atomsLanes c d b op xs s)

end Sys2Proof.Machine
end

