-- ==== Sys2Proof/Machine/Accesses.lean ====
section
/-!
DEFINITION. Loads, stores, atomics, fences and prefetches (11 R163 to R173).
Each meaning issues its instruction with the operation of its family. The D and the L form of an instruction call one operation
(bodyLd, bodySts, bodyCpa and so on) and differ in register reach and guard field alone, on every kind of core (11 R188).
-/
namespace Sys2Proof.Machine

/-- Global load with the chosen size and cache mode (R163). -/
def execLdD (d : BitVec 6) (a : BitVec 6) (z : BitVec 3) (m : BitVec 2) (o : BitVec 4) (st : State) : Res :=
  issue (.ldD d a z m o) (fun c => bodyLd (c.d d) (c.a a) z m.toNat o c) st

/-- Global store of the value without S (R164). -/
def execStD (d : BitVec 6) (a : BitVec 6) (z : BitVec 3) (m : BitVec 2) (o : BitVec 4) (st : State) : Res :=
  issue (.stD d a z m o) (fun c => bodySt (c.d d) (c.a a) z m.toNat o c) st

/-- Scratchpad load: plain, wait-full or consume (R168). -/
def execLdsD (d : BitVec 6) (a : BitVec 6) (z : BitVec 3) (m : BitVec 2) (o : BitVec 4) (st : State) : Res :=
  issue (.ldsD d a z m o) (fun c => bodyLds (c.d d) (c.a a) z m.toNat o c) st

/-- Scratchpad store: plain, fill or wait-empty then fill (R168). -/
def execStsD (d : BitVec 6) (a : BitVec 6) (z : BitVec 3) (m : BitVec 2) (o : BitVec 4) (st : State) : Res :=
  issue (.stsD d a z m o) (fun c => bodySts (c.d d) (c.a a) z m.toNat o c) st

/-- Acquire load of the encoded scope (R169). -/
def execLdaqD (d : BitVec 6) (a : BitVec 6) (z : BitVec 3) (k : BitVec 3) (o : BitVec 3) (st : State) : Res :=
  issue (.ldaqD d a z k o) (fun c => bodyLdaq (c.d d) (c.a a) z k.toNat o.toNat c) st

/-- Release store of the encoded scope (R169). -/
def execStrlD (d : BitVec 6) (a : BitVec 6) (z : BitVec 3) (k : BitVec 3) (o : BitVec 3) (st : State) : Res :=
  issue (.strlD d a z k o) (fun c => bodyStrl (c.d d) (c.a a) z k.toNat o.toNat c) st

/-- Global 32-bit read-modify-write at the home slice (R170). -/
def execAtomD (d : BitVec 6) (a : BitVec 6) (b : BitVec 6) (s : BitVec 3) (st : State) : Res :=
  issue (.atomD d a b s) (fun c => bodyAtom (c.d d) (c.a a) (c.b b) s.toNat c) st

/-- Scratchpad 32-bit read-modify-write (R170). -/
def execAtomsD (d : BitVec 6) (a : BitVec 6) (b : BitVec 6) (s : BitVec 3) (st : State) : Res :=
  issue (.atomsD d a b s) (fun c => bodyAtoms (c.d d) (c.a a) (c.b b) s.toNat c) st

/-- Full, acquire or release fence of a scope, optionally observing the gang's tokens first (R171). -/
def execFenceD (e : BitVec 1) (k : BitVec 2) (c : BitVec 3) (st : State) : Res :=
  issue (.fenceD e k c) (bodyFence (e == 1) k.toNat c.toNat) st

/-- Prefetches a line into L1 or L2; never faults (R165). -/
def execPrefD (a : BitVec 6) (m : BitVec 2) (o : BitVec 4) (st : State) : Res :=
  issue (.prefD a m o) (fun c => bodyPref (c.a a) m.toNat o c) st

/-- Prefetches instruction lines at a target; never faults on the target (R173). -/
def execIprefD (o : BitVec 21) (st : State) : Res := issue (.iprefD o) (bodyIpref o) st

/-- Stores the register image, value and S (R166). -/
def execStxD (d : BitVec 6) (a : BitVec 6) (m : BitVec 2) (o : BitVec 4) (st : State) : Res :=
  issue (.stxD d a m o) (fun c => bodyStx (c.d d) (c.a a) m.toNat o c) st

/-- Restores a register's value and S from an image (R166). -/
def execLdxD (d : BitVec 6) (a : BitVec 6) (m : BitVec 2) (o : BitVec 4) (st : State) : Res :=
  issue (.ldxD d a m o) (fun c => bodyLdx (c.d d) (c.a a) m.toNat o c) st

/-- Final conversion of a carried value and store, as one instruction (R167). -/
def execStcD (d : BitVec 6) (a : BitVec 6) (f : BitVec 3) (e : BitVec 3) (o : BitVec 3) (st : State) : Res :=
  issue (.stcD d a f e o) (fun c => bodyStc (c.d d) (c.a a) f.toNat e.toNat o.toNat c) st

/-- LD of the L text (R163). -/
def execLdL (d : BitVec 8) (a : BitVec 8) (z : BitVec 3) (m : BitVec 2) (o : BitVec 4) (st : State) : Res :=
  issue (.ldL d a z m o) (fun c => bodyLd (c.d d) (c.a a) z m.toNat o c) st

/-- ST of the L text (R164). -/
def execStL (d : BitVec 8) (a : BitVec 8) (z : BitVec 3) (m : BitVec 2) (o : BitVec 4) (st : State) : Res :=
  issue (.stL d a z m o) (fun c => bodySt (c.d d) (c.a a) z m.toNat o c) st

/-- LDS of the L text (R168). -/
def execLdsL (d : BitVec 8) (a : BitVec 8) (z : BitVec 3) (m : BitVec 2) (o : BitVec 4) (st : State) : Res :=
  issue (.ldsL d a z m o) (fun c => bodyLds (c.d d) (c.a a) z m.toNat o c) st

/-- STS of the L text (R168). -/
def execStsL (d : BitVec 8) (a : BitVec 8) (z : BitVec 3) (m : BitVec 2) (o : BitVec 4) (st : State) : Res :=
  issue (.stsL d a z m o) (fun c => bodySts (c.d d) (c.a a) z m.toNat o c) st

/-- LDAQ of the L text (R169). -/
def execLdaqL (d : BitVec 8) (a : BitVec 8) (z : BitVec 3) (k : BitVec 3) (o : BitVec 3) (st : State) : Res :=
  issue (.ldaqL d a z k o) (fun c => bodyLdaq (c.d d) (c.a a) z k.toNat o.toNat c) st

/-- STRL of the L text (R169). -/
def execStrlL (d : BitVec 8) (a : BitVec 8) (z : BitVec 3) (k : BitVec 3) (o : BitVec 3) (st : State) : Res :=
  issue (.strlL d a z k o) (fun c => bodyStrl (c.d d) (c.a a) z k.toNat o.toNat c) st

/-- ATOM of the L text (R170). -/
def execAtomL (d : BitVec 8) (a : BitVec 8) (b : BitVec 8) (s : BitVec 3) (st : State) : Res :=
  issue (.atomL d a b s) (fun c => bodyAtom (c.d d) (c.a a) (c.b b) s.toNat c) st

/-- ATOMS of the L text (R170). -/
def execAtomsL (d : BitVec 8) (a : BitVec 8) (b : BitVec 8) (s : BitVec 3) (st : State) : Res :=
  issue (.atomsL d a b s) (fun c => bodyAtoms (c.d d) (c.a a) (c.b b) s.toNat c) st

/-- FENCE of the L text (R171). -/
def execFenceL (e : BitVec 1) (k : BitVec 2) (c : BitVec 3) (st : State) : Res :=
  issue (.fenceL e k c) (bodyFence (e == 1) k.toNat c.toNat) st

/-- PREF of the L text (R165). -/
def execPrefL (a : BitVec 8) (m : BitVec 2) (o : BitVec 4) (st : State) : Res :=
  issue (.prefL a m o) (fun c => bodyPref (c.a a) m.toNat o c) st

/-- IPREF of the L text (R173). -/
def execIprefL (o : BitVec 21) (st : State) : Res := issue (.iprefL o) (bodyIpref o) st

/-- STX of the L text (R166). -/
def execStxL (d : BitVec 8) (a : BitVec 8) (m : BitVec 2) (o : BitVec 4) (st : State) : Res :=
  issue (.stxL d a m o) (fun c => bodyStx (c.d d) (c.a a) m.toNat o c) st

/-- LDX of the L text (R166). -/
def execLdxL (d : BitVec 8) (a : BitVec 8) (m : BitVec 2) (o : BitVec 4) (st : State) : Res :=
  issue (.ldxL d a m o) (fun c => bodyLdx (c.d d) (c.a a) m.toNat o c) st

/-- STC of the L text (R167). -/
def execStcL (d : BitVec 8) (a : BitVec 8) (f : BitVec 3) (e : BitVec 3) (o : BitVec 3) (st : State) : Res :=
  issue (.stcL d a f e o) (fun c => bodyStc (c.d d) (c.a a) f.toNat e.toNat o.toNat c) st

/-- Waits for the gang's engine operations, then invalidates the instruction cache (R172). -/
def execIfenceD (st : State) : Res := issue .ifenceD bodyIfence st

/-- IFENCE of the L text (R172). -/
def execIfenceL (st : State) : Res := issue .ifenceL bodyIfence st

end Sys2Proof.Machine
end

