-- ==== Sys2Proof/Machine/Control.lean ====
section
/-!
DEFINITION. Instructions of control: special registers, REP, branches, FORK, END, traps (05 R64 to R73).
Each meaning issues its instruction with the operation of its family; the two texts differ in their fields alone.
-/
namespace Sys2Proof.Machine

/-- Reads a special register into d with S = 0 (R65). -/
def execSreadD (d : BitVec 6) (x : BitVec 9) (st : State) : Res := issue (.sreadD d x) (fun c => bodySread (c.d d) x.toNat c) st

/-- Privileged write of the low or high half of the core cycle counter, from the highest active lane (R66). -/
def execSwriteD (a : BitVec 6) (x : BitVec 9) (st : State) : Res :=
  issue (.swriteD a x) (fun c => bodySwrite (c.a a) x.toNat c) st

/-- Issues the following instruction count times, with stepped register numbers (R56). -/
def execRepD (c : BitVec 6) (d : BitVec 2) (a : BitVec 2) (b : BitVec 2) (e : BitVec 2) (st : State) : Res :=
  issue (.repD c d a b e) (bodyRep c.toNat d.toNat a.toNat b.toNat e.toNat) st

/-- Branches the active lanes to a PC-relative target; the sub-gang splits when only some lanes take it (R68). -/
def execBraD (o : BitVec 21) (st : State) : Res := issue (.braD o) (bodyBra false o) st

/-- Branches as BRA and writes the link to v7 (R68). -/
def execCallD (o : BitVec 21) (st : State) : Res := issue (.callD o) (bodyBra true o) st

/-- Indirect jump or call to a per-lane target, after checking alignment, translation and LAND in every lane (R69). -/
def execBrxD (a : BitVec 6) (c : BitVec 1) (st : State) : Res := issue (.brxD a c) (fun q => bodyBrx (q.a a) (c == 1) q) st

/-- Branches each active lane to its link; a trap-return link resumes the faulting gang (R70). -/
def execRetD (a : BitVec 6) (st : State) : Res := issue (.retD a) (fun c => bodyRet (c.a a) c) st

/-- Creates one loose fibre per active lane, waiting until its blocks can be granted (R73). -/
def execForkD (a : BitVec 6) (n : BitVec 4) (st : State) : Res :=
  issue (.forkD a n) (fun c => bodyFork (c.a a) n.toNat none c) st

/-- Creates loose fibres if they can be granted now, and reports success in a predicate (R73). -/
def execForkTryD (p : BitVec 6) (a : BitVec 6) (n : BitVec 4) (st : State) : Res :=
  issue (.forkTryD p a n) (fun c => bodyFork (c.a a) n.toNat (some p.toNat) c) st

/-- Raises a precise TRAP fault carrying its code (R72). -/
def execTrapD (x : BitVec 9) (st : State) : Res := issue (.trapD x) (bodyTrap causeTrap x.toNat) st

/-- Raises a precise SYSC fault carrying its service code (R72). -/
def execSyscD (x : BitVec 9) (st : State) : Res := issue (.syscD x) (bodyTrap causeSysc x.toNat) st

/-- SREAD of the L text (R65). -/
def execSreadL (d : BitVec 8) (x : BitVec 9) (st : State) : Res := issue (.sreadL d x) (fun c => bodySread (c.d d) x.toNat c) st

/-- SWRITE of the L text (R66). -/
def execSwriteL (a : BitVec 8) (x : BitVec 9) (st : State) : Res :=
  issue (.swriteL a x) (fun c => bodySwrite (c.a a) x.toNat c) st

/-- REP, with a step for the addend c of the L text (R56). -/
def execRepL (c : BitVec 6) (d : BitVec 2) (a : BitVec 2) (b : BitVec 2) (e : BitVec 2) (st : State) : Res :=
  issue (.repL c d a b e) (bodyRep c.toNat d.toNat a.toNat b.toNat e.toNat) st

/-- BRA of the L text (R68). -/
def execBraL (o : BitVec 21) (st : State) : Res := issue (.braL o) (bodyBra false o) st

/-- CALL of the L text (R68). -/
def execCallL (o : BitVec 21) (st : State) : Res := issue (.callL o) (bodyBra true o) st

/-- BRX of the L text (R69). -/
def execBrxL (a : BitVec 8) (c : BitVec 1) (st : State) : Res := issue (.brxL a c) (fun q => bodyBrx (q.a a) (c == 1) q) st

/-- RET of the L text (R70). -/
def execRetL (a : BitVec 8) (st : State) : Res := issue (.retL a) (fun c => bodyRet (c.a a) c) st

/-- plain FORK of the L text (R73). -/
def execForkL (a : BitVec 8) (n : BitVec 4) (st : State) : Res :=
  issue (.forkL a n) (fun c => bodyFork (c.a a) n.toNat none c) st

/-- FORK.try, with the result predicate in DH:d of the L text (R73). -/
def execForkTryL (p : BitVec 8) (a : BitVec 8) (n : BitVec 4) (st : State) : Res :=
  issue (.forkTryL p a n) (fun c => bodyFork (c.a a) n.toNat (some p.toNat) c) st

/-- TRAP of the L text (R72). -/
def execTrapL (x : BitVec 9) (st : State) : Res := issue (.trapL x) (bodyTrap causeTrap x.toNat) st

/-- SYSC of the L text (R72). -/
def execSyscL (x : BitVec 9) (st : State) : Res := issue (.syscL x) (bodyTrap causeSysc x.toNat) st

/-- Plimus-D no-operation; has no effect (R64). -/
def execNopD (st : State) : Res := issue .nopD bodyNop st

/-- Ends the fibres of the active lanes and returns their window blocks (R71). -/
def execEndD (st : State) : Res := issue .endD bodyEnd st

/-- Plimus-L doubleword form of NOP (R64). -/
def execNopL (st : State) : Res := issue .nopL bodyNop st

/-- END of the L text (R71). -/
def execEndL (st : State) : Res := issue .endL bodyEnd st

end Sys2Proof.Machine
end

