-- ==== Sys2Proof/Machine/SyncOps.lean ====
section
/-!
DEFINITION. Crew barriers, barrier objects, bench registers, and the observation of tokens (11 R174 to R180, R185, R186;
03 R37, R38).
-/
namespace Sys2Proof.Machine

/-! ## Crew barriers (R174) -/

/-- BAR: the active fibres arrive and wait, the others go on at Next; then the phase is tested. A paired crew compares first
(R159). -/
def bodyBar (n : Nat) (c : Ctx) (s : State) : Eff :=
  if c.act.isEmpty then .next s
  else match c.compare s with
    | some e => e
    | none =>
      let rest := c.all.filter fun i => !c.act.contains i
      .left (((c.compared s).modCrew c.u.crew fun k =>
        let b := k.barriers.getD n { phase := false, arrived := [] }
        let arrived := c.act.foldl (fun l i => insertRising (c.fibre i).ident l) b.arrived
        let k := { k with barriers := k.barriers.set n { b with arrived := arrived } }
        let k := k.modFibres c.act fun _ f => { f with wait := .bar n b.phase }
        let k := k.modFibres rest fun _ f => f.advance c.kind
        (k.testBarrier n).regroupAll).meet c.u.crew c.crew)

/-! ## Barrier objects (R176 to R179) -/

/-- An arrival of `n` at an object: the new object, and the report over : done : phase (R177). -/
def arrive (o : DWord) (n : Nat) : DWord × Word :=
  let q := o.getLsbD 32
  let pending := bitsAt o.toNat 16 16
  let expect := o.extractLsb' 0 16
  let top := o.extractLsb' 33 31
  if n = 0 then (o, BitVec.ofNat 32 q.toNat)
  else if pending ≤ n then
    (top ++ BitVec.ofBool (!q) ++ expect ++ expect,
     BitVec.ofNat 32 (4 * (decide (pending < n)).toNat + 2 + q.toNat))
  else (top ++ BitVec.ofBool q ++ BitVec.ofNat 16 (pending - n) ++ expect, BitVec.ofNat 32 q.toNat)

/-- ARV, lane by lane: each a read-modify-write of the object and a release of crew scope (R177, R179). -/
def arvLanes (c : Ctx) (d b : Nat) : List SAccess → State → State
  | [], s => s
  | (i, ea) :: r, s =>
    let q : FibreId := (c.u.crew, i)
    let off := ea - c.crew.scrBase
    let s := s.correctScr c.u.crew off 8
    let x := arrive (leDWord ((c.now s).scrRead ea 8)) (bitsAt ((c.fibre i).val b).toNat 0 16)
    let s := (s.sawScr q off 8).scrStore { who := some q, release := some 1, rmw := true } c.u.crew ea (leBytes 8 x.1.toNat) id
    arvLanes c d b r (s.modFibres c.u.crew [i] fun _ f => f.setReg d { val := x.2, s := false })

/-- ARV (R177). -/
def bodyArv (d a b : Nat) (c : Ctx) (s : State) : Eff :=
  let xs := c.scratchLanes a 0 8
  match c.badScratch 8 xs s with
  | some e => e
  | none => match c.eccScratch 8 xs s with
    | some e => e
    | none => if c.act.isEmpty then .next s else c.releasing (fun s => .next (arvLanes c d b xs s)) s

/-- AWT, lane by lane: a lane waits until the phase differs from its parity; the read that ends the wait is an acquire of crew
scope (R178, R179). -/
def awtLanes (c : Ctx) (d b : Nat) : List SAccess → State → Eff
  | [], s => .next s
  | (i, ea) :: r, s =>
    let s := s.correctScr c.u.crew (ea - c.crew.scrBase) 8
    let q := (leDWord ((c.now s).scrRead ea 8)).getLsbD 32
    if q == ((c.fibre i).val b).getLsbD 0 then c.waitLane .object (c.lane i) s
    else
      let s := (s.sawScr (c.u.crew, i) (ea - c.crew.scrBase) 8).acquireNow 1 [(c.u.crew, i)]
      awtLanes c d b r (s.modFibres c.u.crew [i] fun _ f => f.setReg d { val := BitVec.ofNat 32 q.toNat, s := false })

/-- AWT (R178). -/
def bodyAwt (d a b : Nat) (c : Ctx) (s : State) : Eff :=
  let xs := c.scratchLanes a 0 8
  match c.badScratch 8 xs s with
  | some e => e
  | none => match c.eccScratch 8 xs s with
    | some e => e
    | none => awtLanes c d b xs s

/-! ## Bench registers (R37, R38, R180) -/

/-- Fibres have read the write that a bench register holds (R138, R142). -/
def Ctx.hearBench (c : Ctx) (n : Nat) (s : State) : State :=
  (c.ids c.act).foldl (fun t q => t.hear q (t.benchTags c.u.crew n)) s

/-- BRD (R38). -/
def bodyBrd (d n : Nat) (c : Ctx) (s : State) : Eff :=
  writeLanes c d (fun _ => { val := c.crew.bench.getD n 0, s := false }) (c.hearBench n s)

/-- BWR: the highest active lane's value (R38). -/
def bodyBwr (a n : Nat) (c : Ctx) (s : State) : Eff :=
  match c.act.getLast? with
  | none => .next s
  | some i => .next ((s.writeBench (c.u.crew, i) n false).modCrew c.u.crew fun k =>
      { k with bench := k.bench.set n ((c.fibre i).val a) })

/-- BATOM, lane by lane; a cas whose comparison fails writes nothing (R38, R170, R180). -/
def batomLanes (c : Ctx) (d a n op : Nat) : List Nat → State → State
  | [], s => s
  | i :: r, s =>
    let old := (c.now s).bench.getD n 0
    let f := c.fibre i
    let q : FibreId := (c.u.crew, i)
    let s := s.hear q (s.benchTags c.u.crew n)
    let s := if atomWrites op old (f.val d) then
        (s.writeBench q n true).modCrew c.u.crew fun k => { k with bench := k.bench.set n (atomNew op old (f.val a) (f.val d)) }
      else s
    batomLanes c d a n op r (s.modFibres c.u.crew [i] fun _ f => f.setReg d { val := old, s := false })

/-- BATOM (R180). -/
def bodyBatom (d a n op : Nat) (c : Ctx) (s : State) : Eff := .next (batomLanes c d a n op c.act s)

/-! ## Tokens (R185, R186) -/

/-- WAITT: waits until every token of the mask is complete, and observes them (R185). -/
def bodyWaitt (mask : BitVec 8) (c : Ctx) (s : State) : Eff :=
  if c.act.isEmpty then .next s
  else match c.observe mask s with
    | some e => e
    | none => .next s

/-- TOKQ: whether a token is complete, or pending; a token read complete is observed (R186). -/
def bodyTokq (p tok : Nat) (pending : Bool) (c : Ctx) (s : State) : Eff :=
  let t := c.crew.tokens c.u.kind
  let complete := t.counts.getD tok 0 == 0
  if c.act.isEmpty then .next s
  else match (if complete then t.deferred.find? fun d => d.token == tok else none) with
    | some d => .deferred s d
    | none => writePreds c p (fun _ => complete != pending) s

end Sys2Proof.Machine
end

