-- ==== Sys2Proof/Machine/CopyOps.lean ====
section
/-!
DEFINITION. CPA and the copy engine: reading of sources, landing on lines and granules, completion, faults after retirement
(11 R181 to R184, R359; 10 R152 to R155, R158).
-/
namespace Sys2Proof.Machine

/-! ## Issue (R182) -/

/-- Bytes of a bsel code. -/
def bselBytes (n : Nat) : Nat := 4 * 2 ^ n

/-- An operand of CPA in a lane: a pair for a global operand, a single register for a scratchpad one. -/
def cpaOperand (isGlobal : Bool) (r : Nat) (f : Fibre) : DWord := if isGlobal then f.pair r else (f.val r).setWidth 64

/-- An operand that fails the ADDRESS check. -/
def cpaBad (k : Crew) (isGlobal : Bool) (n : Nat) (v : DWord) : Bool :=
  if isGlobal then !canonical v || v.toNat % n != 0 else !scratchOk k v.toNat n

/-- The accesses of CPA's global operand in the active lanes. -/
def Ctx.cpaLanes (c : Ctx) (r : Nat) : List GAccess :=
  c.act.map fun i => { idx := i, base := (c.fibre i).pair r, ea := (c.fibre i).pair r }

/-- The subcauses of the lanes' global operands, destination first; `need` as the engine will. -/
def cpaFailures (c : Ctx) (isGlobal write : Bool) (r : Nat) (s : State) : State × List (Nat × DWord × Nat) :=
  if ¬ isGlobal then (s, [])
  else
    match translateLanes c.core c.asid { write := write, priv := c.priv } (c.cpaLanes r) s with
    | (s', rs) => (s', (failedLanes rs).map fun x => (x.1.idx, x.1.ea, x.2))

/-- A scratchpad operand as its offset from the crew's first scratchpad byte (R184). -/
def scratchOff (k : Crew) (isGlobal : Bool) (v : DWord) : DWord :=
  if isGlobal then v else BitVec.ofNat 64 (v.toNat - k.scrBase)

/-- The active lanes whose operands fail translation: place, VA, subcause and whether the destination fails, which is told first; and the
state that the walks leave. -/
def Ctx.cpaFailed (c : Ctx) (a b form : Nat) (s : State) : State × List (Nat × DWord × Nat × Bool) :=
  match cpaFailures c (dstGlobal form) true a s with
  | (s1, fd) => match cpaFailures c (srcGlobal form) false b s1 with
    | (s2, fs) => (s2, c.act.filterMap fun i =>
        match fd.find? fun x => x.1 == i with
        | some x => some (i, x.2.1, x.2.2, true)
        | none => (fs.find? fun x => x.1 == i).map fun x => (i, x.2.1, x.2.2, false))

/-- What CPA's checks leave where no lane fails: D is set only by the engine's writes (R98, R182). -/
def Ctx.cpaChecked (c : Ctx) (a b form : Nat) (s : State) : State :=
  (cpaFailures c (dstGlobal form) false a (cpaFailures c (srcGlobal form) false b (s.keepDraws (c.cpaFailed a b form s).1)).1).1

/-- The lanes whose operands' translation would consume an uncorrectable error of the tables (R337). -/
def Ctx.cpaErrors (c : Ctx) (a b form : Nat) (s : State) : List (Nat × Nat × Nat) :=
  (if dstGlobal form then c.walkErrors true (c.cpaLanes a) s else []) ++ if srcGlobal form then c.walkErrors false (c.cpaLanes b) s else []

/-- Fields of the issuing instruction that a recorded operation keeps: its words. -/
def Ctx.words (c : Ctx) : Word × Word := (c.fibre (c.all.headD 0)).faultWords c.kind

/-- CPA's fault in the lanes that fail translation, whose walks' stage-2 A stands (R100, R161). -/
def Ctx.cpaFault (c : Ctx) (a b form : Nat) (s s' : State) (x : Nat × DWord × Nat × Bool) (xs : List (Nat × DWord × Nat × Bool)) : Eff :=
  .raise (s.keepWalks s' c.asid (((if dstGlobal form then c.cpaLanes a else []) ++ if srcGlobal form then c.cpaLanes b else []).map
      fun g => va48 g.ea)) causeTranslation x.2.2.1 0
    ((x :: xs).map fun y => c.lane y.1) ((x :: xs).map fun y => (c.lane y.1, translEntry y.2.1 y.2.2.1 y.2.2.2 false false))

/-- CPA's fault where some lanes meet an uncorrectable error of the tables: TRANSLATION in the others that fail it, else ECC in those
(DESIGN CHOICE, log 18). -/
def Ctx.cpaTableFault (c : Ctx) (a b form : Nat) (es : List (Nat × Nat × Nat)) (s : State) : Eff :=
  let sound := { c with act := c.act.filter fun i => es.all fun e => e.1 != c.lane i }
  match sound.cpaFailed a b form s with
  | (s', x :: xs) => sound.cpaFault a b form s s' x xs
  | (s', []) => (eccFault (s.keepDraws s') es).getD (c.waitFor .held s)

/-- The lane copies of a CPA, each with its line and the releases that its writes carry. -/
def Ctx.cpaJobs (c : Ctx) (dst src : Nat → DWord) (bsel tok form now : Nat) (xs : List (Nat × Option Nat × List Tag)) : List LaneCopy :=
  xs.map fun x =>
    { lane := c.lane x.1, form := form, bsel := bsel, len := bselBytes bsel, src := scratchOff c.crew (srcGlobal form) (src x.1),
      dst := scratchOff c.crew (dstGlobal form) (dst x.1), done := 0, token := tok, unit := c.u.kind, fibre := x.1, kind := c.kind,
      priv := c.priv, pc := c.pc, hdr := (c.fibre x.1).hdr, word := c.words.1, ext := c.words.2, bytes := none, line := x.2.1, fault := none,
      order := now, group := now, tags := x.2.2 : LaneCopy }

/-- CPA: the checks of R161, then the lane copies are handed to the engine and the token armed (R181, R182). -/
def bodyCpa (a b bsel tok form : Nat) (c : Ctx) (s : State) : Eff :=
  let n := bselBytes bsel
  let dg := dstGlobal form
  let sg := srcGlobal form
  let dst := fun i => cpaOperand dg a (c.fibre i)
  let src := fun i => cpaOperand sg b (c.fibre i)
  let bad := c.act.filter fun i => cpaBad c.crew dg n (dst i) || cpaBad c.crew sg n (src i)
  if c.act.isEmpty then .next s
  else if ¬ bad.isEmpty then .raise s causeAddress 0 0 (bad.map c.lane) (bad.map fun i =>
    (c.lane i, addrEntry (if cpaBad c.crew dg n (dst i) then dst i else src i).toNat))
  else if (dg && c.walksHeld true (c.act.map dst) s) || (sg && c.walksHeld false (c.act.map src) s) then c.waitFor .held s
  else match c.cpaErrors a b form s with
    | e :: es => c.cpaTableFault a b form (e :: es) s
    | [] => match c.cpaFailed a b form s with
      | (s2, x :: xs) => c.cpaFault a b form s s2 x xs
      | (_, []) =>
        let s3 := c.cpaChecked a b form s
        let lines := c.act.map fun i => if dg then s3.engineLine c.core c.asid (va48 (dst i)) else none
        let s4 := lines.foldl (fun t l => match l with
          | some l => t.dropL1 c.core l
          | none => t) s3
        match s4.issueTags (!dg) s.tick (c.ids c.act) with
        | (s5, tags) =>
          let jobs := c.cpaJobs dst src bsel tok form s.tick (c.act.zip (lines.zip tags))
          .next (s5.modCrew c.u.crew fun k =>
            ({ k with copies := k.copies ++ jobs } : Crew).modTokens c.u.kind fun t =>
              { t with counts := t.counts.modify tok (· + 1) })

/-! ## What an engine's access meets -/

/-- Why an engine's access is not made now: it is held; it finds that its destination lies no more on the line that it owns, which it
then takes anew (R158); or it fails, reading its source or writing its destination, at a VA, or for ECC at the PA or number of the
error. -/
inductive EngineStop where
  | held
  | moved
  | fails (cause sub : Nat) (write : Bool) (place : Nat)
  deriving DecidableEq, Repr

/-- The bytes a lane copy reads from its source, no earlier than issue (R152): for normal memory as a load of its core reads them, through
L1, so that a miss fills the line there. R152 says only where the bytes are read (DESIGN CHOICE, log 56). -/
def State.copyRead (s : State) (c : Nat) (k : Crew) (j : LaneCopy) : State × Except EngineStop (List Byte) :=
  if ¬ srcGlobal j.form then
    if s.scrError c j.src.toNat j.len then (s, .error (.fails causeEcc 2 false (k.scrBase + j.src.toNat)))
    else (s.correctScr c j.src.toNat j.len, .ok (getBytes k.scr j.src.toNat j.len))
  else if s.walkHeld k.core k.desc.asid (va48 j.src) false then (s, .error .held)
  else match s.walkError k.core k.desc.asid (va48 j.src) false, s.translate k.core k.desc.asid (va48 j.src) { priv := j.priv } with
    | some e, _ => (s, .error (.fails causeEcc e.1 false e.2))
    | none, (s', .error e) => (s', .error (.fails causeTranslation e false j.src.toNat))
    | none, (s', .ok tr) =>
      let pa := tr.pa (va48 j.src)
      let s' := s'.mayReplace k.core k.desc.asid tr (va48 j.src) j.len 0
      if s'.ownedBefore (pa / 64) j.order then (s', .error .held)
      else match (if inMmio pa ∨ s'.l1Hit k.core k.desc.asid tr (va48 j.src) 0 = true then none else s'.eccAt pa j.len) with
        | some e => (s', .error (.fails causeEcc e.1 false e.2))
        | none => match (s'.correctAt c pa j.len).gread k.core k.desc.asid tr (va48 j.src) j.len 0 with
          | (s'', bs) => (s'', .ok (s''.overlaid k.desc.asid k.pair pa bs))

/-- Every source of a group read, in lane order: every read of one CPA precedes every write of it (R182). -/
def readGroup (c : Nat) (g : Nat) : List LaneCopy → State → State × Except EngineStop (List LaneCopy)
  | [], s => (s, .ok [])
  | j :: r, s =>
    if j.group ≠ g ∨ j.bytes.isSome ∨ j.fault.isSome then
      match readGroup c g r s with
      | (s, .error e) => (s, .error e)
      | (s, .ok js) => (s, .ok (j :: js))
    else match s.crews[c]? with
      | none => (s, .error .held)
      | some k => match s.copyRead c k j with
        | (s, .error e) => (s, .error e)
        | (s, .ok bs) => match readGroup c g r s with
          | (s, .error e) => (s, .error e)
          | (s, .ok js) => (s, .ok ({ j with bytes := some bs } :: js))

/-- A lane copy that lands together with another of its instruction: on the same physical line, whatever VAs name it, or in the same
granule; through an aperture each lands alone (R131, R132, R149, R153, R154). -/
def LaneCopy.lands (j x : LaneCopy) : Bool :=
  x.group == j.group && x.fault.isNone && decide (x.done < x.len)
    && (if ¬ dstGlobal j.form then x.dst.toNat / 16 == j.dst.toNat / 16
      else x.line == j.line && (j.line.isSome || x.lane == j.lane))

/-- An earlier engine operation of the gang, or of the same fibre wherever it was binned then, has still to send a write through the port
of an aperture address (R28, R149). -/
def State.portBusy (s : State) (k : Crew) (u : UnitKind) (fibre order pa : Nat) : Bool :=
  match s.portOf pa with
  | some p => (s.unsentPorts k fun v f o => (sameGang u v || f == fibre) && decide (o < order)).contains p
  | none => false

/-- The line that an engine's write falls on is not one that its operation owns. -/
def strayed (owned : List Nat) (pa : Nat) : Bool := !inMmio pa && !owned.contains (pa / 64)

/-- A lower lane of a lane copy's instruction has still to send its write through the same port: so the highest lane's bytes are the
last (R132, R182). -/
def State.lowerLaneUnsent (s : State) (k : Crew) (j : LaneCopy) (pa : Nat) : Bool :=
  match s.portOf pa with
  | some p => k.copies.any fun x => x.group == j.group && decide (x.lane < j.lane) && x.fault.isNone && decide (x.done < x.len)
      && s.enginePort k.core k.desc.asid x.dst == some p
  | none => false

/-- Destination bytes of landing copies written to their line by the engine, in lane order (R153). -/
def landLine (c : Nat) : List LaneCopy → State → State × Except EngineStop Unit
  | [], s => (s, .ok ())
  | j :: r, s =>
    match s.crews[c]? with
    | none => (s, .error .held)
    | some k =>
      if s.walkHeld k.core k.desc.asid (va48 j.dst) true then (s, .error .held)
      else match s.walkError k.core k.desc.asid (va48 j.dst) true,
        s.translate k.core k.desc.asid (va48 j.dst) { write := true, priv := j.priv } with
      | some e, _ => (s, .error (.fails causeEcc e.1 true e.2))
      | none, (s', .error e) => (s', .error (.fails causeTranslation e true j.dst.toNat))
      | none, (s', .ok tr) =>
        let pa := tr.pa (va48 j.dst)
        if strayed j.line.toList pa then (s', .error .moved)
        else if s'.ownedBefore (pa / 64) j.order ∨ s'.bufferFull c 4 = true ∨ s'.portBusy k j.unit j.fibre j.order pa = true
            ∨ s'.lowerLaneUnsent k j pa = true then (s', .error .held)
        else landLine c r (s'.gwrite c { tags := j.tags } tr j.dst.toNat 0 (j.bytes.getD []))

/-- A crew with the copies that landed marked so, their ownership over. -/
def Crew.landed (k : Crew) (j : LaneCopy) : Crew :=
  { k with copies := k.copies.map fun x => if j.lands x then { x with done := x.len, line := none } else x }

/-- The engine writes bytes of a crew's scratchpad and sets their granules full, in one step: nothing older is seen there any more, the
errors that stood there are gone, and whoever reads the bytes and acquires, or finds the granules full, follows what its
instruction's issue followed (R138, R154). -/
def State.scrFilled (s : State) (c off : Nat) (tags : List Tag) (bs : List Byte) : State :=
  let old := ((s.crews[c]?).map fun k => getBytes k.scr off bs.length).getD []
  let gs := (List.range ((off % 16 + bs.length + 15) / 16)).map (off / 16 + ·)
  let t := (gs.foldl (fun t g => t.addFills c g tags) ((s.cleanScr c off bs.length).landScr c off tags old)).modCrew c fun k =>
    gs.foldl (fun k g => k.setFull g true) { k with scr := putBytes k.scr off bs }
  t.reach none (some c) off bs.length Early.inScratch

/-- The copies that land together have been found to lie on other lines since they were issued: they own those from now, at their place in
the order of ownership (R153, R158). -/
def Crew.strayedTo (k : Crew) (s : State) (j : LaneCopy) : Crew :=
  { k with copies := k.copies.map fun x =>
      if j.lands x then { x with line := s.engineLine k.core k.desc.asid (va48 x.dst) } else x }

/-- The engine's next landing of a lane copy, with the others of its line or granule: the state after, or why not. -/
def State.copyStep (s : State) (c i : Nat) : State × Except EngineStop Unit :=
  match s.crews[c]? with
  | none => (s, .error .held)
  | some k => match k.copies[i]? with
    | none => (s, .error .held)
    | some j =>
      if (k.status ≠ .resident ∧ k.status ≠ .ended) ∨ j.fault.isSome ∨ j.len ≤ j.done then (s, .error .held)
      else match readGroup c j.group k.copies s with
        | (s', .error e) => (s', .error e)
        | (s', .ok js) =>
          let s' := s'.modCrew c fun k => { k with copies := js }
          let mine := js.filter j.lands
          if dstGlobal j.form then
            let walked := fun t : State => s'.keepWalks t k.desc.asid (mine.map fun x => va48 x.dst)
            match landLine c mine s' with
            | (s'', .error .moved) => ((walked s'').modCrew c fun k => k.strayedTo s'' j, .ok ())
            | (s'', .error e) => (walked s'', .error e)
            | (s'', .ok _) => (s''.modCrew c fun k => k.landed j, .ok ())
          else
            ((mine.foldl (fun t x => t.scrFilled c x.dst.toNat x.tags (x.bytes.getD [])) s').modCrew c fun k => k.landed j, .ok ())

/-! ## Events of the copy engine -/

/-- ENGINE_LINE_WRITE: the engine writes the destination bytes of a line it owns; n the crew, m the lane copy (R153). -/
def evEngineLineWrite (a : EvArg) (s : State) : State :=
  match (s.crews[a.n]?).bind fun k => k.copies[a.m]? with
  | none => s
  | some j => if dstGlobal j.form then (match s.copyStep a.n a.m with
      | (s', .ok _) => s'
      | (_, .error _) => s) else s

/-- SCRATCH_GRANULE_LANDING: a granule written and set full in one step; n the crew, m the lane copy (R154). -/
def evScratchGranuleLanding (a : EvArg) (s : State) : State :=
  match (s.crews[a.n]?).bind fun k => k.copies[a.m]? with
  | none => s
  | some j => if dstGlobal j.form then s else (match s.copyStep a.n a.m with
      | (s', .ok _) => s'
      | (_, .error _) => s)

/-- The count of an operation's token falls. -/
def Crew.completeToken (k : Crew) (u : UnitKind) (t : Nat) : Crew :=
  k.modTokens u fun x => { x with counts := x.counts.modify t (· - 1) }

/-- Every write of a crew that has left through a port is acknowledged: its engines' aperture writes are complete (R153). -/
def State.acknowledged (s : State) (c : Nat) : Bool := s.outbound.all fun o => o.crew != c || !o.write

/-- COPY_COMPLETE: every lane copy of a CPA has written, those through an aperture are acknowledged, and its token count falls; n
the crew, m the operation (R153, R182). -/
def evCopyComplete (a : EvArg) (s : State) : State :=
  match s.crews[a.n]? with
  | none => s
  | some k =>
    let mine := k.copies.filter fun j => j.group == a.m
    match mine with
    | [] => s
    | j :: _ =>
      if mine.all (fun j => j.fault.isNone && decide (j.len ≤ j.done))
          ∧ (s.acknowledged a.n || mine.all fun j => !dstGlobal j.form || (s.enginePort k.core k.desc.asid j.dst).isNone) = true then
        (s.modCrew a.n fun k =>
          ({ k with copies := k.copies.filter fun j => j.group != a.m } : Crew).completeToken j.unit j.token).checkCrewEnd a.n
      else s

/-- Where a lane copy's source lies: its physical address, or its core scratchpad address. -/
def State.sourcePa (s : State) (k : Crew) (j : LaneCopy) : Nat :=
  if ¬ srcGlobal j.form then k.scrBase + j.src.toNat
  else match s.walk k.desc.asid (va48 j.src) { priv := true } with
    | .ok w => w.tr.pa (va48 j.src)
    | .error _ => 0

/-- Where a lane copy meets an uncorrectable error: an entry of the tables, else its source (R337). -/
def State.copyPlace (s : State) (k : Crew) (j : LaneCopy) (write : Bool) : Nat :=
  match (if write || srcGlobal j.form then s.walkError k.core k.desc.asid (va48 (if write then j.dst else j.src)) write else none) with
  | some e => e.2
  | none => s.sourcePa k j

/-- The lane entry of a deferred fault: its VA, the subcause and the engine bit, or the PA of an ECC (R286). -/
def LaneCopy.entry (s : State) (k : Crew) (cause sub : Nat) (write : Bool) (j : LaneCopy) : Nat × List Word :=
  (j.lane, (if cause = causeTranslation then translEntry (if write then j.dst else j.src) sub write false true
    else addrEntry (s.copyPlace k j write)).map (BitVec.ofNat 32))

/-- DEFERRED_COPY_FAULT: a copy access fails after retirement; the lane copies not done are abandoned, and the operation
counts as complete with the fault attached to its token (R183). -/
def evDeferredCopyFault (a : EvArg) (s : State) : State :=
  match s.crews[a.n]? with
  | none => s
  | some k => match k.copies[a.m]? with
    | none => s
    | some j => match s.copyStep a.n a.m with
      | (_, .ok _) => s
      | (_, .error .held) => s
      | (_, .error .moved) => s
      | (s', .error (.fails cause sub write place)) =>
        let drop := fun t : State => t.modCrew a.n fun k => { k with copies := k.copies.filter fun x => x.group != j.group }
        if k.status = .ended then (if cause = causeEcc then (drop s').logSilent sub a.n place else drop s')
        else if cause = causeEcc ∧ (s.protectedCrew a.n) = true then
          (drop s').engineError k (sub, place)
        else
        let left := k.copies.filter fun x => x.group == j.group && decide (x.done < x.len)
        let d : Deferred :=
          { token := j.token, kind := j.kind, pc := j.pc, hdr := j.hdr, cause := BitVec.ofNat 8 cause,
            info := BitVec.ofNat 32 (if cause = causeTranslation then sub else 32 * sub),
            active := (k.copies.filter fun x => x.group == j.group).map LaneCopy.lane,
            entries := left.map (LaneCopy.entry s k cause sub write), word := j.word, ext := j.ext, group := j.group }
        (s'.modCrew a.n fun k =>
          (({ k with copies := (k.copies.filter fun x => !(x.group == j.group && decide (x.len ≤ x.done))).map fun x =>
              if x.group == j.group then { x with fault := some (BitVec.ofNat 8 cause, sub), line := none } else x } : Crew
            ).completeToken j.unit j.token).modTokens j.unit fun t => { t with deferred := t.deferred ++ [d] }).checkCrewEnd a.n

end Sys2Proof.Machine
end

