-- ==== Sys2Proof/Machine/MatrixOps.lean ====
section
/-!
DEFINITION. The matrix engine and the accumulator store: parameter blocks and their checks, exact block sums, element
access, tile stores (15 R228 to R245; 12 R189).
-/
namespace Sys2Proof.Machine

/-! ## Tiles (R228, R229) -/

/-- Elements of a tile. -/
def tileElems : Nat := 16384

/-- An accumulator element of a crew, by 16384 t + 128 m + n. -/
def Crew.elem (k : Crew) (e : Nat) : AccElem := sget Reg.zero k.tiles e

/-- An element written; its tile is dirty. -/
def Crew.setElem (k : Crew) (e : Nat) (v : AccElem) : Crew :=
  { k with tiles := sset Reg.zero e v k.tiles, tileDirty := insertRising (e / tileElems) k.tileDirty }

/-- Every element of a tile, row by row. -/
def Crew.tileRow (k : Crew) (t : Nat) : List AccElem :=
  let cells := k.tiles.filter fun x => x.1 / tileElems == t
  (cells.foldl (fun (a : Array AccElem) x => a.setIfInBounds (x.1 % tileElems) x.2)
    (Array.replicate tileElems Reg.zero)).toList

/-- A tile replaced; it is dirty. -/
def Crew.setTile (k : Crew) (t : Nat) (l : List AccElem) : Crew :=
  { k with
    tiles := k.tiles.filter (fun x => decide (x.1 / tileElems < t))
      ++ ((l.take tileElems).zipIdx (t * tileElems)).filterMap (fun x => if x.1 = Reg.zero then none else some (x.2, x.1))
      ++ k.tiles.filter (fun x => decide (t < x.1 / tileElems))
    tileDirty := insertRising t k.tileDirty }

/-- TILE of a captured MMA block, and of a captured ACCST block. -/
def MatJob.tile (j : MatJob) : Nat := (j.block.getD 4 0).toNat
/-- TILE of a tile store. -/
def StoreJob.tile (j : StoreJob) : Nat := bitsAt (j.block.getD 2 0).toNat 0 7

/-- A gang has a tile operation on a tile that issued before a given step and has not finished (R239). -/
def Crew.tileBusy (k : Crew) (u : UnitKind) (t before : Nat) : Bool :=
  k.mats.any (fun j => sameGang j.unit u && j.tile == t && decide (j.order < before) && !j.failed)
    || k.stores.any fun j => sameGang j.unit u && j.tile == t && decide (j.order < before) && j.fault.isNone

/-! ## Parameter blocks (R231, R232) -/

/-- An operand descriptor's fields. -/
structure Desc where
  base : Nat
  rowp : Nat
  tilep : Nat
  rot : Nat
  extent : Nat
  deriving DecidableEq, Repr

/-- A descriptor from its two words (R232). -/
def descOf (w0 w1 : Word) : Desc :=
  { base := bitsAt w0.toNat 0 20, rowp := bitsAt w0.toNat 20 12, tilep := bitsAt w1.toNat 0 16, rot := bitsAt w1.toNat 16 5,
    extent := bitsAt w1.toNat 21 11 }

/-- The footprint's highest byte (R235). -/
def Desc.high (d : Desc) (nK z : Nat) : Nat := d.base + 16 * d.tilep * (nK - 1) + 16 * d.rowp * 127 + 128 * z - 1

/-- The bank rotation of a byte offset in a row (R233). -/
def swz (rot row j : Nat) : Nat :=
  if rot = 0 then j
  else j / 128 * 128 + ((j / 16 % 8) ^^^ (row / 2 ^ (rot - 1) % 8)) * 16 + j % 16

/-- The crew offset of byte j of a row of a K-block (R233). -/
def Desc.off (d : Desc) (kb row j : Nat) : Nat := d.base + 16 * d.tilep * kb + 16 * d.rowp * row + swz d.rot row j

/-- Element size of a matrix instruction's operands (R231). -/
def elemSize (major : Nat) : Nat := if major = 0x66 ∨ major = 0x67 then 2 else 1

/-- The reason for which an MMA's block breaks R235, the lowest first. -/
def mmaReason (k : Crew) (major : Nat) (w : List Word) : Option Nat :=
  let g := fun i => (w.getD i 0).toNat
  let kk := g 5
  let nK := kk / 128
  let z := elemSize major
  let a := descOf (w.getD 0 0) (w.getD 1 0)
  let b := descOf (w.getD 2 0) (w.getD 3 0)
  if g 7 ≠ 0 ∨ bitsAt (g 6) 2 30 ≠ 0 then some 1
  else if kk = 0 ∨ 4096 < kk ∨ kk % 128 ≠ 0 then some 2
  else if k.desc.accCount ≤ g 4 then some 3
  else if 3 < a.rot ∨ 3 < b.rot then some 4
  else if a.base % 16 ≠ 0 ∨ b.base % 16 ≠ 0 then some 5
  else if a.base + 1024 * a.extent ≤ a.high nK z then some 6
  else if b.base + 1024 * b.extent ≤ b.high nK z then some 7
  else if k.desc.scrSize ≤ a.high nK z ∨ k.desc.scrSize ≤ b.high nK z then some 8
  else none

/-- The elected lane's fault: it alone is named (R285). -/
def Ctx.elected (c : Ctx) (i : Nat) (s : State) (cause info : Nat) (entry : List Nat) : Eff :=
  .raise s cause 0 info [c.lane i] [(c.lane i, entry)]

/-- `n` words of the crew's scratchpad. -/
def Crew.scrWords (k : Crew) (a n : Nat) : List Word := (List.range n).map fun i => leWord (k.scrRead (a + 4 * i) 4)

/-- The parameter block at the elected lane's address, `n` words, aligned and inside the crew's scratchpad; or the fault
(R235 step 1, R244 step 1). -/
def Ctx.paramBlock (c : Ctx) (i a n : Nat) (s : State) : Except Eff (List Word) :=
  let addr := ((c.fibre i).val a).toNat
  if ¬ scratchOk c.crew addr (4 * n) then .error (c.elected i s causeAddress 0 (addrEntry addr))
  else if s.scrError c.u.crew (addr - c.crew.scrBase) (4 * n) then .error (c.elected i s causeEcc 2 (addrEntry addr))
  else .ok (c.crew.scrWords addr n)

/-- What the elected lane's read of its block leaves: single-bit errors corrected (R337), and its earlier loads of those bytes settled
(R132). -/
def Ctx.blockRead (c : Ctx) (i a n : Nat) (s : State) : State :=
  let off := ((c.fibre i).val a).toNat - c.crew.scrBase
  (s.correctScr c.u.crew off (4 * n)).settleEarly (c.u.crew, i) true off (4 * n)

/-! ## MMA (R230, R235, R236) -/

/-- A scale byte: byte i of a register in a lane of the gang; 0 where no live fibre stands or its window ends (R236). -/
def Ctx.scaleByte (c : Ctx) (lane reg i : Nat) : Byte :=
  let g := (c.fibre (c.all.headD 0)).gang
  match c.crew.fibres.find? fun f => f.live && f.bound && f.gang == g && f.home == lane with
  | some f => if reg < 8 * f.size then (f.val reg).extractLsb' (8 * i) 8 else 0
  | none => 0

/-- Scale registers of the gang's lanes that hold an uncorrectable error which no mirror serves: their numbers (R236, R337). -/
def State.scaleErrors (s : State) (c : Ctx) (scales : Option (Nat × Nat)) (nK : Nat) : List Nat :=
  match scales with
  | none => []
  | some (b, _) =>
    if s.mirroring c.core ∧ c.crew.mirror then []
    else s.rel.poison.filterMap fun p => match p with
      | .register x f r =>
        let g := c.fibre f
        if x = c.u.crew ∧ b ≤ r ∧ r ≤ b + nK ∧ g.live = true ∧ g.bound = true ∧ g.gang = (c.fibre (c.all.headD 0)).gang
        then some r else none
      | _ => none

/-- An MMA issued by the elected lane: its block captured, checked, the token armed (R230). -/
def bodyMma (major a : Nat) (scales : Option (Nat × Nat)) (tok : Nat) (c : Ctx) (s : State) : Eff :=
  match c.act with
  | [] => .next s
  | i :: _ =>
    match c.paramBlock i a 8 s with
    | .error e => e
    | .ok w => match mmaReason c.crew major w with
      | some r => c.elected i s causeMatrixBounds r []
      | none =>
        let s := c.blockRead i a 8 s
        let nK := (w.getD 5 0).toNat / 128
        let tooFar := match scales with
          | some (b, _) => decide (8 * (c.fibre i).size ≤ b + nK)
          | none => false
        if tooFar then c.elected i s causeWindow 0 []
        else match s.scaleErrors c scales nK with
        | r :: _ => c.elected i s causeEcc 0 [r, 0]
        | [] =>
          let job : MatJob :=
            { major := major, block := w, lane := c.lane i, token := tok, bsel := (scales.map Prod.snd).getD 0,
              unit := c.u.kind, kind := c.kind, pc := c.pc, hdr := (c.fibre i).hdr, word := c.words.1, ext := c.words.2, done := 0,
              order := s.tick, failed := false
              scaleA := match scales with
                | some (b, _) => (List.range nK).flatMap fun kb => (List.range 128).map fun x =>
                    c.scaleByte (x / 4) (b + kb) (x % 4)
                | none => []
              scaleB := match scales with
                | some (b, n) => (List.range 64).map fun kb => if kb < nK then c.scaleByte kb (b + nK) n else 0
                | none => [] }
          .next (s.modCrew c.u.crew fun k =>
            ({ k with mats := k.mats ++ [job] } : Crew).modTokens c.u.kind fun t =>
              { t with counts := t.counts.modify tok (· + 1) })

/-! ## Block sums (R237, R238) -/

/-- An operand element of a matrix instruction as an exact value. -/
def matElem (major v : Nat) : Num :=
  match major with
  | 0x63 => decodeFloat 3 v
  | 0x64 => decodeFloat 4 v
  | 0x65 => decodeMk8 v
  | 0x66 => decodeFloat 1 v
  | 0x67 => decodeFloat 2 v
  | _ => interpret 6 (BitVec.ofNat 32 v)

/-- A contribution: a value, or invalid (R238). -/
inductive Contrib where
  | value (x : Num)
  | invalid
  deriving DecidableEq, Repr

/-- The exact sum of finite products over a common exponent. -/
def sumFin (l : List (Bool × Nat × Int)) : Int × Int :=
  let e := (l.map fun x => x.2.2).foldl min ((l.headD (false, 0, 0)).2.2)
  ((l.map fun x => signed x.1 x.2.1 * 2 ^ (x.2.2 - e).toNat).sum, e)

/-- ExactSum of products: NaN operands first, in ascending k, A before B; then invalid products; then infinities; else the
exact sum, −0 where every product is −0 (R237, R238). -/
def exactSum (ts : List (Num × Num)) : Contrib :=
  match firstNaN (ts.flatMap fun t => [t.1, t.2]) with
  | some w => .value (.nan (quietNaN w))
  | none =>
    let ps := ts.map fun t => mulNum t.1 t.2
    if ps.any Option.isNone then .invalid
    else
      let infs := ps.filterMap fun p => match p with
        | some (.inf n) => some n
        | _ => none
      match infs with
      | n :: r => if r.all (· == n) then .value (.inf n) else .invalid
      | [] =>
        let fs := ps.filterMap fun p => match p with
          | some (.fin n m e) => some (n, m, e)
          | _ => none
        let v := sumFin fs
        .value (ofInt (fs.all fun x => x.1 && x.2.1 == 0) v.1 v.2)

/-- SC8: (1 + M/8) × 2^(E − 16); 0xFF is invalid (R196). -/
def scaleValue (b : Byte) : Option (Nat × Int) :=
  if b = 0xFF then none else some (8 + b.toNat % 8, ((b.toNat / 8 : Nat) : Int) - 19)

/-- A block sum times its two scales, exactly; an invalid scale makes it invalid unless it is a NaN already (R236, R238). -/
def scaled (c : Contrib) (a b : Byte) : Contrib :=
  match c, scaleValue a, scaleValue b with
  | .value (.nan w), _, _ => .value (.nan w)
  | .value (.fin n m e), some x, some y => .value (.fin n (m * x.1 * y.1) (e + x.2 + y.2))
  | .value (.inf n), some _, some _ => .value (.inf n)
  | _, _, _ => .invalid

/-- The binade of the largest product of a group (R237). -/
def topBinade (ts : List (Num × Num)) : Option Int :=
  (ts.filterMap fun t => match mulNum t.1 t.2 with
    | some (.fin _ m e) => if m = 0 then none else some (binade m e)
    | _ => none).foldl (fun b x => match b with
      | none => some x
      | some y => some (max x y)) none

/-- A 16-bit group's sum cut to the grid of 2^(E − 47) and made odd; whether it changed (R237). -/
def groupCut (ts : List (Num × Num)) (c : Contrib) : Contrib × Bool :=
  match c, topBinade ts with
  | .value (.fin n m e), some b =>
    if m = 0 then (c, false)
    else match onGrid m e (b - 47) with
      | (q, r, _) =>
        if r = 0 then (c, false) else (.value (.fin n (if q % 2 = 0 then q + 1 else q) (b - 47)), true)
  | _, _ => (c, false)

/-- One addition of a floating contribution to an element (R237, R238). -/
def addElem (nan : Nat) (first : Bool) (c : Contrib) (t : AccElem) : AccElem :=
  let x := match c with
    | .value v => v
    | .invalid => .nan (BitVec.ofNat 32 nan)
  let r := if first then finalRound x 0 .rn false else roundOp 0 .rn nan [f32 t.val, x] (addNum .rn (f32 t.val) x)
  { val := BitVec.ofNat 32 r.1, s := (!first && t.s) || r.2 || c == .invalid }

/-- One K-block's additions to one element. -/
def blockElem (major nan : Nat) (ovw : Bool) (sa sb : Byte) (row col : List Num) (t : AccElem) : AccElem :=
  let ts := row.zip col
  if major = 0x68 then
    let v := match exactSum ts with
      | .value (.fin n m e) => signed n m * 2 ^ e.toNat
      | _ => 0
    if ovw then { val := BitVec.ofInt 32 v, s := false } else { val := t.val + BitVec.ofInt 32 v, s := t.s }
  else if elemSize major = 2 then
    (List.range 16).foldl (fun t g =>
      let gs := (ts.drop (8 * g)).take 8
      let c := groupCut gs (exactSum gs)
      let r := addElem nan (ovw && g == 0) c.1 t
      if c.2 then { r with s := true } else r) t
  else if major = 0x65 then addElem nan ovw (scaled (exactSum ts) sa sb) t
  else addElem nan ovw (exactSum ts) t

/-- An element of `z` bytes from the scratchpad's bytes. -/
def elemAt (scr : Array Byte) (z o : Nat) : Nat := leNat ((List.range z).map fun i => scr.getD (o + i) 0)

/-- The crew's scratchpad as an array of bytes. -/
def Crew.scrArray (k : Crew) : Array Byte :=
  k.scr.foldl (fun a x => a.setIfInBounds x.1 x.2) (Array.replicate k.desc.scrSize 0)

/-- A tile after one K-block of an MMA (R233, R237). Of source bytes that are rewritten before the token is observed, which R152 leaves
open, all of a block's are read at the instant of its addition, the newest of each (DESIGN CHOICE, log 21). -/
def MatJob.block_ (j : MatJob) (k : Crew) : List AccElem :=
  let z := elemSize j.major
  let a := descOf (j.block.getD 0 0) (j.block.getD 1 0)
  let b := descOf (j.block.getD 2 0) (j.block.getD 3 0)
  let flags := (j.block.getD 6 0).toNat
  let scr := k.scrArray
  let kb := j.done
  let idx := List.range 128
  let rows := idx.map fun m => idx.map fun x => matElem j.major (elemAt scr z (a.off kb m (z * x)))
  let cols := idx.map fun n => idx.map fun x =>
    matElem j.major (elemAt scr z (if bitsAt flags 1 1 = 1 then b.off kb n (z * x) else b.off kb x (z * n)))
  let nan := invalidNaN 0 j.lane (h17 ((k.desc.codeBase.toNat + j.pc.toNat) % 2 ^ 64))
  let ovw := bitsAt flags 0 1 = 1 ∧ kb = 0
  let t := (k.tileRow j.tile).toArray
  rows.zipIdx.flatMap fun r => cols.zipIdx.map fun cl =>
    blockElem j.major nan ovw (j.scaleA.getD (128 * kb + r.2) 0) (j.scaleB.getD kb 0) r.1 cl.1
      (t.getD (128 * r.2 + cl.2) Reg.zero)

/-- The errors of a kind gone, their storage being written anew. -/
def State.cleanAcc (s : State) (hit : Poison → Bool) : State :=
  { s with rel := { s.rel with
      poison := s.rel.poison.filter fun p => !hit p
      correctable := s.rel.correctable.filter fun p => !hit p } }

/-- What an MMA's next block reads: 16-byte pieces of its operands in scratchpad, and its tile unless it overwrites it (R233,
R237). -/
def MatJob.readsAt (j : MatJob) (c : Nat) (p : Poison) : Bool :=
  let a := descOf (j.block.getD 0 0) (j.block.getD 1 0)
  let b := descOf (j.block.getD 2 0) (j.block.getD 3 0)
  match p with
  | .scratch x w => x == c && (List.range 128).any fun m => (List.range (8 * elemSize j.major)).any fun q =>
      a.off j.done m (16 * q) / 16 == w / 4 || b.off j.done m (16 * q) / 16 == w / 4
  | .acc x e => x == c && e / tileElems == j.tile && !(j.done == 0 && (j.block.getD 6 0).getLsbD 0)
  | _ => false

/-- ECC unit and place of an error in scratchpad or in the accumulator store (R286). -/
def Poison.place : Poison → Nat × Nat
  | .scratch _ w => (2, 4 * w)
  | .acc _ e => (5, e)
  | _ => (0, 0)

/-- The single-bit errors that an MMA's next block meets corrected and logged (R337, R348). -/
def State.correctBlock (s : State) (c : Nat) (j : MatJob) : State :=
  let weak := s.rel.correctable.filter (j.readsAt c)
  if weak.isEmpty then s
  else weak.foldl (fun t p => t.logCrew 1 p.place.1 c p.place.2)
    { s with rel := { s.rel with correctable := s.rel.correctable.filter fun p => !weak.contains p } }

/-- An MMA may add its next block: its crew is resident and no earlier tile operation of its gang holds the tile (R239). -/
def MatJob.ready (j : MatJob) (k : Crew) : Bool := k.status == .resident && !j.failed && !k.tileBusy j.unit j.tile j.order

/-- An MMA stopped by an uncorrectable error in what its next block reads, told by its unit and place: its operation counts as complete
for its token with the fault attached, as a copy's does. R337 has ECC raised at the instruction that consumes the value, and names no
moment for an MMA that has retired (DESIGN CHOICE, log 18). -/
def State.deferMat (s : State) (c m : Nat) (j : MatJob) (e : Nat × Nat) : State :=
  let d : Deferred :=
    { token := j.token, kind := j.kind, pc := j.pc, hdr := j.hdr, cause := BitVec.ofNat 8 causeEcc, info := BitVec.ofNat 32 (32 * e.1),
      active := [j.lane], entries := [(j.lane, (addrEntry e.2).map (BitVec.ofNat 32))], word := j.word, ext := j.ext, group := j.order }
  (s.modCrew c fun k =>
    (({ k with mats := k.mats.modify m fun j => { j with failed := true } } : Crew).completeToken j.unit j.token).modTokens j.unit
      fun t => { t with deferred := t.deferred ++ [d] }).checkCrewEnd c

/-- MMA_BLOCK_ADD: the engine adds one K-block into the tile; after the last, the token count falls; n the crew, m the
operation (R237, R239). -/
def evMmaBlockAdd (a : EvArg) (s : State) : State :=
  match s.crews[a.n]? with
  | none => s
  | some k => match k.mats[a.m]? with
    | none => s
    | some j =>
      if ¬ j.ready k then s
      else
      let s := s.correctBlock a.n j
      match (s.rel.poison.find? (j.readsAt a.n)).map Poison.place with
      | some e => if s.protectedCrew a.n then s.engineError k e else s.deferMat a.n a.m j e
      | none =>
        let s := s.cleanAcc fun p => match p with
          | .acc x e => x == a.n && e / tileElems == j.tile
          | _ => false
        let k' := k.setTile j.tile (j.block_ k)
        let j' := { j with done := j.done + 1 }
        if j'.done * 128 < (j.block.getD 5 0).toNat then
          s.modCrew a.n fun _ => { k' with mats := k'.mats.set a.m j' }
        else
          (s.modCrew a.n fun _ => ({ k' with mats := k'.mats.eraseIdx a.m } : Crew).completeToken j.unit j.token).checkCrewEnd
            a.n

/-! ## ACCRD, ACCWR, ACCZ (R241 to R243) -/

/-- The element that a register names: column, row, tile (R189). -/
def elemIndex (w : Word) : Nat := bitsAt w.toNat 0 21

/-- The lanes whose tile lies beyond the crew's: MATRIX-BOUNDS, reason 3; then the wait for the gang's earlier operations on
the tiles named (R239, R241). -/
def Ctx.tileCheck (c : Ctx) (a : Nat) (s : State) : Option Eff :=
  let es := c.act.map fun i => (i, elemIndex ((c.fibre i).val a))
  match es.filter fun x => decide (c.crew.desc.accCount ≤ x.2 / tileElems) with
  | x :: xs => some (.raise s causeMatrixBounds 0 3 ((x :: xs).map fun y => c.lane y.1) [])
  | [] =>
    if es.any fun x => c.crew.tileBusy c.u.kind (x.2 / tileElems) s.tick then some (c.waitFor .held s) else none

/-- ACCRD's conversion of an element (R241). -/
def accConvert (fmt mode : Nat) (t : AccElem) : Reg :=
  let x := if 6 ≤ fmt then interpret 7 t.val else f32 t.val
  if mode = 0 then
    let r := carry x fmt
    { val := r.1, s := t.s || r.2 }
  else
    let r := finalRound x fmt (modeOf mode).1 (modeOf mode).2
    { val := BitVec.ofNat 32 r.1, s := t.s || r.2 }

/-- An accumulator element's single-bit error corrected and logged (R337). -/
def State.correctAcc (s : State) (c e : Nat) : State :=
  if s.rel.correctable.contains (.acc c e) then
    ({ s with rel := { s.rel with correctable := s.rel.correctable.filter (· != Poison.acc c e) } }).logCrew 1 5 c e
  else s

/-- ACCRD: each lane's element, converted (R241). -/
def bodyAccrd (d a fmt mode : Nat) (c : Ctx) (s : State) : Eff :=
  match c.tileCheck a s with
  | some e => e
  | none =>
    let es := c.act.map fun i => (i, elemIndex ((c.fibre i).val a))
    match es.filter fun x => s.rel.poison.contains (.acc c.u.crew x.2) with
    | x :: xs => .raise s causeEcc 0 5 ((x :: xs).map fun y => c.lane y.1) ((x :: xs).map fun y => (c.lane y.1, [y.2, 0]))
    | [] =>
      let s := es.foldl (fun t x => t.correctAcc c.u.crew x.2) s
      writeLanes c d (fun f => accConvert fmt mode (c.crew.elem (elemIndex (f.val a)))) s

/-- ACCWR: each lane's value with its S, in ascending lane order (R242). -/
def bodyAccwr (d a : Nat) (c : Ctx) (s : State) : Eff :=
  match c.tileCheck a s with
  | some e => e
  | none =>
    let es := c.act.map fun i => (elemIndex ((c.fibre i).val a), (c.fibre i).reg d)
    let s := s.cleanAcc fun p => es.any fun x => p == Poison.acc c.u.crew x.1
    .next (s.modCrew c.u.crew fun k => es.foldl (fun k x => k.setElem x.1 x.2) k)

/-- ACCZ: every element of a tile 0 with S = 0, once (R243). Its MATRIX-BOUNDS names every active lane, as R285 has no row for a cause
that ACCZ raises (DESIGN CHOICE, log 53). -/
def bodyAccz (t : Nat) (c : Ctx) (s : State) : Eff :=
  if c.act.isEmpty then .next s
  else if c.crew.desc.accCount ≤ t then c.raiseAll s causeMatrixBounds 3
  else if c.crew.tileBusy c.u.kind t s.tick then c.waitFor .held s
  else
    .next ((s.cleanAcc fun p => match p with
      | .acc x e => x == c.u.crew && e / tileElems == t
      | _ => false).modCrew c.u.crew fun k => k.setTile t [])

/-! ## ACCST (R244) -/

/-- The reason for which an ACCST's block breaks R235, the lowest first. -/
def accstReason (k : Crew) (w : List Word) : Option Nat :=
  let x := w.getD 2 0
  if w.getD 3 0 ≠ 0 ∨ bitsAt x.toNat 14 2 ≠ 0 then some 1
  else if k.desc.accCount ≤ bitsAt x.toNat 0 7 then some 3
  else if storeMode x = 0 ∨ storeMode x = 7 then some 9
  else if storePitch x < 128 * fmtBytes (storeFmt x) then some 10
  else none

/-- First and last byte addresses of the rows from `m` up. -/
def rowEnds (dest : DWord) (pitch n m : Nat) : List DWord :=
  (List.range 128).flatMap fun r =>
    if r < m then [] else [dest + BitVec.ofNat 64 (r * pitch), dest + BitVec.ofNat 64 (r * pitch + n - 1)]

/-- The ADDRESS check of an ACCST's destination (R244 step 3). Word 1 of the block of a scratchpad destination, which R189 has be 0, is
checked by no rule, and is not read (DESIGN CHOICE, log 53). Of a global destination the base alone is checked to be canonical: of rows
that run on past the canonical half R244 does not speak, and their addresses are cut to 48 bits (DESIGN CHOICE, log 53). -/
def accstBad (k : Crew) (w : List Word) : Option Nat :=
  let x := w.getD 2 0
  let z := fmtBytes (storeFmt x)
  let d : DWord := w.getD 1 0 ++ w.getD 0 0
  let a := (w.getD 0 0).toNat
  if storeScratch x then
    (if a % z ≠ 0 ∨ a < k.scrBase ∨ k.scrBase + k.desc.scrSize < a + 127 * storePitch x + 128 * z then some a else none)
  else if ¬ canonical d ∨ d.toNat % z ≠ 0 then some d.toNat
  else none

/-- ACCST: the block's checks, its destination's, then the store is handed to the engine and the token armed (R244). -/
def bodyAccst (a tok : Nat) (c : Ctx) (s : State) : Eff :=
  match c.act with
  | [] => .next s
  | i :: _ =>
    match c.paramBlock i a 4 s with
    | .error e => e
    | .ok w => match accstReason c.crew w with
      | some r => c.elected i s causeMatrixBounds r []
      | none => match accstBad c.crew w with
        | some v => c.elected i s causeAddress 0 (addrEntry v)
        | none =>
          let s := c.blockRead i a 4 s
          let x := w.getD 2 0
          let n := 128 * fmtBytes (storeFmt x)
          let d : DWord := w.getD 1 0 ++ w.getD 0 0
          let gs := if storeScratch x then [] else
            (rowEnds d (storePitch x) n 0).map fun v => { idx := i, base := v, ea := v : GAccess }
          if c.walksHeld true (gs.map GAccess.ea) s then c.waitFor .held s
          else match gs.findSome? fun g => s.walkError c.core c.asid (va48 g.ea) true with
          | some e => c.elected i s causeEcc e.1 (addrEntry e.2)
          | none => match translateLanes c.core c.asid { write := true, priv := c.priv } gs s with
          | (s1, rs) => match failedLanes rs with
            | y :: _ => .raise (s.keepWalks s1 c.asid (gs.map fun g => va48 g.ea)) causeTranslation y.2 0 [c.lane i]
                [(c.lane i, translEntry y.1.ea y.2 true false false)]
            | [] =>
              let s2 := (translateLanes c.core c.asid { priv := c.priv } gs (s.keepDraws s1)).1
              let lines := if storeScratch x then [] else s2.rowLines c.core c.asid d (storePitch x) n 0
              match (lines.foldl (fun t l => t.dropL1 c.core l) s2).issueTags (storeScratch x) s.tick (c.ids [i]) with
              | (s3, tags) =>
              let w0 := if storeScratch x then w.getD 0 0 - BitVec.ofNat 32 c.crew.scrBase else w.getD 0 0
              let job : StoreJob :=
                { block := w.set 0 w0, token := tok, lane := c.lane i, unit := c.u.kind, fibre := i, kind := c.kind,
                  priv := c.priv, pc := c.pc, hdr := (c.fibre i).hdr, word := c.words.1, ext := c.words.2, done := 0, lines := lines, fault := none,
                  order := s.tick, tags := tags.headD [] }
              .next (s3.modCrew c.u.crew fun k =>
                ({ k with stores := k.stores ++ [job] } : Crew).modTokens c.u.kind fun t =>
                  { t with counts := t.counts.modify tok (· + 1) })

/-- A row of a tile as bytes of the destination format. -/
def StoreJob.rowBytes (j : StoreJob) (k : Crew) : List Byte :=
  let x := j.block.getD 2 0
  let z := fmtBytes (storeFmt x)
  ((k.tileRow j.tile).drop (128 * j.done)).take 128 |>.flatMap fun t =>
    leBytes z (accConvert (storeFmt x) (storeMode x) t).val.toNat

/-- Bytes of an engine written line by line through translation, each line in its turn (R153). -/
def engineWrite (c : Nat) (j : StoreJob) : Nat → DWord → List Byte → State → State × Except EngineStop Unit
  | 0, _, _, s => (s, .ok ())
  | n + 1, va, bs, s =>
    if bs.isEmpty then (s, .ok ())
    else
      let m := 64 - va.toNat % 64
      match s.crews[c]? with
      | none => (s, .error .held)
      | some k =>
        if s.walkHeld k.core k.desc.asid (va48 va) true then (s, .error .held)
        else match s.walkError k.core k.desc.asid (va48 va) true,
          s.translate k.core k.desc.asid (va48 va) { write := true, priv := j.priv } with
        | some e, _ => (s, .error (.fails causeEcc e.1 true e.2))
        | none, (s', .error e) => (s', .error (.fails causeTranslation e true va.toNat))
        | none, (s', .ok tr) =>
          let pa := tr.pa (va48 va)
          if strayed j.lines pa then (s', .error .moved)
          else if s'.ownedBefore (pa / 64) j.order ∨ s'.bufferFull c 16 = true ∨ s'.portBusy k j.unit j.fibre j.order pa = true then
            (s', .error .held)
          else engineWrite c j n (va + BitVec.ofNat 64 m) (bs.drop m) (s'.gwrite c { tags := j.tags } tr va.toNat 0 (bs.take m))

/-- The first element of a tile store's next row that holds an uncorrectable error (R337). -/
def State.rowError (s : State) (c : Nat) (j : StoreJob) : Option Nat :=
  s.rel.poison.findSome? fun p => match p with
    | .acc x e => if x = c ∧ e / 128 = 128 * j.tile + j.done then some e else none
    | _ => none

/-- The single-bit errors of a tile store's next row corrected and logged (R337). -/
def State.correctRow (s : State) (c : Nat) (j : StoreJob) : State :=
  s.rel.correctable.foldl (fun t p => match p with
    | .acc x e => if x = c ∧ e / 128 = 128 * j.tile + j.done then t.correctAcc c e else t
    | _ => t) s

/-- The engine's next row of a tile store: the state after, or why not (R244). -/
def State.storeStep (s : State) (c i : Nat) : State × Except EngineStop Unit :=
  match s.crews[c]? with
  | none => (s, .error .held)
  | some k => match k.stores[i]? with
    | none => (s, .error .held)
    | some j =>
      if k.status ≠ .resident ∨ j.fault.isSome ∨ 128 ≤ j.done ∨ k.tileBusy j.unit j.tile j.order = true then (s, .error .held)
      else match s.rowError c j with
      | some e => (s, .error (.fails causeEcc 5 false e))
      | none =>
        let s := s.correctRow c j
        let x := j.block.getD 2 0
        let bs := j.rowBytes k
        let mark := fun (n : Nat) (t t' : State) => t.modCrew c fun k =>
          { k with stores := k.stores.modify i fun j => { j with
            done := n
            lines := if storeScratch x then [] else t'.rowLines k.core k.desc.asid (j.block.getD 1 0 ++ j.block.getD 0 0)
              (storePitch x) (128 * fmtBytes (storeFmt x)) n } }
        if storeScratch x then
          let s' := s.scrFilled c ((j.block.getD 0 0).toNat + j.done * storePitch x) j.tags bs
          (mark (j.done + 1) s' s', .ok ())
        else
          let va : DWord := (j.block.getD 1 0 ++ j.block.getD 0 0) + BitVec.ofNat 64 (j.done * storePitch x)
          let walked := fun t : State => s.keepWalks t k.desc.asid ((List.range 16).map fun l => va48 (va + BitVec.ofNat 64 (64 * l)))
          match engineWrite c j 16 va bs s with
          | (s', .error .moved) => (mark j.done (walked s') s', .ok ())
          | (s', .error e) => (walked s', .error e)
          | (s', .ok _) => (mark (j.done + 1) s' s', .ok ())

/-- A tile store whose rows are all written, and through an aperture acknowledged: its token count falls (R153, R244). -/
def State.finishStore (s : State) (c i : Nat) : State :=
  match s.crews[c]? with
  | none => s
  | some k => match k.stores[i]? with
    | none => s
    | some j =>
      let x := j.block.getD 2 0
      let away := !storeScratch x && ((List.range 128).any fun r =>
        (s.enginePort k.core k.desc.asid ((j.block.getD 1 0 ++ j.block.getD 0 0) + BitVec.ofNat 64 (r * storePitch x))).isSome)
      if j.done < 128 ∨ (away && !s.acknowledged c) = true then s
      else (s.modCrew c fun k =>
        ({ k with stores := k.stores.eraseIdx i } : Crew).completeToken j.unit j.token).checkCrewEnd c

/-- ACCST_ROW_WRITE: the engine converts and writes one row; after the last, the token count falls; n the crew, m the
operation (R244). -/
def evAccstRowWrite (a : EvArg) (s : State) : State :=
  match s.storeStep a.n a.m with
  | (_, .error _) => s.finishStore a.n a.m
  | (s', .ok _) => s'.finishStore a.n a.m

/-- A tile store whose row fails after retirement: its rows not written are abandoned and the fault attached to its token
(R183, R244); n the crew, m the operation. -/
def deferStore (a : EvArg) (s : State) : State :=
  match s.crews[a.n]? with
  | none => s
  | some k => match k.stores[a.m]? with
    | none => s
    | some j => match s.storeStep a.n a.m with
      | (_, .ok _) => s
      | (_, .error .held) => s
      | (_, .error .moved) => s
      | (s', .error (.fails cause sub write place)) =>
        if cause = causeEcc ∧ s.protectedCrew a.n = true then
          s'.engineError k (sub, place)
        else
        let d : Deferred :=
          { token := j.token, kind := j.kind, pc := j.pc, hdr := j.hdr, cause := BitVec.ofNat 8 cause,
            info := BitVec.ofNat 32 (if cause = causeTranslation then sub else 32 * sub), active := [j.lane],
            entries := [(j.lane, (if cause = causeTranslation then translEntry (BitVec.ofNat 64 place) sub write false true
              else addrEntry place).map (BitVec.ofNat 32))], word := j.word, ext := j.ext,
            group := j.order }
        (s'.modCrew a.n fun k =>
          (({ k with stores := k.stores.modify a.m fun j =>
              { j with fault := some (BitVec.ofNat 8 cause, sub), lines := [] } } : Crew
            ).completeToken j.unit j.token).modTokens j.unit fun t => { t with deferred := t.deferred ++ [d] }).checkCrewEnd a.n

/-- DEFERRED_COPY_FAULT: a lane copy's access fails after retirement, or with v = 1 a tile store's row (R183, R244). -/
def evDeferredFault (a : EvArg) (s : State) : State := if a.v = 1 then deferStore a s else evDeferredCopyFault a s

end Sys2Proof.Machine
end

