-- ==== Sys2Proof/Machine/Engines.lean ====
section
/-!
DEFINITION. Copies, tokens, the matrix engine and the accumulator store (11 R181 to R186; 14 R230 to R244).
Each meaning issues its instruction with the operation of its family. The D and the L form of an instruction call one operation
(bodyLd, bodySts, bodyCpa and so on) and differ in register reach and guard field alone, on every kind of core (11 R188).
-/
namespace Sys2Proof.Machine

/-- Starts an asynchronous copy per lane on a token (R182). -/
def execCpaD (a : BitVec 6) (b : BitVec 6) (n : BitVec 2) (t : BitVec 3) (s : BitVec 4) (st : State) : Res :=
  issue (.cpaD a b n t s) (fun c => bodyCpa (c.a a) (c.b b) n.toNat t.toNat s.toNat c) st

/-- Waits until the named tokens are complete, then observes them (R185). -/
def execWaittD (k : BitVec 8) (st : State) : Res := issue (.waittD k) (bodyWaitt k) st

/-- Tests whether a token is complete or pending, without waiting (R186). -/
def execTokqD (p : BitVec 7) (a : BitVec 6) (c : BitVec 2) (st : State) : Res :=
  issue (.tokqD p a c) (bodyTokq p.toNat a.toNat (c == 1)) st

/-- Issues an E4M3 matrix product into a tile on a token (R237). -/
def execMmaf8aD (a : BitVec 6) (t : BitVec 3) (st : State) : Res :=
  issue (.mmaf8aD a t) (fun c => bodyMma 0x63 (c.a a) none t.toNat c) st

/-- Issues an E5M2 matrix product into a tile (R237). -/
def execMmaf8bD (a : BitVec 6) (t : BitVec 3) (st : State) : Res :=
  issue (.mmaf8bD a t) (fun c => bodyMma 0x64 (c.a a) none t.toNat c) st

/-- Issues a scaled MK8 matrix product, capturing the scale bytes from registers (R236). -/
def execMmak8D (a : BitVec 6) (b : BitVec 6) (n : BitVec 2) (t : BitVec 3) (st : State) : Res :=
  issue (.mmak8D a b n t) (fun c => bodyMma 0x65 (c.a a) (some (c.b b, n.toNat)) t.toNat c) st

/-- Issues a BF16 matrix product into a tile (R237). -/
def execMmab16D (a : BitVec 6) (t : BitVec 3) (st : State) : Res :=
  issue (.mmab16D a t) (fun c => bodyMma 0x66 (c.a a) none t.toNat c) st

/-- Issues an FP16 matrix product into a tile (R237). -/
def execMmah16D (a : BitVec 6) (t : BitVec 3) (st : State) : Res :=
  issue (.mmah16D a t) (fun c => bodyMma 0x67 (c.a a) none t.toNat c) st

/-- Issues an INT8 matrix product into an INT32 tile (R237). -/
def execMmai8D (a : BitVec 6) (t : BitVec 3) (st : State) : Res :=
  issue (.mmai8D a t) (fun c => bodyMma 0x68 (c.a a) none t.toNat c) st

/-- Reads and converts one accumulator element per lane (R241). -/
def execAccrdD (d : BitVec 6) (a : BitVec 6) (f : BitVec 3) (e : BitVec 3) (st : State) : Res :=
  issue (.accrdD d a f e) (fun c => bodyAccrd (c.d d) (c.a a) f.toNat e.toNat c) st

/-- Writes a register value with its S to an accumulator element (R242). -/
def execAccwrD (d : BitVec 6) (a : BitVec 6) (st : State) : Res := issue (.accwrD d a) (fun c => bodyAccwr (c.d d) (c.a a) c) st

/-- Zeroes a whole tile with S = 0 (R243). -/
def execAcczD (n : BitVec 7) (st : State) : Res := issue (.acczD n) (bodyAccz n.toNat) st

/-- Issues a store of a whole tile with final conversion, on a token (R244). -/
def execAccstD (a : BitVec 6) (t : BitVec 3) (st : State) : Res := issue (.accstD a t) (fun c => bodyAccst (c.a a) t.toNat c) st

/-- CPA of the L text (R182). -/
def execCpaL (a : BitVec 8) (b : BitVec 8) (n : BitVec 2) (t : BitVec 3) (s : BitVec 4) (st : State) : Res :=
  issue (.cpaL a b n t s) (fun c => bodyCpa (c.a a) (c.b b) n.toNat t.toNat s.toNat c) st

/-- WAITT of the L text (R185). -/
def execWaittL (k : BitVec 8) (st : State) : Res := issue (.waittL k) (bodyWaitt k) st

/-- TOKQ of the L text (R186). -/
def execTokqL (p : BitVec 7) (a : BitVec 6) (c : BitVec 2) (st : State) : Res :=
  issue (.tokqL p a c) (bodyTokq p.toNat a.toNat (c == 1)) st

/-- MMAF8A of the L text (R237). -/
def execMmaf8aL (a : BitVec 8) (t : BitVec 3) (st : State) : Res :=
  issue (.mmaf8aL a t) (fun c => bodyMma 0x63 (c.a a) none t.toNat c) st

/-- MMAF8B of the L text (R237). -/
def execMmaf8bL (a : BitVec 8) (t : BitVec 3) (st : State) : Res :=
  issue (.mmaf8bL a t) (fun c => bodyMma 0x64 (c.a a) none t.toNat c) st

/-- MMAK8 of the L text (R236). -/
def execMmak8L (a : BitVec 8) (b : BitVec 8) (n : BitVec 2) (t : BitVec 3) (st : State) : Res :=
  issue (.mmak8L a b n t) (fun c => bodyMma 0x65 (c.a a) (some (c.b b, n.toNat)) t.toNat c) st

/-- MMAB16 of the L text (R237). -/
def execMmab16L (a : BitVec 8) (t : BitVec 3) (st : State) : Res :=
  issue (.mmab16L a t) (fun c => bodyMma 0x66 (c.a a) none t.toNat c) st

/-- MMAH16 of the L text (R237). -/
def execMmah16L (a : BitVec 8) (t : BitVec 3) (st : State) : Res :=
  issue (.mmah16L a t) (fun c => bodyMma 0x67 (c.a a) none t.toNat c) st

/-- MMAI8 of the L text (R237). -/
def execMmai8L (a : BitVec 8) (t : BitVec 3) (st : State) : Res :=
  issue (.mmai8L a t) (fun c => bodyMma 0x68 (c.a a) none t.toNat c) st

/-- ACCRD of the L text (R241). -/
def execAccrdL (d : BitVec 8) (a : BitVec 8) (f : BitVec 3) (e : BitVec 3) (st : State) : Res :=
  issue (.accrdL d a f e) (fun c => bodyAccrd (c.d d) (c.a a) f.toNat e.toNat c) st

/-- ACCWR of the L text (R242). -/
def execAccwrL (d : BitVec 8) (a : BitVec 8) (st : State) : Res := issue (.accwrL d a) (fun c => bodyAccwr (c.d d) (c.a a) c) st

/-- ACCZ of the L text (R243). -/
def execAcczL (n : BitVec 7) (st : State) : Res := issue (.acczL n) (bodyAccz n.toNat) st

/-- ACCST of the L text (R244). -/
def execAccstL (a : BitVec 8) (t : BitVec 3) (st : State) : Res := issue (.accstL a t) (fun c => bodyAccst (c.a a) t.toNat c) st

end Sys2Proof.Machine
end

