-- ==== Sys2Proof/Machine/PlacedOps.lean ====
section
/-!
DEFINITION. Queries of translation, placed line operations, reductions and chunk draws, and GENBUMP (06 R103 to R118;
01 R7, R9; 10 R153, R157, R158).
-/
namespace Sys2Proof.Machine

/-! ## XLQ (R7, R110) -/

/-- A query of translation: as the core's cached entry or a walk gives it; it sets no bit and installs nothing. Between an edit of the
tables and GENBUMP either may be used (R106): which of them is free, but an unprivileged query that meets the cached entry of a
privileged page (K = 1) uses the tables, and command cores and the device's own reads hold no cached translation (DESIGN CHOICE, log 48). -/
def State.query (s : State) (core asid va : Nat) (priv : Bool) : State × Option Translation :=
  let walked := fun s : State => match s.walk asid va { priv := priv } with
    | .ok w => some w.tr
    | .error _ => none
  match (s.coreAt core).tlb.find? fun e => e.covers asid (s.gen asid) va with
  | none => (s, walked s)
  | some e =>
    if e.tr.kernel ∧ ¬ priv then (s, walked s)
    else if s.walkAgrees asid va e then (s, some e.tr)
    else if Config.tlbDropped s.draws then (s.draw, walked s)
    else (s.draw, some e.tr)

/-- Word 0 of XLQ (R7). -/
def xlqWord0 (gen : Nat) : Option Translation → Word
  | none => BitVec.ofNat 32 (gen * 2 ^ 16 + 3)
  | some t =>
    let chan := match t.executor with
      | .bank _ c => c
      | _ => 0
    BitVec.ofNat 32 (gen * 2 ^ 16 + t.size * 2 ^ 14 + t.x1.toNat * 2 ^ 13 + t.w1.toNat * 2 ^ 12 + t.enc.toNat * 2 ^ 11
      + t.ns.toNat * 2 ^ 10 + chan * 2 ^ 5 + stackOf t.frame * 2 ^ 2 + t.executor.code)

/-- Word 1 of XLQ: PA[47:16] of the frame. -/
def xlqWord1 : Option Translation → Word
  | none => 0
  | some t => BitVec.ofNat 32 (t.frame / 2 ^ 16)

/-- XLQ, lane by lane. While a GENBUMP of the space waits, GEN is the new generation, whichever the core held before (R7, R110; DESIGN
CHOICE, log 13). -/
def xlqLanes (c : Ctx) (d a : Nat) : List Nat → State → State
  | [], s => s
  | i :: r, s =>
    let va := (c.fibre i).pair a
    match (if canonical va then s.query c.core c.asid (va48 va) c.priv else (s, none)) with
    | (s, t) => xlqLanes c d a r (s.modFibres c.u.crew [i] fun _ f =>
        (f.setReg d { val := xlqWord0 (s.gen c.asid) t, s := false }).setReg (d + 1) { val := xlqWord1 t, s := false })

/-- The accesses that the active lanes' queries stand for: those of canonical addresses. -/
def Ctx.xlqAccesses (c : Ctx) (a : Nat) : List GAccess :=
  (c.act.map fun i => { idx := i, base := (c.fibre i).pair a, ea := (c.fibre i).pair a : GAccess }).filter fun g => canonical g.ea

/-- XLQ (R110). It raises nothing for the address that it queries; an uncorrectable error in an entry that its walk reads is ECC
(R337; DESIGN CHOICE, log 18). -/
def bodyXlq (d a : Nat) (c : Ctx) (s : State) : Eff :=
  if c.walksHeld false ((c.xlqAccesses a).map GAccess.ea) s then c.waitFor .held s
  else match eccFault s (c.walkErrors false (c.xlqAccesses a) s) with
    | some e => e
    | none => .next (xlqLanes c d a c.act s)

/-! ## Operands of placed operations (R111) -/

/-- Major opcodes of the placed instructions. -/
def majorPli : Nat := 0x6D
def majorPlf : Nat := 0x6E
def majorPlred : Nat := 0x6F

/-- The form reads line a, line b. -/
def readsA (major s : Nat) : Bool := major != majorPlred && s != 7
def readsB (major s : Nat) : Bool := major != majorPlred && decide (s < 6)

/-- What a lane of a placed instruction names: its lines, or an element and a value. -/
structure Lines where
  lane : Nat
  fibre : Nat
  d : DWord
  a : DWord
  b : DWord
  value : Word
  deriving DecidableEq, Repr

/-- The alignment that the lines of an instruction keep: 64 for a line, 4 for PLRED's element. -/
def lineAlign (major : Nat) : Nat := if major = majorPlred then 4 else 64

/-- The first line of a lane that fails ADDRESS. -/
def Lines.bad (l : Lines) (major s : Nat) : Option DWord :=
  let no := fun v : DWord => !canonical v || v.toNat % lineAlign major != 0
  if no l.d then some l.d else if readsA major s && no l.a then some l.a else if readsB major s && no l.b then some l.b else none

/-- The lines that a lane of an instruction translates, and whether for a write. -/
def Lines.used (l : Lines) (major s : Nat) : List (DWord × Bool) :=
  (l.d, true) :: (if readsA major s then [(l.a, false)] else []) ++ if readsB major s then [(l.b, false)] else []

/-- Translation of some line of a lane is held (R113, R153). -/
def State.linesHeld (s : State) (core asid major sv : Nat) (l : Lines) : Bool :=
  (l.used major sv).any fun v => s.walkHeld core asid (va48 v.1) v.2

/-- The uncorrectable error that translation of a lane's lines would consume (R337). -/
def State.linesError (s : State) (core asid major sv : Nat) (l : Lines) : Option (Nat × Nat) :=
  (l.used major sv).findSome? fun v => s.walkError core asid (va48 v.1) v.2

/-- A lane's operand translations in the order d, a, b; for a line not read, the destination's. -/
def State.lineTr (s : State) (core asid : Nat) (priv : Bool) (major sv : Nat) (l : Lines) :
    State × Except (DWord × Nat × Bool) (Translation × Translation × Translation) :=
  match s.translate core asid (va48 l.d) { write := true, priv := priv, placed := true } with
  | (s, .error e) => (s, .error (l.d, e, true))
  | (s, .ok td) =>
    match (if readsA major sv then s.translate core asid (va48 l.a) { priv := priv, placed := true } else (s, .ok td)) with
    | (s, .error e) => (s, .error (l.a, e, false))
    | (s, .ok ta) =>
      match (if readsB major sv then s.translate core asid (va48 l.b) { priv := priv, placed := true } else (s, .ok td)) with
      | (s, .error e) => (s, .error (l.b, e, false))
      | (s, .ok tb) => (s, .ok (td, ta, tb))

/-- The operand executors of a lane disagree and one of its pages has NS = 1 (R111). -/
def splitPlace (major sv : Nat) (t : Translation × Translation × Translation) : Bool :=
  let ts := t.1 :: ((if readsA major sv then [t.2.1] else []) ++ (if readsB major sv then [t.2.2] else []))
  ts.any (fun x => x.executor != t.1.executor) && ts.any Translation.ns

/-- The lane entry of SPLIT-PLACE (R9). -/
def splitEntry (major sv : Nat) (l : Lines) (t : Translation × Translation × Translation) : List Nat :=
  let va := fun (used : Bool) (v : DWord) => show List Nat from if used then [v.toNat % 2 ^ 32, v.toNat / 2 ^ 32] else [0, 0]
  let ex := fun (used : Bool) (x : Translation) (at_ : Nat) =>
    if used then (x.executor.code + 4 * stackOf x.frame) * 2 ^ at_ else 0
  va true l.d ++ va (readsA major sv) l.a ++ va (readsB major sv) l.b
    ++ [ex true t.1 0 + ex (readsA major sv) t.2.1 8 + ex (readsB major sv) t.2.2 16]

/-- Every lane's translations. -/
def lineTrs (core asid : Nat) (priv : Bool) (major sv : Nat) : List Lines → State →
    State × List (Lines × Except (DWord × Nat × Bool) (Translation × Translation × Translation))
  | [], s => (s, [])
  | l :: r, s =>
    match s.lineTr core asid priv major sv l with
    | (s, t) => match lineTrs core asid priv major sv r s with
      | (s, ts) => (s, (l, t) :: ts)

/-- The checks of R111, in order; last ECC in the lanes whose walks meet an uncorrectable error (R161, R337; log 18). -/
def Ctx.checkLines (c : Ctx) (major sv : Nat) (ls : List Lines) (s : State) :
    Except Eff (State × List (Lines × Translation × Translation × Translation)) :=
  match ls.filterMap fun l => (l.bad major sv).map fun v => (l.lane, v) with
  | x :: xs => .error (.raise s causeAddress 0 0 ((x :: xs).map Prod.fst)
      ((x :: xs).map fun y => (y.1, addrEntry y.2.toNat)))
  | [] =>
    let errs := ls.filterMap fun l => (s.linesError c.core c.asid major sv l).map fun e => (l.lane, e)
    let sound := ls.filter fun l => errs.all fun e => e.1 != l.lane
    if ls.any (s.linesHeld c.core c.asid major sv) then .error (c.waitFor .held s)
    else match lineTrs c.core c.asid c.priv major sv sound s with
    | (s', rs) =>
      let walked := fun s' => s.keepWalks s' c.asid (sound.flatMap fun l => [va48 l.d, va48 l.a, va48 l.b])
      let failed := rs.filterMap fun r => match r.2 with
        | .error e => some (r.1.lane, e)
        | .ok _ => none
      let good := rs.filterMap fun r => match r.2 with
        | .error _ => none
        | .ok t => some (r.1, t)
      match failed with
      | x :: xs => .error (.raise (walked s') causeTranslation x.2.2.1 0 ((x :: xs).map Prod.fst)
          ((x :: xs).map fun y => (y.1, translEntry y.2.1 y.2.2.1 y.2.2.2 false false)))
      | [] => match good.filter fun g => splitPlace major sv g.2 with
        | x :: xs => .error (.raise (walked s') causeSplitPlace 0 0 ((x :: xs).map fun g => g.1.lane)
            ((x :: xs).map fun g => (g.1.lane, splitEntry major sv g.1 g.2)))
        | [] => match eccFault (walked s') errs with
          | some e => .error e
          | none => .ok (s', good)

/-! ## Issue and acceptance (R112, R113) -/

/-- The line parts, or contributions, of an instruction leave for their homes; the unit waits until all are accepted. Lanes that issue
again after a fault of a replay belong to the issue whose accepted parts are still to take effect (R112, R113). -/
def bodyPlaced (major sv d a b : Nat) (c : Ctx) (s : State) : Eff :=
  let lanes := c.act.filter fun i => (c.fibre i).accepted.isNone
  let ls := lanes.map fun i =>
    let f := c.fibre i
    { lane := f.home, fibre := i, d := f.pair d, a := f.pair a, b := f.pair b, value := f.val a : Lines }
  if lanes.isEmpty then .next s
  else match c.checkLines major sv ls s with
    | .error e => e
    | .ok (s', good) =>
      if s.bufferFull c.u.crew (if major = majorPlred then lanes.length else 16 * lanes.length) then
        match c.compare (s.keepDraws s') with
        | some e => e
        | none => .stay (c.compared (s.keepDraws s'))
      else
        let issue := (c.all.findSome? fun i => (c.fibre i).accepted).getD s.tick
        let parts := good.map fun g =>
          { crew := c.u.crew, unit := c.u.kind, fibre := g.1.fibre, lane := g.1.lane, asid := c.asid, priv := c.priv,
            major := major, s := sv, pc := c.pc, d := g.1.d, a := g.1.a, b := g.1.b, value := g.1.value,
            gen := s.gen c.asid, td := g.2.1, ta := g.2.2.1, tb := g.2.2.2, pd := g.2.1.pa (va48 g.1.d),
            pa := g.2.2.1.pa (va48 g.1.a), pb := g.2.2.2.pa (va48 g.1.b), accepted := false, issue := issue,
            order := s.tick, tags := s.carries (c.u.crew, g.1.fibre) : Part }
        c.waitFor .parts { s' with parts := s'.parts ++ parts }

/-- PLI and PLF (R112). -/
def bodyPl (major sv d a b : Nat) (c : Ctx) (s : State) : Eff := bodyPlaced major sv d a b c s

/-- PLRED (R114). -/
def bodyPlred (sv d a : Nat) (c : Ctx) (s : State) : Eff := bodyPlaced majorPlred sv d a 0 c s

/-- Parts of one issue of an instruction: those of an earlier issue, in a loop or under REP, are an earlier instruction's. -/
def Part.sibling (p q : Part) : Bool := p.crew == q.crew && p.issue == q.issue && p.fibre != q.fibre

/-- The parts of a part's issue, itself among them, that have not been accepted. -/
def State.unaccepted (s : State) (p : Part) : List Part :=
  s.parts.filter fun q => q.crew == p.crew && q.issue == p.issue && !q.accepted

/-- The physical lines that a part reads. -/
def Part.reads (p : Part) : List Nat :=
  (if p.major ≠ majorPlred ∧ p.s = 3 then [p.pd / 64] else []) ++ (if readsA p.major p.s then [p.pa / 64] else [])
    ++ (if readsB p.major p.s then [p.pb / 64] else [])

/-- Two parts share a line that one of them writes. -/
def Part.meets (p q : Part) : Bool :=
  p.pd / 64 == q.pd / 64 || p.reads.contains (q.pd / 64) || q.reads.contains (p.pd / 64)

/-- A lower lane's part of the same instruction that meets this one has not been accepted yet (R112). -/
def State.heldBack (s : State) (p : Part) : Bool :=
  s.parts.any fun q => p.sibling q && decide (q.lane < p.lane) && !q.accepted && p.meets q

/-- The tag of a part is current at its home's die (R105). -/
def State.current (s : State) (p : Part) : Bool := p.gen == s.genAt p.asid (genDie p.pd)

/-- The unit that a part's fibre stands in goes on once every part of its instruction has been accepted (R113). -/
def State.retirePlaced (s : State) (p : Part) : State :=
  if ¬ (s.unaccepted p).isEmpty then s
  else match s.crews[p.crew]? with
    | none => s
    | some k =>
      let u := (k.fibre p.fibre).unit
      let ms := (k.members u).filter fun i => (k.fibre i).wait == .parts
      (s.modFibres p.crew ms fun _ f => f.advance k.kind).settle { crew := p.crew, kind := u }

/-- Fibre's part accepted. -/
def State.markAccepted (s : State) (p : Part) : State :=
  s.modFibres p.crew [p.fibre] fun _ f => { f with accepted := some p.issue }

/-- The NaN of an invalid sum that a part's fibre names (R116). -/
def State.partNan (s : State) (p : Part) : Nat :=
  let f := match s.crews[p.crew]? with
    | some k => k.fibre p.fibre
    | none => Fibre.empty
  invalidNaN 0 p.lane (h17 (f.codeVa p.pc))

/-- The lines of a part. -/
def Part.lines (p : Part) : Lines := { lane := p.lane, fibre := p.fibre, d := p.d, a := p.a, b := p.b, value := p.value }

/-- What a part translated again gives: its translations, or the cause it fails with, the subcause, or for ECC the unit, and the lane
entry (R111, R337). -/
def State.retranslate (s : State) (core : Nat) (p : Part) :
    State × Except (Nat × Nat × List Nat) (Translation × Translation × Translation) :=
  let l := p.lines
  match s.linesError core p.asid p.major p.s l, s.lineTr core p.asid p.priv p.major p.s l with
  | some e, _ => (s, .error (causeEcc, e.1, addrEntry e.2))
  | none, (s', .error e) => (s', .error (causeTranslation, e.2.1, translEntry e.1 e.2.1 e.2.2 false false))
  | none, (s', .ok t) =>
    if splitPlace p.major p.s t then (s', .error (causeSplitPlace, 0, splitEntry p.major p.s l t)) else (s', .ok t)

/-- The uncorrectable errors in the lines that a part reads: each its unit and PA (R337). -/
def State.partErrors (s : State) (p : Part) : List (Nat × Nat) :=
  p.reads.filterMap fun l => s.eccAt (64 * l) 64

/-- The parts of an issue that fail: when they are translated again, each with its cause, subcause and entry; or under a tag that is
current by an uncorrectable error in a line that they read, with its unit in the place of a subcause. R337 has ECC raised at the
instruction that consumes the value; here at acceptance, the last moment before it retires (DESIGN CHOICE, log 18). -/
def State.failing (s : State) (core : Nat) (p : Part) : List (Part × Nat × Nat × List Nat) :=
  (s.unaccepted p).filterMap fun q =>
    if s.current q then (s.partErrors q).head?.map fun e => (q, causeEcc, e.1, addrEntry e.2)
    else match (s.retranslate core q).2 with
      | .error e => some (q, e)
      | .ok _ => none

/-- The fault of a replay waits: a part of the instruction that passes can still be accepted (R113). -/
def State.replayWaits (s : State) (core : Nat) (p : Part) : Bool :=
  let bad := s.failing core p
  (bad.any fun e => e.1.lane == p.lane) && (s.unaccepted p).any fun q => !(bad.any fun e => e.1.lane == q.lane) && !s.heldBack q

/-- The fault of a replay, raised at the instruction for the parts that fail as told: the first cause of R111 that any part not
accepted fails, naming the lanes that fail it. Accepted lanes stand; the others issue again after it, those too which a failing lane held
back (R113; the last, which the record does not name, DESIGN CHOICE, log 13). -/
def State.replayFault (s : State) (bad : List (Part × Nat × Nat × List Nat)) (p : Part) (k : Crew) : State :=
  let cause := if bad.any fun e => e.2.1 == causeTranslation then causeTranslation
    else if bad.any fun e => e.2.1 == causeSplitPlace then causeSplitPlace else causeEcc
  let named : List (Part × Nat × Nat × List Nat) := bad.filter fun e => e.2.1 == cause
  let told := (named.head?.map fun e : Part × Nat × Nat × List Nat => e.2.2.1).getD 0
  let mine := s.unaccepted p
  let f := k.fibre p.fibre
  let w := f.faultWords k.kind
  let ms := k.members f.unit
  ({ s with parts := s.parts.filter fun q => !mine.contains q }).takeFault { crew := p.crew, kind := f.unit }
    { cause := cause, sub := if cause = causeEcc then 0 else told, info := if cause = causeEcc then told else 0, lanes := named.map fun e : Part × Nat × Nat × List Nat => e.1.lane,
      active := (ms.filter fun i => (k.fibre i).accepted.isSome || mine.any fun q => q.fibre == i).map fun i => (k.fibre i).home,
      entries := named.map fun e : Part × Nat × Nat × List Nat => (e.1.lane, e.2.2.2), kind := k.kind, pcRun := p.pc,
      hdr := if k.kind.isL then p.pc else f.hdr, obs := p.pc, word := w.1, ext := w.2, rep := (f.rep.map Rep.k).getD 0 } none

/-- A rejected part translated again and replayed under the current generation; where it fails the checks of R111 the fault
is raised at the instruction (R105, R113). A part of a crew that has ended raises nothing. -/
def State.replayPart (s : State) (n : Nat) (p : Part) (k : Crew) : State :=
  match s.retranslate k.core p with
  | (s', .ok t) => { s' with parts := s'.parts.set n { p with
      gen := s'.gen p.asid, td := t.1, ta := t.2.1, tb := t.2.2, pd := t.1.pa (va48 p.d), pa := t.2.1.pa (va48 p.a),
      pb := t.2.2.pa (va48 p.b) } }
  | (s', .error _) =>
    let bad := s.failing k.core p
    let s := s.keepWalks s' p.asid [va48 p.d, va48 p.a, va48 p.b]
    if k.status == .ended then { s with parts := s.parts.eraseIdx n } else s.replayFault bad p k

/-- An arrival can be dealt with now. -/
def State.arrives (s : State) (p : Part) : Bool :=
  !p.accepted && !s.heldBack p && (!s.current p || p.major != majorPlred || !s.owned (p.pd / 64))
    && ((s.current p && (s.partErrors p).isEmpty) || (let core := (s.crews[p.crew]?.map Crew.core).getD 0
      !s.replayWaits core p && !s.linesHeld core p.asid p.major p.s p.lines))

/-- HOME_ACCESS_ARRIVAL: a part or contribution reaches its home's die, which accepts it where its tag is current, taking
ownership of its line or combining it, and rejects it else; n the part (R105, R113, R114). -/
def evHomeAccessArrival (a : EvArg) (s : State) : State :=
  match s.parts[a.n]? with
  | none => s
  | some p => match s.crews[p.crew]? with
    | none => s
    | some k =>
      if ¬ s.arrives p then s
      else if ¬ s.current p then s.replayPart a.n p k
      else if ¬ (s.partErrors p).isEmpty then
        if k.status == .ended then { s with parts := s.parts.eraseIdx a.n } else s.replayFault (s.failing k.core p) p k
      else if p.major = majorPlred then
        let s1 := ({ s with parts := s.parts.eraseIdx a.n }.dropL1 k.core (p.pd / 64)).markAccepted p
        let w : BufWord := { va := p.d, mask := 15, data := p.value, plred := some (p.s, s.partNan p), mode := 0, tr := p.td,
                             gen := p.gen, who := none, release := none, tags := p.tags }
        let s2 := if k.pair.isSome then s1.modCrew p.crew fun k => { k with pair := k.pair.map fun h => h.append [w] }
          else (s1.snapshotFirst p.crew p.asid p.td p.pd).contribute
            { pa := p.pd, op := p.s, value := p.value, nan := s.partNan p, tags := p.tags, asid := p.asid, enc := p.td.enc }
        s2.retirePlaced p
      else
        let p' := { p with accepted := true, order := s.tick }
        (({ s with parts := s.parts.set a.n p' }.dropL1 k.core (p.pd / 64)).markAccepted p').retirePlaced p'

/-! ## Execution of a line part (R112) -/

/-- An element of a line operation's result (R112). -/
def lineElem (major sv nan : Nat) (d a b value : Word) : Word :=
  let fl := fun r : Nat × Bool => BitVec.ofNat 32 r.1
  if sv = 6 then a
  else if sv = 7 then value
  else if major = majorPli then
    match sv with
    | 0 => a + b
    | 1 => a - b
    | 2 => a * b
    | 3 => d + a * b
    | 4 => imin true a b
    | _ => imax true a b
  else
    match sv with
    | 0 => fl (floatOp .add 0 .rn nan (f32 a) (f32 b) (.fin false 0 0))
    | 1 => fl (floatOp .sub 0 .rn nan (f32 a) (f32 b) (.fin false 0 0))
    | 2 => fl (floatOp .mul 0 .rn nan (f32 a) (f32 b) (.fin false 0 0))
    | 3 => fl (floatOp .fma 0 .rn nan (f32 a) (f32 b) (f32 d))
    | 4 => BitVec.ofNat 32 (floatMinMax 0 false false a.toNat b.toNat)
    | _ => BitVec.ofNat 32 (floatMinMax 0 true false a.toNat b.toNat)

/-- The words of a line that a part reads, under the translation that it carries (R105). -/
def State.partLine (s : State) (p : Part) (k : Crew) (tr : Translation) (pa : Nat) : State × List Word :=
  match (s.correctAt p.crew pa 64).homeRead p.asid tr pa 64 with
  | (s, bs) =>
    let bs := s.overlaid p.asid k.pair pa bs
    (s, (List.range 16).map fun e => leWord ((bs.drop (4 * e)).take 4))

/-- A part may be computed: its line's earlier owners and the lower lanes it meets are done, and no earlier owner holds a
line it reads (R112, R153). -/
def State.computable (s : State) (p : Part) : Bool :=
  p.accepted && !s.ownedBefore (p.pd / 64) p.order && p.reads.all (fun l => !s.ownedBefore l p.order)
    && !(s.parts.any fun q => p.sibling q && decide (q.lane < p.lane) && p.meets q)

/-- A part's line computed from its operand lines and written whole; a paired copy's goes into its buffer, under the translation and the
generation that the part was accepted with (R105, R112, R113, R159). -/
def State.computePart (s : State) (n : Nat) (p : Part) (k : Crew) : State :=
  match s.partLine p k p.td p.pd with
  | (s1, d) => match (if readsA p.major p.s then s1.partLine p k p.ta p.pa else (s1, [])) with
    | (s2, x) => match (if readsB p.major p.s then s2.partLine p k p.tb p.pb else (s2, [])) with
      | (s3, y) =>
        let nan := s.partNan p
        let r := (List.range 16).map fun e => lineElem p.major p.s nan (d.getD e 0) (x.getD e 0) (y.getD e 0) p.value
        let out := r.flatMap fun w : Word => leBytes 4 w.toNat
        let s4 := { s3 with parts := s3.parts.eraseIdx n }
        if k.pair.isSome then
          s4.modCrew p.crew fun k => { k with pair := k.pair.map fun h => h.push { tags := p.tags } p.td p.gen p.d.toNat 0 out }
        else s4.gwrite p.crew { tags := p.tags } p.td p.d.toNat 0 out

/-- PLACED_PART_EXECUTE: an accepted line part is computed at its executor from all its lines and written whole; n the part (R112,
R113). An uncorrectable error that has struck a line since its acceptance rolls a protected launch back; of another it is logged, and
the part goes on with the bits that stand there (R337, R344; DESIGN CHOICE, log 18). -/
def evPlacedPartExecute (a : EvArg) (s : State) : State :=
  match s.parts[a.n]? with
  | none => s
  | some p => match s.crews[p.crew]? with
    | none => s
    | some k =>
      if ¬ s.computable p then s
      else match s.partErrors p with
        | e :: es => if s.protectedCrew p.crew = true ∧ k.status ≠ .ended then s.engineError k e else
          ((e :: es).foldl (fun t x => t.logSilent x.1 p.crew x.2) s).computePart a.n p k
        | [] => s.computePart a.n p k

/-- REDUCE_STATE_MERGE: a partial merged into its element, or with m = 1 into the next partial of the element; n the partial
(R114). -/
def evReduceStateMerge (a : EvArg) (s : State) : State :=
  match s.partials[a.n]? with
  | none => s
  | some p =>
    let rest := s.partials.eraseIdx a.n
    if a.m = 1 then
      match rest.findIdx? fun x => x.pa == p.pa && x.op == p.op with
      | none => s
      | some i => { s with partials := rest.modify i fun x =>
          { x with value := plredWith x.nan x.op x.value p.value, tags := p.tags ++ x.tags } }
    else { s with partials := rest }.mergeElement p

/-! ## CHUNK (R117) -/

/-- One draw from a record: start and length, and the new next. -/
def chunkDraw (next end_ p minimum : Nat) : Nat × Nat × Nat :=
  if end_ ≤ next then (next, 0, next)
  else
    let rem := end_ - next
    let per := 2 * max p 1
    let len := min rem (max minimum ((rem + per - 1) / per))
    (next, len, next + len)

/-- Draws of the lanes in ascending order, each atomic on its record. All are made in one step, so that no other agent's draw falls
between them (DESIGN CHOICE, log 53). -/
def chunkLanes (c : Ctx) : List (Lines × Translation × Translation × Translation) → State → State × List (Nat × DWord)
  | [], s => (s, [])
  | (l, t, _, _) :: r, s =>
    let pa := t.pa (va48 l.d)
    match ((s.correctAt c.u.crew pa 16).dropL1 c.core (pa / 64)).homeRead c.asid t pa 16 with
    | (s, bs) =>
      let w := fun i => leNat ((bs.drop (4 * i)).take 4)
      let x := chunkDraw (w 0) (w 1) (w 2) (w 3)
      let q : FibreId := (c.u.crew, l.fibre)
      let s := ((s.withTwins q).foldl (fun t x => (t.settleEarly x false pa 16).sawAll x pa 16) s).homeWrite c.u.crew c.core c.asid { who := some q, rmw := true } t pa 2 (leBytes 4 x.2.2)
      match chunkLanes c r s with
      | (s, ds) => (s, (l.fibre, BitVec.ofNat 64 (x.1 + 2 ^ 32 * x.2.1)) :: ds)

/-- CHUNK: one draw per active lane (R117). -/
def bodyChunk (d a : Nat) (c : Ctx) (s : State) : Eff :=
  let put := fun (v : DWord) (f : Fibre) => f.setPair d v false
  let ls := c.act.map fun i =>
    { lane := c.lane i, fibre := i, d := (c.fibre i).pair a, a := 0, b := 0, value := 0 : Lines }
  let misaligned := ls.filter fun l => canonical l.d && l.d.toNat % 16 != 0
  if c.act.isEmpty then .next s
  else
    let bad := ls.filter fun l => !canonical l.d || misaligned.contains l
    if ¬ bad.isEmpty then
      .raise s causeAddress 0 0 (bad.map Lines.lane) (bad.map fun l => (l.lane, addrEntry l.d.toNat))
    else match c.checkLines majorPlred 0 ls s with
      | .error e => e
      | .ok (s', good) =>
        if good.any fun g => s'.owned (g.2.1.pa (va48 g.1.d) / 64) then c.waitFor .held (s.keepDraws s')
        else match eccFault (s.keepDraws s') (good.filterMap fun g =>
            (s'.eccAt (g.2.1.pa (va48 g.1.d)) 16).map fun e => (g.1.lane, e)) with
          | some e => e
          | none => match c.compare (s.keepDraws s') with
            | some e => e
            | none => match c.second put (s.keepDraws s') with
              | some e => e
              | none => match chunkLanes c good s' with
                | (s'', ds) =>
                  let s'' := c.delivered (good.map fun g => g.2.1.pa (va48 g.1.d) / 64) (ds.map fun w => (c.lane w.1, w.2)) (c.compared s'')
                  .next (ds.foldl (fun t w => t.modFibres c.u.crew [w.1] fun _ f => put w.2 f) s'')

/-! ## GENBUMP (R107) -/

/-- The lines that the engine operations of an address space own still, taken as its tables now tell, where their accesses replay (R153,
R158). The issuing core drops them from its L1. -/
def State.retakeLines (s : State) (asid : Nat) : State :=
  s.crews.zipIdx.foldl (fun t x =>
    if x.1.desc.asid ≠ asid ∨ (x.1.status ≠ .resident ∧ x.1.status ≠ .ended) then t
    else
      let copies := x.1.copies.map fun j => if j.fault.isSome then j else { j.retake t x.1.core asid with bytes := j.bytes }
      let stores := x.1.stores.map fun j => if j.fault.isSome then j else j.retake t x.1.core asid
      (t.dropLines x.1.core (copies.filterMap LaneCopy.line ++ stores.flatMap StoreJob.lines)).modCrew x.2
        fun k => { k with copies := copies, stores := stores }) s

/-- The line that holds an address space's descriptor, which GENBUMP writes, is owned (R113, R153). -/
def State.spaceHeld (s : State) (asid : Nat) : Bool :=
  match s.spaceAt? asid with
  | some d => s.owned (d / 64)
  | none => false

/-- The address space's generation advanced at every die, its descriptor latched, and what an older use of the number had
tagged with it dropped (R102, R106, R107). -/
def State.bumpGen (s : State) (asid : Nat) : State :=
  let g := (s.gen asid + 1) % 2 ^ 16
  let s := (List.range 9).foldl (fun t d => { t with gens := sset 0 (16 * asid + d) g t.gens }) s
  let s := match s.spaceAt? asid with
    | some d => s.put32 (d + 0x10) g
    | none => s
  let s := s.latchSpace asid
  (s.cores.foldl (fun t x => t.modCore x.1 fun k =>
    { k with tlb := k.tlb.filter fun e => e.asid != asid || e.gen != g,
             l1 := k.l1.filter fun l => l.asid != asid || l.gen != g }) s).retakeLines asid

/-- GENBUMP: once for the instruction; the unit waits until no access accepted under an older generation is left. -/
def bodyGenbump (c : Ctx) (s : State) : Eff :=
  if c.act.isEmpty then .next s
  else if s.spaceHeld c.asid then c.waitFor .held s
  else
    let s := s.bumpGen c.asid
    c.waitFor .genbump { s with bumps := s.bumps ++ [{ asid := c.asid, unit := c.u }] }

/-- Every part of an address space accepted under an older generation has taken effect. -/
def State.drained (s : State) (asid : Nat) : Bool :=
  s.parts.all fun p => p.asid != asid || !p.accepted || p.gen == s.gen asid

/-- GENBUMP_COMPLETE: the wait is over and the unit goes on; n the bump (R107). -/
def evGenbumpComplete (a : EvArg) (s : State) : State :=
  match s.bumps[a.n]? with
  | none => s
  | some b =>
    if ¬ s.drained b.asid then s
    else
      let s := { s with bumps := s.bumps.eraseIdx a.n }
      match s.crews[b.unit.crew]? with
      | none => s
      | some k =>
        let ms := (k.members b.unit.kind).filter fun i => (k.fibre i).wait == .genbump
        (s.modFibres b.unit.crew ms fun _ f => f.advance k.kind).settle b.unit

end Sys2Proof.Machine
end

