-- ==== Sys2Proof/Machine/SchedOps.lean ====
section
/-!
DEFINITION. The gang scheduler of a core: units, readiness, active slots, token waits, bins, the granting of waiting block
requests; and what a core must have free for a crew (03 R24 to R36; 18 R274, R276, R279; 08 R123, R124; 23 R346).
-/
namespace Sys2Proof.Machine

/-! ## Units of a crew -/

/-- The units that live fibres of a crew form: sub-gangs, and bins that have been issued. -/
def Crew.kinds (k : Crew) : List UnitKind :=
  ((k.fibres.filter Fibre.live).map Fibre.unit).eraseDups.filter fun u => match u with
    | .gang _ _ => true
    | .bin b => match k.bins[b]? with
      | some n => n.issued
      | none => false

/-- Bins of live fibres that have not been issued. -/
def Crew.idleBins (k : Crew) : List Nat :=
  (List.range k.bins.length).filter fun b => !(k.members (.bin b)).isEmpty && (match k.bins[b]? with
    | some n => !n.issued
    | none => false)

/-- The fibre that stands for a unit: its lowest lane. -/
def Crew.lead (k : Crew) (u : UnitKind) : Fibre := k.fibre ((k.members u).headD 0)

/-- A placed instruction of the unit has parts accepted and parts still to issue (R113, R118). -/
def Crew.midPlaced (k : Crew) (u : UnitKind) : Bool := (k.members u).any fun i => (k.fibre i).accepted.isSome

/-- The unit's gang or bin has a fault that waits or is in delivery: it stops until the handler returns (R284). -/
def Crew.faultStops (k : Crew) (u : UnitKind) : Bool :=
  (k.delivery.any fun d => sameGang d.unit u) || k.heldFault.any fun h => sameGang h.unit u

/-- The units of a crew may issue: it is on a core, and no return trap, pre-emption or fault stops it short of an instruction that
has begun (R118, R265, R284, R289). -/
def Crew.running (k : Crew) (u : UnitKind) : Bool :=
  k.status == .resident && (((k.pair.isSome || (!k.returning && !k.preempting)) && !k.faultStops u) || k.midPlaced u)

/-- A unit waits on nothing. -/
def Crew.ready (k : Crew) (u : UnitKind) : Bool := k.running u && (k.lead u).wait == .none

/-- Another sub-gang of the gang goes first: among ready ones the lowest PC issues, one that has just branched backwards
behind every other, one that did so before it too (R25, R26). A sub-gang merged of one that has just branched backwards and one
that has not takes the mark of its lowest lane (DESIGN CHOICE, log 50). -/
def Crew.outranked (k : Crew) (u : UnitKind) : Bool :=
  match u with
  | .bin _ => false
  | .gang g _ =>
    let f := k.lead u
    k.kinds.any fun v => match v with
      | .gang h _ =>
        h == g && v != u && k.ready v && (let x := k.lead v
          decide (x.behind < f.behind) || (x.behind == f.behind && decide (x.pc.toNat < f.pc.toNat)))
      | .bin _ => false

/-- Units on a core. -/
def State.unitsOn (s : State) (core : Nat) : List UnitId :=
  (s.residents core).flatMap fun c => match s.crews[c]? with
    | some k => k.kinds.map fun u => { crew := c, kind := u }
    | none => []

/-- A property of a unit in its crew. -/
def State.unitHas (s : State) (p : Crew → UnitKind → Bool) (u : UnitId) : Bool :=
  match s.crews[u.crew]? with
  | some k => !(k.members u.kind).isEmpty && p k u.kind
  | none => false

/-! ## Waits at lines, granules and objects -/

/-- The instruction at which a unit waits, with the context that it issues under. -/
def State.waiting? (s : State) (u : UnitId) : Option (Ctx × Instr) :=
  (s.ctx? u Prefix.plain).bind fun c =>
    let w := (c.fibre (c.all.headD 0)).faultWords c.kind
    (if c.kind.isL then decodeL w.2 w.1 else decodeD w.1).toOption.bind fun x => (s.ctx? u x.1).map fun c => (c, x.2)

/-- AWT at its next lane would wait: the object's phase is still its parity (R178). -/
def Ctx.awtWaits (c : Ctx) (a b : Nat) : Bool :=
  match c.scratchLanes a 0 8 with
  | [] => false
  | (i, ea) :: _ => (leDWord (c.crew.scrRead ea 8)).getLsbD 32 == ((c.fibre i).val b).getLsbD 0

/-- LDS or STS at its next lane would wait: its granule is not full, or is not empty (R168). -/
def Ctx.granuleWaits (c : Ctx) (a : Nat) (sz : BitVec 3) (off : BitVec 4) (full : Bool) : Bool :=
  match c.scratchLanes a off.toInt (sizeBytes sz) with
  | [] => false
  | (_, ea) :: _ => c.crew.isFull (c.crew.granule ea) == full

/-- A unit that waits at a barrier object or a granule would wait there again. -/
def State.wouldWait (s : State) (u : UnitId) : Bool :=
  match s.waiting? u with
  | some (c, .awtD _ a b) => c.awtWaits (c.a a) (c.b b)
  | some (c, .awtL _ a b) => c.awtWaits (c.a a) (c.b b)
  | some (c, .ldsD _ a z _ o) => c.granuleWaits (c.a a) z o false
  | some (c, .ldsL _ a z _ o) => c.granuleWaits (c.a a) z o false
  | some (c, .stsD _ a z _ o) => c.granuleWaits (c.a a) z o true
  | some (c, .stsL _ a z _ o) => c.granuleWaits (c.a a) z o true
  | _ => false

/-- A unit that has left its slot at a line, a granule or a barrier object is ready to try its instruction again: what it waited for
may have come. -/
def State.mayRetry (s : State) (u : UnitId) : Bool :=
  s.unitHas (fun k v => k.running v && (match (k.lead v).wait with
    | .held => true
    | .granule => !s.wouldWait u
    | .object => !s.wouldWait u
    | _ => false)) u

/-! ## Active slots (R276) -/

/-- A unit is ready and no other sub-gang of its gang goes first. -/
def Crew.foremost (k : Crew) (u : UnitKind) : Bool := k.ready u && !k.outranked u

/-- Units that keep their slots: those that wait on nothing, whether or not another sub-gang of their gang goes first. -/
def State.staying (s : State) (core : Nat) : List UnitId := (s.coreAt core).active.filter (s.unitHas Crew.ready)

/-- Pending units that could take a slot: those that are ready, or ready to try again. -/
def State.pendingUnits (s : State) (core : Nat) : List UnitId :=
  (s.unitsOn core).filter fun u => (s.unitHas Crew.foremost u || s.mayRetry u) && !(s.coreAt core).active.contains u

/-- The step at which a unit last issued. -/
def State.issuedLast (s : State) (u : UnitId) : Nat := ((s.crews[u.crew]?).map fun k => (k.lead u.kind).issuedAt).getD 0

/-- Swaps that a pending unit has waited through. -/
def CoreSt.waitedSwaps (x : CoreSt) (u : UnitId) : Nat := ((x.swaps.find? fun y => y.1 == u).map Prod.snd).getD 0

/-- Order among units that have waited through equally many swaps: the lower gang index, bins after gangs. -/
def unitRank (u : UnitId) : Nat :=
  match u.kind with
  | .gang g _ => g
  | .bin b => 32 + b

/-- The pending unit that a freed slot goes to. -/
def State.nextForSlot (s : State) (core : Nat) : Option UnitId :=
  let x := s.coreAt core
  (s.pendingUnits core).foldl (fun best u => match best with
    | none => some u
    | some v =>
      if x.waitedSwaps v < x.waitedSwaps u ∨ (x.waitedSwaps u = x.waitedSwaps v ∧ unitRank u < unitRank v) then some u
      else some v) none

/-- Units woken: they wait on nothing. -/
def State.woken (s : State) (us : List UnitId) : State :=
  us.foldl (fun t u => t.modCrew u.crew fun k => k.modFibres (k.members u.kind) fun _ f => { f with wait := .none }) s

/-- The unit that gives up its slot though it waits on nothing, where another is overdue: one that another sub-gang of its gang outranks,
else the one that has held its slot longest. Which the spec does not say (DESIGN CHOICE, log 50). -/
def State.givesWay (s : State) (held : List UnitId) : Option UnitId :=
  (held.find? fun u => !s.unitHas Crew.foremost u).orElse fun _ => held.head?

/-- A pending unit is overdue: all eight slots are held by units that wait on nothing, of which one is outranked or all have issued
since the pending one did. -/
def State.overdueOn (s : State) (core : Nat) : Bool :=
  let held := s.staying core
  held.length == 8 && (s.nextForSlot core).any fun u =>
    held.any (fun v => !s.unitHas Crew.foremost v) || held.all fun v => decide (s.issuedLast u < s.issuedLast v)

/-- GANG_SLOT_SWAP: units that wait leave the active set, and a freed slot goes to the ready pending unit that has waited
through the most swaps; every unit without a slot has then waited through one more; n the core (R276). With m = 1 a slot is freed for a
unit that is overdue: each ready unit issues within finite time (R26, R276). -/
def evGangSlotSwap (a : EvArg) (s : State) : State :=
  let kept := s.staying a.n
  let stay := if a.m = 1 ∧ s.overdueOn a.n = true then kept.filter fun u => some u != s.givesWay kept else kept
  let next := if stay.length < 8 then s.nextForSlot a.n else none
  let active := stay ++ next.toList
  let pending := (s.unitsOn a.n).filter fun u => !active.contains u
  (s.modCore a.n fun x => { x with
    active := active
    swaps := pending.map fun u => (u, x.waitedSwaps u + (if next.isSome then 1 else 0)) }).woken next.toList

/-- The units that a core may issue from next: of the ready ones in its slots that no other sub-gang of their gang outranks, the oldest
first, which here is the one that issued longest ago (R25, R276; DEDUCED, log 50). -/
def State.issuersOn (s : State) (core : Nat) : List UnitId :=
  let us := (s.staying core).filter (s.unitHas Crew.foremost)
  us.filter fun u => us.all fun v => decide (s.issuedLast u ≤ s.issuedLast v)

/-! ## Token waits (R43, R46, R185) -/

/-- The tokens that a unit waits for are complete. -/
def Crew.tokensDone (k : Crew) (u : UnitKind) : Bool :=
  match (k.lead u).wait with
  | .tokens m => (k.tokens u).complete m
  | _ => false

/-- TOKEN_WAIT_RESUME: a unit whose tokens are complete may issue again. -/
def evTokenWaitResume (a : EvArg) (s : State) : State :=
  if s.unitHas Crew.tokensDone a.unit then
    s.modCrew a.unit.crew fun k => k.modFibres (k.members a.unit.kind) fun _ f => { f with wait := .none }
  else s

/-! ## Bins (R28, R279) -/

/-- A bin has not changed for 256 cycles. -/
def State.binStale (s : State) (c b : Nat) : Bool :=
  match s.crews[c]? with
  | none => false
  | some k => match k.bins[b]? with
    | none => false
    | some n => !n.issued && !n.aged && k.idleBins.contains b && decide (256 ≤ cyclesBetween k.core n.changed s.now)

/-- BIN_AGE_EXPIRY: a bin that has not changed for 256 cycles becomes eligible; n the crew, m the bin. -/
def evBinAgeExpiry (a : EvArg) (s : State) : State :=
  if s.binStale a.n a.m then
    s.modCrew a.n fun k => { k with bins := k.bins.modify a.m fun n => { n with aged := true } }
  else s

/-- A core's unissued bins that may issue, as crew and bin, with their ages: those of crews whose units may issue, a paired copy on its
way to a stop among them, since the other copy may stand past what the bin has still to do (R265, R289, R341). -/
def State.binsOn (s : State) (core : Nat) : List (Nat × Nat × Bin) :=
  (s.residents core).flatMap fun c => match s.crews[c]? with
    | none => []
    | some k => if k.status == .resident && (k.pair.isSome || (!k.returning && !k.preempting)) then
        k.idleBins.filterMap fun b => (k.bins[b]?).map fun n => (c, b, n) else []

/-- The core has no ready gang, sub-gang or issued bin. -/
def State.coreIdle (s : State) (core : Nat) : Bool := (s.unitsOn core).all fun u => !s.unitHas Crew.ready u

/-- The oldest eligible bin of a core: full, aged, or the core is idle. -/
def State.nextBin (s : State) (core : Nat) : Option (Nat × Nat × Bin) :=
  ((s.binsOn core).filter fun x => x.2.2.aged || s.coreIdle core || (match s.crews[x.1]? with
    | some k => decide (32 ≤ (k.members (.bin x.2.1)).length)
    | none => false)).foldl (fun best x => match best with
      | none => some x
      | some y => if x.2.2.born < y.2.2.born then some x else some y) none

/-- BIN_ISSUE: the oldest eligible bin runs as a gang, every token complete; n the core. -/
def evBinIssue (a : EvArg) (s : State) : State :=
  match s.nextBin a.n with
  | none => s
  | some (c, b, _) => s.modCrew c fun k => { k with
      bins := k.bins.modify b fun n => { n with issued := true, tokens := Tokens.fresh } }

/-! ## Waiting block requests (R35, R261) -/

/-- The module as a request leaves it once granted, but for what the new fibres do (R35, R73, R261). -/
def State.withRequest (s : State) (r : Request) : State :=
  let c := r.crew
  let n := ((s.crews[c]?).map fun k => k.fibres.length).getD 0
  let kids := r.forks.map fun x => { Fibre.empty with live := true, bound := false, home := x.1, size := x.2 }
  (s.modCrew c fun k => { k with fibres := modAt r.places (fun _ f => f.grow r.grow) k.fibres ++ kids }).allotLoose c
    (r.places ++ (List.range kids.length).map (n + ·))

/-- Blocks that a core would have in use after a request. -/
def State.blocksWith (s : State) (core : Nat) (r : Request) : Nat := (s.withRequest r).blocksUsed core

/-- A request can be granted: the core holds what it would leave there. -/
def State.requestFits (s : State) (core : Nat) (r : Request) : Bool := (s.withRequest r).coreFits core

/-- The fibres of a request that wait for its grant. -/
def State.waitersOf (s : State) (r : Request) : List Nat :=
  match s.crews[r.crew]? with
  | none => []
  | some k => r.members.filter fun i => (k.fibre i).live && (k.fibre i).pc == r.pc && (k.fibre i).wait == .blocks

/-- The oldest request of a core fits, its unit waits for it, and no handler's window goes first (R284). -/
def State.canGrant (s : State) (core : Nat) : Bool :=
  match (s.requestsOn core).head? with
  | none => false
  | some r => !s.handlerWaits core && s.requestFits core r && !(s.waitersOf r).isEmpty

/-- REGISTER_GRANT: the unit of the oldest request issues its instruction again, and is granted its blocks; n the core. -/
def evRegisterGrant (a : EvArg) (s : State) : State :=
  match (s.requestsOn a.n).head? with
  | none => s
  | some r =>
    if s.canGrant a.n then
      s.modCrew r.crew fun k => (k.modFibres (s.waitersOf r) fun _ f => { f with wait := .none }).regroupAll
    else s

/-! ## What a crew needs of a core (R274) -/

/-- The unit of hardware that a core is (R346). -/
def hwOf (core : Nat) : HwUnit := if 256 ≤ core then .sequencer (core - 256) else .core core

/-- A core that crews may be placed on: neither fenced nor under test, and no die at its thermal limit (R346, R353). -/
def State.coreOpen (s : State) (core : Nat) : Bool :=
  !s.rel.fenced.contains (hwOf core) && !s.rel.underTest.contains (hwOf core) && s.power.hot.isEmpty

/-- Scratchpad bytes that a core can have: seven ways, or a sequencer's 64 KiB (R123, R252). -/
def scratchMax (core : Nat) : Nat := if 256 ≤ core then 2 ^ 16 else 7 * 2 ^ 17

/-- Two ranges share no byte. -/
def apart (a n b m : Nat) : Bool := n == 0 || m == 0 || decide (a + n ≤ b) || decide (b + m ≤ a)

/-- Starts on a 128-byte boundary of a free scratchpad range of `n` bytes (R125). While ways wait to be given back, none above
those that the crews on the core still use (R124). -/
def State.scratchStarts (s : State) (core n : Nat) : List Nat :=
  let ks := (s.residents core).filterMap fun c => s.crews[c]?
  let top := match (s.coreAt core).carveWish with
    | some w => 2 ^ 17 * max w ((ks.map fun k => (k.scrBase + k.desc.scrSize + 2 ^ 17 - 1) / 2 ^ 17).foldl max 0)
    | none => scratchMax core
  ((List.range (scratchMax core / 128)).map (128 * ·)).filter fun b =>
    decide (b + n ≤ min top (scratchMax core)) && ks.all fun k => apart b n k.scrBase k.desc.scrSize

/-- First tiles of a free run of `n` accumulator tiles (R228). -/
def State.tileStarts (s : State) (core n : Nat) : List Nat :=
  let ks := (s.residents core).filterMap fun c => s.crews[c]?
  (List.range 129).filter fun b => decide (b + n ≤ 128) && ks.all fun k => apart b n k.accBase k.desc.accCount

/-- Bound gangs that still hold a live fibre (R31). -/
def Crew.liveGangs (k : Crew) : Nat :=
  ((List.range k.gangs.length).filter fun g => k.fibres.any fun f => f.live && f.bound && f.gang == g).length

/-- Resident gangs at most (R252). -/
def Kind.maxResident : Kind → Nat
  | .density => 64
  | .latency => 16
  | .sequencer => 8

/-- Where a crew's scratchpad may begin on a core: one that has been saved takes the place that it had, so that the addresses its
registers hold stay good (R190; DESIGN CHOICE, log 32). -/
def State.scrStarts (s : State) (k : Crew) (core : Nat) : List Nat :=
  (s.scratchStarts core k.desc.scrSize).filter fun b => k.saveSeq == 0 || k.desc.scrSize == 0 || b == k.scrBase

/-- A crew in the list fits a core: blocks, fibre slots, gangs, a bench set, scratchpad, and off a sequencer tiles. -/
def State.fits (s : State) (c core : Nat) : Bool :=
  match s.crews[c]? with
  | none => false
  | some k =>
    let kind := kindOfCore core
    let s' := (s.modCrew c fun k => { k with status := .resident, core := core, kind := kind }).allotLoose c
      (List.range k.fibres.length)
    let ks := ((s'.residents core).filterMap fun i => s'.crews[i]?)
    s.coreOpen core && s'.coreFits core && decide (s'.blocksUsed core + k.reserve ≤ kind.blocks)
      && decide (ks.length ≤ kind.benchSets)
      && decide (((ks.map Crew.liveGangs).sum) ≤ kind.maxResident) && decide (k.gangs.length ≤ kind.maxGangs)
      && !(s.scrStarts k core).isEmpty
      && (kind == .sequencer || !(s.tileStarts core k.desc.accCount).isEmpty)

/-- The n-th of the places open to a choice. -/
def pickNth (n : Nat) : List Nat → Option Nat
  | [] => none
  | x :: xs => some (if xs.isEmpty then x else (x :: xs).getD (Config.placeChoice n % (xs.length + 1)) x)

/-! ## Carve-outs (R123, R124) -/

/-- Ways that a core's scratchpad allocations touch. -/
def State.waysUsed (s : State) (core : Nat) : Nat :=
  ((s.residents core).map fun c => match s.crews[c]? with
    | some k => if k.desc.scrSize = 0 then 0 else (k.scrBase + k.desc.scrSize + 2 ^ 17 - 1) / 2 ^ 17
    | none => 0).foldl max 0

/-- A carve-out set: the lines of ways handed over to scratchpad are dropped (R124). -/
def State.setCarve (s : State) (core n : Nat) : State :=
  s.modCore core fun x => { x with carve := n, l1 := x.l1.filter fun l => decide (n ≤ l.way), carveDue := false, carveWish := none }

/-- CARVE_OUT_CHANGE: at a crew's placement on the core or its end there, n the core, m the carve-out that the placer wants; one
that an allocation still stands in the way of is held, and made once none does (R124). -/
def evCarveOutChange (a : EvArg) (s : State) : State :=
  let x := s.coreAt a.n
  if 256 ≤ a.n ∨ 7 < a.m then s
  else if x.carveDue then
    (if s.waysUsed a.n ≤ a.m then s.setCarve a.n a.m
     else s.modCore a.n fun x => { x with carveDue := false, carveWish := some a.m })
  else if x.carveWish = some a.m ∧ s.waysUsed a.n ≤ a.m then s.setCarve a.n a.m
  else s

/-- The carve-out changes that a core may make now: any that the placer may want where a crew has just been placed there or has
ended, or the one that was held (R124). -/
def State.carveEvents (s : State) (core : Nat) : List (Instr × EvArg) :=
  let x := s.coreAt core
  if 256 ≤ core then []
  else if x.carveDue then (List.range 8).map fun m => (Instr.carveOutChange, { n := core, m := m })
  else match x.carveWish with
    | some m => [(Instr.carveOutChange, { n := core, m := m })]
    | none => []

/-! ## A crew on a core -/

/-- A fitting core given to a crew: its resources, its fibres' windows, a carve-out that holds its scratchpad; the core's
instruction cache and L1 are empty for it: what precedes its launch or its move is seen (R20, R125, R139, R146, R228, R326,
R339). -/
def State.install (s : State) (c core : Nat) : State :=
  match s.crews[c]? with
  | none => s
  | some k =>
    let before := s
    let scr := (pickNth s.draws (s.scrStarts k core)).getD 0
    let kind := kindOfCore core
    let acc := if kind = .sequencer then 0 else (pickNth (s.draws + 1) (s.tileStarts core k.desc.accCount)).getD 0
    let s := s.modCrew c fun k => { k with
      status := .resident, kind := kind, core := core, scrBase := scr, accBase := acc, since := s.now, allDirty := true,
      passedOver := 0, preempting := false, returning := false, fibres := k.fibres.map fun f => { f with issuedAt := s.now } }
    let s : State := { s with draws := s.draws + 2 }
    let s := s.allotLoose c (List.range k.fibres.length)
    let ways := s.waysUsed core
    let s : State := if core < 256 ∧ (s.coreAt core).carve < ways then s.setCarve core ways else s
    ((s.modCore core fun x => { x with icache := [], l1 := [], ifence := s.now }).settleCarve core).revokeMirrors before core

end Sys2Proof.Machine
end

