-- ==== Sys2Proof/Machine/ContextOps.lean ====
section
/-!
DEFINITION. A crew's context: paired comparison, the layout of a context area, saving a crew and leaving its core, checkpoints,
pre-emption, migration, the return trap, register deadlock, checking and restoring a saved crew
(19 R284, R289 to R298; 17 R248, R249, R258, R259, R265; 03 R36; 23 R340, R341).
-/
namespace Sys2Proof.Machine

/-! ## Paired copies (R159, R340, R341) -/

/-- A copy stands: a unit waits at a comparison point, its buffer is full, or it has finished. -/
def State.stands (s : State) (c : Nat) (k : Crew) : Bool :=
  k.finished || s.bufferFull c 16 || (match k.pair with
    | some p => !p.arrived.isEmpty
    | none => false)

/-- The signatures of two copies are equal (R341). -/
def sameSignature (k k' : Crew) : Bool := k.pair.map PairHalf.signature == k'.pair.map PairHalf.signature

/-- Nothing of a unit goes on by itself. -/
def State.unitStuck (s : State) (c : Nat) (k : Crew) (u : UnitKind) : Bool :=
  !k.ready u && !k.tokensDone u && (match (k.lead u).wait with
    | .held => false
    | .object => s.wouldWait { crew := c, kind := u }
    | .granule => s.wouldWait { crew := c, kind := u }
    | _ => true)

/-- Nothing of a copy goes on by itself: no unit is ready, no engine or part works for it. -/
def State.stuck (s : State) (c : Nat) (k : Crew) : Bool :=
  k.kinds.all (s.unitStuck c k) && k.idleBins.isEmpty && k.mats.all MatJob.failed
    && k.copies.all (fun j => j.fault.isSome || decide (j.len ≤ j.done)) && k.stores.all (fun j => j.fault.isSome)
    && s.parts.all fun p => p.crew != c

/-- The first copy of a pair and its partner, with the partner's place. -/
def State.pairOf (s : State) (c : Nat) : Option (Crew × Nat × Crew) :=
  match s.crews[c]? with
  | none => none
  | some k => match k.pair with
    | none => none
    | some p => if p.first then (s.crews[p.partner]?).map fun k' => (k, p.partner, k') else none

/-- The buffered writes of a pair's first copy would be held at their homes (R153). -/
def State.pairHeld (s : State) (c : Nat) : Bool :=
  match s.pairOf c with
  | some (k, d, _) => s.drainHeld c d k.desc.asid ((k.pair.map PairHalf.buffer).getD [])
  | none => false

/-- Both copies of a pair are on their cores and match, their writes can be performed, and a comparison lets something go on
(R341). -/
def State.pairMatches (s : State) (c : Nat) : Bool :=
  match s.pairOf c with
  | none => false
  | some (k, d, k') =>
    k.status == .resident && k'.status == .resident && s.stands c k && s.stands d k' && sameSignature k k' && !s.pairHeld c
      && (!(k.matched k').isEmpty || (k.finished && k'.finished) || s.bufferFull c 16 || s.bufferFull d 16)

/-- The copies of a pair differ: both stand, or are to be pre-empted, nothing of either goes on, and no comparison lets anything
go on (R341). -/
def State.pairDiffers (s : State) (c : Nat) : Bool :=
  match s.pairOf c with
  | none => false
  | some (k, d, k') =>
    k.status == .resident && k'.status == .resident && s.stuck c k && s.stuck d k'
      && ((s.stands c k && s.stands d k' && !s.pairMatches c && !s.pairHeld c)
        || (k.preempting && k'.preempting && !sameSignature k k'))

/-- What a difference between copies leads to: a rollback of a protected launch, else the launch's end with cause ECC, unit 6,
and an entry of kind 4 in the error log (R341, R348). -/
def State.pairError (s : State) (c : Nat) : State :=
  match s.crews[c]? with
  | none => s
  | some k =>
    let l := k.desc.launch
    let s' := (s.logCrew 4 6 c 0).modLaunch l fun x => { x with errUnit := 6, errCore := k.core, errAddr := 0 }
    if s.protectedCrew c then s'.stopProtected l causeEcc else s'.endLaunch l causeEcc

/-- PAIR_COMPARISON: on a match one copy's buffer drains and the matched units go on, or both copies end; on a difference
neither drains; n the first copy (R159, R341). -/
def evPairComparison (a : EvArg) (s : State) : State :=
  if s.pairMatches a.n then
    match s.crews[a.n]? with
    | none => s
    | some k =>
      let partner := (k.pair.map PairHalf.partner).getD a.n
      let ended := k.finished && (s.crews[partner]?.map Crew.finished).getD true
      let s := s.drainPair a.n
      if ended then (s.endCrew a.n).endCrew partner else s
  else if s.pairDiffers a.n then s.pairError a.n
  else s

/-- The crew, and with a paired crew its other copy (R341). -/
def State.copiesOf (s : State) (c : Nat) : List Nat :=
  match (s.crews[c]?).bind Crew.pair with
  | some p => if p.first then [c, p.partner] else [p.partner, c]
  | none => [c]

/-! ## The layout of a context area (R291, R292) -/

/-- What the sizes of a context's sections follow from (R291). -/
structure Counts where
  nfibre : Nat
  ngang : Nat
  ncopy : Nat
  mbytes : Nat
  naccst : Nat
  nblock : Nat
  scrsz : Nat
  acccnt : Nat
  deriving DecidableEq, Repr

/-- Offsets of a context's sections, and the end (R292). -/
structure Layout where
  gang : Nat
  copy : Nat
  mat : Nat
  accst : Nat
  bar : Nat
  bench : Nat
  stamp : Nat
  slot : Nat
  scr : Nat
  bitmap : Nat
  tile : Nat
  top : Nat
  deriving DecidableEq, Repr

/-- Rounded up to a multiple of 256. -/
def up256 (n : Nat) : Nat := (n + 255) / 256 * 256

/-- First fibre record (R292). -/
def fibreAt : Nat := 0x600

/-- The sections in their order (R292). -/
def Counts.layout (c : Counts) : Layout :=
  let gang := up256 (fibreAt + 32 * c.nfibre)
  let copy := up256 (gang + 64 * c.ngang)
  let mat := up256 (copy + 32 * c.ncopy)
  let accst := up256 (mat + c.mbytes)
  let bar := up256 (accst + 32 * c.naccst)
  let bench := up256 (bar + 2176)
  let stamp := bench + 256
  let slot := up256 (stamp + 4 * (c.nblock + c.acccnt))
  let scr := up256 (slot + 1056 * c.nblock)
  let bitmap := up256 (scr + c.scrsz)
  let tile := up256 (bitmap + (c.scrsz + 127) / 128)
  { gang := gang, copy := copy, mat := mat, accst := accst, bar := bar, bench := bench, stamp := stamp, slot := slot,
    scr := scr, bitmap := bitmap, tile := tile, top := up256 (tile + 67584 * c.acccnt) }

/-- Bytes of the largest context that a crew can need (R291). -/
def areaBytes (ngang scr acc : Nat) : Nat :=
  (Counts.layout { nfibre := 2049, ngang := ngang, ncopy := 4096, mbytes := 135168, naccst := 32, nblock := 512,
                   scrsz := scr, acccnt := acc }).top

/-! ## What a save writes: order and counts -/

/-- Bound fibre records: 32 for each bound gang (R22, R293). -/
def Crew.boundSlots (k : Crew) : Nat := 32 * k.gangs.length

/-- Places of the fibres that have records, in their order: bound slots, then live loose and handler fibres (R293). -/
def Crew.recorded (k : Crew) : List Nat :=
  (List.range k.fibres.length).filter fun i => decide (i < k.boundSlots) || (k.fibre i).live

/-- Blocks of a bound gang's run: its largest live window (R295). -/
def Crew.gangBlocks (k : Crew) (g : Nat) : Nat :=
  (k.fibres.map fun f => if f.live && f.bound && f.gang == g then f.size else 0).foldl max 0

/-- A run of block slots: its length, and the places of the fibres that own columns of it (R295). -/
structure Run where
  size : Nat
  owners : List Nat
  deriving DecidableEq, Repr

/-- A loose fibre's columns put into the first run of its size in which its home slot is free, or a new run (R295). -/
def addLoose (k : Crew) (i : Nat) : List Run → List Run
  | [] => [{ size := (k.fibre i).size, owners := [i] }]
  | r :: rs =>
    if r.size = (k.fibre i).size ∧ r.owners.all (fun j => (k.fibre j).home != (k.fibre i).home) = true then
      { r with owners := r.owners ++ [i] } :: rs
    else r :: addLoose k i rs

/-- The runs of block slots: bound gangs in order, then loose fibres (R295). -/
def Crew.runs (k : Crew) : List Run :=
  ((List.range k.gangs.length).map fun g =>
    { size := k.gangBlocks g, owners := (List.range k.fibres.length).filter fun i =>
        (k.fibre i).live && (k.fibre i).bound && (k.fibre i).gang == g : Run })
    ++ ((List.range k.fibres.length).filter fun i => (k.fibre i).live && !(k.fibre i).bound).foldl
      (fun rs i => addLoose k i rs) []

/-- The block slots in order: which block of a window each holds, and its owners. -/
def Crew.slots (k : Crew) : List (Nat × List Nat) :=
  k.runs.flatMap fun r => (List.range r.size).map fun b => (b, r.owners.filter fun i => decide (b < (k.fibre i).size))

/-- First block slot of a fibre. -/
def Crew.firstSlot (k : Crew) (i : Nat) : Nat :=
  ((k.runs.takeWhile fun r => !r.owners.contains i).map Run.size).sum

/-- The lane copies that have records: unfinished ones of bound gangs, in gang order (R294). -/
def Crew.savedCopies (k : Crew) : List LaneCopy :=
  (List.range k.gangs.length).flatMap fun g => k.copies.filter fun j => decide (j.done < j.len) && sameGang j.unit (.gang g 0)
/-- The matrix operations in gang order. -/
def Crew.savedMats (k : Crew) : List MatJob :=
  (List.range k.gangs.length).flatMap fun g => k.mats.filter fun j => sameGang j.unit (.gang g 0)
/-- The tile stores in gang order. -/
def Crew.savedStores (k : Crew) : List StoreJob :=
  (List.range k.gangs.length).flatMap fun g => k.stores.filter fun j => sameGang j.unit (.gang g 0)

/-- Bytes of a matrix record (R294). -/
def MatJob.recordBytes (j : MatJob) : Nat := if j.major = 0x65 then 128 + (j.block.getD 5 0).toNat else 64

/-- Tiles that a crew has where it runs: none on a sequencer (R263, R291). -/
def Crew.tileCount (k : Crew) : Nat := if k.kind == .sequencer then 0 else k.desc.accCount

/-- The counts of a save (R291). -/
def Crew.counts (k : Crew) : Counts :=
  { nfibre := k.recorded.length, ngang := k.gangs.length, ncopy := k.savedCopies.length,
    mbytes := (k.savedMats.map MatJob.recordBytes).sum, naccst := k.savedStores.length, nblock := k.slots.length,
    scrsz := k.desc.scrSize, acccnt := k.tileCount }

/-! ## Dovetail points (R253, R259) -/

/-- The fibre stands at a dovetail point of its code object, stopped or not (R253): D at a header of the walk, L at a DVT. -/
def State.atPoint (s : State) (k : Crew) (f : Fibre) : Bool :=
  let base := f.codeBase.toNat
  let asid := k.desc.asid
  f.pc == f.hdr && f.rep.isNone && (match s.peekNat asid (f.codeVa (if k.kind.isL then f.pc + 4 else f.pc)) 4 with
    | none => false
    | some w =>
      let w := BitVec.ofNat 32 w
      let idx := if k.kind.isL then (fld w 0 11).toNat else hdrDidx w
      (if k.kind.isL then majorOf w == 0x73 else hdrDove w) && (match s.stateMap? asid base idx with
        | none => false
        | some r => leNat ((r.drop (if k.kind.isL then 4 else 0)).take 4) == f.pc.toNat))

/-- The VAs that telling whether a fibre stands at a dovetail point reads. -/
def State.atPointReads (s : State) (k : Crew) (f : Fibre) : List Nat :=
  if f.live ∧ f.pc = f.hdr ∧ f.rep.isNone = true then
    let va := f.codeVa (if k.kind.isL then f.pc + 4 else f.pc)
    va :: (match s.peekNat k.desc.asid va 4 with
      | none => []
      | some w =>
        let w := BitVec.ofNat 32 w
        if (if k.kind.isL then majorOf w == 0x73 else hdrDove w) then
          s.mapReads k.desc.asid f.codeBase.toNat (if k.kind.isL then (fld w 0 11).toNat else hdrDidx w) else [])
  else []

/-- Every live fibre stands at a dovetail point (R259). -/
def State.allAtPoints (s : State) (k : Crew) : Bool := k.fibres.all fun f => !f.live || s.atPoint k f

/-! ## Records (R293, R294) -/

/-- The code of a wait (R293). -/
def Wait.code : Wait → Nat
  | .bar _ _ => 1
  | .object => 2
  | .granule => 3
  | .blocks => 4
  | .dovetail => 5
  | _ => 0

/-- Each fibre of a loose bin that has copy faults pending keeps what they tell (R246, R289). -/
def Crew.withLooseFaults (k : Crew) : Crew :=
  { k with fibres := k.fibres.map fun f =>
      if f.live && !f.bound then { f with dflt := f.dflt ++ (k.tokens f.unit).deferred.filter fun d => !f.dflt.contains d } else f }

/-- A fibre record (R293). A REP whose repeat 0 has not begun is saved at its own word; one whose repeat 0 has begun, or has faulted, at
the repeated word (R56, R287, R289). -/
def Fibre.record (kind : Kind) (slot : Nat) (f : Fibre) : List Byte :=
  let k := (f.rep.map Rep.k).getD 0
  let back := if f.rep.isSome ∧ k = 0 ∧ f.unissued = true then BitVec.ofNat 32 kind.step else 0
  let pc := f.pc - back
  let hdr := if kind.isL then pc else f.hdr
  if ¬ f.live then
    leBytes 20 0 ++ leBytes 4 (2 ^ 23 + f.home * 2 ^ 15) ++ leBytes 4 (f.gang * 2 ^ 20) ++ leBytes 4 0
  else
    leBytes 4 pc.toNat ++ leBytes 4 hdr.toNat ++ leBytes 12 (f.preds ||| 1).toNat
      ++ leBytes 4 ((!f.dflt.isEmpty).toNat * 2 ^ 31 + 2 ^ 30 + k * 2 ^ 24 + f.bound.toNat * 2 ^ 23 + f.part * 2 ^ 20
        + f.home * 2 ^ 15 + f.size * 2 ^ 9 + slot)
      ++ leBytes 4 ((if f.bound then f.gang else f.ident) * 2 ^ 20 + f.nextLane * 2 ^ 15 + f.wait.code * 2 ^ 12
        + (if f.passed then 2 * f.didx + 1 else 0))
      ++ leBytes 4 (f.handler.toNat * 2 ^ 25 + f.priv.toNat * 2 ^ 24 + f.dcount)

/-- A copy record (R294). -/
def LaneCopy.record (j : LaneCopy) : List Byte :=
  leBytes 8 j.src.toNat ++ leBytes 8 j.dst.toNat ++ leBytes 4 j.pc.toNat
    ++ leBytes 4 (j.bsel + 4 * j.form + 2 ^ 4 * j.token + 2 ^ 7 * j.lane + (match j.fault with
      | some (cause, sub) => 2 ^ 12 + 2 ^ 13 * sub + 2 ^ 18 * cause.toNat
      | none => 0))
    ++ leBytes 8 0

/-- Words as bytes. -/
def wordBytes (ws : List Word) : List Byte := ws.flatMap fun w => leBytes 4 w.toNat

/-- Exactly `n` bytes, zeros after the list's end. -/
def padTo (n : Nat) (bs : List Byte) : List Byte := (bs ++ List.replicate n 0).take n

/-- A matrix record (R294). -/
def MatJob.record (j : MatJob) : List Byte :=
  padTo 32 (wordBytes j.block) ++ leBytes 4 j.pc.toNat
    ++ leBytes 4 (j.major + 2 ^ 7 * j.done + 2 ^ 14 * j.token + 2 ^ 17 * j.lane + 2 ^ 22 * j.bsel) ++ leBytes 24 0
    ++ (if j.major = 0x65 then padTo (j.block.getD 5 0).toNat j.scaleA ++ padTo 64 j.scaleB else [])

/-- An ACCST record (R294). -/
def StoreJob.record (j : StoreJob) : List Byte :=
  padTo 16 (wordBytes j.block) ++ leBytes 4 j.pc.toNat ++ leBytes 4 (j.done + 2 ^ 8 * j.token) ++ leBytes 8 0

/-- Unfinished operations of a gang on a token: what its count is once the finished ones have fallen away. -/
def Crew.pendingOn (k : Crew) (g t : Nat) : Nat :=
  ((k.savedCopies.filter fun j => sameGang j.unit (.gang g 0) && j.token == t && j.fault.isNone).map
      LaneCopy.group).eraseDups.length
    + (k.savedMats.filter fun j => sameGang j.unit (.gang g 0) && j.token == t && !j.failed).length
    + (k.savedStores.filter fun j => sameGang j.unit (.gang g 0) && j.token == t && j.fault.isNone).length

/-- First place and number of the elements of a list that belong to a gang, the list being in gang order. -/
def spanOf {α : Type} (l : List α) (unit : α → UnitKind) (g : Nat) : Nat × Nat :=
  ((l.takeWhile fun x => match unit x with
      | .gang h _ => decide (h < g)
      | .bin _ => true).length, (l.filter fun x => sameGang (unit x) (.gang g 0)).length)

/-- A gang record (R294). -/
def Crew.gangRecord (k : Crew) (g : Nat) : List Byte :=
  let cs := spanOf k.savedCopies LaneCopy.unit g
  let ms := spanOf k.savedMats MatJob.unit g
  let ss := spanOf k.savedStores StoreJob.unit g
  let mask := ((List.range 8).map fun t => if (k.tokens (.gang g 0)).deferred.any fun d => d.token == t then 2 ^ t else 0).sum
  ((List.range 8).flatMap fun t => leBytes 1 (k.pendingOn g t)) ++ leBytes 1 mask ++ leBytes 3 0
    ++ leBytes 4 cs.1 ++ leBytes 4 cs.2
    ++ (if ms.2 = 0 then leBytes 4 0xFFFFFFFF
        else leBytes 4 ((k.savedMats.take ms.1).map MatJob.recordBytes).sum) ++ leBytes 4 ms.2
    ++ leBytes 4 ss.1 ++ leBytes 4 ss.2 ++ leBytes 28 0

/-- A crew barrier's 136 bytes (R295). -/
def Barrier.record (b : Barrier) : List Byte :=
  leBytes 4 b.phase.toNat ++ leBytes 4 0 ++ (List.range 128).map fun i =>
    BitVec.ofNat 8 ((List.range 8).map fun j => if b.arrived.contains (8 * i + j) then 2 ^ j else 0).sum

/-- The register that a slot's row `i` holds for lane `j`. -/
def Crew.slotReg (k : Crew) (b : Nat) (owners : List Nat) (i j : Nat) : Reg :=
  match owners.find? fun p => (k.fibre p).home == j with
  | some p => (k.fibre p).reg (8 * b + i)
  | none => Reg.zero

/-- The 1,056 bytes of a block slot: value plane, sticky plane (R295). -/
def Crew.slotBytes (k : Crew) (b : Nat) (owners : List Nat) : List Byte :=
  ((List.range 8).flatMap fun i => (List.range 32).flatMap fun j => leBytes 4 (k.slotReg b owners i j).val.toNat)
    ++ (List.range 32).map fun q =>
      BitVec.ofNat 8 ((List.range 8).map fun x =>
        if (k.slotReg b owners (q / 4) (8 * (q % 4) + x)).s then 2 ^ x else 0).sum

/-- A slot is written by this save: a block of it is dirty, it is new or has other owners, the slots have moved, or the crew
is on a new core (R296). -/
def Crew.slotDirty (k : Crew) (slotAt s b : Nat) (owners : List Nat) : Bool :=
  k.allDirty || k.slotAt != slotAt || k.slotOwners[s]? != some (b :: owners)
    || owners.any fun p => (k.fibre p).dirty.contains b

/-- The 67,584 bytes of a tile slot (R295). -/
def Crew.tileBytes (k : Crew) (t : Nat) : List Byte :=
  let es := k.tileRow t
  let a := es.toArray
  es.flatMap (fun e => leBytes 4 e.val.toNat) ++ (List.range 2048).map fun q =>
    BitVec.ofNat 8 ((List.range 8).map fun x => if (a.getD (8 * q + x) Reg.zero).s then 2 ^ x else 0).sum

/-- A tile slot is written by this save: it has been written since the last, the slots have moved, or the last save had none,
being a sequencer's (R229, R263, R296). -/
def Crew.tileSaved (k : Crew) (tileAt t : Nat) : Bool :=
  k.tileDirty.contains t || k.saveSeq == 0 || k.tileAt != tileAt || k.stamps.length != k.slotOwners.length + k.tileCount

/-- The full/empty bitmap (R295). -/
def Crew.bitmap (k : Crew) : List Byte :=
  (List.range ((k.desc.scrSize + 127) / 128)).map fun i =>
    BitVec.ofNat 8 ((List.range 8).map fun j => if k.full.contains (8 * i + j) then 2 ^ j else 0).sum

/-- The code of a pending migration (R291). -/
def pendingCode : Option Kind → Nat
  | some .latency => 1
  | some _ => 2
  | none => 0

/-- The 256 bytes of the header (R291). -/
def Crew.header (k : Crew) (low : Nat) (points : Bool) (seq : DWord) (view : BitVec 512) : List Byte :=
  let d := k.desc
  let c := k.counts
  let state := low + 2 ^ 2 * k.kind.code + 2 ^ 4 * pendingCode k.pending + 2 ^ 6 * points.toNat + 2 ^ 7 * k.pair.isSome.toNat
    + 2 ^ 8 * k.mirror.toNat
  leBytes 4 state ++ leBytes 4 d.asid ++ leBytes 8 seq.toNat ++ leBytes 8 d.codeBase.toNat ++ leBytes 4 d.entry
    ++ leBytes 4 d.mode.toNat ++ leBytes 4 d.x ++ leBytes 4 d.y ++ leBytes 4 d.z ++ leBytes 4 d.ncrewx
    ++ leBytes 8 d.args.toNat ++ leBytes 8 d.stkBase.toNat ++ leBytes 4 d.stkStride.toNat
    ++ leBytes 4 (d.regsD + 2 ^ 8 * d.regsL) ++ leBytes 4 c.nfibre ++ leBytes 4 c.ngang ++ leBytes 4 c.ncopy
    ++ leBytes 4 c.mbytes ++ leBytes 4 c.naccst ++ leBytes 4 c.nblock ++ leBytes 4 c.scrsz ++ leBytes 4 c.acccnt
    ++ leBytes 8 k.faultSeq.toNat ++ leBytes 16 0 ++ leBytes 64 view.toNat ++ leBytes 64 0

/-! ## Saving (R289 to R296) -/

/-- Bytes written at an offset of a crew's context area. -/
def State.writeCtx (s : State) (k : Crew) (off : Nat) (bs : List Byte) : State :=
  s.poke k.core k.desc.asid ((k.desc.ctx.toNat + off) % 2 ^ 64) (bs.length / 2 ^ 16 + 2) bs

/-- The feature view of a crew's launch (R329). -/
def State.viewOf (s : State) (k : Crew) : BitVec 512 := (s.launches[k.desc.launch]?.map Launch.view).getD 0

/-- The errors that stand in a crew's registers, scratchpad and tiles: ECC unit and number (R337). -/
def errorOf (c : Nat) : Poison → Option (Nat × Nat)
  | .register x _ r => if x = c then some (0, r) else none
  | .sticky x _ r => if x = c then some (1, r) else none
  | .scratch x w => if x = c then some (2, 4 * w) else none
  | .acc x e => if x = c then some (5, 4 * e) else none
  | _ => none

/-- A save reads all that a crew holds: single-bit errors are corrected, errors that a mirror serves and those that no instruction
consumes are logged (R337, R338). -/
def State.readAll (s : State) (c : Nat) (k : Crew) : State :=
  let weak := s.rel.correctable.filterMap fun p => (errorOf c p).map fun e => (p, e)
  let hard := s.rel.poison.filterMap (errorOf c)
  let s := weak.foldl (fun t x => t.logCrew 1 x.2.1 c x.2.2)
    (if weak.isEmpty then s else { s with rel := { s.rel with correctable := s.rel.correctable.filter fun p => (errorOf c p).isNone } })
  hard.foldl (fun (t : State) (e : Nat × Nat) => if e.1 ≤ 1 ∧ k.mirror = true ∧ s.mirroring k.core = true then t.logCrew 2 e.1 c e.2
    else t.logSilent e.1 c e.2) s

/-- A crew saved in its area with STATE[1:0] as told; its dirty bits and stamps follow (R291 to R296). Its code is read to tell dovetail
points (R100, R291). -/
def State.saveCrew (s0 : State) (c low : Nat) : State :=
  match s0.crews[c]? with
  | none => s0
  | some k0 =>
    let s := (s0.readAll c k0).peekedAll k0.desc.asid (k0.fibres.flatMap (s0.atPointReads k0))
    let k := k0.withLooseFaults
    let seq := k.saveSeq + 1
    let lay := k.counts.layout
    let slots := k.slots
    let stampOf := fun i => k.stamps.getD i 0
    let seqW : Word := seq.extractLsb' 0 32
    let slotStamps := slots.zipIdx.map fun x =>
      if k.slotDirty lay.slot x.2 x.1.1 x.1.2 then seqW else stampOf x.2
    let tileStamps := (List.range k.tileCount).map fun t =>
      if k.tileSaved lay.tile t then seqW else stampOf (k.slotOwners.length + t)
    let s := s.writeCtx k 0 (k.header low (s.allAtPoints k) seq (s.viewOf k))
    let s := s.writeCtx k fibreAt (k.recorded.flatMap fun i => (k.fibre i).record k.kind (k.firstSlot i))
    let s := s.writeCtx k lay.gang ((List.range k.gangs.length).flatMap k.gangRecord)
    let s := s.writeCtx k lay.copy (k.savedCopies.flatMap LaneCopy.record)
    let s := s.writeCtx k lay.mat (k.savedMats.flatMap MatJob.record)
    let s := s.writeCtx k lay.accst (k.savedStores.flatMap StoreJob.record)
    let s := s.writeCtx k lay.bar (k.barriers.flatMap Barrier.record)
    let s := s.writeCtx k lay.bench (wordBytes k.bench)
    let s := s.writeCtx k lay.stamp (wordBytes (slotStamps ++ tileStamps))
    let s := slots.zipIdx.foldl (fun t x =>
      if k.slotDirty lay.slot x.2 x.1.1 x.1.2 then t.writeCtx k (lay.slot + 1056 * x.2) (k.slotBytes x.1.1 x.1.2) else t) s
    let s := s.writeCtx k lay.scr (getBytes k.scr 0 k.desc.scrSize)
    let s := s.writeCtx k lay.bitmap k.bitmap
    let s := (List.range k.tileCount).foldl (fun t i =>
      if k.tileSaved lay.tile i then t.writeCtx k (lay.tile + 67584 * i) (k.tileBytes i) else t) s
    s.modCrew c fun w0 => let w := if low = 2 then w0.withLooseFaults else w0; { w with
      saveSeq := seq, stamps := slotStamps ++ tileStamps, slotOwners := slots.map fun x => x.1 :: x.2, allDirty := false,
      slotAt := lay.slot, tileAt := lay.tile, tileDirty := [],
      fibres := w.fibres.map fun f => { f with dirty := [] } }

/-- A save of a crew would reach a line, of its area or of the code that it reads, that an engine or an accepted part owns (R113, R153). -/
def State.saveHeld (s : State) (k : Crew) : Bool :=
  s.areaHeld k.desc.asid k.desc.ctx.toNat k.counts.layout.top true || s.readsHeld k.desc.asid (k.fibres.flatMap (s.atPointReads k))

/-- A crew has reached its stopping points: no unit is inside a placed instruction or a GENBUMP, its placed parts have taken
effect, and the copies of its loose bins have run to completion (R289); and it can be saved now. -/
def State.stoppable (s : State) (c : Nat) : Bool :=
  match s.crews[c]? with
  | none => false
  | some k =>
    k.status == .resident && s.parts.all (fun p => p.crew != c) && s.bumps.all (fun b => b.unit.crew != c)
      && k.fibres.all (fun f => !f.live || f.accepted.isNone || f.wait == .inDelivery || f.wait == .behindFault) && !s.saveHeld k
      && k.copies.all fun j => j.fault.isSome || decide (j.len ≤ j.done) || (match j.unit with
        | .gang _ _ => true
        | .bin _ => false)

/-- Every copy of a crew has stopped, and paired copies match and can drain (R289, R159). -/
def State.copiesStop (s : State) (c : Nat) : Bool :=
  (s.copiesOf c).all s.stoppable && (match s.copiesOf c with
    | [a, b] => match s.crews[a]?, s.crews[b]? with
      | some k, some k' => sameSignature k k' && !s.pairHeld a
      | _, _ => false
    | _ => true)

/-- A full fence of device scope by every live fibre of a crew, as a checkpoint, a pre-emption and the resumption after it are (R146). -/
def State.fenceCrew (s : State) (c : Nat) : State :=
  match s.crews[c]? with
  | none => s
  | some k => s.fenceAll 0 4 (((List.range k.fibres.length).filter fun i => (k.fibre i).live).map fun i => (c, i))

/-- A saved crew gives up its core, with whatever errors stood in its registers, scratchpad and tiles, and is charged its
residency; the move is a full fence of each of its fibres (R146, R269, R289). -/
def State.leave (s : State) (c : Nat) (dest : CrewStatus) : State :=
  match s.crews[c]? with
  | none => s
  | some k =>
    let last := s.residency k
    let q := (s.launches[k.desc.launch]?.map Launch.queue).getD 0
    let s := (s.fenceCrew c).modCrew c fun k => { k with
      status := dest, cost := k.cost + last, preempting := false, returning := false,
      copies := k.copies.map fun j => { j with line := none, bytes := none }
      stores := k.stores.map fun j => { j with lines := [] }
      fibres := k.fibres.map fun f => { f with cols := [] } }
    let s : State := { s with rel := { s.rel with poison := s.rel.poison.filter fun p => (errorOf c p).isNone } }
    ((s.charge q (-(last : Int))).leaveCore c).settleCrew c

/-- A crew, with its other copy, stopped, compared and drained, saved, and taken off its core (R289). -/
def State.takeOff (s : State) (c : Nat) (dest : CrewStatus) : State :=
  let s := s.drainPair ((s.copiesOf c).headD c)
  (s.copiesOf c).foldl (fun t i => ((t.saveCrew i 2).leave i dest)) s

/-! ## CKPT, pre-emption, checkpoints, moves -/

/-- A checkpoint of a crew that stays where it is: a full fence of device scope for each of its fibres (R146, R298). -/
def State.checkpoint (s : State) (c : Nat) : State :=
  match s.crews[c]? with
  | none => s
  | some k => ((s.saveCrew c 1).fenceCrew c).clearL1 k.core

/-- CKPT: the crew saved without moving it; a full fence of device scope and a comparison point (R298, R146). -/
def bodyCkpt (c : Ctx) (s : State) : Eff :=
  if c.act.isEmpty then .next s
  else if ¬ s.stoppable c.u.crew then c.waitFor .held s
  else match c.compare s with
    | some e => e
    | none => .next ((c.compared s).checkpoint c.u.crew)

/-- HALT ends the launch with cause HALT; a comparison point (R299). -/
def bodyHalt (c : Ctx) (s : State) : Eff :=
  if c.act.isEmpty then .next s
  else match c.compare s with
    | some e => e
    | none => .endLaunch s causeHalt

/-- PREEMPTION: a crew, with its other copy, stops at its stopping points, is saved and leaves its core; until it has stopped
its units issue nothing new; n the crew (R289). -/
def evPreemption (a : EvArg) (s : State) : State :=
  match s.crews[a.n]? with
  | none => s
  | some k =>
    if k.status ≠ .resident then s
    else
      let s := (s.copiesOf a.n).foldl (fun t i => t.modCrew i fun k => { k with preempting := true }) s
      if s.copiesStop a.n then s.takeOff a.n .saved else s

/-- FIRMWARE_CHECKPOINT: the checkpoint of CKPT on firmware's request, of both copies of a paired crew; n the crew (R298). -/
def evFirmwareCheckpoint (a : EvArg) (s : State) : State :=
  if ¬ s.copiesStop a.n then s
  else (s.copiesOf a.n).foldl State.checkpoint (s.drainPair ((s.copiesOf a.n).headD a.n))

/-- Every live fibre of a crew is stopped at a dovetail point under its pending request (R258). -/
def Crew.allStopped (k : Crew) : Bool :=
  k.status == .resident && k.pending.isSome && k.fibres.any Fibre.live && k.fibres.all fun f => !f.live || f.wait == .dovetail

/-- A crew migrates now: every copy of it is stopped. -/
def State.canMigrate (s : State) (c : Nat) : Bool :=
  (s.copiesOf c).all (fun i => (s.crews[i]?.map Crew.allStopped).getD false) && s.copiesStop c

/-- MIGRATION: the crew is saved as by pre-emption and waits for a core of the requested kind; n the crew (R258). -/
def evMigration (a : EvArg) (s : State) : State :=
  match s.crews[a.n]? with
  | none => s
  | some k =>
    if s.canMigrate a.n then s.takeOff a.n (.moving (k.pending.getD k.kind)) else s

/-- A crew takes its return trap now. -/
def State.canReturn (s : State) (c : Nat) : Bool :=
  (s.copiesOf c).all (fun i => (s.crews[i]?.map Crew.returning).getD false) && s.copiesStop c

/-- RETURN_TRAP: a sequencer's crew is saved as by pre-emption and waits for a density core; n the crew (R265). -/
def evReturnTrap (a : EvArg) (s : State) : State :=
  if s.canReturn a.n then s.takeOff a.n (.moving .density) else s

/-! ## Faults held back (R284) -/

/-- A held fault can be delivered: its crew is on a core that runs handlers and has room for the handler's window, and no line of its
record is owned. -/
def State.canDeliver (s : State) (c : Nat) : Bool :=
  match s.crews[c]? with
  | none => false
  | some k => match k.heldFault with
    | none => false
    | some h =>
      k.status == .resident && k.kind != .sequencer && !k.returning && !k.preempting && !s.recordHeld k && (match s.handler? k.desc.asid h.cause.toNat k.kind with
        | none => true
        | some (_, _, blocks) =>
          let f : Fibre := { Fibre.empty with live := true, bound := false, home := h.home, size := blocks }
          ((s.modCrew c fun k => { k with fibres := k.fibres ++ [f] }).allotLoose c [k.fibres.length]).coreFits k.core)

/-- FAULT_DELIVERY: the record of a held fault is written and its handler created; n the crew (R284). -/
def evFaultDelivery (a : EvArg) (s : State) : State :=
  match (s.crews[a.n]?).bind Crew.heldFault with
  | some h => if s.canDeliver a.n then s.deliver a.n h else s
  | none => s

/-! ## Register deadlock (R36) -/

/-- A unit is stalled in a REGACQ.wait or a waiting FORK, or by a handler whose window finds no room (R36, R284). -/
def State.blockStalled (s : State) (k : Crew) (u : UnitKind) : Bool :=
  let held := k.heldFault.isSome && !s.recordHeld k
  (held && k.faultStops u) || (match (k.lead u).wait with
    | .blocks => true
    | .behindFault => held
    | _ => false)

/-- A unit waits at a crew barrier at which a fibre of one of the units told has still to arrive, or at a barrier object that has
not flipped while one of them is stalled: which units an object waits for the spec has no rule to tell, and any may arrive there
(R36; DEDUCED, log 50). -/
def State.needs (s : State) (c : Nat) (k : Crew) (us : List UnitKind) (u : UnitKind) : Bool :=
  match (k.lead u).wait with
  | .bar n _ =>
    let b := k.barriers.getD n { phase := false, arrived := [] }
    k.fibres.any fun f => f.live && f.bound && !b.arrived.contains f.ident && us.contains f.unit
  | .object => !us.isEmpty && s.wouldWait { crew := c, kind := u }
  | _ => false

/-- The units of a crew that are stalled, or wait at a barrier whose completion needs one that is (R36). -/
def State.stalledUnits (s : State) (c : Nat) (k : Crew) : Nat → List UnitKind
  | 0 => k.kinds.filter (s.blockStalled k)
  | n + 1 =>
    let us := s.stalledUnits c k n
    k.kinds.filter fun u => us.contains u || s.needs c k us u

/-- Every unit and bin of a crew is stalled as R36 has it. -/
def State.crewStalled (s : State) (c : Nat) : Bool :=
  match s.crews[c]? with
  | none => true
  | some k =>
    !k.preempting && !k.returning && k.idleBins.isEmpty
      && (let us := s.stalledUnits c k k.kinds.length; k.kinds.all us.contains)
      && (k.heldFault.isNone || k.kind != .sequencer)

/-- A core raises REG-DEADLOCK: every unit and bin is stalled, nothing returns blocks, and a request waits that cannot be
granted (R36, R284). -/
def State.regDeadlocked (s : State) (core : Nat) : Bool :=
  (s.residents core).all s.crewStalled && (s.handlerWaits core || !(s.requestsOn core).isEmpty) && !s.canGrant core
    && (s.residents core).all fun c => !s.canDeliver c

/-- The unit that a request waits for: that of the first of its fibres which still waits. -/
def State.unitOf (s : State) (r : Request) : UnitId :=
  { crew := r.crew, kind := (((s.crews[r.crew]?).map fun k => k.fibre ((s.waitersOf r).headD (r.members.headD 0))).getD Fibre.empty).unit }

/-- The record of a REG-DEADLOCK at a request's instruction (R285, R286), unless a handler of the crew runs. -/
def State.recordDeadlock (s : State) (r : Request) : State :=
  match s.crews[r.crew]?, (s.waiting? (s.unitOf r)).map Prod.fst with
  | some k, some c =>
    if k.delivery.isSome then s
    else
      let f := c.fibre (c.all.headD 0)
      let x := c.faultInfo causeRegDeadlock 0 r.asked (c.act.map c.lane) []
      let seq := k.faultSeq + 1
      (s.modCrew r.crew fun k => { k with faultSeq := seq }).writeCtx k 0x100 (s.faultRecord k (s.unitOf r).kind f x seq)
  | _, _ => s

/-- REG_DEADLOCK: the crew whose held fault has no room, else the crew of the oldest request, is pre-empted at its stopping
points, to be placed again with room for what it asks, as its columns would lie; alone on its core, its launch ends; n the core
(R35, R36, R284, R289). -/
def evRegDeadlock (a : EvArg) (s : State) : State :=
  if ¬ s.regDeadlocked a.n then s
  else
    let held := (s.residents a.n).find? fun c => ((s.crews[c]?).bind Crew.heldFault).isSome
    let req := (s.requestsOn a.n).head?
    match held.orElse (fun _ => req.map Request.crew) with
    | none => s
    | some c => match s.crews[c]? with
      | none => s
      | some k =>
        if s.recordHeld k then s
        else if (s.residents a.n).length ≤ 1 then s.endLaunch k.desc.launch causeRegDeadlock
        else
          let s := match held, req with
            | none, some r => (s.recordDeadlock r).modCrew c fun k => { k with reserve := s.blocksWith a.n r - s.blocksUsed a.n }
            | _, _ => s
          evPreemption { n := c } s

end Sys2Proof.Machine
end

