-- ==== Sys2Proof/Machine/RestoreOps.lean ====
section
/-!
DEFINITION. Checking a saved context and restoring it (19 R290, R293 to R297; 17 R248, R258, R259).
-/
namespace Sys2Proof.Machine

/-! ## Reading a context area -/

/-- Bytes at a VA page by page; a page that does not translate reads 0. -/
def State.peekMany (s : State) (asid : Nat) : Nat → Nat → Nat → List Byte
  | 0, _, _ => []
  | fuel + 1, va, n =>
    if n = 0 then []
    else
      let m := min n (2 ^ 16 - va % 2 ^ 16)
      (match s.peek asid true va m with
        | some b => b
        | none => List.replicate m 0) ++ s.peekMany asid fuel (va + m) (n - m)

/-- Bytes of a crew's context area. -/
def State.readCtx (s : State) (k : Crew) (off n : Nat) : List Byte :=
  s.peekMany k.desc.asid (n / 2 ^ 16 + 2) ((k.desc.ctx.toNat + off) % 2 ^ 64) n

/-- A number in a crew's context area. -/
def State.ctxNat (s : State) (k : Crew) (off n : Nat) : Nat := leNat (s.readCtx k off n)

/-- A number in a record. -/
def recNat (b : List Byte) (off n : Nat) : Nat := leNat ((b.drop off).take n)

/-- The counts that a header gives (R291). -/
def State.ctxCounts (s : State) (k : Crew) : Counts :=
  let w := fun o => s.ctxNat k o 4
  { nfibre := w 0x48, ngang := w 0x4C, ncopy := w 0x50, mbytes := w 0x54, naccst := w 0x58, nblock := w 0x5C,
    scrsz := w 0x60, acccnt := w 0x64 }

/-! ## Checks (R297) -/

/-- The first offset whose check fails. -/
def firstBad (l : List (Nat × Bool)) : Option Nat := (l.find? fun x => !x.2).map Prod.fst

/-- Fibre records that hold a live fibre. -/
def State.liveRecords (s : State) (k : Crew) (n : Nat) : Nat :=
  ((List.range (min n 2049)).filter fun i => bitsAt (s.ctxNat k (fibreAt + 32 * i + 0x14) 4) 30 1 == 1).length

/-- The header's checks, for a destination of a kind (R291, R297); of the feature view, that no bit of it is missing (R329). -/
def State.headerBad (s : State) (k : Crew) (dest : Kind) : Option Nat :=
  let w := fun o => s.ctxNat k o 4
  let st := w 0
  let c := s.ctxCounts k
  let view := s.viewOf k
  let ws := (s.launches[k.desc.launch]?.map Launch.words).getD []
  firstBad
    ([(0x00, (bitsAt st 0 2 == 1 || bitsAt st 0 2 == 2) && bitsAt st 2 2 == k.kind.code && bitsAt st 4 2 != 3
        && bitsAt st 7 1 == k.pair.isSome.toNat && bitsAt st 9 23 == 0),
     (0x04, w 4 == k.desc.asid),
     (0x18, decide (w 0x18 < min 4096 (s.entryCount k.desc.asid (s.ctxNat k 0x10 8)))),
     (0x20, decide (w 0x20 < pktX ws)), (0x24, decide (w 0x24 < pktY ws)), (0x28, decide (w 0x28 < pktZ ws)),
     (0x2C, w 0x2C == pktX ws),
     (0x44, decide (bitsAt (w 0x44) 0 8 ≤ 8) && decide (bitsAt (w 0x44) 8 8 ≤ 32) && bitsAt (w 0x44) 16 16 == 0),
     (0x48, decide (32 * c.ngang ≤ c.nfibre) && decide (c.nfibre ≤ 2049)
        && decide (s.liveRecords k c.nfibre ≤ dest.maxFibres + 1)),
     (0x4C, c.ngang == k.gangs.length && decide (c.ngang ≤ dest.maxGangs)),
     (0x50, decide (c.ncopy ≤ 4096)),
     (0x54, decide (c.mbytes ≤ 135168)),
     (0x58, decide (c.naccst ≤ 32)),
     (0x5C, decide (c.nblock ≤ if dest.isL = k.kind.isL then dest.blocks else k.kind.blocks)),
     (0x60, c.scrsz == k.desc.scrSize),
     (0x64, c.acccnt == k.tileCount),
     (0x70, s.ctxNat k 0x70 16 == 0)]
      ++ ((List.range 64).map fun i => (0x80 + i,
        (BitVec.ofNat 8 (s.ctxNat k (0x80 + i) 1) &&& ~~~(view.extractLsb' (8 * i) 8)) == 0))
      ++ [(0xC0, s.ctxNat k 0xC0 64 == 0)])

/-- Dovetail indices that a code object defines (R256). -/
def State.doveCount (s : State) (asid base : Nat) : Nat := ((s.section? asid base 4).map fun x => x.2 / 4).getD 0

/-- Checks of a fibre record at offset `at_` (R293), with the dovetail indices that the crew's code object defines: what a handler's
record names is of its own code object. -/
def fibreChecks (kind : Kind) (c : Counts) (doves : Nat) (i at_ : Nat) (b : List Byte) : List (Nat × Bool) :=
  let bound := decide (i < 32 * c.ngang)
  let w := recNat b 0x14 4
  let x := recNat b 0x18 4
  let y := recNat b 0x1C 4
  let live := bitsAt w 30 1 == 1
  [(at_ + 0x14, (bitsAt w 23 1 == 1) == bound && (!bound || bitsAt w 15 5 == i % 32) && (bound || live)
      && (!live || (decide (1 ≤ bitsAt w 9 6) && decide (bitsAt w 9 6 ≤ kind.maxWindow)
        && decide (bitsAt w 0 9 + bitsAt w 9 6 ≤ c.nblock))) && decide (bitsAt w 20 3 ≤ 4)),
   (at_ + 0x18, (if bound then bitsAt x 20 12 == i / 32 else decide (bitsAt x 20 12 < 32 * c.ngang))
      && decide (bitsAt x 12 3 ≤ 5)
      && ((bitsAt x 1 11 == 0 && bitsAt x 0 1 == 0) || bitsAt y 25 1 == 1 || decide (bitsAt x 1 11 < doves))),
   (at_ + 0x1C, bitsAt y 26 6 == 0 && (bitsAt y 25 1 == 0 || !bound))]

/-- Checks of a gang record (R294): its counts are those of its unfinished operations, and its first matrix record begins where one
does. -/
def gangChecks (k : Crew) (c : Counts) (mats : List Nat) (g at_ : Nat) (b : List Byte) : List (Nat × Bool) :=
  ((List.range 8).map fun t => (at_ + t, (k.tokens (.gang g 0)).counts.getD t 0 == k.pendingOn g t)) ++
  [(at_ + 9, recNat b 9 3 == 0),
   (at_ + 0x0C, decide (recNat b 0x0C 4 + recNat b 0x10 4 ≤ c.ncopy)),
   (at_ + 0x14, if recNat b 0x18 4 = 0 then recNat b 0x14 4 == 0xFFFFFFFF
      else mats.contains (recNat b 0x14 4) && decide (recNat b 0x18 4 ≤ (mats.filter (recNat b 0x14 4 ≤ ·)).length)),
   (at_ + 0x1C, decide (recNat b 0x1C 4 + recNat b 0x20 4 ≤ c.naccst)),
   (at_ + 0x24, recNat b 0x24 28 == 0)]

/-- Checks of a copy record (R294). -/
def copyChecks (c : Counts) (at_ : Nat) (b : List Byte) : List (Nat × Bool) :=
  let w := recNat b 0x14 4
  let n := bselBytes (bitsAt w 0 2)
  let form := bitsAt w 2 2
  let inScr := fun o => decide (recNat b o 8 + n ≤ c.scrsz)
  [(at_, srcGlobal form || inScr 0), (at_ + 8, dstGlobal form || inScr 8),
   (at_ + 0x14, decide (bitsAt w 0 2 < 3) && bitsAt w 26 6 == 0),
   (at_ + 0x18, recNat b 0x18 8 == 0)]

/-- Checks of an ACCST record (R294): a scratchpad destination lies in the crew's scratchpad. -/
def storeChecks (c : Counts) (at_ : Nat) (b : List Byte) : List (Nat × Bool) :=
  let w := recNat b 0x14 4
  let x : Word := BitVec.ofNat 32 (recNat b 8 4)
  [(at_, !storeScratch x || decide (recNat b 0 4 + 127 * storePitch x + 128 * fmtBytes (storeFmt x) ≤ c.scrsz)),
   (at_ + 8, decide (bitsAt (recNat b 8 4) 0 7 < c.acccnt)), (at_ + 0x14, decide (bitsAt w 0 8 < 128) && bitsAt w 11 21 == 0),
   (at_ + 0x18, recNat b 0x18 8 == 0)]

/-- Bytes that the matrix record at the head of a section takes (R294). -/
def matLength (b : List Byte) : Nat :=
  if bitsAt (recNat b 0x24 4) 0 7 = 0x65 then 128 + recNat b 0x14 4 else 64

/-- Where the records of the matrix section begin, from an offset (R294). -/
def matStarts : Nat → Nat → List Byte → List Nat
  | 0, _, _ => []
  | fuel + 1, at_, b => if b.isEmpty then [] else at_ :: matStarts fuel (at_ + matLength b) (b.drop (matLength b))

/-- Checks of the matrix section, record by record (R294). -/
def matChecks (c : Counts) : Nat → Nat → List Byte → List (Nat × Bool)
  | 0, _, _ => []
  | fuel + 1, at_, b =>
    if b.isEmpty then []
    else
      let w := recNat b 0x24 4
      let mj := bitsAt w 0 7
      let kk := recNat b 0x14 4
      [(at_ + 0x10, decide (recNat b 0x10 4 < c.acccnt)),
       (at_ + 0x14, decide (0 < kk) && decide (kk ≤ 4096) && kk % 128 == 0),
       (at_ + 0x24, decide (0x63 ≤ mj) && decide (mj ≤ 0x68) && decide (128 * bitsAt w 7 7 < kk) && bitsAt w 24 8 == 0),
       (at_ + 0x28, recNat b 0x28 24 == 0 && decide (matLength b ≤ b.length))]
        ++ (if mj = 0x65 then [(at_ + 0x40 + kk + kk / 128, leNat (((b.drop (0x40 + kk)).take 64).drop (kk / 128)) == 0)] else [])
        ++ matChecks c fuel (at_ + matLength b) (b.drop (matLength b))

/-- Checks of a barrier's bytes (R295). -/
def barrierChecks (c : Counts) (at_ : Nat) (b : List Byte) : List (Nat × Bool) :=
  [(at_, decide (recNat b 0 4 ≤ 1)), (at_ + 4, recNat b 4 4 == 0),
   (at_ + 8, decide (leNat (b.drop 8) < 2 ^ (32 * c.ngang)))]

/-! ## Parsing (R290, R293 to R295) -/

/-- The registers of a fibre from its block slots (R295). -/
def State.ctxRegs (s : State) (k : Crew) (slotAt first size home : Nat) : List Reg :=
  (List.range size).flatMap fun b => (List.range 8).map fun i =>
    let at_ := slotAt + 1056 * (first + b)
    { val := BitVec.ofNat 32 (s.ctxNat k (at_ + 128 * i + 4 * home) 4)
      s := bitsAt (s.ctxNat k (at_ + 1024 + 4 * i + home / 8) 1) (home % 8) 1 == 1 }

/-- A wait from its code (R293): a fibre that a barrier counts as arrived waits there again. -/
def waitOf (code ident : Nat) (bars : List Barrier) : Wait :=
  match code with
  | 1 => match bars.findIdx? fun b => b.arrived.contains ident with
    | some n => .bar n (bars.getD n { phase := false, arrived := [] }).phase
    | none => .none
  | 2 => .object
  | 3 => .granule
  | 5 => .dovetail
  | _ => .none

/-- A loose copy fault of which the record's bit alone is known (R293): what it tells the spec leaves to the device (DESIGN CHOICE,
log 24). -/
def lostFault (kind : Kind) (pc hdr : Word) : Deferred :=
  { token := 0, kind := kind, pc := pc, hdr := hdr, cause := BitVec.ofNat 8 causeTranslation, info := 0, active := [], entries := [],
    word := 0, ext := 0, group := 0 }

/-- A fibre from its record; `t` gives what the device keeps beside the record, such as that its part of a placed instruction whose
replay has failed in other lanes stands (R113; DESIGN CHOICE, log 13), or the REP over a word whose repeat 0 has begun, of which a record
with index 0 tells nothing (R56; DESIGN CHOICE, log 53). Inside a clause its header is read again, and its
token wait made again before its instruction (R45). -/
def State.ctxFibre (s : State) (k : Crew) (bars : List Barrier) (slotAt nb i : Nat) (t : Fibre) : Fibre :=
  let b := s.readCtx k (fibreAt + 32 * i) 32
  let w := recNat b 0x14 4
  let x := recNat b 0x18 4
  let y := recNat b 0x1C 4
  let bound := decide (i < nb)
  let ident := if bound then i else bitsAt x 20 12
  let home := bitsAt w 15 5
  let size := bitsAt w 9 6
  let idx := bitsAt w 24 6
  let code := bitsAt x 12 3
  let handler := bitsAt y 25 1 == 1
  let codeBase : DWord := if handler && t.handler then t.codeBase else BitVec.ofNat 64 (s.ctxNat k 0x10 8)
  let empty := { Fibre.empty with bound := bound, home := home, gang := ident / 32, ident := ident }
  if bitsAt w 30 1 = 0 then empty
  else
    { empty with
      live := true, priv := bitsAt y 24 1 == 1, handler := handler,
      codeBase := codeBase,
      pc := BitVec.ofNat 32 (recNat b 0 4), hdr := BitVec.ofNat 32 (recNat b 4 4),
      hdrWord := if k.kind.isL ∨ recNat b 0 4 = recNat b 4 4 then 0
        else BitVec.ofNat 32 ((s.peekNat k.desc.asid ((codeBase.toNat + recNat b 4 4) % 2 ^ 64) 4).getD 0),
      preds := BitVec.ofNat 96 (recNat b 8 12), size := size, regs := s.ctxRegs k slotAt (bitsAt w 0 9) size home,
      part := bitsAt w 20 3, sub := t.sub, accepted := t.accepted,
      rep := if idx = 0 then t.rep.filter fun r => r.k == 0 && t.pc.toNat == recNat b 0 4
        else some { (t.rep.getD { count := idx + 1, stepD := 0, stepA := 0, stepB := 0, stepC := 0, k := idx }) with k := idx },
      wait := if t.wait == .inDelivery then .inDelivery else waitOf code ident bars,
      waited := false, nextLane := bitsAt x 15 5, passed := bitsAt x 0 1 == 1,
      didx := bitsAt x 1 11, dcount := bitsAt y 0 24, clkh := t.clkh,
      dflt := if bitsAt w 31 1 = 0 then [] else if t.dflt.isEmpty then
        [lostFault k.kind (BitVec.ofNat 32 (recNat b 0 4)) (BitVec.ofNat 32 (recNat b 4 4))] else t.dflt }

/-- A barrier from its bytes (R295). -/
def barrierOf (b : List Byte) : Barrier :=
  { phase := recNat b 0 4 == 1
    arrived := (List.range 1024).filter fun f => bitsAt (recNat b (8 + f / 8) 1) (f % 8) 1 == 1 }

/-- The gang that a record at a place belongs to, from the gangs' first places and counts. -/
def gangAt (spans : List (Nat × Nat)) (p : Nat) : Nat :=
  (((spans.zipIdx.filter fun x => decide (0 < x.1.2) && decide (x.1.1 ≤ p)).getLast?).map Prod.snd).getD 0

/-- The place of one of a crew's operations in their program order. -/
def Crew.rank (k : Crew) (order : Nat) : Nat :=
  ((k.copies.map LaneCopy.order ++ k.mats.map MatJob.order ++ k.stores.map StoreJob.order).eraseDups.filter (· < order)).length

/-- The order that an operation of a restored crew takes from now, keeping the program order of them all (R132, R239); the `i`-th of
a section where the device has kept none for it. -/
def State.orderAgain (s : State) (k : Crew) (kept : Option Nat) (i : Nat) : Nat :=
  s.tick + (match kept with
    | some o => k.rank o
    | none => 4200 + i)

/-- A lane copy issued again from its record: it owns its line from now (R153, R184, R290). -/
def State.copyOf (s : State) (k : Crew) (t : Option LaneCopy) (gang i : Nat) (b : List Byte) : LaneCopy :=
  let w := recNat b 0x14 4
  let bsel := bitsAt w 0 2
  let j : LaneCopy :=
  { lane := bitsAt w 7 5, form := bitsAt w 2 2, bsel := bsel, len := bselBytes bsel, src := BitVec.ofNat 64 (recNat b 0 8),
    dst := BitVec.ofNat 64 (recNat b 8 8), done := 0, token := bitsAt w 4 3, unit := .gang gang 0, fibre := 32 * gang + bitsAt w 7 5,
    kind := (t.map LaneCopy.kind).getD k.kind,
    priv := (t.map LaneCopy.priv).getD false, pc := BitVec.ofNat 32 (recNat b 0x10 4),
    hdr := (t.map LaneCopy.hdr).getD 0, word := (t.map LaneCopy.word).getD 0, ext := (t.map LaneCopy.ext).getD 0,
    bytes := none, line := none,
    fault := if bitsAt w 12 1 = 1 then some (BitVec.ofNat 8 (bitsAt w 18 8), bitsAt w 13 5) else none,
    order := s.orderAgain k (t.map LaneCopy.order) i, group := (t.map LaneCopy.group).getD (s.tick + i),
    tags := (t.map LaneCopy.tags).getD [] }
  if j.fault.isSome then j else j.retake s k.core k.desc.asid

/-- The first `n` words of a record. -/
def recWords (b : List Byte) (n : Nat) : List Word := (List.range n).map fun i => BitVec.ofNat 32 (recNat b (4 * i) 4)

/-- Matrix operations continued from their records (R240, R290). -/
def State.matsOf (s : State) (k : Crew) (spans : List (Nat × Nat)) : Nat → Nat → Nat → List Byte → List MatJob
  | 0, _, _, _ => []
  | fuel + 1, i, at_, b =>
    if b.isEmpty then []
    else
      let w := recNat b 0x24 4
      let mx := bitsAt w 0 7 = 0x65
      let t := k.savedMats[i]?
      { major := bitsAt w 0 7, block := recWords b 8, lane := bitsAt w 17 5, token := bitsAt w 14 3, bsel := bitsAt w 22 2,
        unit := .gang (gangAt spans at_) 0, kind := (t.map MatJob.kind).getD k.kind, hdr := (t.map MatJob.hdr).getD 0,
        word := (t.map MatJob.word).getD 0, ext := (t.map MatJob.ext).getD 0, failed := t.any MatJob.failed, pc := BitVec.ofNat 32 (recNat b 0x20 4), done := bitsAt w 7 7,
        order := s.orderAgain k (t.map MatJob.order) i,
        scaleA := if mx then (b.drop 0x40).take (recNat b 0x14 4) else [],
        scaleB := if mx then (b.drop (0x40 + recNat b 0x14 4)).take 64 else [] : MatJob }
        ::  s.matsOf k spans fuel (i + 1) (at_ + matLength b) (b.drop (matLength b))

/-- A tile store issued again for its remaining rows, whose lines it owns from now (R153, R240, R290). -/
def State.storeOf (s : State) (k : Crew) (t : Option StoreJob) (gang i : Nat) (b : List Byte) : StoreJob :=
  let w := recNat b 0x14 4
  let j : StoreJob :=
  { block := recWords b 4, kind := (t.map StoreJob.kind).getD k.kind, token := bitsAt w 8 3, lane := (t.map StoreJob.lane).getD 0,
    unit := .gang gang 0, fibre := 32 * gang + (t.map StoreJob.lane).getD 0,
    priv := (t.map StoreJob.priv).getD false, pc := BitVec.ofNat 32 (recNat b 0x10 4),
    hdr := (t.map StoreJob.hdr).getD 0, word := (t.map StoreJob.word).getD 0, ext := (t.map StoreJob.ext).getD 0,
    done := bitsAt w 0 8, lines := [], fault := t.bind StoreJob.fault, order := s.orderAgain k (t.map StoreJob.order) i,
    tags := (t.map StoreJob.tags).getD [] }
  if j.fault.isSome then j else j.retake s k.core k.desc.asid

/-- Accumulator elements from the tile slots (R295). -/
def State.ctxTiles (s : State) (k : Crew) (tileAt n : Nat) : List (Nat × AccElem) :=
  (List.range n).flatMap fun t =>
    let b := (s.readCtx k (tileAt + 67584 * t) 67584).toArray
    (List.range tileElems).filterMap fun e =>
      let v := leWord ((List.range 4).map fun i => b.getD (4 * e + i) 0)
      let st := (b.getD (65536 + e / 8) 0).getLsbD (e % 8)
      let r : AccElem := { val := v, s := st }
      if r = Reg.zero then none else some (t * tileElems + e, r)

/-! ## The map between texts (R248, R258) -/

/-- A fibre at a dovetail point carried to the other text: its window, its mapped registers, where it goes on. -/
def State.mapFibre (s : State) (k : Crew) (f : Fibre) : Fibre :=
  let base := f.codeBase.toNat
  let toL := !k.kind.isL
  let w : Word := BitVec.ofNat 32 ((s.peekNat k.desc.asid (f.codeVa (if k.kind.isL then f.pc + 4 else f.pc)) 4).getD 0)
  let idx := if k.kind.isL then (fld w 0 11).toNat else hdrDidx w
  match (if f.live then s.stateMap? k.desc.asid base idx else none) with
  | none => f
  | some r =>
    let size := recNat r (if toL then 11 else 10) 1
    let pairs := (List.range (min (recNat r 8 2) 64)).map fun i => (recNat r (0x10 + 2 * i) 1, recNat r (0x11 + 2 * i) 1)
    let regs := pairs.foldl (fun l p => if toL then l.set p.2 (f.reg p.1) else l.set p.1 (f.reg p.2)) (newRegs size)
    let pc := if toL then BitVec.ofNat 32 (recNat r 4 4 + 8) else BitVec.ofNat 32 (recNat r 0 4)
    let f := { f with size := size, regs := regs, dirty := List.range size, pc := pc, hdr := pc, wait := .none }
    if toL then { f with passed := true, didx := idx, dcount := 0 } else f

/-! ## Restoring (R290) -/

/-- A bin of one issue, of fibres held together. -/
def heldBin (now : Nat) : Bin := { tokens := Tokens.fresh, issued := true, aged := false, born := now, changed := now }

/-- Loose fibres back in the binner: a faulting group together in an issued bin, a handler alone in one (R28, R284, R290). -/
def Crew.rebinAll (k : Crew) (now : Nat) : Crew :=
  let loose := (List.range k.fibres.length).filter fun i => (k.fibre i).live && !(k.fibre i).bound
  let group := loose.filter fun i => (k.fibre i).wait == .inDelivery
  let handlers := loose.filter fun i => (k.fibre i).handler
  let put := fun (k : Crew) (is : List Nat) =>
    if is.isEmpty then k
    else { k with fibres := modAt is (fun _ f => { f with bin := some k.bins.length }) k.fibres, bins := k.bins ++ [heldBin now] }
  let k := handlers.foldl (fun k i => put k [i]) (put { k with bins := [] } group)
  (loose.filter fun i => !group.contains i && !handlers.contains i).foldl (fun k i => k.enterBin now i) k

/-- The fibres as the area tells them. -/
def State.ctxFibres (s : State) (k : Crew) : List Fibre :=
  let c := s.ctxCounts k
  let bars := (List.range 16).map fun i => barrierOf (s.readCtx k (c.layout.bar + 136 * i) 136)
  (List.range c.nfibre).map fun i => s.ctxFibre k bars c.layout.slot (32 * c.ngang) i (match k.recorded[i]? with
    | some p => k.fibre p
    | none => Fibre.empty)

/-- The crew as its area tells it, for a destination of a kind; a change of text maps every fibre and clears the pending
request (R258, R259, R290). -/
def State.rebuilt (s : State) (k : Crew) (dest : Kind) : Crew :=
  let c := s.ctxCounts k
  let lay := c.layout
  let bars := (List.range 16).map fun i => barrierOf (s.readCtx k (lay.bar + 136 * i) 136)
  let fibres := s.ctxFibres k
  let gr := (List.range c.ngang).map fun g => s.readCtx k (lay.gang + 64 * g) 64
  let span := fun o => gr.map fun b => (recNat b o 4, recNat b (o + 4) 4)
  let st := s.ctxNat k 0 4
  let d := k.desc
  let turned := dest.isL != k.kind.isL
  let k' : Crew := { k with
    desc := { d with
      x := s.ctxNat k 0x20 4, y := s.ctxNat k 0x24 4, z := s.ctxNat k 0x28 4, ncrewx := s.ctxNat k 0x2C 4,
      args := BitVec.ofNat 64 (s.ctxNat k 0x30 8), stkBase := BitVec.ofNat 64 (s.ctxNat k 0x38 8),
      stkStride := BitVec.ofNat 32 (s.ctxNat k 0x40 4), codeBase := BitVec.ofNat 64 (s.ctxNat k 0x10 8),
      entry := s.ctxNat k 0x18 4, mode := BitVec.ofNat 32 (s.ctxNat k 0x1C 4),
      regsD := s.ctxNat k 0x44 1, regsL := s.ctxNat k 0x45 1 }
    fibres := if turned then fibres.map (s.mapFibre k) else fibres
    gangs := gr.zipIdx.map fun x =>
      { counts := (List.range 8).map fun t => recNat x.1 t 1
        deferred := (k.gangs.getD x.2 Tokens.fresh).deferred.filter fun f => bitsAt (recNat x.1 8 1) f.token 1 == 1 }
    scr := putBytes [] 0 (s.readCtx k lay.scr c.scrsz)
    full := (List.range (c.scrsz / 16)).filter fun g => bitsAt (s.ctxNat k (lay.bitmap + g / 8) 1) (g % 8) 1 == 1
    bench := recWords (s.readCtx k lay.bench 256) 64
    barriers := bars
    tiles := s.ctxTiles k lay.tile c.acccnt
    tileDirty := []
    copies := (List.range c.ncopy).map fun i =>
      s.copyOf k k.savedCopies[i]? (gangAt (span 0x0C) i) i (s.readCtx k (lay.copy + 32 * i) 32)
    mats := s.matsOf k (span 0x14) 32 0 0 (s.readCtx k lay.mat c.mbytes)
    stores := (List.range c.naccst).map fun i =>
      s.storeOf k k.savedStores[i]? (gangAt (span 0x1C) i) i (s.readCtx k (lay.accst + 32 * i) 32)
    pending := if turned then none else match bitsAt st 4 2 with
      | 1 => some .latency
      | 2 => some .density
      | _ => none
    mirror := bitsAt st 8 1 == 1
    faultSeq := BitVec.ofNat 64 (s.ctxNat k 0x68 8)
    saveSeq := BitVec.ofNat 64 (s.ctxNat k 0x08 8)
    stamps := recWords (s.readCtx k lay.stamp (4 * (c.nblock + c.acccnt))) (c.nblock + c.acccnt)
    pair := k.pair.map fun p => { p with
      arrived := [], pushed := [], passed := p.passed.filter fun u => match u with
        | .gang _ _ => true
        | .bin _ => false } }
  let k' := (k'.rebinAll s.now).regroupAll
  let unit := ((k'.fibres.find? fun f => f.live && f.wait == .inDelivery).map Fibre.unit)
  { k' with
    delivery := k.delivery.map fun d =>
      { d with unit := unit.getD d.unit, fibre := (k'.fibres.findIdx? Fibre.handler).getD d.fibre }
    heldFault := k.heldFault.map fun h => { h with unit := unit.getD h.unit } }

/-- The checks of every record, in the order of the sections, against the crew that they rebuild (R293 to R295, R297). -/
def State.recordsBad (s : State) (k k' : Crew) : Option Nat :=
  let c := s.ctxCounts k
  let lay := c.layout
  let each := fun (base size n : Nat) (g : Nat → Nat → List Byte → List (Nat × Bool)) =>
    (List.range n).flatMap fun i => g i (base + size * i) (s.readCtx k (base + size * i) size)
  let mats := s.readCtx k lay.mat c.mbytes
  firstBad (each fibreAt 32 c.nfibre (fibreChecks k.kind c (s.doveCount k.desc.asid (s.ctxNat k 0x10 8)))
    ++ each lay.gang 64 c.ngang (gangChecks k' c (matStarts 32 0 mats)) ++ each lay.copy 32 c.ncopy (fun _ => copyChecks c) ++ matChecks c 32 lay.mat mats
    ++ each lay.accst 32 c.naccst (fun _ => storeChecks c) ++ each lay.bar 136 16 (fun _ => barrierChecks c))

/-- STATE[6] is set and some live fibre stands at no dovetail point (R291, R297). -/
def State.pointsBad (s : State) (k : Crew) : Bool :=
  bitsAt (s.ctxNat k 0 4) 6 1 == 1 && !s.allAtPoints { k with fibres := s.ctxFibres k }

/-- The first offset at which a saved context fails the checks of R297, for a core of a kind: one of the other text takes only a
crew whose fibres all stand at dovetail points. -/
def State.ctxBad (s : State) (k : Crew) (dest : Kind) : Option Nat :=
  if s.pointsBad k ∨ (dest.isL ≠ k.kind.isL ∧ bitsAt (s.ctxNat k 0 4) 6 1 = 0) then some 0
  else (s.headerBad k dest).orElse fun _ => s.recordsBad k (s.rebuilt k k.kind)

/-- The first bad field of a context, whichever core it is for: what fails on a core of the kind that it left, or on every core of
its text. -/
def State.ctxRefused (s : State) (k : Crew) : Option Nat :=
  if k.kind.isL then s.ctxBad k .latency else s.ctxBad k (if (s.ctxBad k .density).isNone then .density else k.kind)

/-- A launch ended by a saved context that fails its checks: INFO holds the offset (R297). -/
def State.refuseCtx (s : State) (k : Crew) (off : Nat) : State :=
  (s.writeCtx k 0x100 (leBytes 4 causeField ++ leBytes 24 0 ++ leBytes 4 off ++ leBytes 1056 0)).endLaunch k.desc.launch causeField

/-- The VAs of code that a restore reads: the sections of the code object, and what tells its fibres' clauses and dovetail points (R45,
R248, R297, R322). -/
def State.restoreReads (s : State) (k : Crew) : List Nat :=
  k.desc.textsVa :: s.sectionReads k.desc.asid (s.ctxNat k 0x10 8) ++ (s.ctxFibres k).flatMap fun f =>
    (if f.live then [f.codeVa f.hdr] else []) ++ s.atPointReads k f

/-- A restore would reach a line, of the area or of the code that it reads, that an engine or an accepted part owns (R113, R153). -/
def State.restoreHeld (s : State) (k : Crew) : Bool :=
  s.ownsSome && (s.areaHeld k.desc.asid k.desc.ctx.toNat (s.ctxCounts k).layout.top false || s.recordHeld k
    || s.readsHeld k.desc.asid (s.restoreReads k))

/-- A crew could be restored on a core now: its area fails the checks wherever it goes, or passes them for this core, which has room
for it as the area tells it; and no line that the restore reaches is owned. -/
def State.restoreFits (s : State) (c core : Nat) : Bool :=
  match s.crews[c]? with
  | none => false
  | some k =>
    let dest := kindOfCore core
    !s.restoreHeld k && ((s.ctxRefused k).isSome || ((s.ctxBad k dest).isNone && (s.modCrew c fun _ => s.rebuilt k dest).fits c core))

/-- The errors gone that stood in a crew's registers, scratchpad and tiles: they are written anew. -/
def State.withoutCrew (s : State) (c : Nat) : State :=
  let mine := fun p : Poison => match p with
    | .register x _ _ => x == c
    | .sticky x _ _ => x == c
    | .scratch x _ => x == c
    | .acc x _ => x == c
    | _ => false
  { s with rel := { s.rel with
      poison := s.rel.poison.filter fun p => !mine p
      correctable := s.rel.correctable.filter fun p => !mine p } }

/-- What the device has read of a crew's area and of its code: stage-2 A in the entries used (R100). -/
def State.peekedArea (s : State) (k : Crew) : State :=
  let n := (s.ctxCounts k).layout.top
  s.peekedAll k.desc.asid (((List.range (n / 2 ^ 16 + 2)).map fun i => k.desc.ctx.toNat + min (2 ^ 16 * i) n) ++ s.restoreReads k)

/-- Each place in the order of issue that an engine operation of a saved crew had, with the one that it is issued again at. -/
def Crew.reissues (k k' : Crew) : List (Nat × Nat) :=
  ((k.savedCopies.map LaneCopy.order).zip (k'.copies.map LaneCopy.order)
    ++ (k.savedStores.map StoreJob.order).zip (k'.stores.map StoreJob.order)).eraseDups

/-- A saved crew restored on a core; a context that fails the checks ends the launch (R290, R297). The move is a full fence of
device scope for each fibre (R146). -/
def State.restoreOn (s : State) (c core : Nat) : State :=
  match s.crews[c]? with
  | none => s
  | some k =>
    let dest := kindOfCore core
    match (s.ctxRefused k).orElse fun _ => s.ctxBad k dest with
    | some off => (s.peekedArea k).refuseCtx k off
    | none =>
      let k' := s.rebuilt k dest
      let s' := (((s.peekedArea k).withoutCrew c).modCrew c fun _ => k').install c core
      (k.reissues k').foldl (fun t x => t.renote c x.1 x.2) ((s'.fenceCrew c).modCrew c fun w => { w with reserve := 0 })

end Sys2Proof.Machine
end

