-- ==== Sys2Proof/Machine/QueueOps.lean ====
section
/-!
DEFINITION. Queues and command cores: descriptors and status words, notifies, taking and validating packets, signals, command
blocks, launches, completion, thaw and abandon (20 R301 to R305; 21 R309 to R318; 22 R329; 23 R342 to R345).
-/
namespace Sys2Proof.Machine

/-! ## Accesses of a command core (R147, R305, R316) -/

/-- The number of no crew, and of no core: an agent that acts for neither. -/
def nobody : Nat := 2 ^ 64

/-- Translation of an address by an agent that holds no TLB; errors in the entries that it reads are met (R337). -/
def State.devTr (s : State) (asid va : Nat) (need : Need) : State × Except Nat Translation :=
  let s := if s.rel.poison.isEmpty ∧ s.rel.correctable.isEmpty = true then s
    else (s.walkReads asid va).foldl (fun t a => t.devMeets asid a 8) s
  match s.walk asid va need with
  | .error e => (s.stage2A asid va need, .error e)
  | .ok w => (s.applyWalk asid va need.write w, .ok w.tr)

/-- Such an agent's read, or write, of up to 8 bytes at a VA is held at its home (R113, R153). -/
def State.devHeld (s : State) (asid va : Nat) (write : Bool) : Bool := s.areaHeld asid va 8 write

/-- Bytes of one page read by such an agent; or the subcause. -/
def State.devRead (s : State) (asid : Nat) (priv : Bool) (va n : Nat) : State × Except Nat (List Byte) :=
  match s.devTr asid va { priv := priv } with
  | (s, .error e) => (s, .error e)
  | (s, .ok tr) =>
    match (if inMmio (tr.pa va) then s.mmioRead (tr.pa va) n
      else (s.devMeets asid (tr.pa va) n).homeRead asid tr (tr.pa va) n) with
    | (s, bs) => (s, .ok bs)

/-- Bytes of one page written by such an agent; or the subcause. -/
def State.devWrite (s : State) (asid : Nat) (priv : Bool) (va : Nat) (bs : List Byte) : State × Except Nat Unit :=
  match s.devTr asid va { write := true, priv := priv } with
  | (s, .error e) => (s, .error e)
  | (s, .ok tr) =>
    let pa := tr.pa va
    (if inMmio pa then s.mmioWrite nobody pa bs else s.homeWrite nobody nobody asid {} tr pa 0 bs, .ok ())

/-- A 64-bit store to a signal, in one step at whatever alignment; a page that does not translate takes nothing (R305). -/
def State.signalSet (s : State) (asid : Nat) (priv : Bool) (va : Nat) (v : Int) : State :=
  let bs := leBytes 8 (BitVec.ofInt 64 v).toNat
  if va % 8 = 0 then (s.devWrite asid priv va bs).1
  else bs.zipIdx.foldl (fun t b => (t.devWrite asid priv (va + b.2) [b.1]).1) s

/-- A 64-bit atomic addition to a signal; through an aperture it leaves as one atomic request (R149, R305, R315). It is no fibre's: the
release sequences that it finds at the signal end with it, as R145 has them go on through atomics by any fibre (DESIGN CHOICE, log
56). -/
def State.signalAdd (s : State) (asid : Nat) (priv : Bool) (va : Nat) (v : Int) : State :=
  match s.devTr asid va { write := true, priv := priv } with
  | (s, .error _) => s
  | (s', .ok tr) =>
    if (apertureOf (tr.pa va)).isSome then s'.sendOut nobody (tr.pa va) [] (some (0, 3, BitVec.ofInt 64 v, 0))
    else match s.devRead asid priv va 8 with
      | (s, .error _) => s
      | (s', .ok bs) => s'.signalSet asid priv va ((leDWord bs + BitVec.ofInt 64 v).toInt)

/-! ## Descriptors and status words (R309, R310) -/

/-- Address of a queue's descriptor. -/
def State.queueAddr? (s : State) (q : Nat) : Option Nat := (s.table? 2).map (· + 256 * q)

/-- A descriptor's 256 bytes as memory holds them. -/
def State.queueDesc (s : State) (q : Nat) : List Byte :=
  match s.queueAddr? q with
  | some d => s.freshBytes d 256
  | none => List.replicate 256 0

/-- ENABLE of a descriptor. -/
def descEnable (d : List Byte) : Bool := bitsAt (recNat d 8 4) 31 1 == 1
/-- ASID of a descriptor. -/
def descAsid (d : List Byte) : Nat := bitsAt (recNat d 8 4) 16 12
/-- PRIV of a descriptor. -/
def descPriv (d : List Byte) : Bool := bitsAt (recNat d 0x34 4) 0 1 == 1
/-- VA of the slot of a packet index (R301). -/
def descSlot (d : List Byte) (i : Nat) : Nat := recNat d 0 8 + 64 * (i % 2 ^ bitsAt (recNat d 8 4) 0 5)

/-- Every byte of the region lies in one permitted range; of no ranges none holds any region (R312). -/
def inRanges (d : List Byte) (a n : Nat) : Bool :=
  (List.range (min 8 (bitsAt (recNat d 0x24 4) 0 4))).any fun r => n == 0 ||
    decide (recNat d (0x40 + 16 * r) 8 ≤ a) && decide (a + n ≤ recNat d (0x40 + 16 * r) 8 + recNat d (0x48 + 16 * r) 8)

/-- A queue's status word. -/
def State.status (s : State) (q : Nat) : Nat :=
  match s.queueAddr? q with
  | some d => s.word64 (d + 0x18)
  | none => 0

/-- A field of a queue's status word written. -/
def State.setStatus (s : State) (q lo len v : Nat) : State :=
  match s.queueAddr? q with
  | some d =>
    let w := s.word64 (d + 0x18)
    s.put64 (d + 0x18) (w - bitsAt w lo len * 2 ^ lo + v % 2 ^ len * 2 ^ lo)
  | none => s

/-- FROZEN (R310). -/
def State.frozen (s : State) (q : Nat) : Bool := bitsAt (s.status q) 31 1 == 1
/-- The status word after what stalls or waits in a queue has changed (R310): STALLED, WAITING and, while the queue is not frozen,
CAUSE, SUBCAUSE and TAG of a stall; of several stalls the ring's, then the first block's. Those of a freeze stand while it
lasts (DESIGN CHOICE, log 52). -/
def State.refresh (s : State) (q : Nat) : State :=
  let x := s.queueAt q
  let block := x.packets.find? fun p => p.stalled.isSome
  let at_ := x.ringStall.orElse fun _ => block.bind Packet.stalled
  let s := (s.setStatus q 30 1 at_.isSome.toNat).setStatus q 29 1
    (x.packets.any fun p => p.started && bitsAt (p.words.headD 0).toNat 1 7 == 4).toNat
  let s := match at_, s.queueAddr? q with
    | some e, some d => s.put64 (d + 0x38) e.2
    | _, _ => s
  if s.frozen q then s.setStatus q 24 5 0
  else
    let tag := if x.ringStall.isSome then 0 else (block.map fun p => bitsAt (p.words.headD 0).toNat 16 16).getD 0
    ((s.setStatus q 24 5 ((at_.map Prod.fst).getD 0)).setStatus q 16 8 (if at_.isSome then 0x08 else 0)).setStatus q 0 16 tag

/-! ## The event queue of the command cores (R317) -/

/-- Command cores of the I/O die. -/
def commandCores : Nat := 12

/-- A command core that can take an event now: neither fenced nor under test, and holding no lock (R317, R346). -/
def State.idleCommand (s : State) : Option Nat :=
  (List.range commandCores).find? fun n => !s.rel.fenced.contains (.commandCore n) && !s.rel.underTest.contains (.commandCore n)
    && s.queues.all (fun q => q.2.lock != some n) && s.graphs.all fun g => g.2.core != some n

/-- Some command core can take an event. -/
def State.commandOpen (s : State) : Bool := s.idleCommand.isSome

/-- A wake of the queue waits or is being served. -/
def State.awake (s : State) (q : Nat) : Bool := s.wakes.contains (.queue q) || (s.queueAt q).lock.isSome

/-- The descriptor's fields take effect where the queue wakes (R309), the scheduling word's at its first wake (R266). -/
def State.latchQueue (s : State) (q : Nat) : State :=
  let d := s.queueDesc q
  s.modQueue q fun x => { x with desc := d, sched := if x.desc.isEmpty then recNat d 0x0C 4 else x.sched }

/-- A queue whose lock is held; or, where its wake is the oldest event and a command core is idle, that core takes it and the lock
(R317): none where the queue is not served now. -/
def State.serving (s : State) (q : Nat) : Option State :=
  if (s.queueAt q).lock.isSome then some s
  else match s.wakes, s.idleCommand with
    | w :: ws, some n =>
      if w = .queue q then some (({ s with wakes := ws }.latchQueue q).modQueue q fun x => { x with lock := some n }) else none
    | _, _ => none

/-! ## The validator (R312 to R314) -/

/-- Words of a packet that must be 0 (R302, R314). -/
def mbzWords (ty : Nat) : List Nat :=
  match ty with
  | 1 => [15]
  | 2 => [4, 5, 6, 7, 8, 9, 12, 13, 14, 15]
  | 6 => [1, 2, 3, 4, 5, 6, 7, 8, 9, 12, 13, 14, 15]
  | _ => [6, 7, 8, 9, 12, 13, 14, 15]

/-- Every must-be-zero field of a packet is 0. -/
def mbzOk (ws : List Word) : Bool :=
  let w1 := pw ws 1
  bitsAt (pw ws 0) 10 6 == 0 && (mbzWords (pktType ws)).all (fun i => pw ws i == 0) && (match pktType ws with
    | 1 => bitsAt w1 3 1 == 0 && pw ws 2 % 2 ^ 16 == 0 && bitsAt w1 11 21 == 0 && bitsAt (pw ws 4) 12 20 == 0 && bitsAt (pw ws 7) 11 21 == 0
    | 2 => bitsAt w1 13 19 == 0
    | 3 => bitsAt w1 1 31 == 0
    | 4 => bitsAt w1 2 30 == 0
    | _ => true)

/-- Every address of a packet is aligned as its field requires. -/
def alignOk (ws : List Word) : Bool :=
  (!pktSignal ws || pktSignalVa ws % 8 == 0) && (match pktType ws with
    | 2 => pd ws 2 % 32 == 0
    | 3 => pd ws 2 % 8 == 0
    | 4 => pd ws 2 % 8 == 0
    | _ => true)

/-- Every region of a packet lies in a permitted range (R313). -/
def rangeOk (d : List Byte) (ws : List Word) : Bool :=
  (!pktSignal ws || inRanges d (pktSignalVa ws) 8) && (match pktType ws with
    | 1 => inRanges d (pd ws 2) 1 && inRanges d (pd ws 8) 1
        && inRanges d (pd ws 12) (max 1 (pw ws 14 * pktCrews ws * pktFibres ws))
    | 2 => inRanges d (pd ws 2) (32 * bitsAt (pw ws 1) 0 13)
    | 3 => inRanges d (pd ws 2) 8
    | 4 => inRanges d (pd ws 2) 8
    | _ => true)

/-- A kernel fits an empty core of a kind: its text, its gangs, their windows, its scratchpad and tiles (R252, R263, R274). -/
def Entry.fitsKind (e : Entry) (gangs fibres : Nat) (k : Kind) : Bool :=
  (e.pc? k).isSome && decide (gangs ≤ k.maxGangs) && decide (1 ≤ e.blocks k) && decide (e.blocks k ≤ k.maxWindow)
    && decide (gangs * e.blocks k ≤ k.blocks) && decide (fibres ≤ k.maxFibres)
    && decide (e.scratch ≤ if k == .sequencer then 2 ^ 16 else 7 * 2 ^ 17) && (k == .sequencer || decide (e.acc ≤ 128))

/-- The kinds of core open to a launch by its mode and texts (R273, R326). -/
def openKinds (mode : Nat) (paired : Bool) (e : Entry) : List Kind :=
  if (e.pc? .density).isNone then [.latency]
  else match mode with
    | 0 => [.density]
    | 1 => [.latency, .density]
    | _ => if paired then [.density] else [.sequencer, .density]

/-- The first cause for which a LAUNCH's code, or its shape, fails validation (R313). -/
def State.launchCause (s : State) (d : List Byte) (ws : List Word) : Option Nat :=
  let asid := descAsid d
  let base := pd ws 2
  match s.peek asid (descPriv d) base 4 with
  | none => some 0x0A
  | some m =>
    if leNat m ≠ 0x214F5848 then some 0x0A
    else match s.entry? asid base (bitsAt (pw ws 4) 0 12) with
      | none => some 0x0A
      | some e =>
        if (e.pc? .density).isNone ∧ (e.pc? .latency).isNone then some 0x0A
        else if pktCrews ws = 0 ∨ 2 ^ 32 < pktCrews ws ∨ pktFibres ws = 0 ∨ 1024 < pktFibres ws
            ∨ (openKinds (pktMode ws) (pktPaired ws) e).all
                (fun k => !e.fitsKind (pktGangs ws) (pktFibres ws) k) = true then some 0x04
        else none

/-- The first cause of R313 that a packet fails by its own words. -/
def wordsCause (d : List Byte) (ws : List Word) : Option Nat :=
  let ty := pktType ws
  if ¬ ([1, 2, 3, 4, 6].contains ty = true ∧ bitsAt (recNat d 0x20 4) ty 1 = 1) then some 0x01
  else if ¬ mbzOk ws then some 0x02
  else if ty = 1 ∧ 4 ≤ pktMode ws then some 0x03
  else if ¬ alignOk ws then some 0x05
  else if ¬ rangeOk d ws then some 0x06
  else if ty = 2 ∧ (bitsAt (pw ws 1) 0 13 = 0 ∨ 4096 < bitsAt (pw ws 1) 0 13) then some 0x04
  else none

/-- The validator: the first cause of R313 that a packet fails, for a queue's descriptor. -/
def State.packetCause (s : State) (d : List Byte) (ws : List Word) : Option Nat :=
  (wordsCause d ws).orElse fun _ => if pktType ws = 1 then s.launchCause d ws else none

/-- The VAs of the code object that the validator reads: those of a LAUNCH that its own words do not fail (R313). -/
def State.packetReads (s : State) (d : List Byte) (ws : List Word) : List Nat :=
  if (wordsCause d ws).isNone ∧ pktType ws = 1 then
    pd ws 2 :: s.entryReads (descAsid d) (pd ws 2) (bitsAt (pw ws 4) 0 12) else []

/-- The signal of a packet that failed, set to a value where its field as read passes the range test (R305). -/
def State.failSignal (s : State) (d : List Byte) (ws : List Word) (v : Int) : State :=
  if pktSignal ws && inRanges d (pktSignalVa ws) 8 then
    s.signalSet (descAsid d) (descPriv d) (pktSignalVa ws) v
  else s

/-- A queue frozen by a failed packet (R312). -/
def State.freeze (s : State) (q : Nat) (ws : List Word) (cause : Nat) : State :=
  let d := (s.queueAt q).desc
  let s := (((s.setStatus q 31 1 1).setStatus q 24 5 0).setStatus q 16 8 cause).setStatus q 0 16 (pktTag ws)
  (s.failSignal d ws (-(0x1000 + cause : Int))).refresh q

/-- The signal of a packet, or its target, lies on a line that an engine owns: the access is held (R153). -/
def State.signalHeld (s : State) (q : Nat) (ws : List Word) : Bool :=
  let asid := descAsid (s.queueAt q).desc
  (pktSignal ws && s.devHeld asid (pktSignalVa ws) true)
    || ((pktType ws == 3 || pktType ws == 4) && s.devHeld asid (pd ws 2) (pktType ws == 3))

/-- A system-scope release of a command core cannot complete yet: its signal's line is held, or a write that has left through a
port is not acknowledged (R150, R153). -/
def State.releaseHeld (s : State) (q : Nat) (ws : List Word) : Bool := s.signalHeld q ws || s.outbound.any Outbound.write

/-! ## Notify and packet taking (R304, R311) -/

/-- Bring-up has reached a step (R357): what the module does only from then on is served. -/
def State.broughtTo (s : State) (n : Nat) : Bool := decide (n ≤ s.aon.bringUp)

/-- NOTIFY: the value is recorded, what stalled tries again, and the queue wakes and reads its ring; n the queue, v the value (R304,
R316, R317). Notifies are served once bring-up is over (R357). -/
def evNotify (a : EvArg) (s : State) : State :=
  if ¬ s.broughtTo 6 ∨ descEnable (s.queueDesc a.n) = false then s
  else
    let s := (s.setStatus a.n 32 32 (a.v.toNat % 2 ^ 32)).modQueue a.n fun x => { x with
      notified := true, ringStall := none, packets := x.packets.map fun p => { p with stalled := none } }
    (s.refresh a.n).post (.queue a.n)

/-- A queue stalled at the ring until the next notify (R304). -/
def State.stallRing (s : State) (q sub va : Nat) : State :=
  (s.modQueue q fun x => { x with ringStall := some (sub, va) }).refresh q

/-! ## Starting and completing packets (R315) -/

/-- A packet of a queue. -/
def State.packet? (s : State) (q m : Nat) : Option Packet := (s.queueAt q).packets[m]?
/-- A packet changed. -/
def State.modPacket (s : State) (q m : Nat) (g : Packet → Packet) : State :=
  s.modQueue q fun x => { x with packets := x.packets.modify m g }

/-- A protected launch of an address space is unfinished (R345). -/
def State.protectedRuns (s : State) (asid : Nat) : Bool :=
  s.launches.any fun l => l.asid == asid && !l.completed && pktProtected l.words

/-- A packet may start: a command core holds the queue's lock, those before it have started, with BARRIER they have completed, no
WAITSIG before it is unfinished and no command block of the queue is stalled (R315, R316, R317). -/
def State.mayStart (s : State) (q m : Nat) : Bool :=
  match s.packet? q m with
  | none => false
  | some p =>
    let before := (s.queueAt q).packets.take m
    !p.started && p.rejected.isNone && (s.queueAt q).lock.isSome && before.all (fun x => x.started && pktType x.words != 4) && (!pktBarrier p.words || before.isEmpty)
      && (s.queueAt q).packets.all fun x => x.stalled.isNone

/-- The end of a protected launch is an event for every queue, one of whose packets it may have kept back (R345). -/
def State.wakeKept (s : State) : State :=
  if (s.launches.any fun l => pktProtected l.words) then (s.queues.map Prod.fst).foldl (fun t r => t.post (.queue r)) s
  else s

/-- A packet that is over leaves its queue's list, which is an event for the queue (R317). -/
def State.dropPacket (s : State) (q m : Nat) : State :=
  (((s.modQueue q fun x => { x with packets := x.packets.eraseIdx m }).refresh q).post (.queue q)).wakeKept

/-- A packet completes: its signal is counted down (R305). -/
def State.completePacket (s : State) (q m : Nat) : State :=
  match s.packet? q m with
  | none => s
  | some p =>
    let d := (s.queueAt q).desc
    let s := if pktSignal p.words then s.signalAdd (descAsid d) (descPriv d) (pktSignalVa p.words) (-1) else s
    s.dropPacket q m

/-- Address space of a queue as in force. -/
def State.queueAsid (s : State) (q : Nat) : Nat := descAsid (s.queueAt q).desc

/-- The device's own features: bits 0 to 29 (R327). -/
def deviceView : BitVec 512 := BitVec.ofNat 512 (2 ^ 30 - 1)

/-- The feature view of a code object: the device's bits and the bound ones (R329). -/
def State.featureView (s : State) (asid base : Nat) : BitVec 512 :=
  match s.section? asid base 6 with
  | none => deviceView
  | some (o, z) =>
    (List.range (min (z / 8) 512)).foldl (fun v i => match s.peekNat asid (base + o + 8 * i) 8 with
      | some w => v ||| BitVec.twoPow 512 (bitsAt w 0 9)
      | none => v) deviceView

/-- The VAs that telling the feature view of a code object reads. -/
def State.viewReads (s : State) (asid base : Nat) : List Nat :=
  s.sectionReads asid base ++ match s.section? asid base 6 with
    | none => []
    | some (o, z) => (List.range (min (z / 8) 512)).map fun i => base + o + 8 * i

/-- A new launch of a queue from a packet's words. -/
def State.newLaunch (s : State) (q : Nat) (d : List Byte) (ws : List Word) (node : Option (Nat × Nat)) : Launch :=
  { queue := q, asid := descAsid d, priv := descPriv d, words := ws, view := s.featureView (descAsid d) (pd ws 2),
    placed := 0, ended := 0, cause := none, handedBack := false, completed := false, told := false, rollbacks := 0, rolling := false,
    noSnapshot := false, errUnit := 0, errCore := 0, errAddr := 0, node := node,
    replay := (node.map fun n => (s.graphAt n.1).replay).getD 0 }

/-- LAUNCH: the launch is accepted and handed to the placer; n the queue, m the packet (R302, R315, R329). -/
def evLaunch (a : EvArg) (s : State) : State :=
  match s.packet? a.n a.m with
  | none => s
  | some p =>
    if pktType p.words ≠ 1 ∨ s.mayStart a.n a.m = false then s
    else
      let d := (s.queueAt a.n).desc
      let reads := s.viewReads (descAsid d) (pd p.words 2)
      if s.readsHeld (descAsid d) reads then s
      else
      let l := s.newLaunch a.n d p.words none
      let s := s.peekedAll (descAsid d) reads
      ({ s with launches := s.launches ++ [l] }).modPacket a.n a.m fun p =>
        { p with started := true, launch := some s.launches.length }

/-- NOP_PACKET: completes at start; n the queue, m the packet (R315). -/
def evNopPacket (a : EvArg) (s : State) : State :=
  match s.packet? a.n a.m with
  | none => s
  | some p =>
    if pktType p.words ≠ 6 ∨ s.mayStart a.n a.m = false ∨ s.releaseHeld a.n p.words = true then s
    else s.completePacket a.n a.m

/-- SIGNAL: one 64-bit atomic addition or store at its target; it completes once what has left through a port for it is acknowledged; n
the queue, m the packet (R150, R314, R315, R345). -/
def evSignal (a : EvArg) (s : State) : State :=
  match s.packet? a.n a.m with
  | none => s
  | some p =>
    let d := (s.queueAt a.n).desc
    if pktType p.words ≠ 3 ∨ s.releaseHeld a.n p.words = true then s
    else if p.next = 1 then s.completePacket a.n a.m
    else if s.mayStart a.n a.m = false ∨ s.protectedRuns (descAsid d) = true then s
    else
      let v := (BitVec.ofNat 64 (pd p.words 4)).toInt
      let t := if bitsAt (pw p.words 1) 0 1 = 1 then s.signalSet (descAsid d) (descPriv d) (pd p.words 2) v
        else s.signalAdd (descAsid d) (descPriv d) (pd p.words 2) v
      if t.outbound.any Outbound.write then t.modPacket a.n a.m fun p => { p with started := true, next := 1 }
      else t.completePacket a.n a.m

/-! ## WAITSIG (R318) -/

/-- A WAITSIG that waits, its signal watched at its home. -/
def State.keepWaiting (s : State) (q m : Nat) (w : Option Watch) : State :=
  (s.modPacket q m fun p => { p with started := true, watched := w }).refresh q

/-- A WAITSIG's signal read: it completes, or waits with its signal watched; one whose page does not translate has not been read yet
(log 34). -/
def State.readSignal (s : State) (q m : Nat) (p : Packet) : State :=
  let d := (s.queueAt q).desc
  let va := pd p.words 2
  match s.devTr (descAsid d) va { priv := descPriv d } with
  | (s', .error _) => s'.keepWaiting q m none
  | (_, .ok tr) => match s.devRead (descAsid d) (descPriv d) va 8 with
    | (s', .error _) => s'.keepWaiting q m none
    | (s', .ok bs) =>
      if waitsigHolds p.words (leDWord bs) then s'.completePacket q m
      else s'.keepWaiting q m (some { pa := tr.pa va, asid := descAsid d, enc := tr.enc, met := false })

/-- WAITSIG: the signal is read with a system-scope acquire; n the queue, m the packet. -/
def evWaitsig (a : EvArg) (s : State) : State :=
  match s.packet? a.n a.m with
  | none => s
  | some p =>
    if pktType p.words ≠ 4 ∨ s.mayStart a.n a.m = false ∨ s.releaseHeld a.n p.words = true then s
    else s.readSignal a.n a.m p

/-- A WAITSIG's signal has not been read yet, and now its page translates. -/
def State.readableNow (s : State) (q : Nat) (p : Packet) : Bool :=
  let d := (s.queueAt q).desc
  p.watched.isNone && s.commandOpen && !s.devHeld (descAsid d) (pd p.words 2) false
    && (s.walk (descAsid d) (pd p.words 2) { priv := descPriv d }).isOk

/-- WAITSIG_REEVALUATE: the condition has held at the home of the signal's line after a write, and the WAITSIG completes as its queue's
event is served; n the queue, m the packet (R317, R318). -/
def evWaitsigReevaluate (a : EvArg) (s0 : State) : State :=
  match s0.packet? a.n a.m with
  | none => s0
  | some p =>
    if p.started = false ∨ pktType p.words ≠ 4 ∨ s0.releaseHeld a.n p.words = true then s0
    else if s0.readableNow a.n p then s0.readSignal a.n a.m p
    else if p.watched.any Watch.met then (match s0.serving a.n with
      | some s => s.completePacket a.n a.m
      | none => s0)
    else s0

/-! ## Command blocks (R316) -/

/-- CMDBLOCK: the block starts; n the queue, m the packet (R315, R345). -/
def evCmdblock (a : EvArg) (s : State) : State :=
  match s.packet? a.n a.m with
  | none => s
  | some p =>
    if pktType p.words ≠ 2 ∨ s.mayStart a.n a.m = false ∨ s.protectedRuns (s.queueAsid a.n) = true then s
    else s.modPacket a.n a.m fun p => { p with started := true, next := 0 }

/-- The first cause that a command fails (R313, R316). -/
def commandCause (d : List Byte) (b : List Byte) : Option Nat :=
  let op := recNat b 0 1
  let n := recNat b 4 4
  let dst := recNat b 8 8
  let src := recNat b 0x10 8
  let copy := op == 1
  if recNat b 1 3 ≠ 0 ∨ recNat b 0x18 8 ≠ 0 ∨ (op = 2 ∧ src / 2 ^ 32 ≠ 0) then some 0x02
  else if dst % 4 ≠ 0 ∨ (copy = true ∧ src % 4 ≠ 0) then some 0x05
  else if ¬ inRanges d dst n ∨ (copy = true ∧ inRanges d src n = false) then some 0x06
  else if copy = true ∧ src < dst + n ∧ dst < src + n then some 0x07
  else if n = 0 ∨ 2 ^ 31 < n ∨ n % 4 ≠ 0 ∨ (op ≠ 1 ∧ op ≠ 2) then some 0x04
  else none

/-- Why a command does not go on: a line is held, or an address does not translate. -/
inductive CmdStop where
  | held
  | fault (sub va : Nat)
  deriving DecidableEq, Repr

/-- `n` words of a command written in order: each 4-byte word single-copy atomic; what was written before a fault stands. -/
def runWords (asid : Nat) (priv copy : Bool) (word : List Byte) : Nat → Nat → Nat → State → State × Except CmdStop Unit
  | 0, _, _, s => (s, .ok ())
  | n + 1, dst, src, s =>
    if s.devHeld asid dst true ∨ (copy = true ∧ s.devHeld asid src false = true) then (s, .error .held)
    else match (if copy then s.devRead asid priv src 4 else (s, .ok word)) with
      | (s', .error e) => (s', .error (.fault e src))
      | (s', .ok bs) => match s'.devWrite asid priv dst bs with
        | (s'', .error e) => (s'', .error (.fault e dst))
        | (s'', .ok _) => runWords asid priv copy word n (dst + 4) (src + 4) s''

/-- A stalled command block (R316). -/
def State.stallBlock (s : State) (q m : Nat) (sub va : Nat) : State :=
  (s.modPacket q m fun p => { p with stalled := some (sub, va) }).refresh q

/-- The command at a block's index runs, of the kind that the event names; a command that fails its test freezes the queue; those before
it stand. A block whose commands are done completes once what left through ports is acknowledged (R150). -/
def State.runCommand (s : State) (q m : Nat) (fill : Bool) : State :=
  match s.packet? q m with
  | none => s
  | some p =>
    let d := (s.queueAt q).desc
    let asid := descAsid d
    let va := pd p.words 2 + 32 * p.next
    if pktType p.words ≠ 2 ∨ p.started = false ∨ p.stalled.isSome = true ∨ s.commandOpen = false then s
    else if bitsAt (pw p.words 1) 0 13 ≤ p.next then (if s.releaseHeld q p.words then s else s.completePacket q m)
    else if s.areaHeld asid va 32 false then s
    else match s.devRead asid (descPriv d) va 32 with
      | (s', .error e) => if fill then s else s'.stallBlock q m e va
      | (s', .ok b) =>
        if (recNat b 0 1 == 2) != fill then s
        else match commandCause d b with
          | some c => if s.releaseHeld q p.words then s else (s'.dropPacket q m).freeze q p.words c
          | none =>
            match runWords asid (descPriv d) (recNat b 0 1 == 1) ((b.drop 0x10).take 4) (recNat b 4 4 / 4) (recNat b 8 8)
                (recNat b 0x10 8) s' with
            | (_, .error .held) => s
            | (s'', .error (.fault e x)) => s''.stallBlock q m e x
            | (s'', .ok _) =>
              if p.next + 1 < bitsAt (pw p.words 1) 0 13 ∨ s''.releaseHeld q p.words = true then
                s''.modPacket q m fun p => { p with next := p.next + 1 }
              else s''.completePacket q m

/-- COPY: a command writes its destination from its source; n the queue, m the packet (R316). -/
def evCopy (a : EvArg) (s : State) : State := s.runCommand a.n a.m false
/-- FILL: a command fills its destination with a word; n the queue, m the packet (R316). -/
def evFill (a : EvArg) (s : State) : State := s.runCommand a.n a.m true

/-- A packet of the queue can start under its lock: SIGNAL and CMDBLOCK are kept back by a protected launch (R315, R345). -/
def State.startable (s : State) (q : Nat) : Bool :=
  (List.range (s.queueAt q).packets.length).any fun m => s.mayStart q m && (match s.packet? q m with
    | some p => !((pktType p.words == 2 || pktType p.words == 3) && s.protectedRuns (descAsid (s.queueAt q).desc))
    | none => false)

/-! ## The end of launches (R288, R305) -/

/-- The packet of a launch: queue and place. -/
def State.packetOf (s : State) (l : Nat) : Option (Nat × Nat) :=
  match s.launches[l]? with
  | none => none
  | some x => ((s.queueAt x.queue).packets.findIdx? fun p => p.launch == some l).map fun m => (x.queue, m)

/-- Crews of a launch, both copies of a pair counting. -/
def State.crewsOf (s : State) (l : Nat) : List Nat :=
  (List.range s.crews.length).filter fun c => match s.crews[c]? with
    | some k => k.desc.launch == l
    | none => false

/-- Nothing of a launch is still on its way: its crews have ended, their placed parts have taken effect and the copies that ran on
have landed. -/
def State.launchQuiet (s : State) (l : Nat) : Bool :=
  let cs := s.crewsOf l
  cs.all (fun c => (s.crews[c]?.map fun k => k.status == .ended && k.copies.all fun j => !j.runsOn).getD true)
    && s.parts.all (fun p => !cs.contains p.crew) && s.outbound.all fun o => !cs.contains o.crew

/-- The snapshot log and pool of an address space emptied (R343). -/
def State.emptyLog (s : State) (asid : Nat) : State :=
  match s.recovery? asid with
  | some d => s.put32 (d + 0x1C) 0
  | none => s

/-- A protected launch's log is emptied when it completes (R343). -/
def State.closeLog (s : State) (x : Launch) : State :=
  if pktProtected x.words = true then s.emptyLog x.asid else s

/-- A launch completes without a cause: all its crews have been placed and have ended. -/
def State.launchDone (s : State) (l : Nat) : Bool :=
  match s.launches[l]? with
  | none => false
  | some x => !x.completed && !x.rolling && !x.handedBack && x.cause.isNone && x.placed == pktCrews x.words && s.launchQuiet l

/-- A launch that ended with a cause is over: nothing of it is on its way. -/
def State.launchFailed (s : State) (l : Nat) : Bool :=
  match s.launches[l]? with
  | none => false
  | some x => !x.completed && !x.handedBack && x.cause.isSome && s.launchQuiet l

/-- A launch handed back is over: the crews placed before have run to their end (R270). -/
def State.backOver (s : State) (l : Nat) : Bool :=
  match s.launches[l]? with
  | none => false
  | some x => !x.completed && !x.rolling && x.handedBack && s.launchQuiet l

/-- A launch is over, and its end has still to be dealt with. -/
def State.launchOver (s : State) (l : Nat) : Bool := s.launchDone l || s.launchFailed l || s.backOver l

/-- The launch whose error ends or has ended it: the entry of R348. -/
def State.logEnd (s : State) (x : Launch) : State :=
  if x.cause = some (BitVec.ofNat 8 causeEcc) then
    s.logError 6 x.errUnit x.errCore x.asid x.queue (pktTag x.words) x.errAddr
  else s

/-- Matched writes of a launch's paired copies drained after they have stopped (R288 step 3). -/
def State.drainMatched (s : State) (l : Nat) : State :=
  (s.crewsOf l).foldl (fun t c => match t.crews[c]? with
    | none => t
    | some k => match k.pair with
      | none => t
      | some p => match t.crews[p.partner]? with
        | some k' => if p.first && sameSignature k k' then t.drainPair c else t
        | none => t) s

/-- Paired copies of a launch that have stopped hold matched writes still (R288 step 3). -/
def State.drainDue (s : State) (l : Nat) : Bool :=
  (s.crewsOf l).any fun c => match s.pairOf c with
    | some (k, _, k') => sameSignature k k' && k.pair.any fun p => !p.buffer.isEmpty
    | none => false

/-- The end of a launch drains matched writes first, in a step of its own, so that those which leave through a port are acknowledged
before its completion is signalled (R150, R288 steps 3 and 4): the state after, which is unchanged while they would be held; none where
nothing is left to drain. -/
def State.drainFirst (s : State) (l : Nat) : Option State :=
  if ¬ s.drainDue l then none
  else some (if (s.crewsOf l).any s.pairHeld then s else s.drainMatched l)

/-- What the end of a launch asks whatever its signal: the entry of an error, its snapshots given up, and with a protected one what it
kept back let go on (R343, R345, R348). -/
def State.overLaunch (s : State) (l : Nat) (x : Launch) : State :=
  (((s.closeLog x).logEnd x).modLaunch l fun y => { y with completed := true }).wakeKept

/-- LAUNCH_COMPLETION_SIGNAL: the launch's signal counts down as a system-scope release; one that was handed back, whose signal is
written, only ends; n the launch (R270, R305, R317). -/
def evLaunchCompletionSignal (a : EvArg) (s0 : State) : State :=
  match s0.launches[a.n]? with
  | none => s0
  | some x => match s0.serving x.queue with
    | none => s0
    | some s =>
      if x.node.isSome ∨ s.launchOver a.n = false then s0
      else match s.drainFirst a.n with
      | some t => t
      | none =>
      if s.backOver a.n then s.overLaunch a.n x
      else match s.packetOf a.n with
        | none => s0
        | some (q, m) =>
          if ¬ s.launchDone a.n ∨ s.releaseHeld q x.words = true then s0 else (s.overLaunch a.n x).completePacket q m

/-- LAUNCH_END_WITH_CAUSE: the signal of a launch that ended with a cause is set to name it; the queue goes on; n the launch
(R288, R305, R317, R348). -/
def evLaunchEndWithCause (a : EvArg) (s0 : State) : State :=
  match s0.launches[a.n]?, s0.packetOf a.n with
  | some x, some (q, m) => match s0.serving q, x.cause with
    | some s, some cause =>
      if x.node.isSome = true ∨ s.launchFailed a.n = false then s0
      else match s.drainFirst a.n with
      | some t => t
      | none =>
      if s.releaseHeld q x.words then s0
      else
        let d := (s.queueAt q).desc
        let s := s.overLaunch a.n x
        (if pktSignal x.words then
          s.signalSet (descAsid d) (descPriv d) (pktSignalVa x.words) (-(0x2000 + cause.toNat : Int))
         else s).dropPacket q m
    | _, _ => s0
  | _, _ => s0

/-- What is over in a queue and has its end still to be dealt with: a launch, a WAITSIG whose condition has held, or a packet that has
failed (R317). -/
def State.finishable (s : State) (q : Nat) : Bool :=
  (List.range s.launches.length).any (fun l => (match s.launches[l]? with
      | some x => x.queue == q && x.node.isNone
      | none => false) && s.launchOver l)
    || (s.queueAt q).packets.any fun p => (p.started && p.watched.any Watch.met) || p.rejected.isSome

/-- The ends of launches enter the event queue, as events of their queue or their graph (R317). -/
def State.tellOver (s : State) : State :=
  ((List.range s.launches.length).filter fun l => s.launchOver l && !(s.launches[l]?).any Launch.told).foldl (fun t l =>
    match t.launches[l]? with
    | none => t
    | some x => (t.modLaunch l fun y => { y with told := true }).post (match x.node with
      | some (g, _) => .graph g
      | none => .queue x.queue)) s

/-! ## Taking packets (R304, R317) -/

/-- The command core has found nothing more to take: it starts what may start and sees to what is over, looks again where an event has
come since, and releases the lock; the queue sleeps until the next notify (R304, R317). -/
def State.rest (s : State) (q : Nat) : State :=
  if s.startable q ∨ s.finishable q = true then s
  else if (s.queueAt q).pending then s.modQueue q fun x => { x with pending := false }
  else s.modQueue q fun x => { x with lock := none, notified := false }

/-- The ring is read: the header at the read index acquired, the body read, VALID written back as 0 by a release, the packet validated
(R304, R312). A packet that fails freezes the queue, once a write-back that has left through a port is acknowledged (R150, R305). -/
def State.readRing (s : State) (q at_ : Nat) : State :=
  let d := (s.queueAt q).desc
  let idx := s.word64 (at_ + 0x10)
  let va := descSlot d idx
  let asid := descAsid d
  if s.areaHeld asid va 64 false ∨ s.areaHeld asid va 64 true then s
  else match s.devRead asid (descPriv d) va 64 with
    | (s', .error e) => (s'.stallRing q e va).rest q
    | (s', .ok bs) =>
      let ws := recWords bs 16
      if bitsAt (pw ws 0) 0 1 = 0 then s'.rest q
      else if s.outbound.any Outbound.write then s
      else if s'.readsHeld asid (s'.packetReads d ws) then s
      else match s'.devWrite asid (descPriv d) va (leBytes 4 (pw ws 0 - 1)) with
        | (s'', .error e) => (s''.stallRing q e va).rest q
        | (s'', .ok _) =>
          let t := (s''.put64 (at_ + 0x10) (idx + 1)).peekedAll asid (s''.packetReads d ws)
          let add := fun c : Option (BitVec 8) => t.modQueue q fun x => { x with packets := x.packets ++
            [{ words := ws, started := false, completed := false, next := 0, launch := none, stalled := none, watched := none, rejected := c }] }
          match t.packetCause d ws with
          | some c => if t.outbound.any Outbound.write then add (some (BitVec.ofNat 8 c))
            else if s.releaseHeld q ws then s else t.freeze q ws c
          | none => add none

/-- A packet that has failed freezes its queue, as soon as its signal can be written. -/
def State.rejectPacket (s : State) (q m : Nat) : State :=
  match s.packet? q m with
  | none => s
  | some p => match p.rejected with
    | none => s
    | some c => if s.releaseHeld q p.words then s else (s.dropPacket q m).freeze q p.words c.toNat

/-- PACKET_TAKE: a command core takes the queue's wake and its lock; a queue that a notify has woken reads its ring; the lock is released
where no packet stands there; n the queue (R304, R317). -/
def evPacketTake (a : EvArg) (s0 : State) : State :=
  match s0.serving a.n with
  | none => s0
  | some s => match s.queueAddr? a.n with
    | none => s
    | some at_ =>
      match (s.queueAt a.n).packets.findIdx? fun p => p.rejected.isSome with
      | some m => s.rejectPacket a.n m
      | none =>
      if s.frozen a.n ∨ (s.queueAt a.n).ringStall.isSome = true ∨ (s.queueAt a.n).notified = false then s.rest a.n
      else s.readRing a.n at_

/-- A launch handed back by the placer: the queue freezes as for a packet that failed with LIMIT, once its signal can be written; a
graph node's launch has no signal of its own, and its graph freezes with it. Crews placed before run to their end, and the launch is
unfinished until then (R270, R345). -/
def State.handBack (s : State) (l : Nat) : State :=
  match s.launches[l]? with
  | none => s
  | some x =>
    if s.releaseHeld x.queue x.words then s
    else match x.node, s.packetOf l with
      | some _, _ => (s.modLaunch l fun y => { y with handedBack := true }).freeze x.queue x.words 0x04
      | none, some (q, m) =>
        ((s.modLaunch l fun y => { y with handedBack := true }).dropPacket q m).freeze q x.words 0x04
      | none, none => s

/-! ## THAW and ABANDON (R311, R316, R318) -/

/-- A graph let go on: the cause leaves its entry's status, and a kick that is held comes to be served (R319, R320). -/
def State.thawGraph (s : State) (g : Nat) : State :=
  let s := match s.table? 4 with
    | some t => s.put32 (t + 32 * g + 0x0C) 0
    | none => s
  let s := s.modGraph g fun x => { x with frozen := false }
  if (s.graphAt g).kicks.isEmpty then s else s.post (.graph g)

/-- THAW: FROZEN, CAUSE and TAG cleared, processing resumes at the read index, frozen graphs of the queue with it; a queue that is
not frozen has nothing to resume, and a stall at its ring waits for a notify (DEDUCED, log 52); n the queue (R304, R311, R320). -/
def evThaw (a : EvArg) (s0 : State) : State :=
  if ¬ s0.broughtTo 6 then s0 else
  let s := (s0.graphs.map Prod.fst).foldl (fun t g =>
    if (t.graphAt g).queue = a.n ∧ (t.graphAt g).frozen = true then t.thawGraph g else t) s0
  if s.frozen a.n then
    (((s.setStatus a.n 31 1 0).refresh a.n).modQueue a.n fun x => { x with notified := true }).post (.queue a.n)
  else s

/-- The packet that ABANDON ends: the first stalled command block or waiting WAITSIG of the queue. -/
def State.abandoned? (s : State) (q : Nat) : Option (Nat × Packet) :=
  let ps := (s.queueAt q).packets
  (ps.findIdx? fun p => p.stalled.isSome || (p.started && pktType p.words == 4)).bind fun m => (ps[m]?).map fun p => (m, p)

/-- ABANDON: a stalled command block or a waiting WAITSIG ends with its signal naming it, once that signal can be written; n the
queue (R316, R318). -/
def evAbandon (a : EvArg) (s : State) : State :=
  if ¬ s.broughtTo 6 then s else
  match s.abandoned? a.n with
  | none => s
  | some (m, p) =>
    if s.releaseHeld a.n p.words then s
    else
      let d := (s.queueAt a.n).desc
      let v : Int := if p.stalled.isSome then -0x1008 else -0x1009
      (if pktSignal p.words then s.signalSet (descAsid d) (descPriv d) (pktSignalVa p.words) v else s).dropPacket a.n m

end Sys2Proof.Machine
end

