-- ==== Sys2Proof/Machine/PlacementOps.lean ====
section
/-!
DEFINITION. The placer: which queue is served, which core receives a crew, a crew's state at its start; crews placed again
(18 R266 to R275; 03 R20 to R22, R30; 17 R258, R259, R263, R265; 19 R290, R291; 22 R326; 23 R338, R345, R346).
-/
namespace Sys2Proof.Machine

/-! ## Cores (R351) -/

/-- The die of a compute core, or of a sequencer's stack. -/
def dieOf (core : Nat) : Nat := if 256 ≤ core then (core - 256) / 16 else core / 32

/-- Every core of a kind. -/
def coresOf (k : Kind) : List Nat := (List.range 384).filter fun n => kindOfCore n == k

/-- Cores of a kind on one die. -/
def coresOn (k : Kind) (die : Nat) : List Nat := (coresOf k).filter fun n => dieOf n == die

/-! ## Where a crew may go (R263, R273, R326) -/

/-- The uncorrectable errors in the eight bytes of a mode's argument: ECC unit and PA (R273, R337). -/
def State.argErrors (s : State) (asid args k : Nat) : List (Nat × Nat) :=
  ((List.range 8).filterMap fun i => match s.walk asid ((args + 8 * k + i) % 2 ^ 48) {} with
    | .error _ => none
    | .ok w =>
      let pa := w.tr.pa ((args + 8 * k + i) % 2 ^ 48)
      if inMmio pa then none else (s.eccAt pa 1).map fun e => (e.1, pa / 8 * 8)).eraseDups

/-- The page that a mode's argument names, queried as an unprivileged XLQ: none where the argument cannot be read or holds an
error, or its page reports EXEC 11, or lies in no stack's DRAM. -/
def State.placePage (s : State) (asid args k : Nat) : Option Translation :=
  if ¬ (s.argErrors asid args k).isEmpty then none
  else match s.peek asid false ((args + 8 * k) % 2 ^ 64) 8 with
  | none => none
  | some b =>
    let va := leDWord b
    if ¬ canonical va then none
    else match s.walk asid (va48 va) {} with
      | .error _ => none
      | .ok w => if inDram w.tr.frame then some w.tr else none

/-- What reading a launch's argument leaves as a crew is placed, in the modes that read it of a kernel with D text: stage-2 A, and the
errors met logged (R100, R273, R326, R348). -/
def State.logArgument (s : State) (x : Launch) (e : Entry) : State :=
  if pktMode x.words < 2 ∨ (e.pc? .density).isNone = true then s
  else
    let k := bitsAt (pw x.words 1) 4 4
    (s.argErrors x.asid (pd x.words 8) k).foldl (fun t e => t.logAgent e.1 x.asid x.queue (pktTag x.words) e.2)
      (s.stage2A x.asid ((pd x.words 8 + 8 * k) % 2 ^ 48) {})

/-- What the placer's reading of a launch's code object and argument leaves (R100, R273). -/
def State.placerRead (s : State) (x : Launch) (e : Entry) : State :=
  (s.peekedAll x.asid (s.entryReads x.asid (pd x.words 2) (bitsAt (pw x.words 4) 0 12))).logArgument x e

/-- The placer's reads for a launch would be held at their homes (R113, R153): of its entry, and of its argument. -/
def State.placerHeld (s : State) (x : Launch) : Bool :=
  s.readsHeld x.asid (s.entryReads x.asid (pd x.words 2) (bitsAt (pw x.words 4) 0 12))
    || (decide (2 ≤ pktMode x.words) && s.areaHeld x.asid ((pd x.words 8 + 8 * bitsAt (pw x.words 1) 4 4) % 2 ^ 64) 8 false)

/-- A crew fits a sequencer by its shape (R263). -/
def Entry.fitsSequencer (e : Entry) (gangs : Nat) (paired : Bool) : Bool :=
  !paired && decide (gangs ≤ 8) && decide (e.dblk ≤ 8) && decide (e.scratch ≤ 2 ^ 16)

/-- The groups of cores that a launch's crew may go to, in order of preference (R273, R326). -/
def State.modeTiers (s : State) (x : Launch) (e : Entry) : List (List Nat) :=
  let ws := x.words
  let gangs := pktGangs ws
  let paired := pktPaired ws
  let toL := (e.pc? .latency).isSome && decide (gangs ≤ 16)
  let density := coresOf .density
  if (e.pc? .density).isNone then [coresOf .latency]
  else match pktMode ws with
    | 0 => [density]
    | 1 => if toL then [coresOf .latency, density] else [density]
    | m => match s.placePage x.asid (pd ws 8) (bitsAt (pw ws 1) 4 4) with
      | none => [density]
      | some t =>
        let die := stackOf t.frame
        if (m = 3 ∨ t.executor ≠ .core) ∧ e.fitsSequencer gangs paired = true then [coresOn .sequencer die]
        else [coresOn .density die, density]

/-- The groups of cores that a saved crew may go to (R249, R258, R259, R265): the other kind where every live fibre of each copy of
it stands at a dovetail point, as their areas' STATE[6] tells. -/
def State.restoreTiers (s : State) (k : Crew) : List (List Nat) :=
  let same := match k.kind with
    | .sequencer => coresOn .sequencer (dieOf k.core)
    | x => coresOf x
  match k.status with
  | .moving dest =>
    if k.kind == .sequencer then [coresOn dest (dieOf k.core), coresOf dest] else [coresOf dest]
  | _ =>
    let other := if k.kind.isL then Kind.density else Kind.latency
    let points := fun (k : Crew) => bitsAt (s.ctxNat k 0 4) 6 1 == 1
    if points k = true ∧ ((k.pair.bind fun p => s.crews[p.partner]?).map points).getD true = true ∧ s.hasText k.desc other = true ∧ k.gangs.length ≤ other.maxGangs then
      [same, coresOf other]
    else [same]

/-! ## A crew at its start (R20 to R22, R30, R37, R174, R291) -/

/-- A bound fibre at its kernel's entry, or an empty slot. -/
def boundFibre (x : Launch) (pc blocks f : Nat) : Fibre :=
  let e := { Fibre.empty with home := f % 32, gang := f / 32, ident := f }
  if pktFibres x.words ≤ f then e
  else
    { e with
      live := true, priv := x.priv, codeBase := BitVec.ofNat 64 (pd x.words 2), pc := BitVec.ofNat 32 pc,
      hdr := BitVec.ofNat 32 pc, size := blocks, regs := newRegs blocks, dirty := List.range blocks }

/-- Crew `i` of launch `l` (its scratchpad a multiple of 16 bytes, R125) as it starts on a core of a kind, its context area at `ctx`; `pair` names the other copy. -/
def newCrew (l : Nat) (x : Launch) (e : Entry) (i ctx est : Nat) (pair : Option (Nat × Bool)) (k : Kind) : Crew :=
  let ws := x.words
  let gangs := pktGangs ws
  let stride := pw ws 14
  { status := .saved
    desc := { launch := l, asid := x.asid, x := i % pktX ws, y := i / pktX ws % pktY ws, z := i / (pktX ws * pktY ws),
              ncrewx := pktX ws, args := BitVec.ofNat 64 (pd ws 8),
              stkBase := BitVec.ofNat 64 (pd ws 12 + stride * pktFibres ws * i), stkStride := BitVec.ofNat 32 stride,
              entry := bitsAt (pw ws 4) 0 12, codeBase := BitVec.ofNat 64 (pd ws 2),
              mode := BitVec.ofNat 32 (bitsAt (pw ws 1) 0 8), regsD := e.dblk, regsL := e.lblk, nbound := pktFibres ws,
              scrSize := (e.scratch + 15) / 16 * 16, accCount := e.acc, ctx := BitVec.ofNat 64 ctx }
    kind := k, core := 0, scrBase := 0, accBase := 0
    fibres := (List.range (32 * gangs)).map (boundFibre x ((e.pc? k).getD 0) (e.blocks k))
    gangs := List.replicate gangs Tokens.fresh
    bins := [], scr := [], full := [], bench := List.replicate 64 0
    barriers := List.replicate 16 { phase := false, arrived := [] }
    tiles := [], tileDirty := [], copies := [], mats := [], stores := [], pending := none, returning := false
    preempting := false, delivery := none, heldFault := none, faultSeq := 0, saveSeq := 0, stamps := [], slotOwners := []
    allDirty := true, slotAt := 0, tileAt := 0, reserve := 0
    pair := pair.map fun p => { partner := p.1, first := p.2, signature := 0, buffer := [], arrived := [], passed := [],
                                 pushed := [], results := [] }
    mirror := bitsAt (pw ws 1) 9 1 == 1, cost := 0, since := 0, est := est, passedOver := 0, jobs := 0 }

/-- A context area carved from a queue's pool: the pool's start or the end of another area, whichever the device takes,
apart from the areas of its crews that have not ended, and of those whose launch ended with a cause (R288, R291, R309). -/
def State.carveArea (s : State) (q n : Nat) : Option Nat :=
  let d := (s.queueAt q).desc
  let lo := recNat d 0x28 8
  let hi := lo + 4096 * recNat d 0x30 4
  let used := s.crews.filterMap fun k => match s.launches[k.desc.launch]? with
    | none => none
    | some x =>
      if x.queue == q && (k.status != .ended || x.cause.isSome) then
        some (k.desc.ctx.toNat, areaBytes k.gangs.length k.desc.scrSize k.desc.accCount)
      else none
  pickNth s.draws ((lo :: used.map fun x => up256 (x.1 + x.2)).filter fun a =>
    decide (lo ≤ a) && decide (a + n ≤ hi) && used.all fun x => apart a n x.1 x.2)

/-- A core among the first group that has one where a crew fits; `mk` is the crew for a kind of core, to stand at the end of
the list. -/
def State.findCore (s : State) (mk : Kind → Crew) (tiers : List (List Nat)) : Option Nat :=
  tiers.findSome? fun t => pickNth s.draws (t.filter fun core =>
    ({ s with crews := s.crews ++ [mk (kindOfCore core)] }).fits s.crews.length core)

/-- A crew for a core, at the end of the list and on that core. -/
def State.startOn (s : State) (mk : Kind → Crew) (core : Nat) : State :=
  ({ s.draw with crews := s.crews ++ [mk (kindOfCore core)] }).install s.crews.length core

/-- The next crew of a launch placed, both copies of a paired one on cores of one kind on different dies, or neither: the
state after (R273 to R275); none too while the placer's reads for it are held. -/
def State.placeCrew (s : State) (l : Nat) : Option State :=
  match (s.launches[l]?).filter fun x => !s.placerHeld x with
  | none => none
  | some x => match s.entry? x.asid (pd x.words 2) (bitsAt (pw x.words 4) 0 12) with
    | none => none
    | some e =>
      let n := areaBytes (pktGangs x.words) ((e.scratch + 15) / 16 * 16) e.acc
      let est := (s.queueAt x.queue).est
      let tiers := s.modeTiers x e
      let c := s.crews.length
      match s.carveArea x.queue n with
      | none => none
      | some ctx =>
        if pktPaired x.words = false then
          let mk := newCrew l x e x.placed ctx est none
          (s.findCore mk tiers).map fun core => (s.startOn mk core).placerRead x e
        else
          let mk := newCrew l x e x.placed ctx est (some (c + 1, true))
          tiers.findSome? fun t => match s.findCore mk [t] with
          | none => none
          | some core =>
            let s' := s.startOn mk core
            match s'.carveArea x.queue n with
            | none => none
            | some ctx' =>
              let mk' := newCrew l x e x.placed ctx' est (some (c, false))
              let others := (coresOf (kindOfCore core)).filter fun b => dieOf b != dieOf core
              (s'.findCore mk' [others]).map fun core' => (s'.startOn mk' core').placerRead x e

/-- A crew placed is charged its queue's estimate, for each copy, and claims a graph node's result buffers if it is the
launch's first (R269, R272). -/
def State.accountFor (s : State) (l : Nat) (claim : State → State) : State :=
  match s.launches[l]? with
  | none => s
  | some x =>
    let copies := if pktPaired x.words = true then 2 else 1
    let s := if x.placed = 0 then claim s else s
    (s.charge x.queue (-(copies * (s.queueAt x.queue).est : Int))).modLaunch l fun y => { y with placed := y.placed + 1 }

/-- A saved crew placed again, with its other copy: the state after; none where it fits nowhere (R275, R290). -/
def State.placeAgain (s : State) (c : Nat) : Option State :=
  match s.crews[c]? with
  | none => none
  | some k => match s.copiesOf c with
    | [a, b] =>
      (s.restoreTiers k).findSome? fun t => match pickNth s.draws (t.filter (s.restoreFits a)) with
      | none => none
      | some core =>
        let s' := s.draw.restoreOn a core
        let others := (coresOf (kindOfCore core)).filter fun x => dieOf x != dieOf core
        (pickNth s'.draws (others.filter (s'.restoreFits b))).map fun core' => s'.draw.restoreOn b core'
    | _ => ((s.restoreTiers k).findSome? fun t => pickNth s.draws (t.filter (s.restoreFits c))).map
      fun core => s.draw.restoreOn c core

/-! ## Task-graph objects (R319) -/

/-- A queue's descriptor as in force: as its last wake found it, or as memory holds it where it has never woken. -/
def State.descOf (s : State) (q : Nat) : List Byte :=
  if (s.queueAt q).desc.isEmpty then s.queueDesc q else (s.queueAt q).desc

/-- A number in a graph's object. -/
def State.objNat (s : State) (g : GraphSt) (off n : Nat) : Nat :=
  leNat (s.peekMany (descAsid (s.descOf g.queue)) 3 ((g.object.toNat + off) % 2 ^ 64) n)

/-- A buffer entry: its number, and KEEP. -/
def State.objBuffer (s : State) (g : GraphSt) (i : Nat) : Nat × Bool :=
  let e := s.objNat g (s.objNat g 0x10 8 + 2 * i) 2
  (bitsAt e 0 12, bitsAt e 15 1 == 1)

/-- Offset of a node in the object. -/
def State.nodeAt (s : State) (g : GraphSt) (i : Nat) : Nat := s.objNat g 8 8 + 128 * i

/-- The input buffers of a node with their KEEP bits. -/
def State.nodeInputs (s : State) (g : GraphSt) (i : Nat) : List (Nat × Bool) :=
  let at_ := s.nodeAt g i
  (List.range (s.objNat g (at_ + 0x44) 2)).map fun j => s.objBuffer g (s.objNat g (at_ + 0x40) 4 + j)

/-- The result buffers of a node. -/
def State.nodeResults (s : State) (g : GraphSt) (i : Nat) : List Nat :=
  let at_ := s.nodeAt g i
  (List.range (s.objNat g (at_ + 0x46) 2)).map fun j => (s.objBuffer g (s.objNat g (at_ + 0x48) 4 + j)).1

/-- A launch is of a graph's present replay. -/
def State.ofReplay (s : State) (slot : Nat) (x : Launch) : Bool := x.node.map Prod.fst == some slot && x.replay == (s.graphAt slot).replay

/-- A node of a launch may start: it is of the graph's present replay, every input is full, every result empty, and no node of the
replay has a launch that ended with a cause or was handed back (R272, R320). -/
def State.nodeReady (s : State) (x : Launch) (slot i : Nat) : Bool :=
  let g := s.graphAt slot
  g.running && g.cause.isNone && s.ofReplay slot x
    && s.launches.all (fun y => !s.ofReplay slot y || ((y.completed || y.cause.isNone) && !y.handedBack))
    && (s.nodeInputs g i).all (fun b => g.buffers.getD b.1 .empty == .full)
    && (s.nodeResults g i).all fun b => g.buffers.getD b .empty == .empty

/-- The VAs of a graph's object that reading it reaches: the header, the nodes, their buffer entries, the initial states (R319). -/
def State.objReads (s : State) (g : GraphSt) : List Nat :=
  let nodes := (List.range (min 1024 (s.objNat g 0 4))).flatMap fun i =>
    let at_ := s.nodeAt g i
    let entries := fun (first n : Nat) => if n = 0 then [] else
      [s.objNat g 0x10 8 + 2 * first, s.objNat g 0x10 8 + 2 * (first + n) - 1]
    [at_, at_ + 127] ++ entries (s.objNat g (at_ + 0x40) 4) (s.objNat g (at_ + 0x44) 2)
      ++ entries (s.objNat g (at_ + 0x48) 4) (s.objNat g (at_ + 0x46) 2)
  ([0, 0x3F, s.objNat g 0x18 8, s.objNat g 0x18 8 + min 4096 (s.objNat g 4 4) / 8] ++ nodes).map fun o => (g.object.toNat + o) % 2 ^ 64

/-- What reading a graph's object leaves (R100, R337). -/
def State.objRead (s : State) (g : GraphSt) : State := s.peekedAll (descAsid (s.descOf g.queue)) (s.objReads g)

/-- Reading a graph's object would be held at some home (R113, R153). -/
def State.objHeld (s : State) (g : GraphSt) : Bool := s.ownsSome && s.readsHeld (descAsid (s.descOf g.queue)) (s.objReads g)

/-- The result buffers of a launch's node claimed, the node started (R272). -/
def State.claimNode (x : Launch) (s : State) : State :=
  match x.node with
  | none => s
  | some (slot, i) =>
    let rs := s.nodeResults (s.graphAt slot) i
    (s.objRead (s.graphAt slot)).modGraph slot fun g => { g with
      buffers := g.buffers.mapIdx fun b v => if rs.contains b then .claimed else v
      started := if g.started.contains i then g.started else g.started ++ [i] }

/-! ## Which queue is served (R267 to R271) -/

/-- What a queue would have placed next. -/
inductive Next where
  | saved (c : Nat)
  | fresh (l : Nat)
  deriving DecidableEq, Repr

/-- A launch has begun: a crew of it has been placed, before a rollback or since (R344). -/
def Launch.begun (x : Launch) : Bool := decide (0 < x.placed) || decide (0 < x.rollbacks) || x.rolling

/-- A launch is unfinished: it has been accepted; of a graph node, it may start or has begun. -/
def State.unfinished (s : State) (x : Launch) : Bool :=
  !x.completed && (match x.node with
    | some (slot, i) => x.begun || s.nodeReady x slot i
    | none => true)

/-- The protected launch that an address space is kept for: the one that has begun, else the unfinished one accepted first. -/
def State.keeper? (s : State) (asid : Nat) : Option (Launch × Nat) :=
  let ps := s.launches.zipIdx.filter fun y => y.1.asid == asid && pktProtected y.1.words && s.unfinished y.1
  (ps.find? fun y => y.1.begun).orElse fun _ => ps.head?

/-- An unfinished protected launch of the address space keeps this launch's crews off the device, or it is protected itself and its
first crew waits for the crews of others (R345). A packet's launch that R271 has placed before a protected one of its queue is not kept
by it (DESIGN CHOICE, log 39). -/
def State.kept (s : State) (l : Nat) : Bool :=
  match s.launches[l]? with
  | none => true
  | some x =>
    (s.keeper? x.asid).any (fun y => y.2 != l
        && (y.1.begun || !(decide (l < y.2) && x.queue == y.1.queue && x.node.isNone && y.1.node.isNone)))
      || (pktProtected x.words && !x.begun && s.crews.any fun k => k.status == .resident && k.desc.asid == x.asid
        && k.desc.launch != l)

/-- Fencing has left no core that a saved crew could go to (R270, R346). -/
def State.noCoreFor (s : State) (k : Crew) : Bool :=
  (s.restoreTiers k).all fun t => t.all fun core => s.rel.fenced.contains (hwOf core)

/-- Saved crews of a queue that may be placed again, in order; of a launch handed back, those that some core is left for (R270). -/
def State.savedOf (s : State) (q : Nat) : List Nat :=
  (List.range s.crews.length).filter fun c => match s.crews[c]? with
    | none => false
    | some k => (match k.status with
        | .saved => true
        | .moving _ => true
        | _ => false)
      && (match k.pair with
        | some p => p.first
        | none => true)
      && (match s.launches[k.desc.launch]? with
        | some x => x.queue == q && !s.kept k.desc.launch && !(x.handedBack && s.noCoreFor k)
        | none => false)

/-- Launches of a queue with crews to place: its first packet's, and graph nodes that may start or have started, one that starts
again after a rollback among them (R344). -/
def State.freshOf (s : State) (q : Nat) : List Nat :=
  let open_ := (List.range s.launches.length).filter fun l => match s.launches[l]? with
    | some x => x.queue == q && !x.completed && !x.handedBack && !x.rolling && x.cause.isNone
        && decide (x.placed < pktCrews x.words)
    | none => false
  let isNode := fun l => ((s.launches[l]?).bind Launch.node).isSome
  let head := open_.find? fun l => !isNode l
  open_.filter fun l => (some l == head || isNode l) && !s.kept l && (match s.launches[l]? with
    | some x => match x.node with
      | some (slot, i) => decide (0 < x.placed) || decide (0 < x.rollbacks) || s.nodeReady x slot i
      | none => true
    | none => false)

/-- A queue is ready: it has a crew to place (R267). R267 speaks of a launch with crews not yet placed; that a queue whose only crew to
place is one to be placed again is ready too, and so takes part in rounds and is served by its deficit, is the model's choice (DESIGN
CHOICE, log 57). -/
def State.queueReady (s : State) (q : Nat) : Bool := !(s.savedOf q).isEmpty || !(s.freshOf q).isEmpty

/-- What a ready queue would have placed next: a saved crew before any other (R271); none where it is not ready (R267). Of several saved
crews the first in the list that fits, and of several graph nodes, or a node and a packet's launch, the launch accepted first, since R271
gives them no order (DESIGN CHOICE, log 57). -/
def State.nextOf (s : State) (q : Nat) : Option Next :=
  match s.savedOf q with
  | c :: cs => some (.saved (((c :: cs).find? fun i => (s.placeAgain i).isSome).getD c))
  | [] => (s.freshOf q).head?.map Next.fresh

/-- The state after a next crew has been placed; none where it fits nowhere now. -/
def State.place (s : State) : Next → Option State
  | .saved c => s.placeAgain c
  | .fresh l => (s.placeCrew l).map fun t => t.accountFor l (State.claimNode ((s.launches[l]?).getD
      { queue := 0, asid := 0, priv := false, words := [], view := 0, placed := 0, ended := 0, cause := none,
        handedBack := false, completed := false, told := false, rollbacks := 0, rolling := false, noSnapshot := false, errUnit := 0,
        errCore := 0, errAddr := 0, node := none, replay := 0 }))

/-- Fencing has left no core that a launch's next crew could go to (R270, R346). "The kinds open to it" are the cores that R273 names for
its mode and argument now: a FOLLOW or STACK crew that fits a sequencer is handed back once every sequencer of its stack is fenced,
although density cores remain (DESIGN CHOICE, log 57). -/
def State.noCoreLeft (s : State) (l : Nat) : Bool :=
  match s.launches[l]? with
  | none => false
  | some x => match s.entry? x.asid (pd x.words 2) (bitsAt (pw x.words 4) 0 12) with
    | none => false
    | some e => (s.modeTiers x e).all fun t => t.all fun core => s.rel.fenced.contains (hwOf core)

/-- Queues of a level in the order of service: at or after the level's pointer, wrapping (R268). -/
def State.levelQueues (s : State) (v : Nat) : List Nat :=
  let qs := (s.queues.map Prod.fst).filter fun q => s.prio q == v
  let p := s.pointers.getD v 0
  qs.filter (fun q => decide (p ≤ q)) ++ qs.filter (fun q => decide (q < p))

/-- A launch's next crew: the launch, and the crew's place in it. -/
def State.nextCrew (s : State) (l : Nat) : Nat × Nat := (l, (s.launches[l]?.map Launch.placed).getD 0)

/-- How often the next crew of a queue has been passed over: a count that is its own (R270). -/
def State.passes (s : State) (q : Nat) : Nat :=
  match s.nextOf q with
  | some (.saved c) => (s.crews[c]?.map Crew.passedOver).getD 0
  | some (.fresh l) => if (s.queueAt q).passed = some (s.nextCrew l) then (s.queueAt q).passedOver else 0
  | none => 0

/-- A queue passed over once more (R270). -/
def State.passOver (s : State) (q : Nat) : State :=
  match s.nextOf q with
  | some (.saved c) => s.modCrew c fun k => { k with passedOver := k.passedOver + 1 }
  | some (.fresh l) =>
    let n := s.passes q
    s.modQueue q fun x => { x with passed := some (s.nextCrew l), passedOver := n + 1 }
  | none => s

/-- A decision that has placed a crew has not passed over other crews than those told: what they had been passed over in before does not
count as consecutive, unless it has come to 64 (R270). -/
def State.forgetPasses (s : State) (byPassed : List Next) : State :=
  let s : State := { s with crews := s.crews.zipIdx.map fun (x : Crew × Nat) =>
    if x.1.passedOver < 64 ∧ byPassed.contains (.saved x.2) = false then { x.1 with passedOver := 0 } else x.1 }
  (s.queues.map Prod.fst).foldl (fun t q => t.modQueue q fun x =>
    if 64 ≤ x.passedOver ∨ byPassed.any (fun n => match n with
      | .fresh l => x.passed == some (s.nextCrew l)
      | .saved _ => false) = true then x else { x with passed := none, passedOver := 0 }) s

/-- A crew of a launch passed over 64 times that a protected launch does not keep back (R270, R345; log 39). -/
def State.heldFor (s : State) (l n : Nat) : Bool := decide (64 ≤ n) && !s.kept l

/-- A crew of a level above `v` has been passed over in 64 decisions and has not been placed since (R270). -/
def State.holds (s : State) (v : Nat) : Bool :=
  s.crews.any (fun k => (match k.status with
      | .saved => true
      | .moving _ => true
      | _ => false) && s.heldFor k.desc.launch k.passedOver && !s.noCoreFor k
      && decide (((s.launches[k.desc.launch]?).map fun x => s.prio x.queue).getD 4 < v))
    || s.queues.any fun q => decide (s.prio q.1 < v) && (match q.2.passed with
      | some (l, i) => s.heldFor l q.2.passedOver && (match s.launches[l]? with
        | some x => !x.completed && !x.handedBack && x.cause.isNone && x.placed == i && !s.noCoreLeft l
        | none => false)
      | none => false)

/-- A placement decision. -/
inductive Decision where
  /-- a round of a level (R268) -/
  | round (v : Nat)
  /-- a queue is served at a level; those passed over before it -/
  | serve (v q : Nat) (n : Next) (passed : List Nat)
  /-- a launch that no core can take is handed back (R270) -/
  | back (l : Nat)
  deriving DecidableEq, Repr

/-- The decision at a level and those below, with the queues passed over so far (R267, R268, R270). -/
def State.decisionFrom (s : State) : Nat → Nat → List Nat → Option Decision
  | 0, _, _ => none
  | fuel + 1, v, passed =>
    if s.holds v then none
    else
    let ready := (s.levelQueues v).filter fun q => (s.nextOf q).isSome
    let eligible := ready.filter fun q => decide (0 < (s.queueAt q).deficit)
    if ready.isEmpty then s.decisionFrom fuel (v + 1) passed
    else if eligible.isEmpty then some (.round v)
    else match eligible.findSome? fun q => match s.nextOf q with
        | some (.fresh l) => if s.noCoreLeft l then some l else none
        | some (.saved c) => (s.crews[c]?).bind fun k => if s.noCoreFor k then some k.desc.launch else none
        | none => none with
      | some l => some (.back l)
      | none =>
        match eligible.find? fun q => match s.nextOf q with
            | some n => (s.place n).isSome
            | none => false with
        | some q => (s.nextOf q).map fun n => .serve v q n (passed ++ eligible.takeWhile fun x => x != q)
        | none => s.decisionFrom fuel (v + 1) (passed ++ eligible)

/-- The placer's next decision. -/
def State.nextDecision (s : State) : Option Decision := s.decisionFrom 4 0 []

/-- A queue that is not ready gives up a positive deficit, at whatever step it is found so (R268). -/
def State.dropIdle (s : State) : State :=
  (s.queues.map Prod.fst).foldl (fun t q =>
    if s.queueReady q = true ∨ (t.queueAt q).deficit ≤ 0 then t else t.modQueue q fun x => { x with deficit := 0 }) s

/-- A round of a level: scheduling words take effect, and every ready queue still of the level gains its quantum (R266,
R268). -/
def State.round (s : State) (v : Nat) : State :=
  (s.levelQueues v).foldl (fun t q =>
    let t := t.modQueue q fun x => { x with sched := recNat (s.queueDesc q) 0x0C 4 }
    if (s.nextOf q).isSome ∧ t.prio q = v then t.charge q (256 * t.quantum q) else t) s

/-- A queue served: its crew placed, the pointer moved, others passed over. -/
def State.serve (s : State) (v q : Nat) (n : Next) (passed : List Nat) : State :=
  match s.place n with
  | none => s
  | some t =>
    let byPassed := passed.filterMap t.nextOf
    let t := (passed.foldl State.passOver t).forgetPasses byPassed
    let t := match n with
      | .fresh _ => t.modQueue q fun x => { x with passed := none, passedOver := 0 }
      | .saved _ => t
    { t with pointers := t.pointers.set v ((q + 1) % 4096) }

/-- What the placer has read of a launch that no core can take. -/
def State.readBack (s : State) (l : Nat) : State :=
  match s.launches[l]? with
  | none => s
  | some x => match s.entry? x.asid (pd x.words 2) (bitsAt (pw x.words 4) 0 12) with
    | none => s
    | some e => s.placerRead x e

/-- CREW_PLACEMENT: a decision of the placer that is no restore: a round, a crew placed, or a launch handed back (R266 to
R275). -/
def evCrewPlacement (_ : EvArg) (s : State) : State :=
  match s.nextDecision with
  | some (.round v) => s.round v
  | some (.serve v q (.fresh l) passed) => s.serve v q (.fresh l) passed
  | some (.back l) => (s.readBack l).handBack l
  | _ => s

/-- CREW_RESTORE: a decision of the placer for a saved crew: its context is checked and restored (R271, R290, R297). -/
def evCrewRestore (_ : EvArg) (s : State) : State :=
  match s.nextDecision with
  | some (.serve v q (.saved c) passed) => s.serve v q (.saved c) passed
  | _ => s

end Sys2Proof.Machine
end

