-- ==== Sys2Proof/Machine/GraphOps.lean ====
section
/-!
DEFINITION. Task graphs, and the rollback of protected launches (21 R319, R320; 18 R270, R272; 23 R344).
-/
namespace Sys2Proof.Machine

/-! ## Registration (R319) -/

/-- Address of a graph slot's table entry. -/
def State.graphAddr? (s : State) (g : Nat) : Option Nat := (s.table? 4).map (· + 32 * g)

/-- The launch template of a node: as patched, or as the object holds it. -/
def State.template (s : State) (g : GraphSt) (i : Nat) : List Word :=
  match g.patched.find? fun p => p.1 == i with
  | some p => p.2
  | none => recWords ((List.range 16).flatMap fun w => leBytes 4 (s.objNat g (s.nodeAt g i + 4 * w) 4)) 16

/-- The first cause that a node template fails: a LAUNCH with VALID, BARRIER and SIGNAL 0 that passes the validator. -/
def State.templateCause (s : State) (g : GraphSt) (i : Nat) : Option Nat :=
  let ws := s.template g i
  if pktType ws ≠ 1 then some 0x01
  else if bitsAt (pw ws 0) 0 1 ≠ 0 ∨ bitsAt (pw ws 0) 8 2 ≠ 0 then some 0x02
  else s.packetCause (s.descOf g.queue) ws

/-- Nodes and buffers of an object. -/
def State.nodeCount (s : State) (g : GraphSt) : Nat := s.objNat g 0 4
def State.bufferCount (s : State) (g : GraphSt) : Nat := s.objNat g 4 4

/-- A graph object keeps R319: its counts, its must-be-zero fields, its buffer numbers, its templates. -/
def State.objectOk (s : State) (g : GraphSt) : Bool :=
  let n := s.nodeCount g
  decide (1 ≤ n) && decide (n ≤ 1024) && decide (s.bufferCount g ≤ 4096) && s.objNat g 0x28 24 == 0
    && (List.range n).all fun i =>
      s.objNat g (s.nodeAt g i + 0x4C) 52 == 0 && (s.templateCause g i).isNone
        && (s.nodeInputs g i).all (fun b => decide (b.1 < s.bufferCount g))
        && (s.nodeResults g i).all fun b => decide (b < s.bufferCount g)

/-- GRAPH_REGISTRATION: the object that a slot's entry names is checked, and the slot registered if it passes; n the slot
(R319). -/
def evGraphRegistration (a : EvArg) (s : State) : State :=
  if ¬ s.broughtTo 6 then s else
  match s.graphAddr? a.n with
  | none => s
  | some e =>
    let g := { GraphSt.fresh with
      registered := true, object := BitVec.ofNat 64 (s.word64 e), queue := s.word32 (e + 8), replay := (s.graphAt a.n).replay + 1 }
    if s.objHeld g then s
    else (s.objRead g).modGraph a.n fun _ => if s.objectOk g then g else { GraphSt.fresh with replay := g.replay }

/-! ## Kicks (R320) -/

/-- A patched template: `w` bytes at an offset take a value. -/
def patchWords (ws : List Word) (off w v : Nat) : List Word :=
  let ws := ws.set (off / 4) (BitVec.ofNat 32 v)
  if w = 8 then ws.set (off / 4 + 1) (BitVec.ofNat 32 (v / 2 ^ 32)) else ws

/-- A patch entry keeps none of R320's forms. -/
def State.patchBad (s : State) (g : GraphSt) (b : List Byte) : Bool :=
  let off := recNat b 2 1
  let w := recNat b 3 1
  decide (s.nodeCount g ≤ recNat b 0 2) || recNat b 4 4 != 0 || (w != 4 && w != 8) || off % w != 0 || decide (off < 4)
    || decide (0x40 < off + w)

/-- The VAs that reading a patch table reads. -/
def State.patchReads (s : State) (asid : Nat) (priv : Bool) (g : GraphSt) : Nat → Nat → List Nat
  | 0, _ => []
  | fuel + 1, va => va :: match s.peek asid priv va 16 with
    | none => []
    | some b => if recNat b 0 2 = 0xFFFF ∨ s.patchBad g b = true then [] else s.patchReads asid priv g fuel (va + 16)

/-- The patches of a table applied in order: the graph, and the nodes patched; or the cause for which it stops: an entry that
does not translate, or that keeps none of R320's forms. Fuel for every entry that 48 bits of address hold. -/
def State.patch (s : State) (asid : Nat) (priv : Bool) : Nat → Nat → GraphSt → List Nat → Except Nat (GraphSt × List Nat)
  | 0, _, _, _ => .error 0x08
  | fuel + 1, va, g, ns =>
    match s.peek asid priv va 16 with
    | none => .error 0x08
    | some b =>
      let i := recNat b 0 2
      let off := recNat b 2 1
      let w := recNat b 3 1
      if i = 0xFFFF then .ok (g, ns)
      else if s.patchBad g b then .error 0x02
      else
        let t := patchWords (s.template g i) off w (recNat b 8 8)
        s.patch asid priv fuel (va + 16) { g with patched := (i, t) :: g.patched.filter fun p => p.1 != i } (ns ++ [i])

/-- The graph's completion signal set. -/
def State.graphSignal (s : State) (g : GraphSt) (v : Int) : State :=
  let d := s.descOf g.queue
  s.signalSet (descAsid d) (descPriv d) (s.objNat g 0x20 8) v

/-- A graph frozen: its status holds the cause, its signal names it (R320). -/
def State.freezeGraph (s : State) (slot cause : Nat) : State :=
  let s := match s.graphAddr? slot with
    | some e => s.put32 (e + 0x0C) cause
    | none => s
  (s.graphSignal (s.graphAt slot) (-(0x1000 + cause : Int))).modGraph slot fun g => { g with frozen := true, running := false }

/-- The buffers' initial states. -/
def State.initialBuffers (s : State) (g : GraphSt) : List Buffer :=
  (List.range (s.bufferCount g)).map fun j =>
    if bitsAt (s.objNat g (s.objNat g 0x18 8 + j / 8) 1) (j % 8) 1 = 1 then .full else .empty

/-- The VAs that a kick reads beside its graph's object: the patch table, and what validating the nodes reads of their code objects and
telling their feature views. -/
def State.kickReads (s : State) (g : GraphSt) (v : DWord) : List Nat :=
  let d := s.descOf g.queue
  let va := v.toNat / 16 * 16
  (if va = 0 then [] else s.patchReads (descAsid d) (descPriv d) g (2 ^ 44) va)
    ++ (List.range (min 1024 (s.nodeCount g))).flatMap fun i =>
      s.packetReads d (s.template g i) ++ s.viewReads (descAsid d) (pd (s.template g i) 2)

/-- A replay begins: patches, the patched templates validated again, buffers as they start, a launch for each node. The owning
queue's descriptor takes effect where the queue has never woken. Patches of which one fails are not kept (DESIGN CHOICE, log
52). -/
def State.startReplay (s0 : State) (slot : Nat) (v : DWord) : State :=
  let g := s0.graphAt slot
  let s := if (s0.queueAt g.queue).desc.isEmpty then s0.latchQueue g.queue else s0
  let d := s.descOf g.queue
  let va := v.toNat / 16 * 16
  let s := (s.objRead g).peekedAll (descAsid d) (s.kickReads g v)
  match (if va = 0 then Except.ok (g, []) else s.patch (descAsid d) (descPriv d) (2 ^ 44) va g []) with
  | .error c => s.freezeGraph slot c
  | .ok (g', ns) =>
    match ns.findSome? (s.templateCause g') with
    | some c => s.freezeGraph slot c
    | none =>
      let s' := s.modGraph slot fun _ => { g' with
        running := true, replay := g.replay + 1, buffers := s.initialBuffers g', started := [], completed := [], cause := none }
      { s' with launches := s'.launches ++ (List.range (s.nodeCount g')).map fun i =>
          s'.newLaunch g.queue d (s.template g' i) (some (slot, i)) }

/-- A graph's completion signal cannot be written yet, or its object not be read: a line is held, or a write that has left through a
port is not acknowledged (R113, R150, R153). -/
def State.graphHeld (s : State) (g : GraphSt) : Bool :=
  s.objHeld g || s.devHeld (descAsid (s.descOf g.queue)) (s.objNat g 0x20 8) true || s.outbound.any Outbound.write

/-- A kick's reads are held at some home (R113, R153). -/
def State.kickHeld (s : State) (g : GraphSt) (v : DWord) : Bool :=
  s.ownsSome && s.readsHeld (descAsid (s.descOf g.queue)) (s.kickReads g v)

/-- A graph's event is being served; or, where its wake is the oldest event and a command core is idle, that core takes it (R317): none
where the graph is not served now. -/
def State.servingGraph (s : State) (slot : Nat) : Option State :=
  if (s.graphAt slot).core.isSome then some s
  else match s.wakes, s.idleCommand with
    | w :: ws, some n =>
      if w = .graph slot then some (({ s with wakes := ws } : State).modGraph slot fun g => { g with core := some n }) else none
    | _, _ => none

/-- A node's launch is over: done, ended with a cause, or handed back. -/
def State.nodeOver (s : State) (l : Nat) : Bool := (s.launches[l]?).any (fun x => x.node.isSome) && s.launchOver l

/-- A node of a graph is over, and its end has still to be dealt with. -/
def State.graphFinishable (s : State) (slot : Nat) : Bool :=
  (List.range s.launches.length).any fun l => ((s.launches[l]?).bind Launch.node).map Prod.fst == some slot && s.launchOver l

/-- A graph's event is served: a replay begins with the kick that waits, unless one runs; the core looks again where an event has come
since, and leaves it (R317, R320). -/
def State.serveGraph (s0 : State) (slot : Nat) : State :=
  match s0.servingGraph slot with
  | none => s0
  | some s =>
    let g := s.graphAt slot
    if s.graphFinishable slot then s0
    else match g.kicks, g.running || g.frozen with
      | v :: vs, false => if s.graphHeld g ∨ s.kickHeld g v = true then s0 else (s.modGraph slot fun g => { g with kicks := vs }).startReplay slot v
      | _, _ =>
        if g.pending then s.modGraph slot fun g => { g with pending := false } else s.modGraph slot fun g => { g with core := none }

/-- Kicks after another has come: it waits for its replay, or is held behind one that runs or has still to begin, a later one replacing
that which is held (R320). -/
def GraphSt.kicked (g : GraphSt) (v : DWord) : List DWord :=
  match g.running, g.kicks with
  | false, k :: _ => [k, v]
  | _, _ => [v]

/-- GRAPH_KICK: a kick arrives and waits or is held, an event for its graph; or with m = 1 a command core serves the graph's event; n the
slot, v the value (R317, R320). -/
def evGraphKick (a : EvArg) (s : State) : State :=
  let g := s.graphAt a.n
  if a.m = 1 then s.serveGraph a.n
  else if ¬ g.registered ∨ g.frozen = true ∨ (s.table? 4).isNone = true ∨ s.broughtTo 6 = false then s
  else (s.modGraph a.n fun g => { g with kicks := g.kicked a.v }).post (.graph a.n)

/-! ## Completion of nodes (R320, R272) -/

/-- The launches of a graph's replay that have not started take no further part. -/
def State.dropUnstarted (s : State) (slot : Nat) : State :=
  { s with launches := s.launches.map fun x =>
      if s.ofReplay slot x && (match x.node with
        | some (_, i) => !(s.graphAt slot).started.contains i
        | none => false) then { x with completed := true } else x }

/-- A node of a graph's replay has been handed back by the placer (R270). -/
def State.graphBack (s : State) (slot : Nat) : Bool := s.launches.any fun x => s.ofReplay slot x && x.handedBack

/-- A replay that is over: its signal counted down, or set to name a node's cause; a held kick follows. A replay of which a node was
handed back freezes its graph, once the started nodes have run. -/
def State.endReplay (s : State) (slot : Nat) : State :=
  let g := s.graphAt slot
  let d := s.descOf g.queue
  let va := s.objNat g 0x20 8
  let whole := (List.range (s.nodeCount g)).all g.completed.contains
  let back := s.graphBack slot
  let stopped := (g.cause.isSome || back) && g.started.all g.completed.contains
  if ¬ g.running ∨ (whole = false ∧ stopped = false) then s
  else if back then (s.dropUnstarted slot).freezeGraph slot 0x04
  else
    let s := match g.cause with
      | some c => (s.dropUnstarted slot).graphSignal g (-(0x2000 + c.toNat : Int))
      | none => s.signalAdd (descAsid d) (descPriv d) va (-1)
    let s := s.modGraph slot fun g => { g with running := false }
    if g.kicks.isEmpty then s else s.post (.graph slot)

/-- GRAPH_NODE_COMPLETION: results become full and inputs empty unless kept, one that another consumer has emptied since staying as it
is (R272); a cause ends the replay once the started nodes have run, and so does a launch handed back, whose buffers stay; a node of a
replay that is no longer the graph's touches nothing of it; n the launch (R270, R317, R320). -/
def evGraphNodeCompletion (a : EvArg) (s0 : State) : State :=
  match s0.launches[a.n]? with
  | none => s0
  | some x => match x.node with
    | none => s0
    | some (slot, i) => match s0.servingGraph slot with
      | none => s0
      | some s =>
        if ¬ s.nodeOver a.n then s0
        else match s.drainFirst a.n with
        | some t => t
        | none =>
        if s.graphHeld (s.graphAt slot) then s0
        else
          let s := (s.overLaunch a.n x).objRead (s.graphAt slot)
          if ¬ s.ofReplay slot x then s
          else
            let results := s.nodeResults (s.graphAt slot) i
            let inputs := (s.nodeInputs (s.graphAt slot) i).filterMap fun b => if b.2 then none else some b.1
            let s := s.modGraph slot fun g => { g with
              completed := g.completed ++ [i]
              cause := g.cause.orElse fun _ => x.cause
              buffers := if x.cause.isSome ∨ x.handedBack = true then g.buffers else g.buffers.mapIdx fun b v =>
                if results.contains b then .full else if inputs.contains b && v == .full then .empty else v }
            s.endReplay slot

/-! ## Rollback of a protected launch (R344) -/

/-- A granule's bytes replaced: contributions of the failed run that are still partials fall away, and so do the errors that stood in
what is overwritten (R337, R344). -/
def State.putGranule (s : State) (pa : Nat) (bs : List Byte) : State :=
  ({ s with partials := s.partials.filter fun p => p.pa / 2 ^ 16 != pa / 2 ^ 16 } : State).putWhole pa bs

/-- Every logged granule copied back from the pool. -/
def State.copyBack (s : State) (pool log : Nat) : Nat → State
  | 0 => s
  | n + 1 =>
    let s := s.copyBack pool log n
    s.putGranule (s.word64 (log + 16 * n)) (s.freshBytes (pool + 2 ^ 16 * s.word32 (log + 16 * n + 8)) (2 ^ 16))

/-- The uncorrectable errors that a rollback meets in the log and in the granules of the pool that it copies back: each its unit and
PA (R337). -/
def State.rollbackErrors (s : State) (pool log n : Nat) : List (Nat × Nat) :=
  let reads := (List.range n).flatMap fun i => [(log + 16 * i, 16), (pool + 2 ^ 16 * s.word32 (log + 16 * i + 8), 2 ^ 16)]
  s.rel.poison.filterMap fun p =>
    let at_ := match p with
      | .l2 x => some (3, 64 * x, 64)
      | .dram x => if s.l2Valid (x / 8) then none else some (4, 8 * x, 8)
      | _ => none
    at_.bind fun e => if reads.any fun r => meetsRange e.2.1 e.2.2 r.1 r.2 then some (e.1, e.2.1) else none

/-- A rollback would write a line that an engine or an accepted part owns: of a granule that it copies back, or of the descriptor that
GENBUMP writes (R113, R153). -/
def State.rollbackHeld (s : State) (asid : Nat) : Bool :=
  s.spaceHeld asid || (s.recovery? asid).any fun d => (List.range (s.word32 (d + 0x1C))).any fun i =>
    s.ownedIn (s.word64 (s.word64 (d + 0x10) + 16 * i) / 64) 1024

/-- Steps 2 and 3 of a rollback, and the launch to start again with the same view (R344). What parts on their way have put into paired
copies' buffers since the crews stopped is given up with the rest (step 1). -/
def State.rollBack (s : State) (l : Nat) (x : Launch) : State :=
  let s := s.logError 5 x.errUnit x.errCore x.asid x.queue (pktTag x.words) x.errAddr
  let s := match s.recovery? x.asid with
    | some d => (s.copyBack (s.word64 d) (s.word64 (d + 0x10)) (s.word32 (d + 0x1C))).emptyLog x.asid
    | none => s
  ((s.discardPairs l).bumpGen x.asid).modLaunch l fun y => { y with
    rolling := false, rollbacks := y.rollbacks + 1, placed := 0, ended := 0, cause := none, told := false }

/-- PROTECTED_ROLLBACK: once the launch's crews have stopped, its granules are copied back, the log emptied, the generation advanced,
and the launch starts again; an error met in the log or the pool is logged, and the rollback starts again; n the launch (R337, R344). -/
def evProtectedRollback (a : EvArg) (s : State) : State :=
  match s.launches[a.n]? with
  | none => s
  | some x =>
    if ¬ x.rolling ∨ s.launchQuiet a.n = false ∨ s.rollbackHeld x.asid = true then s
    else match (s.recovery? x.asid).bind fun d =>
        (s.rollbackErrors (s.word64 d) (s.word64 (d + 0x10)) (s.word32 (d + 0x1C))).head? with
      | some e => s.logAgent e.1 x.asid x.queue (pktTag x.words) e.2
      | none => s.rollBack a.n x

end Sys2Proof.Machine
end

