-- ==== Sys2Proof/Machine/SystemOps.lean ====
section
/-!
DEFINITION. Ports, self-tests, clocks, power, attestation, keys, registers of the always-on domain, reset and bring-up, and
FEATQ (10 R149, R150; 22 R330; 23 R346 to R350; 24 R352 to R358).
-/
namespace Sys2Proof.Machine

/-! ## FEATQ (R330) -/

/-- FEATQ: a word of the launch's feature view. -/
def bodyFeatq (d k : Nat) (c : Ctx) (s : State) : Eff :=
  writeLanes c d (fun _ => { val := (s.viewOf c.crew).extractLsb' (32 * k) 32, s := false }) s

/-! ## Traffic that arrives through ports (R149, R150, R354) -/

/-- A frame's translation for an agent that names physical addresses. -/
def plainTr (pa : Nat) : Translation :=
  { frame := pa - pa % 2 ^ 16, size := 0, mtype := 0, enc := false, ns := false, ex := 0, kernel := false, writable := true,
    executable := false, w1 := true, x1 := false, snapshot := false }

/-- The port is a host port, or a peer is bound to it: traffic of others is refused at the port (R354, R357). -/
def State.portOpen (s : State) (port : Nat) : Bool :=
  decide (port < 2) || (decide (port < 18) && s.aon.peers.contains (port - 2))

/-- A physical address that inbound traffic may name: bonded DRAM, or for a host the kick, notify and control registers; an expander's
memory is private to the module, and the registers of the always-on domain are firmware's (R151, R356). An access that spans two lines,
and one that names no such address, changes nothing: DESIGN CHOICE, log 54. -/
def State.inboundOk (s : State) (port pa n : Nat) : Bool :=
  s.broughtTo 1 && s.frameOk pa && decide (pa / 64 = (pa + n - 1) / 64)
    && (inDram pa || (decide (port < 2) && inMmio pa && decide (kickBase ≤ pa))) && (apertureOf pa).isNone

/-- An arrival through a port whose line is owned: it is held at the home, and what came later through the port behind it (R150,
R153). -/
def State.arrivalHeld (s : State) (a : EvArg) : Bool := s.owned (a.v.toNat / 64)

/-- An answer given through a port. -/
def State.answer (s : State) (port pa : Nat) (bs : List Byte) : State :=
  { s with replies := s.replies ++ [{ port := port, address := pa, data := bs, refused := false }] }

/-- Traffic of a peer that is not bound to its port is refused there and reported to the peer (R354, R357). -/
def State.refuseAt (s : State) (port pa : Nat) : State :=
  { s with replies := s.replies ++ [{ port := port, address := pa, data := [], refused := true }] }

/-- PORT_WRITE_ARRIVAL: a write from a host or peer performed at its home; n the port, v the physical address, bytes the
data. -/
def evPortWriteArrival (a : EvArg) (s : State) : State :=
  let pa := a.v.toNat
  if ¬ s.portOpen a.n then s.refuseAt a.n pa
  else if ¬ s.inboundOk a.n pa a.bytes.length ∨ s.arrivalHeld a = true then s
  else if inMmio pa then s.mmioWrite nobody pa a.bytes
  else s.homeWrite nobody nobody 0 {} (plainTr pa) pa 0 a.bytes

/-- PORT_READ_ARRIVAL: a read from a host or peer performed at its home, pending partials of the line merged first, and answered; n
the port, v the physical address, m the length. -/
def evPortReadArrival (a : EvArg) (s : State) : State :=
  let pa := a.v.toNat
  if ¬ s.portOpen a.n then s.refuseAt a.n pa
  else if ¬ s.inboundOk a.n pa a.m ∨ s.arrivalHeld a = true then s
  else match (if inMmio pa then s.mmioRead pa a.m else (s.devMeets 0 pa a.m).homeRead 0 (plainTr pa) pa a.m) with
    | (s, bs) => s.answer a.n pa bs

/-- PEER_ATOM_ARRIVAL: an atomic of a peer performed at its home here, and answered with what stood there; n the port, v the physical address, m the operation,
bytes the operand and the comparand. -/
def evPeerAtomArrival (a : EvArg) (s : State) : State :=
  let pa := a.v.toNat
  if ¬ s.portOpen a.n then s.refuseAt a.n pa
  else if ¬ s.inboundOk a.n pa 4 ∨ s.arrivalHeld a = true ∨ pa % 4 ≠ 0 ∨ inMmio pa = true then s
  else
    let s := (s.devMeets 0 pa 4).mergeLine (pa / 64)
    let old := leWord (s.bytes pa 4)
    let s := s.answer a.n pa (s.bytes pa 4)
    let x := leWord (a.bytes.take 4)
    let y := leWord ((a.bytes.drop 4).take 4)
    if atomWrites a.m old y then
      s.homeWrite nobody nobody 0 { rmw := true } (plainTr pa) pa 0 (leBytes 4 (atomNew a.m old x y).toNat)
    else s

/-- HOST_ACKNOWLEDGEMENT: a write that left through a port has been accepted at its target; n names it. -/
def evHostAcknowledgement (a : EvArg) (s : State) : State :=
  { s with outbound := s.outbound.filter fun o => o.ident != a.n }

/-! ## Self-test (R346, R348) -/

/-- Crews on a unit of hardware. -/
def State.onUnit (s : State) (u : HwUnit) : List Nat :=
  (List.range s.crews.length).filter fun c => match s.crews[c]? with
    | some k => k.status == .resident && hwOf k.core == u
    | none => false

/-- The place of a unit as an error entry names it, numbered as %core: a base die's L2 ways, DRAM rows and strait by the first
sequencer of its stack (DESIGN CHOICE, log 9), a unit of the I/O die by 0x3FF (R348). -/
def hwLoc : HwUnit → Nat
  | .core n => n
  | .sequencer n => 256 + n
  | .nearBank s _ => 256 + 16 * s
  | .l2Way d _ => 256 + 16 * d
  | .dramRow pa => 256 + 16 * stackOf pa
  | .strait _ b => 256 + 16 * b
  | .commandCore _ => 0x3FF

/-- ECC unit and address of a unit of hardware as an entry about its test tells: a DRAM row by the PA that its frames are reported
with, an L2 way by its unit and the first address of its die's window (DESIGN CHOICE, log 9), any other by its location alone
(R346, R348). -/
def hwTold : HwUnit → Nat × Nat
  | .dramRow pa => (4, pa)
  | .l2Way d _ => (3, d * 2 ^ 38)
  | _ => (0, 0)

/-- A unit out of service: of an L2 way the lines are written back first (R346). -/
def State.takeOut (s : State) (u : HwUnit) : State :=
  let s := { s with rel := { s.rel with underTest := s.rel.underTest.filter (· != u) ++ [u] } }
  match u with
  | .l2Way d _ => s.shrinkL2 d (s.l2Of d).length
  | _ => s

/-- A command core that holds a queue's lock, or serves a graph, finishes its event before it is tested (R317). -/
def State.commandBusy (s : State) : HwUnit → Bool
  | .commandCore n => s.queues.any (fun q => q.2.lock == some n) || s.graphs.any fun g => g.2.core == some n
  | _ => false

/-- UNIT_SELF_TEST: a unit is taken out of service, its crews pre-empted; once none is left it is tested, and fenced or
returned; the argument names the unit. Whether it passes is free. -/
def evUnitSelfTest (a : EvArg) (s : State) : State :=
  if ¬ s.broughtTo 1 ∨ s.rel.fenced.contains a.hw = true then s
  else
    let s := s.takeOut a.hw
    let cs := s.onUnit a.hw
    if s.commandBusy a.hw then s
    else if ¬ cs.isEmpty then
      cs.foldl (fun t c => (s.copiesOf c).foldl (fun t i => t.modCrew i fun k => { k with preempting := true }) t) s
    else
      let pass := Config.selfTestPasses s.draws
      let s := { s.draw with rel := { s.rel with
        underTest := s.rel.underTest.filter (· != a.hw)
        fenced := if pass then s.rel.fenced else s.rel.fenced ++ [a.hw] } }
      s.logError (if pass then 9 else 8) (hwTold a.hw).1 (hwLoc a.hw) 0 0 0 (hwTold a.hw).2

/-! ## Clocks, power, temperature (R352, R353) -/

/-- ISLAND_CLOCK_CHANGE: an island's clock lowered, or raised again up to its nominal value; n the island, m the clock in
MHz. -/
def evIslandClockChange (a : EvArg) (s : State) : State :=
  if s.broughtTo 1 ∧ a.n < 32 ∧ 0 < a.m ∧ a.m ≤ nominalIslands.getD a.n 0 then
    { s with power := { s.power with islands := s.power.islands.set a.n a.m } }
  else s

/-- POWER_CAP_SET: the host's cap of 1,200 to 3,200 W; n the cap. -/
def evPowerCapSet (a : EvArg) (s : State) : State :=
  if s.broughtTo 1 ∧ 1200 ≤ a.n ∧ a.n ≤ 3200 then { s with power := { s.power with cap := a.n } } else s

/-- THERMAL_LIMIT: every resident crew is pre-empted and nothing is placed until the die has cooled; n the die. -/
def evThermalLimit (a : EvArg) (s : State) : State :=
  if 17 ≤ a.n then s
  else
    { s with
      power := { s.power with hot := insertRising a.n s.power.hot }
      crews := s.crews.map fun k => if k.status == .resident then { k with preempting := true } else k }

/-- DIE_COOLED: n the die. -/
def evDieCooled (a : EvArg) (s : State) : State :=
  { s with power := { s.power with hot := s.power.hot.filter (· != a.n) } }

/-! ## Attestation and keys (R349, R350) -/

/-- ATTESTATION_REPORT: 1,408 bytes for the requester's nonce. -/
def evAttestationReport (a : EvArg) (s : State) : State :=
  if ¬ s.broughtTo 1 then s else
  let body := leBytes 32 Config.firmwareHash.toNat ++ leBytes 32 a.nonce.toNat ++ leBytes 8 Config.serialNumber.toNat
    ++ leBytes 4 s.rel.fenced.length ++ leBytes 4 (deviceView.extractLsb' 0 32).toNat ++ leBytes 48 0
  { s with rel := { s.rel with reports := s.rel.reports ++ [body ++ padTo 1280 (Config.falconSignature body)] } }

/-- An address space's key destroyed: what was written under it is left under a key that no space has. -/
def State.dropKey (s : State) (asid : Nat) : State :=
  { s.draw with
    rel := { s.rel with keys := s.rel.keys.filter (· != asid) }
    encOwner := s.encOwner.map fun x => if x.2 = asid + 1 then (x.1, 4097 + s.draws) else x }

/-- ASID_KEY_INIT: firmware initialises an ASID, whose key is generated and whose descriptor takes effect, or with m = 1
releases it; n the ASID. -/
def evAsidKeyInit (a : EvArg) (s : State) : State :=
  if ¬ s.broughtTo 4 ∨ 4096 ≤ a.n then s
  else
    let s := if s.rel.keys.contains a.n then s.dropKey a.n else s
    if a.m = 1 then s
    else ({ s with rel := { s.rel with keys := s.rel.keys ++ [a.n] } }).latchSpace a.n

/-! ## Registers of the always-on domain (R356) -/

/-- A base register's writable bits: BASE and LOCK. -/
def baseBits (v : DWord) : DWord := v &&& 0x000FFFFFFFFFF001#64

/-- BASE_REGISTER_WRITE: a base register takes a value unless its LOCK is set; n the offset, v the value. -/
def evBaseRegisterWrite (a : EvArg) (s : State) : State :=
  if ¬ s.broughtTo 3 ∨ 0x30 ≤ a.n then s
  else { s with aon := { s.aon with bases := s.aon.bases.modify (a.n / 8) fun r => if r.getLsbD 0 then r else baseBits a.v } }

/-- REGISTER_WRITE: the error ring's n, or a register of the always-on domain or of MMIO whose behaviour the spec does not
give, which holds what is written; n the offset, v the value. -/
def evRegisterWrite (a : EvArg) (s : State) : State :=
  if ¬ s.broughtTo 3 then s
  else if a.n < 0x30 then evBaseRegisterWrite a s
  else if a.n = 0x30 then { s with aon := { s.aon with ringN := bitsAt a.v.toNat 0 5 } }
  else if a.n = 0x38 then s
  else { s with aon := { s.aon with other := sset 0 a.n a.v s.aon.other } }

/-! ## Reset and bring-up (R357, R358) -/

/-- MODULE_RESET: every launch ends unsignalled; fences, clocks and LOCKs are cleared; memory is undefined, every byte of it a free
value until it is written (R358). -/
def evModuleReset (_ : EvArg) (s : State) : State :=
  { State.reset with
    now := s.now, epoch := s.now + 1, turn := s.turn, draws := s.draws,
    rel := { State.reset.rel with resets := s.rel.resets + 1, reports := s.rel.reports },
    power := { State.reset.power with hot := s.power.hot } }

/-- Units that bring-up tests: cores, sequencers, near-bank units, command cores, straits and L2 ways. -/
def testedUnits : List HwUnit :=
  (List.range 256).map .core ++ (List.range 128).map .sequencer
    ++ ((List.range 8).flatMap fun s => (List.range 32).map fun c => .nearBank s c) ++ (List.range 12).map .commandCore
    ++ ((List.range 8).flatMap fun c => (List.range 8).map fun b => .strait c b)
    ++ ((List.range 8).flatMap fun d => (List.range 16).map fun w => .l2Way d w)

/-- A binding of the 16 peer indexes: each to a peer port or, as 255, to none, and each port to at most one peer (R354). -/
def bindingOk (ps : List Nat) : Bool :=
  let bound := ps.filter (· != 255)
  ps.length == 16 && bound.all (fun p => decide (p < 16)) && bound.eraseDups.length == bound.length

/-- An expander's capacity as it is mapped: rounded up to 1 GiB (R355). -/
def roundGib (n : Nat) : Nat := (n + 2 ^ 30 - 1) / 2 ^ 30 * 2 ^ 30

/-- The capacities of the expanders at the four CXL ports, 8 bytes each (R355). -/
def expandersOf (bs : List Byte) : List Nat := (List.range 4).map fun i => roundGib (leNat ((bs.drop (8 * i)).take 8))

/-- BRING_UP: the next of the steps 1 to 6, in order: images verified, else the module stays halted in reset; units tested
and fenced, a unit that an earlier self-test fenced staying so until the module is reset (R346); links bound, 16 bytes naming the port of each peer index and the next 32 the capacities at the CXL ports; registers
locked; ASIDs initialised; queues created. -/
def evBringUp (a : EvArg) (s : State) : State :=
  let s' := { s with aon := { s.aon with bringUp := s.aon.bringUp + 1 } }
  match s.aon.bringUp with
  | 0 => if Config.firmwareVerifies s.rel.resets then s' else s
  | 1 =>
    let failed := (testedUnits.zipIdx s.draws).filterMap fun x => if Config.selfTestPasses x.2 then none else some x.1
    let rows := (Config.rowsFail s.rel.resets).filter inDram
    { s' with draws := s.draws + testedUnits.length, rel := { s.rel with fenced := (s.rel.fenced ++ failed ++ rows.map HwUnit.dramRow).eraseDups } }
  | 2 =>
    let ps := (a.bytes.take 16).map BitVec.toNat
    if ¬ bindingOk ps then s
    else { s' with aon := { s'.aon with peers := ps, expanders := expandersOf (a.bytes.drop 16) } }
  | 3 => if s.aon.bases.all fun r => r.getLsbD 0 then s' else s
  | 4 => s'
  | 5 => s'
  | _ => s

end Sys2Proof.Machine
end

