-- ==== Sys2Proof/Machine/Events.lean ====
section
/-!
DEFINITION. The events of the module (95): engines, schedulers, homes, firmware, command cores, placer and host.
-/
namespace Sys2Proof.Machine

/-- Control enters a D clause; the header and the clause's base words are checked before any instruction issues (R41). -/
def execClauseEntry (st : State) : Res := onEvent evClauseEntry st

/-- A gang waiting on tokens, by WAITT or a clause or extension wait, resumes once they are complete (R43). -/
def execTokenWaitResume (st : State) : Res := onEvent evTokenWaitResume st

/-- Returned blocks let pending REGACQ.wait and waiting FORK requests be granted in arrival order (R35). -/
def execRegisterGrant (st : State) : Res := onEvent evRegisterGrant st

/-- When every gang is stalled on register grants and nothing returns blocks, the fault is raised on the oldest requester's crew (R36). -/
def execRegDeadlock (st : State) : Res := onEvent evRegDeadlock st

/-- A bin that has not changed for 256 core cycles becomes eligible to issue (R28). -/
def execBinAgeExpiry (st : State) : Res := onEvent evBinAgeExpiry st

/-- The oldest eligible bin of loose fibres issues as a gang (R28). -/
def execBinIssue (st : State) : Res := onEvent evBinIssue st

/-- A freed active slot goes to the ready pending gang that has waited through the most swaps (R276). -/
def execGangSlotSwap (st : State) : Res := onEvent evGangSlotSwap st

/-- An engine writes the destination bytes of an owned line, and the accesses held at the home are then performed (R153). -/
def execEngineLineWrite (st : State) : Res := onEvent evEngineLineWrite st

/-- An engine writes a scratchpad granule and sets it full, as one step (R154). -/
def execScratchGranuleLanding (st : State) : Res := onEvent evScratchGranuleLanding st

/-- Every lane copy of a CPA has written, and its token count falls (R182). -/
def execCopyComplete (st : State) : Res := onEvent evCopyComplete st

/-- A copy access fails after retirement; its lanes are abandoned and the fault is attached to the token (R183). -/
def execDeferredCopyFault (st : State) : Res := onEvent evDeferredFault st

/-- The matrix engine adds one K-block's contributions into the tile (R237). -/
def execMmaBlockAdd (st : State) : Res := onEvent evMmaBlockAdd st

/-- The engine converts and writes one row of the tile (R244). -/
def execAccstRowWrite (st : State) : Res := onEvent evAccstRowWrite st

/-- An access reaches a base die or the I/O die, which accepts it only when its generation tag is current (R105). -/
def execHomeAccessArrival (st : State) : Res := onEvent evHomeAccessArrival st

/-- An accepted line part is computed at its executor and written atomically (R112). -/
def execPlacedPartExecute (st : State) : Res := onEvent evPlacedPartExecute st

/-- PLRED partials are merged into the element at eviction or before another kind of access (R114). -/
def execReduceStateMerge (st : State) : Res := onEvent evReduceStateMerge st

/-- Every die holds the new generation and old-generation accesses have drained, so GENBUMP completes (R107). -/
def execGenbumpComplete (st : State) : Res := onEvent evGenbumpComplete st

/-- A write arriving through a Tchikinar port is performed at its home as a system-scope release of the sender (R150). -/
def execPortWriteArrival (st : State) : Res := onEvent evPortWriteArrival st

/-- A read arriving through a port is performed without passing earlier writes of that port (R150). -/
def execPortReadArrival (st : State) : Res := onEvent evPortReadArrival st

/-- An ATOM from a peer is performed at the L2 home, atomically for both modules (R149). -/
def execPeerAtomArrival (st : State) : Res := onEvent evPeerAtomArrival st

/-- Writes the fault record and creates the privileged handler fibre, one fault per crew at a time (R284). -/
def execFaultDelivery (st : State) : Res := onEvent evFaultDelivery st

/-- Stops every crew of the launch, drops unplaced crews and sets the signal to the ending cause (R288). -/
def execLaunchEndWithCause (st : State) : Res := onEvent evLaunchEndWithCause st

/-- Firmware stops a crew at its stopping points, saves it and releases its resources (R289). -/
def execPreemption (st : State) : Res := onEvent evPreemption st

/-- Checks the saved context, then restores it on a fitting core and reissues saved engine records (R290). -/
def execCrewRestore (st : State) : Res := onEvent evCrewRestore st

/-- Firmware takes a checkpoint of a crew on request, without moving it (R298). -/
def execFirmwareCheckpoint (st : State) : Res := onEvent evFirmwareCheckpoint st

/-- When every live fibre is stopped at a dovetail point, the crew is saved, placed on the requested kind and mapped (R258). -/
def execMigration (st : State) : Res := onEvent evMigration st

/-- An instruction unsupported on a stack sequencer moves the whole crew to a density core (R265). -/
def execReturnTrap (st : State) : Res := onEvent evReturnTrap st

/-- The placer chooses the next queue and places a crew on a fitting core (R273). -/
def execCrewPlacement (st : State) : Res := onEvent evCrewPlacement st

/-- A core's scratchpad and L1 split changes once outstanding fills or allocations allow (R124). -/
def execCarveOutChange (st : State) : Res := onEvent evCarveOutChange st

/-- A write to a queue's notify register records the value and wakes the queue (R304). -/
def execNotify (st : State) : Res := onEvent evNotify st

/-- A command core acquires the header at the read index, reads the body and writes VALID back as 0 (R304). -/
def execPacketTake (st : State) : Res := onEvent evPacketTake st

/-- A validated LAUNCH packet starts, in index order and after any barrier (R302). -/
def execLaunch (st : State) : Res := onEvent evLaunch st

/-- A CMDBLOCK packet starts and runs its command list (R316). -/
def execCmdblock (st : State) : Res := onEvent evCmdblock st

/-- A command-block COPY writes its destination from its source (R316). -/
def execCopy (st : State) : Res := onEvent evCopy st

/-- A command-block FILL writes a 32-bit word over its destination (R316). -/
def execFill (st : State) : Res := onEvent evFill st

/-- A SIGNAL packet adds to or sets a signal as a system-scope release (R315). -/
def execSignal (st : State) : Res := onEvent evSignal st

/-- A WAITSIG packet acquires its signal and waits for the condition (R318). -/
def execWaitsig (st : State) : Res := onEvent evWaitsig st

/-- After a write to a watched signal's line, the WAITSIG condition is evaluated again (R318). -/
def execWaitsigReevaluate (st : State) : Res := onEvent evWaitsigReevaluate st

/-- A NOP packet completes at start (R315). -/
def execNopPacket (st : State) : Res := onEvent evNopPacket st

/-- After the last crew ends and its engines complete, the signal is decremented as a system-scope release (R305). -/
def execLaunchCompletionSignal (st : State) : Res := onEvent evLaunchCompletionSignal st

/-- The THAW control bit clears FROZEN and resumes processing at the read index (R311). -/
def execThaw (st : State) : Res := onEvent evThaw st

/-- The ABANDON control bit ends a stalled command block or a waiting WAITSIG (R311). -/
def execAbandon (st : State) : Res := onEvent evAbandon st

/-- A write to a graph's kick register applies its patches, re-validates the nodes and starts a replay (R320). -/
def execGraphKick (st : State) : Res := onEvent evGraphKick st

/-- A completed node fills its results, empties its inputs and may complete the replay (R320). -/
def execGraphNodeCompletion (st : State) : Res := onEvent evGraphNodeCompletion st

/-- At a comparison point both copies' signatures are compared, and one buffer drains on a match (R341). -/
def execPairComparison (st : State) : Res := onEvent evPairComparison st

/-- A protected launch stops, restores its snapshot, bumps the generation and restarts (R344). -/
def execProtectedRollback (st : State) : Res := onEvent evProtectedRollback st

/-- Firmware takes a unit out of service after a logged error, tests it and fences it or returns it (R346). -/
def execUnitSelfTest (st : State) : Res := onEvent evUnitSelfTest st

/-- Firmware lowers or raises an island's clock (R352). -/
def execIslandClockChange (st : State) : Res := onEvent evIslandClockChange st

/-- The host sets the module's power cap through a firmware service (R353). -/
def execPowerCapSet (st : State) : Res := onEvent evPowerCapSet st

/-- A die at its thermal limit makes the always-on domain pre-empt every resident crew (R353). -/
def execThermalLimit (st : State) : Res := onEvent evThermalLimit st

/-- The security processor produces a signed attestation report for a nonce (R349). -/
def execAttestationReport (st : State) : Res := onEvent evAttestationReport st

/-- The security processor generates an ASID's key when the ASID is initialised, and destroys it on release (R350). -/
def execAsidKeyInit (st : State) : Res := onEvent evAsidKeyInit st

/-- A write to a bring-up base register, ignored once LOCK is set (R356). -/
def execBaseRegisterWrite (st : State) : Res := onEvent evBaseRegisterWrite st

/-- A write to a register that has no behaviour of its own (R356). -/
def execRegisterWrite (st : State) : Res := onEvent evRegisterWrite st

/-- Module reset ends every launch without signalling it and clears fences, clocks and locks (R358). -/
def execModuleReset (st : State) : Res := onEvent evModuleReset st

/-- After reset, images are verified, links trained and bound, tables written and ASIDs initialised (R357). -/
def execBringUp (st : State) : Res := onEvent evBringUp st

/-- A die that reached its thermal limit has cooled, so the always-on domain lets placement and the resumption of saved crews start again (R353). -/
def execDieCooled (st : State) : Res := onEvent evDieCooled st

/-- The host's acknowledgement of a write, or the response to a read or atomic sent through an aperture, arrives back at a Tchikinar port (R150). -/
def execHostAcknowledgement (st : State) : Res := onEvent evHostAcknowledgement st

/-- Privileged software registers a graph object in a graph slot, and every node template is validated against the owning queue, or the slot stays unregistered (R319). -/
def execGraphRegistration (st : State) : Res := onEvent evGraphRegistration st

end Sys2Proof.Machine
end

