-- ==== Sys2Proof/Machine/Floating.lean ====
section
/-!
DEFINITION. Floating arithmetic and conversion (13 R213 to R225).
Each meaning issues its instruction with the operation of its family; the two texts differ in their fields alone.
-/
namespace Sys2Proof.Machine

/-- FP32 add, rounded once in the encoded mode (R213). -/
def execFaddD (d : BitVec 6) (a : BitVec 6) (b : BitVec 6) (s : BitVec 3) (st : State) : Res :=
  issue (.faddD d a b s) (fun c => bodyFloat .add (c.d d) (c.a a) (c.b b) s.toNat c) st

/-- FP32 subtract, rounded once (R213). -/
def execFsubD (d : BitVec 6) (a : BitVec 6) (b : BitVec 6) (s : BitVec 3) (st : State) : Res :=
  issue (.fsubD d a b s) (fun c => bodyFloat .sub (c.d d) (c.a a) (c.b b) s.toNat c) st

/-- FP32 multiply, rounded once (R213). -/
def execFmulD (d : BitVec 6) (a : BitVec 6) (b : BitVec 6) (s : BitVec 3) (st : State) : Res :=
  issue (.fmulD d a b s) (fun c => bodyFloat .mul (c.d d) (c.a a) (c.b b) s.toNat c) st

/-- Fused FP32 multiply-add with addend d (R213). -/
def execFfmaD (d : BitVec 6) (a : BitVec 6) (b : BitVec 6) (s : BitVec 3) (st : State) : Res :=
  issue (.ffmaD d a b s) (fun c => bodyFfma (c.d d) (c.a a) (c.b b) (c.d d) s.toNat c) st

/-- FP32 minimum, NaN-propagating or number-preferring (R215). -/
def execFminD (d : BitVec 6) (a : BitVec 6) (b : BitVec 6) (s : BitVec 3) (st : State) : Res :=
  issue (.fminD d a b s) (fun c => bodyFminmax false (c.d d) (c.a a) (c.b b) s.toNat c) st

/-- FP32 maximum, NaN-propagating or number-preferring (R215). -/
def execFmaxD (d : BitVec 6) (a : BitVec 6) (b : BitVec 6) (s : BitVec 3) (st : State) : Res :=
  issue (.fmaxD d a b s) (fun c => bodyFminmax true (c.d d) (c.a a) (c.b b) s.toNat c) st

/-- FP32 compare into a predicate (R216). -/
def execFcmpD (p : BitVec 7) (a : BitVec 6) (b : BitVec 6) (c : BitVec 2) (st : State) : Res :=
  issue (.fcmpD p a b c) (fun q => bodyFcmp p.toNat (q.a a) (q.b b) c q) st

/-- FP32 compare into pd, with the OR of the sources' S into pd + 1 (R217). -/
def execFcmpxD (p : BitVec 7) (a : BitVec 6) (b : BitVec 6) (c : BitVec 2) (st : State) : Res :=
  issue (.fcmpxD p a b c) (fun q => bodyFcmpx p.toNat (q.a a) (q.b b) c q) st

/-- Correctly rounded special function of a (R218). -/
def execFspfD (d : BitVec 6) (a : BitVec 6) (s : BitVec 3) (st : State) : Res :=
  issue (.fspfD d a s) (fun c => bodyFspf (c.d d) (c.a a) s.toNat c) st

/-- Sign manipulation: abs, neg, nabs or copysign (R219). -/
def execFsgnD (d : BitVec 6) (a : BitVec 6) (b : BitVec 6) (s : BitVec 3) (st : State) : Res :=
  issue (.fsgnD d a b s) (fun c => bodyFsgn (c.d d) (c.a a) (c.b b) s.toNat c) st

/-- Packed BF16 or FP16 add (R220). -/
def execHadd2D (d : BitVec 6) (a : BitVec 6) (b : BitVec 6) (s : BitVec 3) (st : State) : Res :=
  issue (.hadd2D d a b s) (fun c => bodyPacked .add (c.d d) (c.a a) (c.b b) s.toNat none c) st

/-- Packed BF16 or FP16 multiply (R220). -/
def execHmul2D (d : BitVec 6) (a : BitVec 6) (b : BitVec 6) (s : BitVec 3) (st : State) : Res :=
  issue (.hmul2D d a b s) (fun c => bodyPacked .mul (c.d d) (c.a a) (c.b b) s.toNat none c) st

/-- Packed fused multiply-add with addend d (R220). -/
def execHfma2D (d : BitVec 6) (a : BitVec 6) (b : BitVec 6) (s : BitVec 3) (st : State) : Res :=
  issue (.hfma2D d a b s) (fun c => bodyPacked .fma (c.d d) (c.a a) (c.b b) s.toNat (some (c.d d)) c) st

/-- Packed NaN-propagating minimum or maximum (R221). -/
def execHmnx2D (d : BitVec 6) (a : BitVec 6) (b : BitVec 6) (y : BitVec 1) (t : BitVec 1) (st : State) : Res :=
  issue (.hmnx2D d a b y t) (fun c => bodyHmnx (c.d d) (c.a a) (c.b b) (y == 1) (t == 1) c) st

/-- Format conversion, carried or final (R224). -/
def execCvtD (d : BitVec 6) (a : BitVec 6) (f : BitVec 3) (h : BitVec 3) (m : BitVec 3) (st : State) : Res :=
  issue (.cvtD d a f h m) (fun c => bodyCvt (c.d d) (c.a a) f.toNat h.toNat m.toNat c) st

/-- Inserts the low byte or half of a into d (R225). -/
def execPkbD (d : BitVec 6) (a : BitVec 6) (w : BitVec 1) (n : BitVec 2) (st : State) : Res :=
  issue (.pkbD d a w n) (fun c => bodyPkb (c.d d) (c.a a) (w == 1) n.toNat c) st

/-- FADD of the L text (R213). -/
def execFaddL (d : BitVec 8) (a : BitVec 8) (b : BitVec 8) (s : BitVec 3) (st : State) : Res :=
  issue (.faddL d a b s) (fun c => bodyFloat .add (c.d d) (c.a a) (c.b b) s.toNat c) st

/-- FSUB of the L text (R213). -/
def execFsubL (d : BitVec 8) (a : BitVec 8) (b : BitVec 8) (s : BitVec 3) (st : State) : Res :=
  issue (.fsubL d a b s) (fun c => bodyFloat .sub (c.d d) (c.a a) (c.b b) s.toNat c) st

/-- FMUL of the L text (R213). -/
def execFmulL (d : BitVec 8) (a : BitVec 8) (b : BitVec 8) (s : BitVec 3) (st : State) : Res :=
  issue (.fmulL d a b s) (fun c => bodyFloat .mul (c.d d) (c.a a) (c.b b) s.toNat c) st

/-- FFMA, with a free addend c of the L text (R213). -/
def execFfmaL (d : BitVec 8) (a : BitVec 8) (b : BitVec 8) (s : BitVec 3) (c : BitVec 8) (st : State) : Res :=
  issue (.ffmaL d a b s c) (fun q => bodyFfma (q.d d) (q.a a) (q.b b) (q.c c) s.toNat q) st

/-- FMIN of the L text (R215). -/
def execFminL (d : BitVec 8) (a : BitVec 8) (b : BitVec 8) (s : BitVec 3) (st : State) : Res :=
  issue (.fminL d a b s) (fun c => bodyFminmax false (c.d d) (c.a a) (c.b b) s.toNat c) st

/-- FMAX of the L text (R215). -/
def execFmaxL (d : BitVec 8) (a : BitVec 8) (b : BitVec 8) (s : BitVec 3) (st : State) : Res :=
  issue (.fmaxL d a b s) (fun c => bodyFminmax true (c.d d) (c.a a) (c.b b) s.toNat c) st

/-- FCMP of the L text (R216). -/
def execFcmpL (p : BitVec 7) (a : BitVec 8) (b : BitVec 8) (c : BitVec 2) (st : State) : Res :=
  issue (.fcmpL p a b c) (fun q => bodyFcmp p.toNat (q.a a) (q.b b) c q) st

/-- FCMPX of the L text (R217). -/
def execFcmpxL (p : BitVec 7) (a : BitVec 8) (b : BitVec 8) (c : BitVec 2) (st : State) : Res :=
  issue (.fcmpxL p a b c) (fun q => bodyFcmpx p.toNat (q.a a) (q.b b) c q) st

/-- FSPF of the L text (R218). -/
def execFspfL (d : BitVec 8) (a : BitVec 8) (s : BitVec 3) (st : State) : Res :=
  issue (.fspfL d a s) (fun c => bodyFspf (c.d d) (c.a a) s.toNat c) st

/-- FSGN of the L text (R219). -/
def execFsgnL (d : BitVec 8) (a : BitVec 8) (b : BitVec 8) (s : BitVec 3) (st : State) : Res :=
  issue (.fsgnL d a b s) (fun c => bodyFsgn (c.d d) (c.a a) (c.b b) s.toNat c) st

/-- HADD2 of the L text (R220). -/
def execHadd2L (d : BitVec 8) (a : BitVec 8) (b : BitVec 8) (s : BitVec 3) (st : State) : Res :=
  issue (.hadd2L d a b s) (fun c => bodyPacked .add (c.d d) (c.a a) (c.b b) s.toNat none c) st

/-- HMUL2 of the L text (R220). -/
def execHmul2L (d : BitVec 8) (a : BitVec 8) (b : BitVec 8) (s : BitVec 3) (st : State) : Res :=
  issue (.hmul2L d a b s) (fun c => bodyPacked .mul (c.d d) (c.a a) (c.b b) s.toNat none c) st

/-- HFMA2, with a free addend c of the L text (R220). -/
def execHfma2L (d : BitVec 8) (a : BitVec 8) (b : BitVec 8) (s : BitVec 3) (c : BitVec 8) (st : State) : Res :=
  issue (.hfma2L d a b s c) (fun q => bodyPacked .fma (q.d d) (q.a a) (q.b b) s.toNat (some (q.c c)) q) st

/-- HMNX2 of the L text (R221). -/
def execHmnx2L (d : BitVec 8) (a : BitVec 8) (b : BitVec 8) (y : BitVec 1) (t : BitVec 1) (st : State) : Res :=
  issue (.hmnx2L d a b y t) (fun c => bodyHmnx (c.d d) (c.a a) (c.b b) (y == 1) (t == 1) c) st

/-- CVT of the L text (R224). -/
def execCvtL (d : BitVec 8) (a : BitVec 8) (f : BitVec 3) (h : BitVec 3) (m : BitVec 3) (st : State) : Res :=
  issue (.cvtL d a f h m) (fun c => bodyCvt (c.d d) (c.a a) f.toNat h.toNat m.toNat c) st

/-- PKB of the L text (R225). -/
def execPkbL (d : BitVec 8) (a : BitVec 8) (w : BitVec 1) (n : BitVec 2) (st : State) : Res :=
  issue (.pkbL d a w n) (fun c => bodyPkb (c.d d) (c.a a) (w == 1) n.toNat c) st

end Sys2Proof.Machine
end

