-- ==== Sys2Proof/Machine/Integer.lean ====
section
/-!
DEFINITION. Integer, move and bit-field instructions (05 R64, R74 to R82).
Each meaning issues its instruction with the operation of its family; the two texts differ in their fields alone.
-/
namespace Sys2Proof.Machine

/-- Writes the sign-extended imm19 with S = 0 in every live fibre of the sub-gang (R64). -/
def execMoviD (d : BitVec 6) (i : BitVec 19) (st : State) : Res := issue (.moviD d i) (fun c => bodyMovi (c.d d) i c) st

/-- Writes imm19[12:0] into bits [31:19] of d; the other bits and S are unchanged (R64). -/
def execMovhiD (d : BitVec 6) (i : BitVec 13) (st : State) : Res := issue (.movhiD d i) (fun c => bodyMovhi (c.d d) i c) st

/-- Copies register a to d, keeping S or clearing it (R64). -/
def execMovD (d : BitVec 6) (a : BitVec 6) (s : BitVec 3) (st : State) : Res :=
  issue (.movD d a s) (fun c => bodyMov (c.d d) (c.a a) s.toNat c) st

/-- Integer add: wrapping, 64-bit or saturating (R74). -/
def execIaddD (d : BitVec 6) (a : BitVec 6) (b : BitVec 6) (s : BitVec 3) (st : State) : Res :=
  issue (.iaddD d a b s) (fun c => bodyAdd (c.d d) (c.a a) (c.b b) s.toNat c) st

/-- Integer subtract: wrapping, 64-bit or saturating (R74). -/
def execIsubD (d : BitVec 6) (a : BitVec 6) (b : BitVec 6) (s : BitVec 3) (st : State) : Res :=
  issue (.isubD d a b s) (fun c => bodySub (c.d d) (c.a a) (c.b b) s.toNat c) st

/-- Integer multiply giving the low, high or 64-bit product (R75). -/
def execImulD (d : BitVec 6) (a : BitVec 6) (b : BitVec 6) (s : BitVec 3) (st : State) : Res :=
  issue (.imulD d a b s) (fun c => bodyMul (c.d d) (c.a a) (c.b b) s.toNat c) st

/-- Integer multiply-add with addend d (R75). -/
def execImadD (d : BitVec 6) (a : BitVec 6) (b : BitVec 6) (st : State) : Res :=
  issue (.imadD d a b) (fun c => bodyMad (c.d d) (c.a a) (c.b b) (c.d d) c) st

/-- Integer division truncating toward zero, without traps (R76). -/
def execIdivD (d : BitVec 6) (a : BitVec 6) (b : BitVec 6) (s : BitVec 3) (st : State) : Res :=
  issue (.idivD d a b s) (fun c => bodyBin (idiv (s == 0)) (c.d d) (c.a a) (c.b b) c) st

/-- Integer remainder with the sign of the dividend (R76). -/
def execIremD (d : BitVec 6) (a : BitVec 6) (b : BitVec 6) (s : BitVec 3) (st : State) : Res :=
  issue (.iremD d a b s) (fun c => bodyBin (irem (s == 0)) (c.d d) (c.a a) (c.b b) c) st

/-- Signed or unsigned minimum (R77). -/
def execIminD (d : BitVec 6) (a : BitVec 6) (b : BitVec 6) (s : BitVec 3) (st : State) : Res :=
  issue (.iminD d a b s) (fun c => bodyBin (imin (s == 0)) (c.d d) (c.a a) (c.b b) c) st

/-- Signed or unsigned maximum (R77). -/
def execImaxD (d : BitVec 6) (a : BitVec 6) (b : BitVec 6) (s : BitVec 3) (st : State) : Res :=
  issue (.imaxD d a b s) (fun c => bodyBin (imax (s == 0)) (c.d d) (c.a a) (c.b b) c) st

/-- Bitwise AND (R78). -/
def execAndD (d : BitVec 6) (a : BitVec 6) (b : BitVec 6) (st : State) : Res :=
  issue (.andD d a b) (fun c => bodyBin (· &&& ·) (c.d d) (c.a a) (c.b b) c) st

/-- Bitwise OR (R78). -/
def execOrD (d : BitVec 6) (a : BitVec 6) (b : BitVec 6) (st : State) : Res :=
  issue (.orD d a b) (fun c => bodyBin (· ||| ·) (c.d d) (c.a a) (c.b b) c) st

/-- Bitwise XOR (R78). -/
def execXorD (d : BitVec 6) (a : BitVec 6) (b : BitVec 6) (st : State) : Res :=
  issue (.xorD d a b) (fun c => bodyBin (· ^^^ ·) (c.d d) (c.a a) (c.b b) c) st

/-- Bitwise a AND NOT b (R78). -/
def execAndnD (d : BitVec 6) (a : BitVec 6) (b : BitVec 6) (st : State) : Res :=
  issue (.andnD d a b) (fun c => bodyBin (fun x y => x &&& ~~~y) (c.d d) (c.a a) (c.b b) c) st

/-- Shift left by a register count, 32- or 64-bit (R79). -/
def execShlD (d : BitVec 6) (a : BitVec 6) (b : BitVec 6) (s : BitVec 3) (st : State) : Res :=
  issue (.shlD d a b s) (fun c => bodyShl (c.d d) (c.a a) (c.b b) s.toNat c) st

/-- Logical or arithmetic shift right, 32- or 64-bit (R79). -/
def execShrD (d : BitVec 6) (a : BitVec 6) (b : BitVec 6) (s : BitVec 3) (st : State) : Res :=
  issue (.shrD d a b s) (fun c => bodyShr (c.d d) (c.a a) (c.b b) s.toNat c) st

/-- Rotate left by a register count (R79). -/
def execRotlD (d : BitVec 6) (a : BitVec 6) (b : BitVec 6) (st : State) : Res :=
  issue (.rotlD d a b) (fun c => bodyBin (fun x y => x.rotateLeft (y.toNat % 32)) (c.d d) (c.a a) (c.b b) c) st

/-- Bit-field extract, zero- or sign-extended (R80). -/
def execBfxD (d : BitVec 6) (a : BitVec 6) (b : BitVec 6) (s : BitVec 3) (st : State) : Res :=
  issue (.bfxD d a b s) (fun c => bodyBin (bfx (s == 1)) (c.d d) (c.a a) (c.b b) c) st

/-- Adds a sign-extended imm9 (R74). -/
def execIaddiD (d : BitVec 6) (a : BitVec 6) (i : BitVec 9) (st : State) : Res :=
  issue (.iaddiD d a i) (fun c => bodyImm (· + sx i) (c.d d) (c.a a) c) st

/-- AND with a sign-extended imm9 (R78). -/
def execAndiD (d : BitVec 6) (a : BitVec 6) (i : BitVec 9) (st : State) : Res :=
  issue (.andiD d a i) (fun c => bodyImm (· &&& sx i) (c.d d) (c.a a) c) st

/-- OR with a sign-extended imm9 (R78). -/
def execOriD (d : BitVec 6) (a : BitVec 6) (i : BitVec 9) (st : State) : Res :=
  issue (.oriD d a i) (fun c => bodyImm (· ||| sx i) (c.d d) (c.a a) c) st

/-- XOR with a sign-extended imm9 (R78). -/
def execXoriD (d : BitVec 6) (a : BitVec 6) (i : BitVec 9) (st : State) : Res :=
  issue (.xoriD d a i) (fun c => bodyImm (· ^^^ sx i) (c.d d) (c.a a) c) st

/-- Shift left by an immediate count (R79). -/
def execShliD (d : BitVec 6) (a : BitVec 6) (i : BitVec 5) (st : State) : Res :=
  issue (.shliD d a i) (fun c => bodyImm (· <<< i.toNat) (c.d d) (c.a a) c) st

/-- Shift right by an immediate count, logical or arithmetic (R79). -/
def execShriD (d : BitVec 6) (a : BitVec 6) (h : BitVec 1) (i : BitVec 5) (st : State) : Res :=
  issue (.shriD d a h i) (fun c => bodyImm (fun x => if h = 1 then x.sshiftRight i.toNat else x >>> i.toNat) (c.d d) (c.a a) c) st

/-- Multiply by a sign-extended imm9, low 32 bits (R75). -/
def execImuliD (d : BitVec 6) (a : BitVec 6) (i : BitVec 9) (st : State) : Res :=
  issue (.imuliD d a i) (fun c => bodyImm (· * sx i) (c.d d) (c.a a) c) st

/-- Computes a + (b << s) (R81). -/
def execLeaD (d : BitVec 6) (a : BitVec 6) (b : BitVec 6) (s : BitVec 3) (st : State) : Res :=
  issue (.leaD d a b s) (fun c => bodyLea (c.d d) (c.a a) (c.b b) s.toNat c) st

/-- Inserts a bit field into d (R80). -/
def execBfiD (d : BitVec 6) (a : BitVec 6) (b : BitVec 6) (st : State) : Res :=
  issue (.bfiD d a b) (fun c => bodyBfi (c.d d) (c.a a) (c.b b) c) st

/-- Counts the set bits (R81). -/
def execPopcD (d : BitVec 6) (a : BitVec 6) (st : State) : Res := issue (.popcD d a) (fun c => bodyUn popc (c.d d) (c.a a) c) st

/-- Counts the leading zeros (R81). -/
def execClzD (d : BitVec 6) (a : BitVec 6) (st : State) : Res := issue (.clzD d a) (fun c => bodyUn clz (c.d d) (c.a a) c) st

/-- Reverses the bit order (R81). -/
def execBrevD (d : BitVec 6) (a : BitVec 6) (st : State) : Res := issue (.brevD d a) (fun c => bodyUn brev (c.d d) (c.a a) c) st

/-- Integer absolute value modulo 2^32 (R81). -/
def execIabsD (d : BitVec 6) (a : BitVec 6) (st : State) : Res := issue (.iabsD d a) (fun c => bodyUn iabs (c.d d) (c.a a) c) st

/-- Selects a or b by a predicate p0-p7 (R81). -/
def execSelD (d : BitVec 6) (a : BitVec 6) (b : BitVec 6) (s : BitVec 3) (st : State) : Res :=
  issue (.selD d a b s) (fun c => bodySel (c.d d) (c.a a) (c.b b) s.toNat c) st

/-- Signed or equality integer compare into a predicate (R82). -/
def execIcmpD (p : BitVec 7) (a : BitVec 6) (b : BitVec 6) (c : BitVec 2) (st : State) : Res :=
  issue (.icmpD p a b c) (fun q => bodyCmp (icmpHolds c) p.toNat (q.a a) (q.b b) q) st

/-- Unsigned integer compare into a predicate (R82). -/
def execIcmpuD (p : BitVec 7) (a : BitVec 6) (b : BitVec 6) (c : BitVec 2) (st : State) : Res :=
  issue (.icmpuD p a b c) (fun q => bodyCmp (icmpuHolds c) p.toNat (q.a a) (q.b b) q) st

/-- MOVI of the L text (R64). -/
def execMoviL (d : BitVec 8) (i : BitVec 19) (st : State) : Res := issue (.moviL d i) (fun c => bodyMovi (c.d d) i c) st

/-- MOVHI of the L text (R64). -/
def execMovhiL (d : BitVec 8) (i : BitVec 13) (st : State) : Res := issue (.movhiL d i) (fun c => bodyMovhi (c.d d) i c) st

/-- MOV of the L text (R64). -/
def execMovL (d : BitVec 8) (a : BitVec 8) (s : BitVec 3) (st : State) : Res :=
  issue (.movL d a s) (fun c => bodyMov (c.d d) (c.a a) s.toNat c) st

/-- IADD of the L text (R74). -/
def execIaddL (d : BitVec 8) (a : BitVec 8) (b : BitVec 8) (s : BitVec 3) (st : State) : Res :=
  issue (.iaddL d a b s) (fun c => bodyAdd (c.d d) (c.a a) (c.b b) s.toNat c) st

/-- ISUB of the L text (R74). -/
def execIsubL (d : BitVec 8) (a : BitVec 8) (b : BitVec 8) (s : BitVec 3) (st : State) : Res :=
  issue (.isubL d a b s) (fun c => bodySub (c.d d) (c.a a) (c.b b) s.toNat c) st

/-- IMUL of the L text (R75). -/
def execImulL (d : BitVec 8) (a : BitVec 8) (b : BitVec 8) (s : BitVec 3) (st : State) : Res :=
  issue (.imulL d a b s) (fun c => bodyMul (c.d d) (c.a a) (c.b b) s.toNat c) st

/-- IMAD, with a free addend c of the L text (R75). -/
def execImadL (d : BitVec 8) (a : BitVec 8) (b : BitVec 8) (c : BitVec 8) (st : State) : Res :=
  issue (.imadL d a b c) (fun q => bodyMad (q.d d) (q.a a) (q.b b) (q.c c) q) st

/-- IDIV of the L text (R76). -/
def execIdivL (d : BitVec 8) (a : BitVec 8) (b : BitVec 8) (s : BitVec 3) (st : State) : Res :=
  issue (.idivL d a b s) (fun c => bodyBin (idiv (s == 0)) (c.d d) (c.a a) (c.b b) c) st

/-- IREM of the L text (R76). -/
def execIremL (d : BitVec 8) (a : BitVec 8) (b : BitVec 8) (s : BitVec 3) (st : State) : Res :=
  issue (.iremL d a b s) (fun c => bodyBin (irem (s == 0)) (c.d d) (c.a a) (c.b b) c) st

/-- IMIN of the L text (R77). -/
def execIminL (d : BitVec 8) (a : BitVec 8) (b : BitVec 8) (s : BitVec 3) (st : State) : Res :=
  issue (.iminL d a b s) (fun c => bodyBin (imin (s == 0)) (c.d d) (c.a a) (c.b b) c) st

/-- IMAX of the L text (R77). -/
def execImaxL (d : BitVec 8) (a : BitVec 8) (b : BitVec 8) (s : BitVec 3) (st : State) : Res :=
  issue (.imaxL d a b s) (fun c => bodyBin (imax (s == 0)) (c.d d) (c.a a) (c.b b) c) st

/-- AND of the L text (R78). -/
def execAndL (d : BitVec 8) (a : BitVec 8) (b : BitVec 8) (st : State) : Res :=
  issue (.andL d a b) (fun c => bodyBin (· &&& ·) (c.d d) (c.a a) (c.b b) c) st

/-- OR of the L text (R78). -/
def execOrL (d : BitVec 8) (a : BitVec 8) (b : BitVec 8) (st : State) : Res :=
  issue (.orL d a b) (fun c => bodyBin (· ||| ·) (c.d d) (c.a a) (c.b b) c) st

/-- XOR of the L text (R78). -/
def execXorL (d : BitVec 8) (a : BitVec 8) (b : BitVec 8) (st : State) : Res :=
  issue (.xorL d a b) (fun c => bodyBin (· ^^^ ·) (c.d d) (c.a a) (c.b b) c) st

/-- ANDN of the L text (R78). -/
def execAndnL (d : BitVec 8) (a : BitVec 8) (b : BitVec 8) (st : State) : Res :=
  issue (.andnL d a b) (fun c => bodyBin (fun x y => x &&& ~~~y) (c.d d) (c.a a) (c.b b) c) st

/-- SHL of the L text (R79). -/
def execShlL (d : BitVec 8) (a : BitVec 8) (b : BitVec 8) (s : BitVec 3) (st : State) : Res :=
  issue (.shlL d a b s) (fun c => bodyShl (c.d d) (c.a a) (c.b b) s.toNat c) st

/-- SHR of the L text (R79). -/
def execShrL (d : BitVec 8) (a : BitVec 8) (b : BitVec 8) (s : BitVec 3) (st : State) : Res :=
  issue (.shrL d a b s) (fun c => bodyShr (c.d d) (c.a a) (c.b b) s.toNat c) st

/-- ROTL of the L text (R79). -/
def execRotlL (d : BitVec 8) (a : BitVec 8) (b : BitVec 8) (st : State) : Res :=
  issue (.rotlL d a b) (fun c => bodyBin (fun x y => x.rotateLeft (y.toNat % 32)) (c.d d) (c.a a) (c.b b) c) st

/-- BFX of the L text (R80). -/
def execBfxL (d : BitVec 8) (a : BitVec 8) (b : BitVec 8) (s : BitVec 3) (st : State) : Res :=
  issue (.bfxL d a b s) (fun c => bodyBin (bfx (s == 1)) (c.d d) (c.a a) (c.b b) c) st

/-- IADDI of the L text (R74). -/
def execIaddiL (d : BitVec 8) (a : BitVec 8) (i : BitVec 9) (st : State) : Res :=
  issue (.iaddiL d a i) (fun c => bodyImm (· + sx i) (c.d d) (c.a a) c) st

/-- ANDI of the L text (R78). -/
def execAndiL (d : BitVec 8) (a : BitVec 8) (i : BitVec 9) (st : State) : Res :=
  issue (.andiL d a i) (fun c => bodyImm (· &&& sx i) (c.d d) (c.a a) c) st

/-- ORI of the L text (R78). -/
def execOriL (d : BitVec 8) (a : BitVec 8) (i : BitVec 9) (st : State) : Res :=
  issue (.oriL d a i) (fun c => bodyImm (· ||| sx i) (c.d d) (c.a a) c) st

/-- XORI of the L text (R78). -/
def execXoriL (d : BitVec 8) (a : BitVec 8) (i : BitVec 9) (st : State) : Res :=
  issue (.xoriL d a i) (fun c => bodyImm (· ^^^ sx i) (c.d d) (c.a a) c) st

/-- SHLI of the L text (R79). -/
def execShliL (d : BitVec 8) (a : BitVec 8) (i : BitVec 5) (st : State) : Res :=
  issue (.shliL d a i) (fun c => bodyImm (· <<< i.toNat) (c.d d) (c.a a) c) st

/-- SHRI of the L text (R79). -/
def execShriL (d : BitVec 8) (a : BitVec 8) (h : BitVec 1) (i : BitVec 5) (st : State) : Res :=
  issue (.shriL d a h i) (fun c => bodyImm (fun x => if h = 1 then x.sshiftRight i.toNat else x >>> i.toNat) (c.d d) (c.a a) c) st

/-- IMULI of the L text (R75). -/
def execImuliL (d : BitVec 8) (a : BitVec 8) (i : BitVec 9) (st : State) : Res :=
  issue (.imuliL d a i) (fun c => bodyImm (· * sx i) (c.d d) (c.a a) c) st

/-- LEA of the L text (R81). -/
def execLeaL (d : BitVec 8) (a : BitVec 8) (b : BitVec 8) (s : BitVec 3) (st : State) : Res :=
  issue (.leaL d a b s) (fun c => bodyLea (c.d d) (c.a a) (c.b b) s.toNat c) st

/-- BFI of the L text (R80). -/
def execBfiL (d : BitVec 8) (a : BitVec 8) (b : BitVec 8) (st : State) : Res :=
  issue (.bfiL d a b) (fun c => bodyBfi (c.d d) (c.a a) (c.b b) c) st

/-- POPC of the L text (R81). -/
def execPopcL (d : BitVec 8) (a : BitVec 8) (st : State) : Res := issue (.popcL d a) (fun c => bodyUn popc (c.d d) (c.a a) c) st

/-- CLZ of the L text (R81). -/
def execClzL (d : BitVec 8) (a : BitVec 8) (st : State) : Res := issue (.clzL d a) (fun c => bodyUn clz (c.d d) (c.a a) c) st

/-- BREV of the L text (R81). -/
def execBrevL (d : BitVec 8) (a : BitVec 8) (st : State) : Res := issue (.brevL d a) (fun c => bodyUn brev (c.d d) (c.a a) c) st

/-- IABS of the L text (R81). -/
def execIabsL (d : BitVec 8) (a : BitVec 8) (st : State) : Res := issue (.iabsL d a) (fun c => bodyUn iabs (c.d d) (c.a a) c) st

/-- SEL of the L text (R81). -/
def execSelL (d : BitVec 8) (a : BitVec 8) (b : BitVec 8) (s : BitVec 3) (st : State) : Res :=
  issue (.selL d a b s) (fun c => bodySel (c.d d) (c.a a) (c.b b) s.toNat c) st

/-- ICMP of the L text (R82). -/
def execIcmpL (p : BitVec 7) (a : BitVec 8) (b : BitVec 8) (c : BitVec 2) (st : State) : Res :=
  issue (.icmpL p a b c) (fun q => bodyCmp (icmpHolds c) p.toNat (q.a a) (q.b b) q) st

/-- ICMPU of the L text (R82). -/
def execIcmpuL (p : BitVec 7) (a : BitVec 8) (b : BitVec 8) (c : BitVec 2) (st : State) : Res :=
  issue (.icmpuL p a b c) (fun q => bodyCmp (icmpuHolds c) p.toNat (q.a a) (q.b b) q) st

end Sys2Proof.Machine
end

