-- ==== Sys2Proof/Machine/LaneOps.lean ====
section
/-!
DEFINITION. Predicates, sticky access and the lane instructions (05 R83 to R91; 03 R33).
-/
namespace Sys2Proof.Machine

/-- PAND, POR, PXOR, PANDN (R83). -/
def bodyPred (g : Bool → Bool → Bool) (p q r : Nat) (c : Ctx) (st : State) : Eff :=
  writePreds c p (fun f => g (f.pred q) (f.pred r)) st

/-- The predicate word as it reads: p0 in bit 0 reads 1 (R20). -/
def Fibre.predWord (f : Fibre) : Preds := f.preds ||| 1

/-- PRD: word k of the predicates, with S = 0 (R84). -/
def bodyPrd (d k : Nat) (c : Ctx) (st : State) : Eff :=
  writeLanes c d (fun f => { val := f.predWord.extractLsb' (32 * k) 32, s := false }) st

/-- PWR: a register into word k of the predicates; p0 takes no write (R84). -/
def bodyPwr (a k : Nat) (c : Ctx) (st : State) : Eff :=
  .next (c.onActive (fun f =>
    let mask : Preds := (BitVec.allOnes 32).setWidth 96 <<< (32 * k)
    { f with preds := (f.preds &&& ~~~mask) ||| ((f.val a).setWidth 96 <<< (32 * k)) }) st)

/-- STKRD: S into a predicate (R85). -/
def bodyStkrd (p a : Nat) (c : Ctx) (st : State) : Eff := writePreds c p (fun f => f.sbit a) st

/-- STKSET: S changed alone: cleared, set, or ORed with a's (R85). -/
def bodyStkset (d a x : Nat) (c : Ctx) (st : State) : Eff :=
  writeLanes c d (fun f =>
    { val := f.val d, s := match x with
        | 0 => false
        | 1 => true
        | _ => f.sbit d || f.sbit a }) st

/-! ## Tiles (R33, R86) -/

/-- Lanes of a tile: 32 >> c. -/
def tileSize (part : Nat) : Nat := 32 / 2 ^ part
/-- The first lane of a lane's tile. -/
def tileStart (f : Fibre) : Nat := f.home / tileSize f.part * tileSize f.part
/-- The place of the active fibre in a lane. -/
def Ctx.activeAt (c : Ctx) (lane : Nat) : Option Nat := c.act.find? fun i => c.lane i == lane
/-- The active fibres of a lane's tile, as places, in ascending lane order. -/
def Ctx.tileActive (c : Ctx) (f : Fibre) : List Nat :=
  c.act.filter fun i => tileStart f ≤ c.lane i && c.lane i < tileStart f + tileSize f.part

/-- SETPART: the partition code of every active fibre (R87). -/
def bodySetpart (x : Nat) (c : Ctx) (st : State) : Eff := .next (c.onActive (fun f => { f with part := x }) st)

/-- The source lane of SHFL within the tile, if one exists (R88). -/
def shflSource (s t i x : Nat) : Option Nat :=
  match s with
  | 0 => some (x % t)
  | 1 => if i < x then none else some (i - x)
  | 2 => if t ≤ i + x then none else some (i + x)
  | _ => some (i ^^^ (x % t))

/-- SHFL: another lane's value with its S; the lane's own where the source does not exist or is not active (R88). -/
def bodyShfl (d a b s : Nat) (c : Ctx) (st : State) : Eff :=
  writeEach c d (fun i =>
    let f := c.fibre i
    let src := (shflSource s (tileSize f.part) (f.home - tileStart f) (f.val b).toNat).bind
      fun j => c.activeAt (tileStart f + j)
    match src with
    | some k => (c.fibre k).reg a
    | none => f.reg a) st

/-- VANY and VALL: pd over the active lanes of the tile, then the mismatch predicate (R89). -/
def bodyVote (isAll : Bool) (pd pa pb : Nat) (c : Ctx) (st : State) : Eff :=
  .next (st.modFibres c.u.crew c.act fun i f =>
    let own := c.fibre i
    let ms := c.tileActive own
    let r := if isAll then ms.all fun m => (c.fibre m).pred pa else ms.any fun m => (c.fibre m).pred pa
    (f.setPred pd r).setPred pb (decide (ms.length < tileSize own.part)))

/-- VBAL: the ballot of a predicate over the tile (R90). -/
def bodyVbal (d p : Nat) (c : Ctx) (st : State) : Eff :=
  writeEach c d (fun i =>
    let f := c.fibre i
    { val := BitVec.ofNat 32 ((c.tileActive f).map fun m =>
        if (c.fibre m).pred p then 2 ^ (c.lane m - tileStart f) else 0).sum, s := false }) st

/-- REDL's identities (R33). -/
def redlIdentity : Nat → Word
  | 1 => 0x7FFFFFFF
  | 2 => 0x80000000
  | 3 => 0x80000000
  | 4 => 0x7F800000
  | 5 => 0xFF800000
  | 6 => 0xFFFFFFFF
  | _ => 0

/-- REDL's combination of two values, and whether a floating sum was inexact (R91). -/
def redlPair (s nan : Nat) (x y : Word) : Word × Bool :=
  match s with
  | 0 => (x + y, false)
  | 1 => (imin true x y, false)
  | 2 => (imax true x y, false)
  | 3 => let r := floatOp .add 0 .rn nan (f32 x) (f32 y) (.fin false 0 0); (BitVec.ofNat 32 r.1, r.2)
  | 4 => (BitVec.ofNat 32 (floatMinMax 0 false false x.toNat y.toNat), false)
  | 5 => (BitVec.ofNat 32 (floatMinMax 0 true false x.toNat y.toNat), false)
  | 6 => (x &&& y, false)
  | _ => (x ||| y, false)

/-- One level of REDL's tree: neighbours combined in pairs (R33). -/
def redlLevel (s nan : Nat) : List (Word × Bool) → List (Word × Bool)
  | x :: y :: r => (let z := redlPair s nan x.1 y.1; (z.1, x.2 || y.2 || z.2)) :: redlLevel s nan r
  | l => l

/-- REDL's tree, level by level (R33). -/
def redlTree (s nan : Nat) : Nat → List (Word × Bool) → List (Word × Bool)
  | 0, l => l
  | n + 1, l => redlTree s nan n (redlLevel s nan l)

/-- REDL: the tile's active values combined in the fixed tree; every active lane of the tile gets the result (R91). -/
def bodyRedl (d a s : Nat) (c : Ctx) (st : State) : Eff :=
  writeEach c d (fun i =>
    let f := c.fibre i
    let ms := c.tileActive f
    let nan := invalidNaN 0 (c.lane (ms.headD 0)) (h17 f.instrVa)
    let leaves := (List.range (tileSize f.part)).map fun j => match c.activeAt (tileStart f + j) with
      | some m => ((c.fibre m).val a, (c.fibre m).sbit a)
      | none => (redlIdentity s, false)
    let r := (redlTree s nan 5 leaves).headD (0, false)
    { val := r.1, s := r.2 }) st

end Sys2Proof.Machine
end

