-- ==== Sys2Proof/Machine/Lanes.lean ====
section
/-!
DEFINITION. Predicate and lane instructions (05 R83 to R91).
Each meaning issues its instruction with the operation of its family; the two texts differ in their fields alone.
-/
namespace Sys2Proof.Machine

/-- Copies a value, with its S, from another lane of the tile (R88). -/
def execShflD (d : BitVec 6) (a : BitVec 6) (b : BitVec 6) (s : BitVec 3) (st : State) : Res :=
  issue (.shflD d a b s) (fun c => bodyShfl (c.d d) (c.a a) (c.b b) s.toNat c) st

/-- OR of a predicate over the tile, with a mismatch predicate (R89). -/
def execVanyD (p : BitVec 7) (q : BitVec 7) (r : BitVec 7) (st : State) : Res :=
  issue (.vanyD p q r) (bodyVote false p.toNat q.toNat r.toNat) st

/-- AND of a predicate over the tile, with a mismatch predicate (R89). -/
def execVallD (p : BitVec 7) (q : BitVec 7) (r : BitVec 7) (st : State) : Res :=
  issue (.vallD p q r) (bodyVote true p.toNat q.toNat r.toNat) st

/-- Ballot of a predicate over the tile into d (R90). -/
def execVbalD (d : BitVec 6) (p : BitVec 7) (st : State) : Res := issue (.vbalD d p) (fun c => bodyVbal (c.d d) p.toNat c) st

/-- Reduction across the tile in a fixed tree (R91). -/
def execRedlD (d : BitVec 6) (a : BitVec 6) (s : BitVec 3) (st : State) : Res :=
  issue (.redlD d a s) (fun c => bodyRedl (c.d d) (c.a a) s.toNat c) st

/-- Sets the partition code of the active fibres (R87). -/
def execSetpartD (x : BitVec 9) (st : State) : Res := issue (.setpartD x) (bodySetpart x.toNat) st

/-- Predicate AND (R83). -/
def execPandD (p : BitVec 7) (q : BitVec 7) (r : BitVec 7) (st : State) : Res :=
  issue (.pandD p q r) (bodyPred (· && ·) p.toNat q.toNat r.toNat) st

/-- Predicate OR (R83). -/
def execPorD (p : BitVec 7) (q : BitVec 7) (r : BitVec 7) (st : State) : Res :=
  issue (.porD p q r) (bodyPred (· || ·) p.toNat q.toNat r.toNat) st

/-- Predicate XOR (R83). -/
def execPxorD (p : BitVec 7) (q : BitVec 7) (r : BitVec 7) (st : State) : Res :=
  issue (.pxorD p q r) (bodyPred Bool.xor p.toNat q.toNat r.toNat) st

/-- Predicate AND NOT (R83). -/
def execPandnD (p : BitVec 7) (q : BitVec 7) (r : BitVec 7) (st : State) : Res :=
  issue (.pandnD p q r) (bodyPred (fun x y => x && !y) p.toNat q.toNat r.toNat) st

/-- Reads a predicate word into d (R84). -/
def execPrdD (d : BitVec 6) (x : BitVec 9) (st : State) : Res := issue (.prdD d x) (fun c => bodyPrd (c.d d) x.toNat c) st

/-- Writes a predicate word from a (R84). -/
def execPwrD (a : BitVec 6) (x : BitVec 9) (st : State) : Res := issue (.pwrD a x) (fun c => bodyPwr (c.a a) x.toNat c) st

/-- Copies S of a into a predicate (R85). -/
def execStkrdD (p : BitVec 7) (a : BitVec 6) (st : State) : Res := issue (.stkrdD p a) (fun c => bodyStkrd p.toNat (c.a a) c) st

/-- Clears, sets or ORs the S of d (R85). -/
def execStksetD (d : BitVec 6) (a : BitVec 6) (x : BitVec 9) (st : State) : Res :=
  issue (.stksetD d a x) (fun c => bodyStkset (c.d d) (c.a a) x.toNat c) st

/-- SHFL of the L text (R88). -/
def execShflL (d : BitVec 8) (a : BitVec 8) (b : BitVec 8) (s : BitVec 3) (st : State) : Res :=
  issue (.shflL d a b s) (fun c => bodyShfl (c.d d) (c.a a) (c.b b) s.toNat c) st

/-- VANY of the L text (R89). -/
def execVanyL (p : BitVec 7) (q : BitVec 7) (r : BitVec 7) (st : State) : Res :=
  issue (.vanyL p q r) (bodyVote false p.toNat q.toNat r.toNat) st

/-- VALL of the L text (R89). -/
def execVallL (p : BitVec 7) (q : BitVec 7) (r : BitVec 7) (st : State) : Res :=
  issue (.vallL p q r) (bodyVote true p.toNat q.toNat r.toNat) st

/-- VBAL of the L text (R90). -/
def execVbalL (d : BitVec 8) (p : BitVec 7) (st : State) : Res := issue (.vbalL d p) (fun c => bodyVbal (c.d d) p.toNat c) st

/-- REDL of the L text (R91). -/
def execRedlL (d : BitVec 8) (a : BitVec 8) (s : BitVec 3) (st : State) : Res :=
  issue (.redlL d a s) (fun c => bodyRedl (c.d d) (c.a a) s.toNat c) st

/-- SETPART of the L text (R87). -/
def execSetpartL (x : BitVec 9) (st : State) : Res := issue (.setpartL x) (bodySetpart x.toNat) st

/-- PAND of the L text (R83). -/
def execPandL (p : BitVec 7) (q : BitVec 7) (r : BitVec 7) (st : State) : Res :=
  issue (.pandL p q r) (bodyPred (· && ·) p.toNat q.toNat r.toNat) st

/-- POR of the L text (R83). -/
def execPorL (p : BitVec 7) (q : BitVec 7) (r : BitVec 7) (st : State) : Res :=
  issue (.porL p q r) (bodyPred (· || ·) p.toNat q.toNat r.toNat) st

/-- PXOR of the L text (R83). -/
def execPxorL (p : BitVec 7) (q : BitVec 7) (r : BitVec 7) (st : State) : Res :=
  issue (.pxorL p q r) (bodyPred Bool.xor p.toNat q.toNat r.toNat) st

/-- PANDN of the L text (R83). -/
def execPandnL (p : BitVec 7) (q : BitVec 7) (r : BitVec 7) (st : State) : Res :=
  issue (.pandnL p q r) (bodyPred (fun x y => x && !y) p.toNat q.toNat r.toNat) st

/-- PRD of the L text (R84). -/
def execPrdL (d : BitVec 8) (x : BitVec 9) (st : State) : Res := issue (.prdL d x) (fun c => bodyPrd (c.d d) x.toNat c) st

/-- PWR of the L text (R84). -/
def execPwrL (a : BitVec 8) (x : BitVec 9) (st : State) : Res := issue (.pwrL a x) (fun c => bodyPwr (c.a a) x.toNat c) st

/-- STKRD of the L text (R85). -/
def execStkrdL (p : BitVec 7) (a : BitVec 8) (st : State) : Res := issue (.stkrdL p a) (fun c => bodyStkrd p.toNat (c.a a) c) st

/-- STKSET of the L text (R85). -/
def execStksetL (d : BitVec 8) (a : BitVec 8) (x : BitVec 9) (st : State) : Res :=
  issue (.stksetL d a x) (fun c => bodyStkset (c.d d) (c.a a) x.toNat c) st

end Sys2Proof.Machine
end

