-- ==== Sys2Proof/Machine/Moves.lean ====
section
/-!
DEFINITION. Which move comes next, and the instruction that an issuing unit reads: the enabled moves of a state, the choice
among them, fetching and decoding (R32, R41, R46, R59, R60, R276).
-/
namespace Sys2Proof.Machine

/-! ## Enabled moves -/

/-- What an event does; none for what is no event. -/
def eventBody : Instr → Option (EvArg → State → State)
  | .clauseEntry => some evClauseEntry
  | .tokenWaitResume => some evTokenWaitResume
  | .registerGrant => some evRegisterGrant
  | .regDeadlock => some evRegDeadlock
  | .binAgeExpiry => some evBinAgeExpiry
  | .binIssue => some evBinIssue
  | .gangSlotSwap => some evGangSlotSwap
  | .engineLineWrite => some evEngineLineWrite
  | .scratchGranuleLanding => some evScratchGranuleLanding
  | .copyComplete => some evCopyComplete
  | .deferredCopyFault => some evDeferredFault
  | .mmaBlockAdd => some evMmaBlockAdd
  | .accstRowWrite => some evAccstRowWrite
  | .homeAccessArrival => some evHomeAccessArrival
  | .placedPartExecute => some evPlacedPartExecute
  | .reduceStateMerge => some evReduceStateMerge
  | .genbumpComplete => some evGenbumpComplete
  | .portWriteArrival => some evPortWriteArrival
  | .portReadArrival => some evPortReadArrival
  | .peerAtomArrival => some evPeerAtomArrival
  | .faultDelivery => some evFaultDelivery
  | .launchEndWithCause => some evLaunchEndWithCause
  | .preemption => some evPreemption
  | .crewRestore => some evCrewRestore
  | .firmwareCheckpoint => some evFirmwareCheckpoint
  | .migration => some evMigration
  | .returnTrap => some evReturnTrap
  | .crewPlacement => some evCrewPlacement
  | .carveOutChange => some evCarveOutChange
  | .notify => some evNotify
  | .packetTake => some evPacketTake
  | .launch => some evLaunch
  | .cmdblock => some evCmdblock
  | .copy => some evCopy
  | .fill => some evFill
  | .signal => some evSignal
  | .waitsig => some evWaitsig
  | .waitsigReevaluate => some evWaitsigReevaluate
  | .nopPacket => some evNopPacket
  | .launchCompletionSignal => some evLaunchCompletionSignal
  | .thaw => some evThaw
  | .abandon => some evAbandon
  | .graphKick => some evGraphKick
  | .graphNodeCompletion => some evGraphNodeCompletion
  | .pairComparison => some evPairComparison
  | .protectedRollback => some evProtectedRollback
  | .unitSelfTest => some evUnitSelfTest
  | .islandClockChange => some evIslandClockChange
  | .powerCapSet => some evPowerCapSet
  | .thermalLimit => some evThermalLimit
  | .attestationReport => some evAttestationReport
  | .asidKeyInit => some evAsidKeyInit
  | .baseRegisterWrite => some evBaseRegisterWrite
  | .registerWrite => some evRegisterWrite
  | .moduleReset => some evModuleReset
  | .bringUp => some evBringUp
  | .dieCooled => some evDieCooled
  | .hostAcknowledgement => some evHostAcknowledgement
  | .graphRegistration => some evGraphRegistration
  | _ => none

/-- An event would change the state now. -/
def State.enabled (s : State) (i : Instr) (a : EvArg) : Bool :=
  match eventBody i with
  | some body => decide (body a s ≠ s)
  | none => false

/-- A move, and which of the inputs that wait it is. -/
structure Move where
  turn : Turn
  input : Option Nat
  deriving DecidableEq, Repr

/-- Events that a crew's units, bins and engines may have. -/
def Crew.engineEvents (k : Crew) (c : Nat) : List (Instr × EvArg) :=
  (k.kinds.map fun u => (.tokenWaitResume, { unit := { crew := c, kind := u } }))
    ++ ((List.range k.bins.length).map fun b => (.binAgeExpiry, { n := c, m := b }))
    ++ ((List.range k.copies.length).flatMap fun j =>
      [(.engineLineWrite, { n := c, m := j }), (.scratchGranuleLanding, { n := c, m := j }),
       (.deferredCopyFault, { n := c, m := j })])
    ++ ((k.copies.map LaneCopy.group).eraseDups.map fun g => (.copyComplete, { n := c, m := g }))
    ++ ((List.range k.mats.length).map fun j => (.mmaBlockAdd, { n := c, m := j }))
    ++ ((List.range k.stores.length).flatMap fun j =>
      [(.accstRowWrite, { n := c, m := j }), (.deferredCopyFault, { n := c, m := j, v := 1 })])

/-- Events that may move a crew or its faults. -/
def Crew.moveEvents (k : Crew) (c : Nat) : List (Instr × EvArg) :=
  [(.faultDelivery, { n := c }), (.migration, { n := c }), (.returnTrap, { n := c }), (.pairComparison, { n := c })]
    ++ (if k.preempting then [(.preemption, { n := c })] else [])

/-- Cores with a crew on them. -/
def State.busyCores (s : State) : List Nat :=
  ((s.crews.filter fun k => k.status == .resident).map Crew.core).eraseDups

/-- Events that a core's scheduler may have. -/
def State.coreEvents (s : State) (n : Nat) : List (Instr × EvArg) :=
  [(.gangSlotSwap, { n := n }), (.gangSlotSwap, { n := n, m := 1 }), (.binIssue, { n := n }), (.registerGrant, { n := n }),
   (.regDeadlock, { n := n })] ++ s.carveEvents n

/-- Events that may happen at the homes of lines. -/
def State.homeEvents (s : State) : List (Instr × EvArg) :=
  ((List.range s.parts.length).flatMap fun n => [(.homeAccessArrival, { n := n }), (.placedPartExecute, { n := n })])
    ++ ((List.range s.partials.length).flatMap fun n =>
      [(.reduceStateMerge, { n := n }), (.reduceStateMerge, { n := n, m := 1 })])
    ++ ((List.range s.bumps.length).map fun n => (.genbumpComplete, { n := n }))

/-- Events of a packet that a command core has taken. -/
def packetEvents (q m : Nat) : List (Instr × EvArg) :=
  [Instr.launch, .cmdblock, .copy, .fill, .signal, .waitsig, .nopPacket].map fun i => (i, { n := q, m := m })

/-- Events of the command cores, the placer, launches, graphs and self-tests. -/
def State.queueEvents (s : State) : List (Instr × EvArg) :=
  (match s.wakes with
    | .queue q :: _ => [(.packetTake, { n := q })]
    | .graph g :: _ => [(.graphKick, { n := g, m := 1 })]
    | [] => [])
    ++ (s.queues.flatMap fun q =>
      (if q.2.lock.isSome then [(.packetTake, { n := q.1 })] else [])
        ++ (List.range q.2.packets.length).flatMap (packetEvents q.1)
        ++ (List.range q.2.packets.length).map fun m => (.waitsigReevaluate, { n := q.1, m := m }))
    ++ ((s.graphs.filter fun g => g.2.core.isSome).map fun g => (.graphKick, { n := g.1, m := 1 }))
    ++ [(.crewPlacement, { n := 0 }), (.crewRestore, { n := 0 })]
    ++ ((List.range s.launches.length).flatMap fun l =>
      [(.launchCompletionSignal, { n := l }), (.launchEndWithCause, { n := l }), (.graphNodeCompletion, { n := l }),
       (.protectedRollback, { n := l })])
    ++ ((s.rel.underTest.filter fun u => (s.onUnit u).isEmpty && !s.commandBusy u).map fun u => (.unitSelfTest, { hw := u }))

/-- Carve-outs that the placer settles before anything else happens on the module: a crew has just been placed on the core or has
ended there (R124). -/
def State.carvesDue (s : State) : List (Instr × EvArg) :=
  (s.cores.filter fun x => x.2.carveDue).flatMap fun x => s.carveEvents x.1

/-- Events that may be enabled, apart from inputs. -/
def State.events (s : State) : List (Instr × EvArg) :=
  s.busyCores.flatMap s.coreEvents ++ (s.crews.zipIdx.flatMap fun x => x.1.engineEvents x.2 ++ x.1.moveEvents x.2)
    ++ s.homeEvents ++ s.queueEvents

/-- Units that may issue: of each core those that come next (R25, R276). -/
def State.issuers (s : State) : List UnitId := s.busyCores.flatMap s.issuersOn

/-- The source of an input: inputs of one source are taken in their order. A port's arrivals are one, a crew's checkpoint requests
another, and all else. -/
def inputSource (x : Instr × EvArg) : Nat × Nat :=
  match x.1 with
  | .portWriteArrival => (1, x.2.n)
  | .portReadArrival => (1, x.2.n)
  | .peerAtomArrival => (1, x.2.n)
  | .firmwareCheckpoint => (2, x.2.n)
  | .abandon => (3, x.2.n)
  | _ => (0, 0)

/-- An input can be taken now: an arrival at a line that is owned is held, a checkpoint waits until its crew can be saved, and
ABANDON until its packet's signal can be written. -/
def State.takable (s : State) (x : Instr × EvArg) : Bool :=
  match x.1 with
  | .portWriteArrival => !s.arrivalHeld x.2
  | .portReadArrival => !s.arrivalHeld x.2
  | .peerAtomArrival => !s.arrivalHeld x.2
  | .firmwareCheckpoint => s.copiesStop x.2.n
  | .abandon => (match s.abandoned? x.2.n with
    | some (_, p) => !s.releaseHeld x.2.n p.words
    | none => true)
  | _ => true

/-- The inputs that may be taken: of each source the first. -/
def State.inputMoves (s : State) : List Move :=
  s.inbox.zipIdx.filterMap fun x =>
    if s.takable x.1 ∧ (s.inbox.take x.2).all (fun y => inputSource y != inputSource x.1) = true then
      some { turn := .event x.1.1 x.1.2, input := some x.2 }
    else none

/-- The moves that a state allows. -/
def State.moves (s : State) : List Move :=
  let event := fun (x : Instr × EvArg) => if s.enabled x.1 x.2 then some { turn := .event x.1 x.2, input := none } else none
  match s.carvesDue.filterMap event with
  | m :: ms => m :: ms
  | [] =>
    s.inputMoves ++ (s.issuers.map fun u => { turn := .issue u Prefix.plain, input := none }) ++ s.events.filterMap event

/-- The step at which the unit of a move last issued. -/
def State.lastIssue (s : State) (m : Move) : Option Nat :=
  match m.turn with
  | .issue u _ => some (s.issuedLast u)
  | .event _ _ => none

/-- A move that is due: every sixteenth step the unit that has waited longest since it issued, and eight steps later one of the
other moves in turn, so that what stays ready happens (R26, R276: within finite time, oldest first). DESIGN CHOICE, log 4. -/
def State.due (s : State) (ms : List Move) : Option Move :=
  if s.now % 16 = 0 then
    ms.foldl (fun best m => match s.lastIssue m, best.bind s.lastIssue with
      | some a, some b => if a < b then some m else best
      | some _, none => some m
      | none, _ => best) none
  else if s.now % 16 = 8 then
    let es := ms.filter fun m => (s.lastIssue m).isNone
    es[(s.now / 16) % max es.length 1]?
  else none

/-- The state with the turn of one of its moves: which one of several is free (R32). A queue that is not ready has given up its
positive deficit by then, and the ends of launches have entered the event queue (R268, R317). -/
def State.pick (s0 : State) : State :=
  let s := s0.dropIdle.tellOver
  match s.moves with
  | [] => s
  | m :: ms =>
    let x := if ms.isEmpty then m else (s.due (m :: ms)).getD ((m :: ms).getD (Config.choice s.now % (ms.length + 1)) m)
    { s with turn := some x.turn, inbox := match x.input with
        | some i => s.inbox.eraseIdx i
        | none => s.inbox }

/-! ## Errors that strike storage (R337) -/

/-- The storage that an error strikes, by the number of its kind. -/
def struckAt (kind crew fibre n : Nat) : Poison :=
  match kind with
  | 0 => .register crew fibre n
  | 1 => .sticky crew fibre n
  | 2 => .scratch crew n
  | 3 => .acc crew n
  | 4 => .l2 n
  | _ => .dram n

/-- An error may strike at any step: which one is free. Parity corrects no bit of the sticky plane. -/
def State.strike (s : State) : State :=
  match Config.errorStrikes s.now with
  | none => s
  | some (single, kind, crew, fibre, n) =>
    let p := struckAt kind crew fibre n
    if single ∧ kind ≠ 1 then { s with rel := { s.rel with correctable := s.rel.correctable ++ [p] } }
    else { s with rel := { s.rel with poison := s.rel.poison ++ [p] } }

/-- A sector may leave its L2 slice at any step: which one is free (R129). -/
def State.evict (s : State) : State :=
  match Config.l2Evicts s.now with
  | some line => s.evictSector line
  | none => s

/-! ## What an issuing unit reads -/

/-- The prefix of a word that is no instruction: a D word of no format, and an I or REP word, has no guard; an extension
word always has its wait mask (R46, R51, R59). -/
def rejectPrefix (kind : Kind) (w x : Word) : Prefix :=
  let mj := majorOf w
  if kind.isL then
    if mj = 0x02 ∨ mj = 0x03 ∨ mj = 0x07 then { prefixL x with guard := 0, neg := false } else prefixL x
  else if mj = 0x00 ∨ mj = 0x4E ∨ mj = 0x4F ∨ mj = 0x73 ∨ mj = 0x7F then Prefix.plain
  else prefixD w

/-- A unit's word that is no instruction: its token wait, then ILLEGAL-OP or ILLEGAL-FIELD (R43, R59, R60). -/
def State.rejectWord (s : State) (u : UnitId) (w x : Word) (e : EncFault) : State :=
  match s.turn with
  | none => s
  | some _ =>
    match s.crews[u.crew]? with
    | none => s
    | some k => let pf := rejectPrefix k.kind w x
      match s.ctx? u pf with
      | none => s
      | some c =>
        let f := c.fibre (c.all.headD 0)
        let s := c.stamped s
        match c.loosePending with
        | p :: ps => c.raiseLoose (p :: ps) s
        | [] => match c.tokenWait pf f.hdrWord s with
          | some r => c.conclude r
          | none =>
            if c.mustStop then c.stopAtDovetail s
            else c.conclude (c.raiseAll (c.begin pf s) (if e = .illegalOp then causeOp else causeField) 0)

/-- What stands at a unit's PC, once its words are latched: D takes the word at the PC's place in its clause, L its
doubleword; nothing where the fetch has faulted. -/
def Ctx.wordsAt (c : Ctx) : Option (Word × Word) :=
  let f := c.fibre (c.all.headD 0)
  if c.kind.isL then
    match f.clause with
    | [x, w] => some (w, x)
    | _ => none
  else if f.clause.isEmpty then none
  else some (f.clause.getD ((f.pc - f.hdr).toNat / 4 - 1) 0, 0)

/-- The prefix and instruction of a unit's words (R50, R57, R59). -/
def decodeFor (kind : Kind) (w x : Word) : Except EncFault (Prefix × Instr) := if kind.isL then decodeL x w else decodeD w

/-- A step's work before an instruction's meaning: the state, and the instruction whose meaning follows, or none where the
step is over. A unit at an issue point of D enters its clause; one of L fetches its doubleword. -/
def State.fetchIssue (s : State) (u : UnitId) : State × Option Instr :=
  match s.ctx? u Prefix.plain with
  | none => (s.done, none)
  | some c =>
    let f := c.fibre (c.all.headD 0)
    if f.clause.isEmpty ∧ c.kind.isL = false then
      ({ s with turn := some (.event .clauseEntry { unit := u }) }, some .clauseEntry)
    else
      let t := if f.clause.isEmpty then c.fetchL s else s
      match (t.ctx? u Prefix.plain).bind Ctx.wordsAt with
      | none => (t.done, none)
      | some (w, x) => match decodeFor c.kind w x with
        | .ok (pf, i) => ({ t with turn := some (.issue u pf) }, some i)
        | .error e => ((t.rejectWord u w x e).done, none)

/-- A step's move: the turn that stands, or else one of the enabled moves, before which an error may strike and a sector
leave its slice; nothing else
happens where there is none. -/
def State.move (s : State) : State × Option Instr :=
  let t := if s.turn.isSome then s else s.pick.strike.evict
  match t.turn with
  | none => (t.done, none)
  | some (.event i _) => if i.info.text = .event then (t, some i) else (t.done, none)
  | some (.issue u _) => t.fetchIssue u

/-! ## An instruction placed for the next step -/

/-- A crew of one privileged bound fibre, every register 0, as a launch of privileged software makes it. -/
def loneCrew (kind : Kind) (core : Nat) (words : List Word) : Crew :=
  { status := .resident
    desc := { launch := 0, asid := 0, x := 0, y := 0, z := 0, ncrewx := 1, args := 0, stkBase := 0, stkStride := 0,
              entry := 0, codeBase := 0, mode := 0, regsD := kind.maxWindow, regsL := kind.maxWindow, nbound := 1,
              scrSize := 0, accCount := 0, ctx := 0 }
    kind := kind, core := core, scrBase := 0, accBase := 0
    fibres := [{ Fibre.empty with
      live := true, bound := true, priv := true, size := kind.maxWindow, regs := newRegs kind.maxWindow, clause := words,
      hdrWord := if kind.isL then 0 else 0x1001E000, pc := if kind.isL then 0 else 4 }]
    gangs := [Tokens.fresh], bins := [], scr := [], full := [], bench := List.replicate 64 0,
    barriers := List.replicate 16 { phase := false, arrived := [] }
    tiles := [], tileDirty := [], copies := [], mats := [], stores := [], pending := none, returning := false,
    preempting := false, delivery := none, heldFault := none, faultSeq := 0, saveSeq := 0, stamps := [], slotOwners := [],
    allDirty := true, slotAt := 0, tileAt := 0, reserve := 0, pair := none, mirror := false, cost := 0, since := 0, est := 0,
    passedOver := 0, jobs := 0 }

/-- The launch of that crew. -/
def loneLaunch : Launch :=
  { queue := 0, asid := 0, priv := true, words := [], view := deviceView, placed := 1, ended := 0, cause := none,
    handedBack := false, told := false, completed := false, replay := 0, rollbacks := 0, rolling := false, noSnapshot := false, errUnit := 0,
    errCore := 0, errAddr := 0, node := none }

/-- A machine in which a privileged crew's only gang is about to issue the word of a density core's text, or the doubleword
of a latency core's. -/
def State.placeWords (s : State) (kind : Kind) (words : List Word) : State :=
  let core := if kind.isL then 28 else 0
  let u : UnitId := { crew := s.crews.length, kind := .gang 0 0 }
  let k := loneCrew kind core words
  { s.modCore core fun x => { x with active := u :: x.active } with
    crews := s.crews ++ [{ k with desc := { k.desc with launch := s.launches.length } }]
    launches := s.launches ++ [loneLaunch]
    turn := some (.issue u Prefix.plain) }

end Sys2Proof.Machine
end

