-- ==== Sys2Proof/Machine/Placed.lean ====
section
/-!
DEFINITION. XLQ, placed operations, CHUNK and GENBUMP (07 R107 to R117).
Each meaning issues its instruction with the operation of its family; the two texts differ in their fields alone.
-/
namespace Sys2Proof.Machine

/-- Queries the translation, executor and generation of a VA without faulting (R110). -/
def execXlqD (d : BitVec 6) (a : BitVec 6) (st : State) : Res := issue (.xlqD d a) (fun c => bodyXlq (c.d d) (c.a a) c) st

/-- Placed integer line operation, run at the destination's executor (R112). -/
def execPliD (d : BitVec 6) (a : BitVec 6) (b : BitVec 6) (s : BitVec 3) (st : State) : Res :=
  issue (.pliD d a b s) (fun c => bodyPl 0x6D s.toNat (c.d d) (c.a a) (c.b b) c) st

/-- Placed FP32 line operation (R112). -/
def execPlfD (d : BitVec 6) (a : BitVec 6) (b : BitVec 6) (s : BitVec 3) (st : State) : Res :=
  issue (.plfD d a b s) (fun c => bodyPl 0x6E s.toNat (c.d d) (c.a a) (c.b b) c) st

/-- Contributes a value to a reduce-state element at its executor (R114). -/
def execPlredD (d : BitVec 6) (a : BitVec 6) (s : BitVec 3) (st : State) : Res :=
  issue (.plredD d a s) (fun c => bodyPlred s.toNat (c.d d) (c.a a) c) st

/-- Draws work ranges from a counter record, lane by lane (R117). -/
def execChunkD (d : BitVec 6) (a : BitVec 6) (st : State) : Res := issue (.chunkD d a) (fun c => bodyChunk (c.d d) (c.a a) c) st

/-- XLQ of the L text (R110). -/
def execXlqL (d : BitVec 8) (a : BitVec 8) (st : State) : Res := issue (.xlqL d a) (fun c => bodyXlq (c.d d) (c.a a) c) st

/-- PLI of the L text (R112). -/
def execPliL (d : BitVec 8) (a : BitVec 8) (b : BitVec 8) (s : BitVec 3) (st : State) : Res :=
  issue (.pliL d a b s) (fun c => bodyPl 0x6D s.toNat (c.d d) (c.a a) (c.b b) c) st

/-- PLF of the L text (R112). -/
def execPlfL (d : BitVec 8) (a : BitVec 8) (b : BitVec 8) (s : BitVec 3) (st : State) : Res :=
  issue (.plfL d a b s) (fun c => bodyPl 0x6E s.toNat (c.d d) (c.a a) (c.b b) c) st

/-- PLRED of the L text (R114). -/
def execPlredL (d : BitVec 8) (a : BitVec 8) (s : BitVec 3) (st : State) : Res :=
  issue (.plredL d a s) (fun c => bodyPlred s.toNat (c.d d) (c.a a) c) st

/-- CHUNK of the L text (R117). -/
def execChunkL (d : BitVec 8) (a : BitVec 8) (st : State) : Res := issue (.chunkL d a) (fun c => bodyChunk (c.d d) (c.a a) c) st

/-- Privileged: advances the address-space generation at every die and waits for it (R107). -/
def execGenbumpD (st : State) : Res := issue .genbumpD bodyGenbump st

/-- GENBUMP of the L text (R107). -/
def execGenbumpL (st : State) : Res := issue .genbumpL bodyGenbump st

end Sys2Proof.Machine
end

