-- ==== Sys2Proof/Machine/Synchronising.lean ====
section
/-!
DEFINITION. Barriers, barrier objects and bench registers (11 R174 to R180; 03 R38).
Each meaning issues its instruction with the operation of its family. The D and the L form of an instruction call one operation
(bodyLd, bodySts, bodyCpa and so on) and differ in register reach and guard field alone, on every kind of core (11 R188).
-/
namespace Sys2Proof.Machine

/-- Arrives at a crew barrier and waits for its phase (R174). -/
def execBarD (n : BitVec 4) (st : State) : Res := issue (.barD n) (bodyBar n.toNat) st

/-- Arrives at a scratchpad barrier object as a release read-modify-write (R177). -/
def execArvD (d : BitVec 6) (a : BitVec 6) (b : BitVec 6) (st : State) : Res :=
  issue (.arvD d a b) (fun c => bodyArv (c.d d) (c.a a) (c.b b) c) st

/-- Waits until a barrier object's phase differs from the given parity (R178). -/
def execAwtD (d : BitVec 6) (a : BitVec 6) (b : BitVec 6) (st : State) : Res :=
  issue (.awtD d a b) (fun c => bodyAwt (c.d d) (c.a a) (c.b b) c) st

/-- Reads a bench register (R180). -/
def execBrdD (d : BitVec 6) (k : BitVec 6) (st : State) : Res := issue (.brdD d k) (fun c => bodyBrd (c.d d) k.toNat c) st

/-- Writes a bench register from the highest active lane (R180). -/
def execBwrD (a : BitVec 6) (k : BitVec 6) (st : State) : Res := issue (.bwrD a k) (fun c => bodyBwr (c.a a) k.toNat c) st

/-- Atomic read-modify-write on a bench register (R180). -/
def execBatomD (d : BitVec 6) (a : BitVec 6) (o : BitVec 3) (k : BitVec 6) (st : State) : Res :=
  issue (.batomD d a o k) (fun c => bodyBatom (c.d d) (c.a a) k.toNat o.toNat c) st

/-- BAR of the L text (R174). -/
def execBarL (n : BitVec 4) (st : State) : Res := issue (.barL n) (bodyBar n.toNat) st

/-- ARV of the L text (R177). -/
def execArvL (d : BitVec 8) (a : BitVec 8) (b : BitVec 8) (st : State) : Res :=
  issue (.arvL d a b) (fun c => bodyArv (c.d d) (c.a a) (c.b b) c) st

/-- AWT of the L text (R178). -/
def execAwtL (d : BitVec 8) (a : BitVec 8) (b : BitVec 8) (st : State) : Res :=
  issue (.awtL d a b) (fun c => bodyAwt (c.d d) (c.a a) (c.b b) c) st

/-- BRD of the L text (R180). -/
def execBrdL (d : BitVec 8) (k : BitVec 6) (st : State) : Res := issue (.brdL d k) (fun c => bodyBrd (c.d d) k.toNat c) st

/-- BWR of the L text (R180). -/
def execBwrL (a : BitVec 8) (k : BitVec 6) (st : State) : Res := issue (.bwrL a k) (fun c => bodyBwr (c.a a) k.toNat c) st

/-- BATOM of the L text (R180). -/
def execBatomL (d : BitVec 8) (a : BitVec 8) (o : BitVec 3) (k : BitVec 6) (st : State) : Res :=
  issue (.batomL d a o k) (fun c => bodyBatom (c.d d) (c.a a) k.toNat o.toNat c) st

end Sys2Proof.Machine
end

