-- ==== Sys2Proof/Machine/System.lean ====
section
/-!
DEFINITION. Register blocks, MIGR, dovetail points, FEATQ, CKPT and HALT (17 R257 to R262; 19 R298, R299; 22 R330).
Each meaning issues its instruction with the operation of its family; the two texts differ in their fields alone.
-/
namespace Sys2Proof.Machine

/-- Grows the windows by n blocks, waiting for a grant (R261). -/
def execRegacqWaitD (n : BitVec 4) (st : State) : Res := issue (.regacqWaitD n) (bodyRegacq n.toNat none) st

/-- Grows the windows if a grant is possible now; reports the result in a predicate (R261). -/
def execRegacqTryD (p : BitVec 6) (n : BitVec 4) (st : State) : Res :=
  issue (.regacqTryD p n) (bodyRegacq n.toNat (some p.toNat)) st

/-- Shrinks the windows by n blocks (R262). -/
def execRegrelD (n : BitVec 4) (st : State) : Res := issue (.regrelD n) (bodyRegrel n.toNat) st

/-- Records a crew migration request for a core kind (R257). -/
def execMigrD (k : BitVec 1) (st : State) : Res := issue (.migrD k) (bodyMigr k.toNat) st

/-- Reads a word of the launch's feature view (R330). -/
def execFeatqD (d : BitVec 6) (x : BitVec 9) (st : State) : Res := issue (.featqD d x) (fun c => bodyFeatq (c.d d) x.toNat c) st

/-- REGACQ.wait of the L text (R261). -/
def execRegacqWaitL (n : BitVec 4) (st : State) : Res := issue (.regacqWaitL n) (bodyRegacq n.toNat none) st

/-- REGACQ.try, with the result predicate in DH:d of the L text (R261). -/
def execRegacqTryL (p : BitVec 8) (n : BitVec 4) (st : State) : Res :=
  issue (.regacqTryL p n) (bodyRegacq n.toNat (some p.toNat)) st

/-- REGREL of the L text (R262). -/
def execRegrelL (n : BitVec 4) (st : State) : Res := issue (.regrelL n) (bodyRegrel n.toNat) st

/-- MIGR of the L text (R257). -/
def execMigrL (k : BitVec 1) (st : State) : Res := issue (.migrL k) (bodyMigr k.toNat) st

/-- FEATQ of the L text (R330). -/
def execFeatqL (d : BitVec 8) (x : BitVec 9) (st : State) : Res := issue (.featqL d x) (fun c => bodyFeatq (c.d d) x.toNat c) st

/-- L-only dovetail marker; updates the fibre's dovetail marker, or stops the fibre under a pending migration request (R260). -/
def execDvtL (k : BitVec 11) (st : State) : Res := issue (.dvtL k) (bodyDvt k.toNat) st

/-- Privileged: checkpoints the crew without moving it (R298). -/
def execCkptD (st : State) : Res := issue .ckptD bodyCkpt st

/-- Privileged: ends the launch with cause HALT (R299). -/
def execHaltD (st : State) : Res := issue .haltD bodyHalt st

/-- CKPT of the L text (R298). -/
def execCkptL (st : State) : Res := issue .ckptL bodyCkpt st

/-- HALT of the L text (R299). -/
def execHaltL (st : State) : Res := issue .haltL bodyHalt st

end Sys2Proof.Machine
end

