-- ==== Sys2Proof/Machine/Dispatch.lean ====
section
/-!
DEFINITION. The meaning of every instruction and event, one arm for each row of the opcode table.
-/
namespace Sys2Proof.Machine

/-- What an instruction or event does. -/
def exec (i : Instr) (s : State) : Host.Outcome State Fault Refusal :=
  match i with
  | .moviD d m => Sys2Proof.Machine.execMoviD d m s
  | .movhiD d m => Sys2Proof.Machine.execMovhiD d m s
  | .movD d a t => Sys2Proof.Machine.execMovD d a t s
  | .sreadD d x => Sys2Proof.Machine.execSreadD d x s
  | .swriteD a x => Sys2Proof.Machine.execSwriteD a x s
  | .repD c d a b e => Sys2Proof.Machine.execRepD c d a b e s
  | .braD o => Sys2Proof.Machine.execBraD o s
  | .callD o => Sys2Proof.Machine.execCallD o s
  | .brxD a c => Sys2Proof.Machine.execBrxD a c s
  | .retD a => Sys2Proof.Machine.execRetD a s
  | .forkD a n => Sys2Proof.Machine.execForkD a n s
  | .forkTryD p a n => Sys2Proof.Machine.execForkTryD p a n s
  | .trapD x => Sys2Proof.Machine.execTrapD x s
  | .syscD x => Sys2Proof.Machine.execSyscD x s
  | .iaddD d a b t => Sys2Proof.Machine.execIaddD d a b t s
  | .isubD d a b t => Sys2Proof.Machine.execIsubD d a b t s
  | .imulD d a b t => Sys2Proof.Machine.execImulD d a b t s
  | .imadD d a b => Sys2Proof.Machine.execImadD d a b s
  | .idivD d a b t => Sys2Proof.Machine.execIdivD d a b t s
  | .iremD d a b t => Sys2Proof.Machine.execIremD d a b t s
  | .iminD d a b t => Sys2Proof.Machine.execIminD d a b t s
  | .imaxD d a b t => Sys2Proof.Machine.execImaxD d a b t s
  | .andD d a b => Sys2Proof.Machine.execAndD d a b s
  | .orD d a b => Sys2Proof.Machine.execOrD d a b s
  | .xorD d a b => Sys2Proof.Machine.execXorD d a b s
  | .andnD d a b => Sys2Proof.Machine.execAndnD d a b s
  | .shlD d a b t => Sys2Proof.Machine.execShlD d a b t s
  | .shrD d a b t => Sys2Proof.Machine.execShrD d a b t s
  | .rotlD d a b => Sys2Proof.Machine.execRotlD d a b s
  | .bfxD d a b t => Sys2Proof.Machine.execBfxD d a b t s
  | .iaddiD d a m => Sys2Proof.Machine.execIaddiD d a m s
  | .andiD d a m => Sys2Proof.Machine.execAndiD d a m s
  | .oriD d a m => Sys2Proof.Machine.execOriD d a m s
  | .xoriD d a m => Sys2Proof.Machine.execXoriD d a m s
  | .shliD d a m => Sys2Proof.Machine.execShliD d a m s
  | .shriD d a h m => Sys2Proof.Machine.execShriD d a h m s
  | .imuliD d a m => Sys2Proof.Machine.execImuliD d a m s
  | .leaD d a b t => Sys2Proof.Machine.execLeaD d a b t s
  | .bfiD d a b => Sys2Proof.Machine.execBfiD d a b s
  | .popcD d a => Sys2Proof.Machine.execPopcD d a s
  | .clzD d a => Sys2Proof.Machine.execClzD d a s
  | .brevD d a => Sys2Proof.Machine.execBrevD d a s
  | .iabsD d a => Sys2Proof.Machine.execIabsD d a s
  | .selD d a b t => Sys2Proof.Machine.execSelD d a b t s
  | .icmpD p a b c => Sys2Proof.Machine.execIcmpD p a b c s
  | .icmpuD p a b c => Sys2Proof.Machine.execIcmpuD p a b c s
  | .faddD d a b t => Sys2Proof.Machine.execFaddD d a b t s
  | .fsubD d a b t => Sys2Proof.Machine.execFsubD d a b t s
  | .fmulD d a b t => Sys2Proof.Machine.execFmulD d a b t s
  | .ffmaD d a b t => Sys2Proof.Machine.execFfmaD d a b t s
  | .fminD d a b t => Sys2Proof.Machine.execFminD d a b t s
  | .fmaxD d a b t => Sys2Proof.Machine.execFmaxD d a b t s
  | .fcmpD p a b c => Sys2Proof.Machine.execFcmpD p a b c s
  | .fcmpxD p a b c => Sys2Proof.Machine.execFcmpxD p a b c s
  | .fspfD d a t => Sys2Proof.Machine.execFspfD d a t s
  | .fsgnD d a b t => Sys2Proof.Machine.execFsgnD d a b t s
  | .hadd2D d a b t => Sys2Proof.Machine.execHadd2D d a b t s
  | .hmul2D d a b t => Sys2Proof.Machine.execHmul2D d a b t s
  | .hfma2D d a b t => Sys2Proof.Machine.execHfma2D d a b t s
  | .hmnx2D d a b y t => Sys2Proof.Machine.execHmnx2D d a b y t s
  | .cvtD d a f h m => Sys2Proof.Machine.execCvtD d a f h m s
  | .pkbD d a w n => Sys2Proof.Machine.execPkbD d a w n s
  | .shflD d a b t => Sys2Proof.Machine.execShflD d a b t s
  | .vanyD p q r => Sys2Proof.Machine.execVanyD p q r s
  | .vallD p q r => Sys2Proof.Machine.execVallD p q r s
  | .vbalD d p => Sys2Proof.Machine.execVbalD d p s
  | .redlD d a t => Sys2Proof.Machine.execRedlD d a t s
  | .setpartD x => Sys2Proof.Machine.execSetpartD x s
  | .pandD p q r => Sys2Proof.Machine.execPandD p q r s
  | .porD p q r => Sys2Proof.Machine.execPorD p q r s
  | .pxorD p q r => Sys2Proof.Machine.execPxorD p q r s
  | .pandnD p q r => Sys2Proof.Machine.execPandnD p q r s
  | .prdD d x => Sys2Proof.Machine.execPrdD d x s
  | .pwrD a x => Sys2Proof.Machine.execPwrD a x s
  | .stkrdD p a => Sys2Proof.Machine.execStkrdD p a s
  | .stksetD d a x => Sys2Proof.Machine.execStksetD d a x s
  | .ldD d a z m o => Sys2Proof.Machine.execLdD d a z m o s
  | .stD d a z m o => Sys2Proof.Machine.execStD d a z m o s
  | .ldsD d a z m o => Sys2Proof.Machine.execLdsD d a z m o s
  | .stsD d a z m o => Sys2Proof.Machine.execStsD d a z m o s
  | .ldaqD d a z k o => Sys2Proof.Machine.execLdaqD d a z k o s
  | .strlD d a z k o => Sys2Proof.Machine.execStrlD d a z k o s
  | .atomD d a b t => Sys2Proof.Machine.execAtomD d a b t s
  | .atomsD d a b t => Sys2Proof.Machine.execAtomsD d a b t s
  | .fenceD e k c => Sys2Proof.Machine.execFenceD e k c s
  | .prefD a m o => Sys2Proof.Machine.execPrefD a m o s
  | .iprefD o => Sys2Proof.Machine.execIprefD o s
  | .xlqD d a => Sys2Proof.Machine.execXlqD d a s
  | .stxD d a m o => Sys2Proof.Machine.execStxD d a m o s
  | .ldxD d a m o => Sys2Proof.Machine.execLdxD d a m o s
  | .stcD d a f e o => Sys2Proof.Machine.execStcD d a f e o s
  | .cpaD a b n t y => Sys2Proof.Machine.execCpaD a b n t y s
  | .waittD k => Sys2Proof.Machine.execWaittD k s
  | .tokqD p a c => Sys2Proof.Machine.execTokqD p a c s
  | .mmaf8aD a t => Sys2Proof.Machine.execMmaf8aD a t s
  | .mmaf8bD a t => Sys2Proof.Machine.execMmaf8bD a t s
  | .mmak8D a b n t => Sys2Proof.Machine.execMmak8D a b n t s
  | .mmab16D a t => Sys2Proof.Machine.execMmab16D a t s
  | .mmah16D a t => Sys2Proof.Machine.execMmah16D a t s
  | .mmai8D a t => Sys2Proof.Machine.execMmai8D a t s
  | .accrdD d a f e => Sys2Proof.Machine.execAccrdD d a f e s
  | .accwrD d a => Sys2Proof.Machine.execAccwrD d a s
  | .acczD n => Sys2Proof.Machine.execAcczD n s
  | .accstD a t => Sys2Proof.Machine.execAccstD a t s
  | .pliD d a b t => Sys2Proof.Machine.execPliD d a b t s
  | .plfD d a b t => Sys2Proof.Machine.execPlfD d a b t s
  | .plredD d a t => Sys2Proof.Machine.execPlredD d a t s
  | .regacqWaitD n => Sys2Proof.Machine.execRegacqWaitD n s
  | .regacqTryD p n => Sys2Proof.Machine.execRegacqTryD p n s
  | .regrelD n => Sys2Proof.Machine.execRegrelD n s
  | .migrD k => Sys2Proof.Machine.execMigrD k s
  | .barD n => Sys2Proof.Machine.execBarD n s
  | .arvD d a b => Sys2Proof.Machine.execArvD d a b s
  | .awtD d a b => Sys2Proof.Machine.execAwtD d a b s
  | .brdD d k => Sys2Proof.Machine.execBrdD d k s
  | .bwrD a k => Sys2Proof.Machine.execBwrD a k s
  | .batomD d a o k => Sys2Proof.Machine.execBatomD d a o k s
  | .featqD d x => Sys2Proof.Machine.execFeatqD d x s
  | .chunkD d a => Sys2Proof.Machine.execChunkD d a s
  | .moviL d m => Sys2Proof.Machine.execMoviL d m s
  | .movhiL d m => Sys2Proof.Machine.execMovhiL d m s
  | .movL d a t => Sys2Proof.Machine.execMovL d a t s
  | .sreadL d x => Sys2Proof.Machine.execSreadL d x s
  | .swriteL a x => Sys2Proof.Machine.execSwriteL a x s
  | .repL c d a b e => Sys2Proof.Machine.execRepL c d a b e s
  | .braL o => Sys2Proof.Machine.execBraL o s
  | .callL o => Sys2Proof.Machine.execCallL o s
  | .brxL a c => Sys2Proof.Machine.execBrxL a c s
  | .retL a => Sys2Proof.Machine.execRetL a s
  | .forkL a n => Sys2Proof.Machine.execForkL a n s
  | .forkTryL p a n => Sys2Proof.Machine.execForkTryL p a n s
  | .trapL x => Sys2Proof.Machine.execTrapL x s
  | .syscL x => Sys2Proof.Machine.execSyscL x s
  | .iaddL d a b t => Sys2Proof.Machine.execIaddL d a b t s
  | .isubL d a b t => Sys2Proof.Machine.execIsubL d a b t s
  | .imulL d a b t => Sys2Proof.Machine.execImulL d a b t s
  | .imadL d a b c => Sys2Proof.Machine.execImadL d a b c s
  | .idivL d a b t => Sys2Proof.Machine.execIdivL d a b t s
  | .iremL d a b t => Sys2Proof.Machine.execIremL d a b t s
  | .iminL d a b t => Sys2Proof.Machine.execIminL d a b t s
  | .imaxL d a b t => Sys2Proof.Machine.execImaxL d a b t s
  | .andL d a b => Sys2Proof.Machine.execAndL d a b s
  | .orL d a b => Sys2Proof.Machine.execOrL d a b s
  | .xorL d a b => Sys2Proof.Machine.execXorL d a b s
  | .andnL d a b => Sys2Proof.Machine.execAndnL d a b s
  | .shlL d a b t => Sys2Proof.Machine.execShlL d a b t s
  | .shrL d a b t => Sys2Proof.Machine.execShrL d a b t s
  | .rotlL d a b => Sys2Proof.Machine.execRotlL d a b s
  | .bfxL d a b t => Sys2Proof.Machine.execBfxL d a b t s
  | .iaddiL d a m => Sys2Proof.Machine.execIaddiL d a m s
  | .andiL d a m => Sys2Proof.Machine.execAndiL d a m s
  | .oriL d a m => Sys2Proof.Machine.execOriL d a m s
  | .xoriL d a m => Sys2Proof.Machine.execXoriL d a m s
  | .shliL d a m => Sys2Proof.Machine.execShliL d a m s
  | .shriL d a h m => Sys2Proof.Machine.execShriL d a h m s
  | .imuliL d a m => Sys2Proof.Machine.execImuliL d a m s
  | .leaL d a b t => Sys2Proof.Machine.execLeaL d a b t s
  | .bfiL d a b => Sys2Proof.Machine.execBfiL d a b s
  | .popcL d a => Sys2Proof.Machine.execPopcL d a s
  | .clzL d a => Sys2Proof.Machine.execClzL d a s
  | .brevL d a => Sys2Proof.Machine.execBrevL d a s
  | .iabsL d a => Sys2Proof.Machine.execIabsL d a s
  | .selL d a b t => Sys2Proof.Machine.execSelL d a b t s
  | .icmpL p a b c => Sys2Proof.Machine.execIcmpL p a b c s
  | .icmpuL p a b c => Sys2Proof.Machine.execIcmpuL p a b c s
  | .faddL d a b t => Sys2Proof.Machine.execFaddL d a b t s
  | .fsubL d a b t => Sys2Proof.Machine.execFsubL d a b t s
  | .fmulL d a b t => Sys2Proof.Machine.execFmulL d a b t s
  | .ffmaL d a b t c => Sys2Proof.Machine.execFfmaL d a b t c s
  | .fminL d a b t => Sys2Proof.Machine.execFminL d a b t s
  | .fmaxL d a b t => Sys2Proof.Machine.execFmaxL d a b t s
  | .fcmpL p a b c => Sys2Proof.Machine.execFcmpL p a b c s
  | .fcmpxL p a b c => Sys2Proof.Machine.execFcmpxL p a b c s
  | .fspfL d a t => Sys2Proof.Machine.execFspfL d a t s
  | .fsgnL d a b t => Sys2Proof.Machine.execFsgnL d a b t s
  | .hadd2L d a b t => Sys2Proof.Machine.execHadd2L d a b t s
  | .hmul2L d a b t => Sys2Proof.Machine.execHmul2L d a b t s
  | .hfma2L d a b t c => Sys2Proof.Machine.execHfma2L d a b t c s
  | .hmnx2L d a b y t => Sys2Proof.Machine.execHmnx2L d a b y t s
  | .cvtL d a f h m => Sys2Proof.Machine.execCvtL d a f h m s
  | .pkbL d a w n => Sys2Proof.Machine.execPkbL d a w n s
  | .shflL d a b t => Sys2Proof.Machine.execShflL d a b t s
  | .vanyL p q r => Sys2Proof.Machine.execVanyL p q r s
  | .vallL p q r => Sys2Proof.Machine.execVallL p q r s
  | .vbalL d p => Sys2Proof.Machine.execVbalL d p s
  | .redlL d a t => Sys2Proof.Machine.execRedlL d a t s
  | .setpartL x => Sys2Proof.Machine.execSetpartL x s
  | .pandL p q r => Sys2Proof.Machine.execPandL p q r s
  | .porL p q r => Sys2Proof.Machine.execPorL p q r s
  | .pxorL p q r => Sys2Proof.Machine.execPxorL p q r s
  | .pandnL p q r => Sys2Proof.Machine.execPandnL p q r s
  | .prdL d x => Sys2Proof.Machine.execPrdL d x s
  | .pwrL a x => Sys2Proof.Machine.execPwrL a x s
  | .stkrdL p a => Sys2Proof.Machine.execStkrdL p a s
  | .stksetL d a x => Sys2Proof.Machine.execStksetL d a x s
  | .ldL d a z m o => Sys2Proof.Machine.execLdL d a z m o s
  | .stL d a z m o => Sys2Proof.Machine.execStL d a z m o s
  | .ldsL d a z m o => Sys2Proof.Machine.execLdsL d a z m o s
  | .stsL d a z m o => Sys2Proof.Machine.execStsL d a z m o s
  | .ldaqL d a z k o => Sys2Proof.Machine.execLdaqL d a z k o s
  | .strlL d a z k o => Sys2Proof.Machine.execStrlL d a z k o s
  | .atomL d a b t => Sys2Proof.Machine.execAtomL d a b t s
  | .atomsL d a b t => Sys2Proof.Machine.execAtomsL d a b t s
  | .fenceL e k c => Sys2Proof.Machine.execFenceL e k c s
  | .prefL a m o => Sys2Proof.Machine.execPrefL a m o s
  | .iprefL o => Sys2Proof.Machine.execIprefL o s
  | .xlqL d a => Sys2Proof.Machine.execXlqL d a s
  | .stxL d a m o => Sys2Proof.Machine.execStxL d a m o s
  | .ldxL d a m o => Sys2Proof.Machine.execLdxL d a m o s
  | .stcL d a f e o => Sys2Proof.Machine.execStcL d a f e o s
  | .cpaL a b n t y => Sys2Proof.Machine.execCpaL a b n t y s
  | .waittL k => Sys2Proof.Machine.execWaittL k s
  | .tokqL p a c => Sys2Proof.Machine.execTokqL p a c s
  | .mmaf8aL a t => Sys2Proof.Machine.execMmaf8aL a t s
  | .mmaf8bL a t => Sys2Proof.Machine.execMmaf8bL a t s
  | .mmak8L a b n t => Sys2Proof.Machine.execMmak8L a b n t s
  | .mmab16L a t => Sys2Proof.Machine.execMmab16L a t s
  | .mmah16L a t => Sys2Proof.Machine.execMmah16L a t s
  | .mmai8L a t => Sys2Proof.Machine.execMmai8L a t s
  | .accrdL d a f e => Sys2Proof.Machine.execAccrdL d a f e s
  | .accwrL d a => Sys2Proof.Machine.execAccwrL d a s
  | .acczL n => Sys2Proof.Machine.execAcczL n s
  | .accstL a t => Sys2Proof.Machine.execAccstL a t s
  | .pliL d a b t => Sys2Proof.Machine.execPliL d a b t s
  | .plfL d a b t => Sys2Proof.Machine.execPlfL d a b t s
  | .plredL d a t => Sys2Proof.Machine.execPlredL d a t s
  | .regacqWaitL n => Sys2Proof.Machine.execRegacqWaitL n s
  | .regacqTryL p n => Sys2Proof.Machine.execRegacqTryL p n s
  | .regrelL n => Sys2Proof.Machine.execRegrelL n s
  | .migrL k => Sys2Proof.Machine.execMigrL k s
  | .barL n => Sys2Proof.Machine.execBarL n s
  | .arvL d a b => Sys2Proof.Machine.execArvL d a b s
  | .awtL d a b => Sys2Proof.Machine.execAwtL d a b s
  | .brdL d k => Sys2Proof.Machine.execBrdL d k s
  | .bwrL a k => Sys2Proof.Machine.execBwrL a k s
  | .batomL d a o k => Sys2Proof.Machine.execBatomL d a o k s
  | .featqL d x => Sys2Proof.Machine.execFeatqL d x s
  | .chunkL d a => Sys2Proof.Machine.execChunkL d a s
  | .dvtL k => Sys2Proof.Machine.execDvtL k s
  | .nopD => Sys2Proof.Machine.execNopD s
  | .endD => Sys2Proof.Machine.execEndD s
  | .ifenceD => Sys2Proof.Machine.execIfenceD s
  | .genbumpD => Sys2Proof.Machine.execGenbumpD s
  | .ckptD => Sys2Proof.Machine.execCkptD s
  | .haltD => Sys2Proof.Machine.execHaltD s
  | .nopL => Sys2Proof.Machine.execNopL s
  | .endL => Sys2Proof.Machine.execEndL s
  | .ifenceL => Sys2Proof.Machine.execIfenceL s
  | .genbumpL => Sys2Proof.Machine.execGenbumpL s
  | .ckptL => Sys2Proof.Machine.execCkptL s
  | .haltL => Sys2Proof.Machine.execHaltL s
  | .clauseEntry => Sys2Proof.Machine.execClauseEntry s
  | .tokenWaitResume => Sys2Proof.Machine.execTokenWaitResume s
  | .registerGrant => Sys2Proof.Machine.execRegisterGrant s
  | .regDeadlock => Sys2Proof.Machine.execRegDeadlock s
  | .binAgeExpiry => Sys2Proof.Machine.execBinAgeExpiry s
  | .binIssue => Sys2Proof.Machine.execBinIssue s
  | .gangSlotSwap => Sys2Proof.Machine.execGangSlotSwap s
  | .engineLineWrite => Sys2Proof.Machine.execEngineLineWrite s
  | .scratchGranuleLanding => Sys2Proof.Machine.execScratchGranuleLanding s
  | .copyComplete => Sys2Proof.Machine.execCopyComplete s
  | .deferredCopyFault => Sys2Proof.Machine.execDeferredCopyFault s
  | .mmaBlockAdd => Sys2Proof.Machine.execMmaBlockAdd s
  | .accstRowWrite => Sys2Proof.Machine.execAccstRowWrite s
  | .homeAccessArrival => Sys2Proof.Machine.execHomeAccessArrival s
  | .placedPartExecute => Sys2Proof.Machine.execPlacedPartExecute s
  | .reduceStateMerge => Sys2Proof.Machine.execReduceStateMerge s
  | .genbumpComplete => Sys2Proof.Machine.execGenbumpComplete s
  | .portWriteArrival => Sys2Proof.Machine.execPortWriteArrival s
  | .portReadArrival => Sys2Proof.Machine.execPortReadArrival s
  | .peerAtomArrival => Sys2Proof.Machine.execPeerAtomArrival s
  | .faultDelivery => Sys2Proof.Machine.execFaultDelivery s
  | .launchEndWithCause => Sys2Proof.Machine.execLaunchEndWithCause s
  | .preemption => Sys2Proof.Machine.execPreemption s
  | .crewRestore => Sys2Proof.Machine.execCrewRestore s
  | .firmwareCheckpoint => Sys2Proof.Machine.execFirmwareCheckpoint s
  | .migration => Sys2Proof.Machine.execMigration s
  | .returnTrap => Sys2Proof.Machine.execReturnTrap s
  | .crewPlacement => Sys2Proof.Machine.execCrewPlacement s
  | .carveOutChange => Sys2Proof.Machine.execCarveOutChange s
  | .notify => Sys2Proof.Machine.execNotify s
  | .packetTake => Sys2Proof.Machine.execPacketTake s
  | .launch => Sys2Proof.Machine.execLaunch s
  | .cmdblock => Sys2Proof.Machine.execCmdblock s
  | .copy => Sys2Proof.Machine.execCopy s
  | .fill => Sys2Proof.Machine.execFill s
  | .signal => Sys2Proof.Machine.execSignal s
  | .waitsig => Sys2Proof.Machine.execWaitsig s
  | .waitsigReevaluate => Sys2Proof.Machine.execWaitsigReevaluate s
  | .nopPacket => Sys2Proof.Machine.execNopPacket s
  | .launchCompletionSignal => Sys2Proof.Machine.execLaunchCompletionSignal s
  | .thaw => Sys2Proof.Machine.execThaw s
  | .abandon => Sys2Proof.Machine.execAbandon s
  | .graphKick => Sys2Proof.Machine.execGraphKick s
  | .graphNodeCompletion => Sys2Proof.Machine.execGraphNodeCompletion s
  | .pairComparison => Sys2Proof.Machine.execPairComparison s
  | .protectedRollback => Sys2Proof.Machine.execProtectedRollback s
  | .unitSelfTest => Sys2Proof.Machine.execUnitSelfTest s
  | .islandClockChange => Sys2Proof.Machine.execIslandClockChange s
  | .powerCapSet => Sys2Proof.Machine.execPowerCapSet s
  | .thermalLimit => Sys2Proof.Machine.execThermalLimit s
  | .attestationReport => Sys2Proof.Machine.execAttestationReport s
  | .asidKeyInit => Sys2Proof.Machine.execAsidKeyInit s
  | .baseRegisterWrite => Sys2Proof.Machine.execBaseRegisterWrite s
  | .registerWrite => Sys2Proof.Machine.execRegisterWrite s
  | .moduleReset => Sys2Proof.Machine.execModuleReset s
  | .bringUp => Sys2Proof.Machine.execBringUp s
  | .dieCooled => Sys2Proof.Machine.execDieCooled s
  | .hostAcknowledgement => Sys2Proof.Machine.execHostAcknowledgement s
  | .graphRegistration => Sys2Proof.Machine.execGraphRegistration s

end Sys2Proof.Machine
end

