-- ==== Sys2Proof/Machine/Step.lean ====
section
/-!
DEFINITION. One step of the module, and the state in which a given instruction is the next to run.
-/
namespace Sys2Proof.Machine

/-- One step: the turn that stands, else one of the enabled moves, made whole (R32). -/
def step (s : State) : Host.Outcome State Fault Refusal :=
  match s.move with
  | (t, some i) => exec i t
  | (t, none) => .next t

/-- The state with an instruction, as the opcode table numbers its bits, about to be issued: one D word where it has at most
32 bits, else an L doubleword, the extension word first (R46). Log 15. -/
def State.withFetchWord (s : State) (nbits w : Nat) : State :=
  if nbits ≤ 32 then s.placeWords .density [BitVec.ofNat 32 w]
  else s.placeWords .latency [BitVec.ofNat 32 w, BitVec.ofNat 32 (w / 2 ^ 32)]

end Sys2Proof.Machine
end

