-- ==== Sys2Proof/Safety.lean ====
section
/-!
DEFINITION. The terms that statements about the machine use: what every step keeps, when an instruction's own effect runs,
and what a step may change beside that effect.
-/
namespace Sys2Proof.Machine

/-! ## What every step keeps -/

/-- Physical memory is in its canonical form: addresses strictly rising, no entry equal to an unlisted byte. -/
def State.MemoryCanonical (s : State) : Prop := Memory.wf s.mem = true

/-- Every other sparse part of the state is in its canonical form: keys strictly rising, no entry equal to what an unlisted
key reads as. -/
def State.ListsCanonical (s : State) : Prop :=
  swf CoreSt.reset s.cores = true ∧ swf QueueSt.fresh s.queues = true ∧ swf GraphSt.fresh s.graphs = true
    ∧ swf 0 s.gens = true ∧ swf none s.spaces = true ∧ swf none s.traps = true ∧ swf none s.l2 = true ∧ swf 0 s.encOwner = true
    ∧ swf 0 s.aon.other = true
    ∧ ∀ k ∈ s.crews, Memory.wf k.scr = true ∧ swf Reg.zero k.tiles = true

/-- Memory and every other sparse part are in their canonical form. -/
def State.Canonical (s : State) : Prop := s.MemoryCanonical ∧ s.ListsCanonical

/-! ## When an instruction's own effect runs -/

/-- No register that the instruction reads or writes holds an error in an active lane, in its value or its S bit (R337); of the
registers that an instruction reads which reads no S, the value alone counts. -/
abbrev registersSound (c : Ctx) (i : Instr) (s : State) : Prop :=
  ∀ p ∈ c.act,
    (∀ r ∈ numbersOf (c.sources i), s.rel.poison.contains (.register c.u.crew p r) = false
      ∧ (i.ignoresS = true ∨ s.rel.poison.contains (.sticky c.u.crew p r) = false)
      ∧ s.rel.correctable.contains (.register c.u.crew p r) = false)
    ∧ ∀ r ∈ numbersOf (c.targets i), s.rel.poison.contains (.register c.u.crew p r) = false
      ∧ s.rel.poison.contains (.sticky c.u.crew p r) = false
      ∧ s.rel.correctable.contains (.register c.u.crew p r) = false
      ∧ s.rel.correctable.contains (.sticky c.u.crew p r) = false

/-- The unit whose turn it is issues the instruction and nothing stands before its own effect: no fault or wait is pending
(R43, R183, R258, R290, R359), and the checks that every instruction shares pass (R60, R264, R337). `c` is the unit as the
instruction sees it. -/
abbrev Ready (i : Instr) (s : State) (u : UnitId) (pf : Prefix) (c : Ctx) : Prop :=
  s.turn = some (.issue u pf) ∧ s.ctx? u pf = some c
    ∧ c.loosePending = []
    ∧ c.tokenWait pf (c.fibre (c.all.headD 0)).hdrWord s = none
    ∧ c.mustStop = false
    ∧ c.stalled i = false
    ∧ i.encFault pf = none
    ∧ ((c.fibre (c.all.headD 0)).rep.map (stepFault i.info)).getD false = false
    ∧ (∀ o ∈ c.operands i.info, (o.1.num + o.2) % o.1.align = 0)
    ∧ (i.info.loose = true → ∀ p ∈ c.all, (c.fibre p).bound = true)
    ∧ (i.info.priv = true → ∀ p ∈ c.all, (c.fibre p).priv = true)
    ∧ (∀ p ∈ c.act, Instr.tooWide c.kind i = false ∧ ∀ o ∈ c.operands i.info, outside o.1 o.2 (c.fibre p) = false)
    ∧ (c.kind = .sequencer → i.info.seq = true)
    ∧ registersSound c i s

/-! ## What a step may change beside an instruction's effect -/

/-- A fibre without the marks of its progress: where it stands, which sub-gang or bin it is in, what it waits for, its REP,
its dovetail marker, its part in a placed operation, which of its loads may yet return a later write, when it last issued. What is left is what an instruction's effect may change: registers, S bits, predicates, partition code,
window, counter latch, life. -/
def Fibre.face (f : Fibre) : Fibre :=
  { f with pc := 0, hdr := 0, hdrWord := 0, clause := [], sub := 0, bin := none, rep := none, wait := .none, waited := false,
           nextLane := 0, accepted := none, late := [], passed := false, didx := 0, dcount := 0, behind := 0, issuedAt := 0 }

/-- Fibre at a place of a crew. -/
def State.fibreAt (s : State) (c p : Nat) : Fibre := ((s.crews[c]?).map fun k => k.fibre p).getD Fibre.empty

/-- A fibre past its instruction: it stands at the next word, or still at this one while a REP has repeats left (R56). -/
def nextPcOf (k : Kind) (f : Fibre) : Word :=
  match f.rep with
  | some r => if r.k + 1 < r.count then f.pc else f.pc + BitVec.ofNat 32 k.step
  | none => f.pc + BitVec.ofNat 32 k.step

/-- `t` is `s` one step later but for the marks of progress of one crew's fibres, its bins, and what `g` does to the fibre at
each place. Everything else of the state is unchanged: memory, caches, special registers, accumulators, barriers, tokens,
other crews, queues, launches, the module. -/
def Only (s t : State) (c : Nat) (g : Nat → Fibre → Fibre) : Prop :=
  t.now = s.now + 1 ∧ t.turn = none
    ∧ { t with crews := s.crews, now := s.now, turn := s.turn } = s
    ∧ t.crews.length = s.crews.length
    ∧ (∀ j, j ≠ c → t.crews[j]? = s.crews[j]?)
    ∧ ∃ k k', s.crews[c]? = some k ∧ t.crews[c]? = some k' ∧ { k' with fibres := k.fibres, bins := k.bins } = k
        ∧ k'.fibres.length = k.fibres.length
        ∧ ∀ p, p < k.fibres.length → (k'.fibre p).face = (g p (k.fibre p)).face

/-- Every fibre of the unit goes on at Next (R43, R56). -/
def GoesOn (t : State) (c : Ctx) : Prop := ∀ p ∈ c.all, (t.fibreAt c.u.crew p).pc = nextPcOf c.kind (c.fibre p)

/-- Wherever its own effect runs, the instruction completes: every active fibre is changed by `g`, nothing else is, and every
fibre of the unit goes on at Next. -/
def Does (i : Instr) (g : Ctx → Nat → Fibre → Fibre) : Prop :=
  ∀ s u pf c, Ready i s u pf c →
    ∃ t, exec i s = .next t ∧ Only s t u.crew (fun p f => if p ∈ c.act then g c p f else f) ∧ GoesOn t c

/-- The same where every live fibre of the unit takes part, whatever a guard says (R50). -/
def DoesAll (i : Instr) (g : Ctx → Nat → Fibre → Fibre) : Prop :=
  ∀ s u pf c, Ready i s u pf c →
    ∃ t, exec i s = .next t ∧ Only s t u.crew (fun p f => if p ∈ c.all then g c p f else f) ∧ GoesOn t c

/-- Wherever its own effect runs and `pre` holds, the instruction completes: the state after is `x` but for one crew's marks
of progress and what `g` does to the fibre at each of its places, and every fibre of the unit goes on at Next. -/
def Answers (i : Instr) (pre : Ctx → State → Prop) (x : Ctx → State → State) (g : Ctx → State → Nat → Fibre → Fibre) : Prop :=
  ∀ s u pf c, Ready i s u pf c → pre c s →
    ∃ t, exec i s = .next t ∧ Only (x c s) t u.crew (g c s) ∧ GoesOn t c

/-- The same, what orders and hides the accesses of fibres aside (R134 to R145): `past`, `pastScr` and `sync` hold that. -/
def AnswersSeen (i : Instr) (pre : Ctx → State → Prop) (x : Ctx → State → State) (g : Ctx → State → Nat → Fibre → Fibre) :
    Prop :=
  ∀ s u pf c, Ready i s u pf c → pre c s →
    ∃ t, exec i s = .next t ∧ Only { x c s with past := t.past, pastScr := t.pastScr, sync := t.sync } t u.crew (g c s) ∧ GoesOn t c

/-- The active fibres of a unit stand at their targets, the others at Next (R68). -/
def GoesTo (t : State) (c : Ctx) (target : Nat → Word) : Prop :=
  ∀ p ∈ c.all, (t.fibreAt c.u.crew p).pc = if p ∈ c.act then target p else nextPcOf c.kind (c.fibre p)

/-- Every fibre of the unit waits at its instruction for the reason given. -/
def WaitsFor (t : State) (c : Ctx) (w : Wait) : Prop :=
  ∀ p ∈ c.all, (t.fibreAt c.u.crew p).wait = w ∧ (t.fibreAt c.u.crew p).pc = (c.fibre p).pc

/-- It is an event's turn, with its arguments: it completes, and the state after is the one given, one step later (R32). -/
def Event (i : Instr) (pre : EvArg → State → Prop) (x : EvArg → State → State) : Prop :=
  ∀ a s, s.turn = some (.event i a) → pre a s → exec i s = .next { x a s with now := (x a s).now + 1, turn := none }

/-- The same for the two texts of an instruction with fields d, a, b. -/
def Both3 (D : BitVec 6 → BitVec 6 → BitVec 6 → Instr) (L : BitVec 8 → BitVec 8 → BitVec 8 → Instr)
    (g : Ctx → Nat → Nat → Nat → Nat → Fibre → Fibre) : Prop :=
  (∀ d a b, Does (D d a b) fun c => g c (c.d d) (c.a a) (c.b b))
    ∧ ∀ d a b, Does (L d a b) fun c => g c (c.d d) (c.a a) (c.b b)

/-- The same for the two texts of an instruction with fields d and a. -/
def Both2 (D : BitVec 6 → BitVec 6 → Instr) (L : BitVec 8 → BitVec 8 → Instr)
    (g : Ctx → Nat → Nat → Nat → Fibre → Fibre) : Prop :=
  (∀ d a, Does (D d a) fun c => g c (c.d d) (c.a a)) ∧ ∀ d a, Does (L d a) fun c => g c (c.d d) (c.a a)

/-! ## Accesses to memory -/

/-- A loaded value put into its registers by its size code: zero-extended, or sign-extended for codes 5 and 6, S = 0. -/
def loaded (z : BitVec 3) (d : Nat) (bs : List Byte) (f : Fibre) : Fibre :=
  let plain := fun (n : Nat) (v : Nat) (f : Fibre) => f.setReg n { val := BitVec.ofNat 32 v, s := false }
  match z.toNat with
  | 3 => plain (d + 1) (leNat (bs.drop 4)) (plain d (leNat (bs.take 4)) f)
  | 4 => plain (d + 3) (leNat (bs.drop 12)) (plain (d + 2) (leNat ((bs.drop 8).take 4))
      (plain (d + 1) (leNat ((bs.drop 4).take 4)) (plain d (leNat (bs.take 4)) f)))
  | 5 => f.setReg d { val := (BitVec.ofNat 8 (leNat bs)).signExtend 32, s := false }
  | 6 => f.setReg d { val := (BitVec.ofNat 16 (leNat bs)).signExtend 32, s := false }
  | _ => plain d (leNat bs) f

/-- Bytes of a size code: 1, 2, 4, 8, 16, then 1 and 2 again. -/
def widthOf (z : BitVec 3) : Nat :=
  match z.toNat with
  | 0 => 1
  | 1 => 2
  | 2 => 4
  | 3 => 8
  | 4 => 16
  | 5 => 1
  | 6 => 2
  | _ => 4

/-- The little-endian bytes that a store of a size code takes from register d up, its low bytes first. -/
def stored (z : BitVec 3) (d : Nat) (f : Fibre) : List Byte :=
  (leBytes 4 (f.val d).toNat ++ leBytes 4 (f.val (d + 1)).toNat ++ leBytes 4 (f.val (d + 2)).toNat
    ++ leBytes 4 (f.val (d + 3)).toNat).take (widthOf z)

/-- The physical address of a translated access. -/
def placeOf (g : GAccess × Translation) : Nat := g.2.pa (va48 g.1.ea)

/-- The accesses reach ordinary memory as it stands: no device window, no line owned by an engine, no partial or error
pending, no page under a key, no paired crew, aligned places, no write that the fibre need not see yet, and the core's L1 agrees
with memory. -/
def PlainReads (s : State) (c : Ctx) (n : Nat) (ts : List (GAccess × Translation)) : Prop :=
  c.crew.pair = none ∧ s.partials = [] ∧ s.rel.poison = [] ∧ s.rel.correctable = []
    ∧ (∀ g ∈ ts, inMmio (placeOf g) = false ∧ s.owned (placeOf g / 64) = false ∧ g.2.enc = false ∧ placeOf g % n = 0
        ∧ ∀ e ∈ s.past, e.meets none (placeOf g) n = true → e.missable s.now c.core (c.u.crew, g.1.idx) = false)
    ∧ ∀ l ∈ (s.coreAt c.core).l1, l.data = s.bytes (64 * l.line) 64

/-- No WAITSIG waits, so that no write is an event for a queue (R318). -/
def State.noWatch (s : State) : Prop := ∀ q ∈ s.queues, ∀ m ∈ q.2.packets, m.watched = none

/-- A state with what walks leave in another: A and D bits and log entries in memory, cached translations, partials merged, keys taken,
free values drawn (R98, R100, R105, R114). -/
def State.walked (s t : State) : State :=
  { s with mem := t.mem, cores := t.cores, draws := t.draws, past := t.past, partials := t.partials, encOwner := t.encOwner }

/-- The entries of the tables in which a translation of a VA that reads may set bits: the leaves that its walk uses, and the stage-2 leaves
that it uses though it fails (R98, R100). -/
def State.entriesOf (s : State) (asid va : Nat) (need : Need) : List Nat :=
  s.stage2Used asid va need ++ match s.walk asid va need with
    | .ok w => w.used
    | .error _ => []

/-- An address outside the tables of address spaces and of queues, in which some bytes are the device's to write (R102, R310). -/
def State.outsideTables (s : State) (a : Nat) : Prop :=
  (∀ t, s.table? 0 = some t → ¬ (t ≤ a ∧ a < t + 64 * 4096)) ∧ ∀ t, s.table? 2 = some t → ¬ (t ≤ a ∧ a < t + 256 * 4096)

/-- Nobody but its writer awaits a write of `n` bytes: no WAITSIG watches its line (R318), and no load of another fibre there is still
unused, which might return it (R134). -/
def State.unawaited (s : State) (q : FibreId) (pa n : Nat) : Prop :=
  (∀ x ∈ s.queues, ∀ p ∈ x.2.packets, ∀ w, p.watched = some w → meetsRange pa n (w.pa / 64 * 64) 64 = false)
    ∧ ∀ e ∈ s.sync.early, e.scratch = false → meetsRange pa n e.place e.len = true → e.fibre = q

/-- The same of accesses that write `n` bytes: no device window or table, no owned line, no partial, key or snapshot, no error in
storage, no paired crew, nobody awaits them, and no write there that their fibre need not see yet, which might follow its own (R134). -/
def PlainWrites (s : State) (c : Ctx) (n : Nat) (ts : List (GAccess × Translation)) : Prop :=
  c.crew.pair = none ∧ s.partials = [] ∧ s.rel.poison = []
    ∧ ∀ g ∈ ts, inMmio (placeOf g) = false ∧ s.owned (placeOf g / 64) = false ∧ g.2.enc = false ∧ g.2.snapshot = false
        ∧ s.unawaited (c.u.crew, g.1.idx) (placeOf g) n
        ∧ (∀ e ∈ s.past, e.meets none (placeOf g) n = true → e.missable s.now c.core (c.u.crew, g.1.idx) = false)
        ∧ ∀ a, placeOf g ≤ a → a < placeOf g + n → s.outsideTables a

/-- A load of `n` bytes in every active lane completes wherever its checks pass and its accesses are plain: each active fibre
takes in the bytes of its place, and beside what translation has cached, the core's L1 and slots, the L2, what orders and hides accesses
and the count of free values nothing else changes. `enter` is what happens before the checks. -/
def Loads (i : Instr) (enter : Ctx → State → State) (base : Ctx → Nat) (off : Int) (n : Nat)
    (put : Ctx → List Byte → Fibre → Fibre) : Prop :=
  ∀ s u pf c s' ts, Ready i s u pf c → s.Canonical →
    c.checkGlobal { priv := c.priv } n (c.globalLanes (base c) off n) (enter c (c.start pf s)) = .ok (s', ts) →
    PlainReads s' c n ts →
    ∃ t, exec i s = .next t ∧ GoesOn t c
      ∧ Only
          { s' with
            cores := t.cores, l2 := t.l2, l2Next := t.l2Next, past := t.past, pastScr := t.pastScr, sync := t.sync, draws := t.draws }
          t u.crew fun p f => match ts.find? fun g => g.1.idx == p with
          | some g => put c (s'.bytes (placeOf g) n) f
          | none => f

/-- A store of `n` bytes in every active lane completes wherever its checks pass, its accesses are plain and `pre` holds: the
bytes of each lane stand at its place, the highest lane's where places meet; every other byte reads as before; no register
changes. `enter` is what happens before the checks. -/
def Stores (i : Instr) (enter : Ctx → State → State) (pre : Ctx → State → Prop) (base : Ctx → Nat) (off : Int) (n : Nat)
    (data : Ctx → Fibre → List Byte) : Prop :=
  ∀ s u pf c s' ts, Ready i s u pf c → s.Canonical → pre c s →
    c.checkGlobal { write := true, priv := c.priv } n (c.globalLanes (base c) off n) (enter c (c.start pf s)) = .ok (s', ts) →
    PlainWrites s' c n ts →
    ∃ t, exec i s = .next t ∧ GoesOn t c
      ∧ Only
          { s' with
            mem := t.mem, cores := t.cores, l2 := t.l2, l2Next := t.l2Next, past := t.past, pastScr := t.pastScr, sync := t.sync }
          t u.crew (fun _ f => f)
      ∧ t.mem = (ts.foldl (fun u g => u.store (placeOf g) (data c (c.fibre g.1.idx))) s').mem
      ∧ ∀ a, (∀ g ∈ ts, ¬ (placeOf g ≤ a ∧ a < placeOf g + n)) → t.byte a = s'.byte a

/-- The scratchpad address of a lane's access, and that it is aligned and inside the crew's scratchpad without an error. -/
def scratchAt (c : Ctx) (a : Nat) (off : Int) (n p : Nat) : Nat := ((c.fibre p).val a + BitVec.ofInt 32 (off * n)).toNat

/-- Every active lane's scratchpad access of `n` bytes is aligned, inside, and meets no error, and the unit stands at its
first lane. -/
def ScratchReady (c : Ctx) (a : Nat) (off : Int) (n : Nat) (s : State) : Prop :=
  (c.fibre (c.all.headD 0)).nextLane = 0 ∧ s.rel.correctable = []
    ∧ ∀ p ∈ c.act, scratchAt c a off n p % n = 0 ∧ c.crew.scrBase ≤ scratchAt c a off n p
        ∧ scratchAt c a off n p + n ≤ c.crew.scrBase + c.crew.desc.scrSize
        ∧ s.scrError c.u.crew (scratchAt c a off n p - c.crew.scrBase) n = false

/-- No fibre but its writer has an unused load of `n` bytes of a crew's scratchpad, which might return a write there (R134). -/
def State.scratchUnawaited (s : State) (q : FibreId) (off n : Nat) : Prop :=
  ∀ e ∈ s.sync.early, e.scratch = true → e.fibre.1 = q.1 → meetsRange off n e.place e.len = true → e.fibre = q

/-- What an atomic makes of the old value: add, signed min and max, and, or, xor, exchange, compare and swap. -/
def atomicResult (op : Nat) (old b cmp : Word) : Word :=
  if op = 0 then old + b else if op = 1 then (if BitVec.slt b old then b else old)
  else if op = 2 then (if BitVec.slt old b then b else old) else if op = 3 then old &&& b else if op = 4 then old ||| b
  else if op = 5 then old ^^^ b else if op = 6 then b else if old = cmp then b else old

/-- A register of 32 bits and its S bit. -/
def regOf (v : Word) (s : Bool) : Reg := { val := v, s := s }

end Sys2Proof.Machine
end

