-- ==== Sys2Proof/WellFormed.lean ====
section
/-!
DEFINITION. Well-formed instructions: what an encoding can carry and what raises neither ILLEGAL-OP nor ILLEGAL-FIELD
when it issues (04 R46 to R52, R57 to R60).
-/
namespace Sys2Proof

/-- The prefix fits the text's encoding: D has no WMASK and no LAND of its own and guards with p0 to p7; a form without a
guard field has the plain guard; DVT has no WMASK (R46, R47, R50, R51). -/
def prefixFits (pf : Prefix) (i : Instr) : Bool :=
  (i.info.text == .l || (pf.wait == 0 && !pf.land && decide (pf.guard.toNat < 8)))
    && (!i.info.bare || (pf.guard == 0 && !pf.neg))
    && (match i with
      | .dvtL _ => pf.wait == 0
      | _ => true)

/-- The instruction has an encoding with this prefix, and that encoding raises no fault by itself. -/
abbrev WellFormed (pf : Prefix) (i : Instr) : Prop :=
  i.info.text ≠ .event ∧ prefixFits pf i = true ∧ i.encFault pf = none

end Sys2Proof
end

