-- ==== Sys2Proof/Certificates/Slice0/Obligations.lean ====
section
/-!
DEFINITION. What is to be proved of the model.
-/
open Sys2Proof Sys2Proof.Machine

/-- For every state in which the instruction is ready: NOP changes nothing; MOVI writes the sign-extended imm19 with S = 0
and MOVHI bits [31:19] alone, in every live fibre of the sub-gang whatever a guard says; MOV copies a to d in every
active lane with S kept (s = 0) or cleared (s = 1). Nothing else changes and control goes on at Next. MOV with s of 2
to 7 is the ILLEGAL-OP encoding. Both texts. (R64) -/
def Obligations.MovesWriteAsSaid : Prop :=
  (Does .nopD fun _ _ f => f) ∧ (Does .nopL fun _ _ f => f)
  ∧ (∀ d i, DoesAll (.moviD d i) fun c _ f => f.setReg (c.d d) (regOf (i.signExtend 32) false))
  ∧ (∀ d i, DoesAll (.moviL d i) fun c _ f => f.setReg (c.d d) (regOf (i.signExtend 32) false))
  ∧ (∀ d i, DoesAll (.movhiD d i) fun c _ f => f.setReg (c.d d) (regOf (i ++ (f.val (c.d d)).extractLsb' 0 19) (f.sbit (c.d d))))
  ∧ (∀ d i, DoesAll (.movhiL d i) fun c _ f => f.setReg (c.d d) (regOf (i ++ (f.val (c.d d)).extractLsb' 0 19) (f.sbit (c.d d))))
  ∧ Both2 (.movD · · 0) (.movL · · 0) (fun _ d a _ f => f.setReg d (regOf (f.val a) (f.sbit a)))
  ∧ Both2 (.movD · · 1) (.movL · · 1) (fun _ d a _ f => f.setReg d (regOf (f.val a) false))
  ∧ (∀ d a s pf, 2 ≤ s.toNat → (Instr.movD d a s).encFault pf = some .illegalOp)
  ∧ (∀ d a s pf, 2 ≤ s.toNat → (Instr.movL d a s).encFault pf = some .illegalOp)

/-- Wherever it is ready, IADD writes a + b and ISUB a − b to d in every active lane: wrapped to 32 bits; on pairs wrapped
to 64 bits with one S for both halves; clamped to the signed or to the unsigned 32-bit range, a clamp setting S as
well. IADDI adds the sign-extended imm9. S is the OR of the S bits read. Nothing else changes. Both texts. (R74) -/
def Obligations.AddAndSubtract : Prop :=
  Both3 (.iaddD · · · 0) (.iaddL · · · 0) (fun _ d a b _ f => f.setReg d (regOf (f.val a + f.val b) (f.sbit a || f.sbit b)))
  ∧ Both3 (.iaddD · · · 1) (.iaddL · · · 1) (fun _ d a b _ f => f.setPair d (f.pair a + f.pair b)
      (f.sbit a || f.sbit (a + 1) || f.sbit b || f.sbit (b + 1)))
  ∧ Both3 (.iaddD · · · 2) (.iaddL · · · 2) (fun _ d a b _ f =>
      let x := (f.val a).toInt + (f.val b).toInt
      f.setReg d (regOf (BitVec.ofInt 32 (max (-2 ^ 31) (min (2 ^ 31 - 1) x)))
        (f.sbit a || f.sbit b || decide (x < -2 ^ 31) || decide (2 ^ 31 - 1 < x))))
  ∧ Both3 (.iaddD · · · 3) (.iaddL · · · 3) (fun _ d a b _ f =>
      let x := (f.val a).toNat + (f.val b).toNat
      f.setReg d (regOf (BitVec.ofNat 32 (min (2 ^ 32 - 1) x)) (f.sbit a || f.sbit b || decide (2 ^ 32 - 1 < x))))
  ∧ Both3 (.isubD · · · 0) (.isubL · · · 0) (fun _ d a b _ f => f.setReg d (regOf (f.val a - f.val b) (f.sbit a || f.sbit b)))
  ∧ Both3 (.isubD · · · 1) (.isubL · · · 1) (fun _ d a b _ f => f.setPair d (f.pair a - f.pair b)
      (f.sbit a || f.sbit (a + 1) || f.sbit b || f.sbit (b + 1)))
  ∧ Both3 (.isubD · · · 2) (.isubL · · · 2) (fun _ d a b _ f =>
      let x := (f.val a).toInt - (f.val b).toInt
      f.setReg d (regOf (BitVec.ofInt 32 (max (-2 ^ 31) (min (2 ^ 31 - 1) x)))
        (f.sbit a || f.sbit b || decide (x < -2 ^ 31) || decide (2 ^ 31 - 1 < x))))
  ∧ Both3 (.isubD · · · 3) (.isubL · · · 3) (fun _ d a b _ f =>
      f.setReg d (regOf (if (f.val a).toNat < (f.val b).toNat then 0 else f.val a - f.val b)
        (f.sbit a || f.sbit b || decide ((f.val a).toNat < (f.val b).toNat))))
  ∧ (∀ i, Both2 (.iaddiD · · i) (.iaddiL · · i) fun _ d a _ f => f.setReg d (regOf (f.val a + i.signExtend 32) (f.sbit a)))

/-- Wherever it is ready, IMUL writes the low 32 bits of a × b, the high 32 bits of the signed or of the unsigned product,
or the low 64 bits of the product of pairs; IMAD writes the low 32 bits of a × b + c, with c = d in D; IMULI
multiplies by the sign-extended imm9. S is the OR of the S bits read. Nothing else changes. Both texts. (R75) -/
def Obligations.Multiply : Prop :=
  Both3 (.imulD · · · 0) (.imulL · · · 0) (fun _ d a b _ f => f.setReg d (regOf (f.val a * f.val b) (f.sbit a || f.sbit b)))
  ∧ Both3 (.imulD · · · 1) (.imulL · · · 1) (fun _ d a b _ f => f.setReg d
      (regOf (((f.val a).signExtend 64 * (f.val b).signExtend 64).extractLsb' 32 32) (f.sbit a || f.sbit b)))
  ∧ Both3 (.imulD · · · 2) (.imulL · · · 2) (fun _ d a b _ f => f.setReg d
      (regOf (((f.val a).setWidth 64 * (f.val b).setWidth 64).extractLsb' 32 32) (f.sbit a || f.sbit b)))
  ∧ Both3 (.imulD · · · 3) (.imulL · · · 3) (fun _ d a b _ f => f.setPair d (f.pair a * f.pair b)
      (f.sbit a || f.sbit (a + 1) || f.sbit b || f.sbit (b + 1)))
  ∧ (∀ d a b, Does (.imadD d a b) fun c _ f => f.setReg (c.d d)
      (regOf (f.val (c.a a) * f.val (c.b b) + f.val (c.d d)) (f.sbit (c.a a) || f.sbit (c.b b) || f.sbit (c.d d))))
  ∧ (∀ d a b e, Does (.imadL d a b e) fun c _ f => f.setReg (c.d d)
      (regOf (f.val (c.a a) * f.val (c.b b) + f.val (c.c e)) (f.sbit (c.a a) || f.sbit (c.b b) || f.sbit (c.c e))))
  ∧ (∀ i, Both2 (.imuliD · · i) (.imuliL · · i) fun _ d a _ f => f.setReg d (regOf (f.val a * i.signExtend 32) (f.sbit a)))

/-- Wherever it is ready, IDIV writes the quotient truncated toward zero and IREM the remainder with the sign of the
dividend, as signed or unsigned 32-bit division gives them; for b = 0 the quotient is 0xFFFF_FFFF and the remainder a;
INT_MIN / −1 is INT_MIN with remainder 0. It always completes: no case traps. Nothing else changes. Both texts. (R76,
R62, 05) -/
def Obligations.DivideWithoutTraps : Prop :=
  Both3 (.idivD · · · 0) (.idivL · · · 0) (fun _ d a b _ f => f.setReg d
      (regOf (if f.val b = 0 then 0xFFFFFFFF else BitVec.sdiv (f.val a) (f.val b)) (f.sbit a || f.sbit b)))
  ∧ Both3 (.idivD · · · 1) (.idivL · · · 1) (fun _ d a b _ f => f.setReg d
      (regOf (if f.val b = 0 then 0xFFFFFFFF else f.val a / f.val b) (f.sbit a || f.sbit b)))
  ∧ Both3 (.iremD · · · 0) (.iremL · · · 0) (fun _ d a b _ f => f.setReg d
      (regOf (if f.val b = 0 then f.val a else BitVec.srem (f.val a) (f.val b)) (f.sbit a || f.sbit b)))
  ∧ Both3 (.iremD · · · 1) (.iremL · · · 1) (fun _ d a b _ f => f.setReg d
      (regOf (if f.val b = 0 then f.val a else f.val a % f.val b) (f.sbit a || f.sbit b)))

/-- Wherever it is ready, IMIN writes the lesser and IMAX the greater of a and b, compared as signed or unsigned; AND, OR,
XOR and ANDN write a AND b, a OR b, a XOR b and a AND NOT b; ANDI, ORI and XORI use the sign-extended imm9. S is the
OR of the S bits read. Nothing else changes. Both texts. (R77, R78) -/
def Obligations.LesserGreaterAndLogic : Prop :=
  Both3 (.iminD · · · 0) (.iminL · · · 0) (fun _ d a b _ f => f.setReg d
      (regOf (if BitVec.slt (f.val b) (f.val a) then f.val b else f.val a) (f.sbit a || f.sbit b)))
  ∧ Both3 (.iminD · · · 1) (.iminL · · · 1) (fun _ d a b _ f => f.setReg d
      (regOf (if BitVec.ult (f.val b) (f.val a) then f.val b else f.val a) (f.sbit a || f.sbit b)))
  ∧ Both3 (.imaxD · · · 0) (.imaxL · · · 0) (fun _ d a b _ f => f.setReg d
      (regOf (if BitVec.slt (f.val a) (f.val b) then f.val b else f.val a) (f.sbit a || f.sbit b)))
  ∧ Both3 (.imaxD · · · 1) (.imaxL · · · 1) (fun _ d a b _ f => f.setReg d
      (regOf (if BitVec.ult (f.val a) (f.val b) then f.val b else f.val a) (f.sbit a || f.sbit b)))
  ∧ Both3 (.andD · · ·) (.andL · · ·) (fun _ d a b _ f => f.setReg d (regOf (f.val a &&& f.val b) (f.sbit a || f.sbit b)))
  ∧ Both3 (.orD · · ·) (.orL · · ·) (fun _ d a b _ f => f.setReg d (regOf (f.val a ||| f.val b) (f.sbit a || f.sbit b)))
  ∧ Both3 (.xorD · · ·) (.xorL · · ·) (fun _ d a b _ f => f.setReg d (regOf (f.val a ^^^ f.val b) (f.sbit a || f.sbit b)))
  ∧ Both3 (.andnD · · ·) (.andnL · · ·) (fun _ d a b _ f => f.setReg d (regOf (f.val a &&& ~~~(f.val b)) (f.sbit a || f.sbit b)))
  ∧ (∀ i, Both2 (.andiD · · i) (.andiL · · i) fun _ d a _ f => f.setReg d (regOf (f.val a &&& i.signExtend 32) (f.sbit a)))
  ∧ (∀ i, Both2 (.oriD · · i) (.oriL · · i) fun _ d a _ f => f.setReg d (regOf (f.val a ||| i.signExtend 32) (f.sbit a)))
  ∧ (∀ i, Both2 (.xoriD · · i) (.xoriL · · i) fun _ d a _ f => f.setReg d (regOf (f.val a ^^^ i.signExtend 32) (f.sbit a)))

/-- Wherever it is ready, SHL shifts left and SHR right by v[b] mod 32, or on pairs mod 64 with a single count register;
SHR fills with zeros (s = 0, 2) or copies of the sign (s = 1, 3); ROTL rotates left by v[b] mod 32; SHLI and SHRI
shift by imm9[4:0], SHRI filling with the sign when imm9[5] = 1. A count of 0 returns a. S is the OR of the S bits
read. Nothing else changes. Both texts. (R79) -/
def Obligations.ShiftsAndRotates : Prop :=
  Both3 (.shlD · · · 0) (.shlL · · · 0) (fun _ d a b _ f => f.setReg d
      (regOf (f.val a <<< ((f.val b).toNat % 32)) (f.sbit a || f.sbit b)))
  ∧ Both3 (.shlD · · · 1) (.shlL · · · 1) (fun _ d a b _ f => f.setPair d
      (f.pair a <<< ((f.val b).toNat % 64)) (f.sbit a || f.sbit (a + 1) || f.sbit b))
  ∧ Both3 (.shrD · · · 0) (.shrL · · · 0) (fun _ d a b _ f => f.setReg d
      (regOf (f.val a >>> ((f.val b).toNat % 32)) (f.sbit a || f.sbit b)))
  ∧ Both3 (.shrD · · · 1) (.shrL · · · 1) (fun _ d a b _ f => f.setReg d
      (regOf ((f.val a).sshiftRight ((f.val b).toNat % 32)) (f.sbit a || f.sbit b)))
  ∧ Both3 (.shrD · · · 2) (.shrL · · · 2) (fun _ d a b _ f => f.setPair d
      (f.pair a >>> ((f.val b).toNat % 64)) (f.sbit a || f.sbit (a + 1) || f.sbit b))
  ∧ Both3 (.shrD · · · 3) (.shrL · · · 3) (fun _ d a b _ f => f.setPair d
      ((f.pair a).sshiftRight ((f.val b).toNat % 64)) (f.sbit a || f.sbit (a + 1) || f.sbit b))
  ∧ Both3 (.rotlD · · ·) (.rotlL · · ·) (fun _ d a b _ f => f.setReg d
      (regOf ((f.val a).rotateLeft ((f.val b).toNat % 32)) (f.sbit a || f.sbit b)))
  ∧ (∀ i, Both2 (.shliD · · i) (.shliL · · i) fun _ d a _ f => f.setReg d (regOf (f.val a <<< i.toNat) (f.sbit a)))
  ∧ (∀ i, Both2 (.shriD · · 0 i) (.shriL · · 0 i) fun _ d a _ f => f.setReg d (regOf (f.val a >>> i.toNat) (f.sbit a)))
  ∧ (∀ i, Both2 (.shriD · · 1 i) (.shriL · · 1 i) fun _ d a _ f => f.setReg d (regOf ((f.val a).sshiftRight i.toNat) (f.sbit a)))
  ∧ (∀ x : Word, x <<< 0 = x ∧ x >>> 0 = x ∧ x.sshiftRight 0 = x ∧ x.rotateLeft 0 = x)

/-- With pos = b[4:0], len = b[12:8] and e = min(len, 32 − pos): wherever it is ready, BFX writes the e bits of a from
pos, extended by their sign (s = 1) or by zeros (s = 0), and 0 where e = 0; BFI writes d with bit i replaced by bit i
− pos of a for pos ≤ i < pos + e. BFI's S is the OR of all three sources' S. Nothing else changes. Both texts. (R80) -/
def Obligations.BitFields : Prop :=
  let pos := fun b : Word => b.toNat % 32
  let e := fun b : Word => min (b.toNat / 256 % 32) (32 - b.toNat % 32)
  Both3 (.bfxD · · · 0) (.bfxL · · · 0) (fun _ d a b _ f => f.setReg d
      (regOf (((f.val a).extractLsb' (pos (f.val b)) (e (f.val b))).setWidth 32) (f.sbit a || f.sbit b)))
  ∧ Both3 (.bfxD · · · 1) (.bfxL · · · 1) (fun _ d a b _ f => f.setReg d
      (regOf (((f.val a).extractLsb' (pos (f.val b)) (e (f.val b))).signExtend 32) (f.sbit a || f.sbit b)))
  ∧ ∃ ins : Word → Word → Word → Word,
      (∀ d a b i, i < 32 → (ins d a b).getLsbD i =
        if pos b ≤ i ∧ i < pos b + e b then a.getLsbD (i - pos b) else d.getLsbD i)
      ∧ Both3 (.bfiD · · ·) (.bfiL · · ·) (fun _ d a b _ f => f.setReg d
          (regOf (ins (f.val d) (f.val a) (f.val b)) (f.sbit d || f.sbit a || f.sbit b)))

/-- Wherever it is ready: LEA writes the low 32 bits of a + (b << s); POPC the number of set bits of a; CLZ the number of
leading zeros, 32 for 0; BREV a with bit i moved to bit 31 − i; IABS |a| modulo 2^32; SEL a where predicate s holds
and b else, with the chosen register's S alone. Nothing else changes. Both texts. (R81) -/
def Obligations.RemainingIntegers : Prop :=
  (∀ n, Both3 (.leaD · · · n) (.leaL · · · n) fun _ d a b _ f => f.setReg d
      (regOf (f.val a + (f.val b <<< n.toNat)) (f.sbit a || f.sbit b)))
  ∧ (∃ count : Word → Nat, (∀ a, count a = ((List.range 32).filter a.getLsbD).length)
      ∧ Both2 (.popcD · ·) (.popcL · ·) fun _ d a _ f => f.setReg d (regOf (BitVec.ofNat 32 (count (f.val a))) (f.sbit a)))
  ∧ (∃ zeros : Word → Nat, (∀ a, zeros a ≤ 32 ∧ (∀ i, i < zeros a → a.getLsbD (31 - i) = false)
        ∧ (zeros a < 32 → a.getLsbD (31 - zeros a) = true))
      ∧ Both2 (.clzD · ·) (.clzL · ·) fun _ d a _ f => f.setReg d (regOf (BitVec.ofNat 32 (zeros (f.val a))) (f.sbit a)))
  ∧ (∃ mirror : Word → Word, (∀ a i, i < 32 → (mirror a).getLsbD (31 - i) = a.getLsbD i)
      ∧ Both2 (.brevD · ·) (.brevL · ·) fun _ d a _ f => f.setReg d (regOf (mirror (f.val a)) (f.sbit a)))
  ∧ Both2 (.iabsD · ·) (.iabsL · ·) (fun _ d a _ f => f.setReg d (regOf (BitVec.abs (f.val a)) (f.sbit a)))
  ∧ ∀ n, Both3 (.selD · · · n) (.selL · · · n) fun _ d a b _ f => f.setReg d
      (if f.pred n.toNat then f.reg a else f.reg b)

/-- Wherever it is ready, ICMP sets predicate pd to a = b, a ≠ b, a < b or a ≤ b (signed) and ICMPU to a < b or a ≤ b
(unsigned) by the condition code; pd = p0 discards the result. No register or S bit changes. ICMPU with condition 10
or 11 is the ILLEGAL-OP encoding. Both texts. (R82, R61, 05) -/
def Obligations.Comparisons : Prop :=
  let cmp := fun (cond : Nat) (x y : Word) =>
    if cond = 0 then x == y else if cond = 1 then x != y else if cond = 2 then BitVec.slt x y else BitVec.sle x y
  let cmpu := fun (cond : Nat) (x y : Word) => if cond = 0 then BitVec.ult x y else BitVec.ule x y
  (∀ p a b k, Does (.icmpD p a b k) fun c _ f => f.setPred p.toNat (cmp k.toNat (f.val (c.a a)) (f.val (c.b b))))
  ∧ (∀ p a b k, Does (.icmpL p a b k) fun c _ f => f.setPred p.toNat (cmp k.toNat (f.val (c.a a)) (f.val (c.b b))))
  ∧ (∀ p a b k, k.toNat < 2 → Does (.icmpuD p a b k) fun c _ f => f.setPred p.toNat (cmpu k.toNat (f.val (c.a a)) (f.val (c.b b))))
  ∧ (∀ p a b k, k.toNat < 2 → Does (.icmpuL p a b k) fun c _ f => f.setPred p.toNat (cmpu k.toNat (f.val (c.a a)) (f.val (c.b b))))
  ∧ (∀ p a b k pf, 2 ≤ k.toNat → (Instr.icmpuD p a b k).encFault pf = some .illegalOp)
  ∧ (∀ p a b k pf, 2 ≤ k.toNat → (Instr.icmpuL p a b k).encFault pf = some .illegalOp)
  ∧ ∀ (f : Fibre) b, f.setPred 0 b = f

/-- Wherever it is ready, PAND, POR, PXOR and PANDN set pd to pa AND, OR, XOR, AND NOT pb; PRD writes word k of the
predicates with S = 0, bit 0 of word 0 reading 1; PWR writes a register into word k and leaves the other two words;
STKRD sets a predicate to S; STKSET clears, sets or ORs S and leaves the value. PRD, PWR and STKSET with sub9 of 3 to
511 are the ILLEGAL-OP encoding. Nothing else changes. Both texts. (R83, R84, R85, 05) -/
def Obligations.PredicateAndStickyAccess : Prop :=
  (∀ p q r, Does (.pandD p q r) (fun _ _ f => f.setPred p.toNat (f.pred q.toNat && f.pred r.toNat))
      ∧ Does (.pandL p q r) (fun _ _ f => f.setPred p.toNat (f.pred q.toNat && f.pred r.toNat))
      ∧ Does (.porD p q r) (fun _ _ f => f.setPred p.toNat (f.pred q.toNat || f.pred r.toNat))
      ∧ Does (.porL p q r) (fun _ _ f => f.setPred p.toNat (f.pred q.toNat || f.pred r.toNat))
      ∧ Does (.pxorD p q r) (fun _ _ f => f.setPred p.toNat (f.pred q.toNat != f.pred r.toNat))
      ∧ Does (.pxorL p q r) (fun _ _ f => f.setPred p.toNat (f.pred q.toNat != f.pred r.toNat))
      ∧ Does (.pandnD p q r) (fun _ _ f => f.setPred p.toNat (f.pred q.toNat && !f.pred r.toNat))
      ∧ Does (.pandnL p q r) (fun _ _ f => f.setPred p.toNat (f.pred q.toNat && !f.pred r.toNat)))
  ∧ (∃ word : Fibre → Nat → Word, (∀ f k i, i < 32 → k < 3 → (word f k).getLsbD i = f.pred (32 * k + i))
      ∧ (∀ x, x.toNat < 3 → (∀ d, Does (.prdD d x) fun c _ f => f.setReg (c.d d) (regOf (word f x.toNat) false))
          ∧ ∀ d, Does (.prdL d x) fun c _ f => f.setReg (c.d d) (regOf (word f x.toNat) false)))
  ∧ (∃ write : Fibre → Nat → Word → Preds,
      (∀ f k w n, n < 96 → k < 3 → (write f k w).getLsbD n = if n / 32 = k then w.getLsbD (n % 32) else f.preds.getLsbD n)
      ∧ (∀ x, x.toNat < 3 → (∀ a, Does (.pwrD a x) fun c _ f => { f with preds := write f x.toNat (f.val (c.a a)) })
          ∧ ∀ a, Does (.pwrL a x) fun c _ f => { f with preds := write f x.toNat (f.val (c.a a)) }))
  ∧ (∀ p a, Does (.stkrdD p a) fun c _ f => f.setPred p.toNat (f.sbit (c.a a)))
  ∧ (∀ p a, Does (.stkrdL p a) fun c _ f => f.setPred p.toNat (f.sbit (c.a a)))
  ∧ Both2 (.stksetD · · 0) (.stksetL · · 0) (fun _ d _ _ f => f.setReg d (regOf (f.val d) false))
  ∧ Both2 (.stksetD · · 1) (.stksetL · · 1) (fun _ d _ _ f => f.setReg d (regOf (f.val d) true))
  ∧ Both2 (.stksetD · · 2) (.stksetL · · 2) (fun _ d a _ f => f.setReg d (regOf (f.val d) (f.sbit d || f.sbit a)))
  ∧ (∀ x pf, 3 ≤ x.toNat → (∀ d, (Instr.prdD d x).encFault pf = some .illegalOp) ∧ (∀ a, (Instr.pwrD a x).encFault pf = some .illegalOp)
      ∧ ∀ d a, (Instr.stksetD d a x).encFault pf = some .illegalOp)
  ∧ (∀ x pf, 3 ≤ x.toNat → (∀ d, (Instr.prdL d x).encFault pf = some .illegalOp) ∧ (∀ a, (Instr.pwrL a x).encFault pf = some .illegalOp)
      ∧ ∀ d a, (Instr.stksetL d a x).encFault pf = some .illegalOp)

/-- Each of the six completes wherever it is ready, and every fibre of its unit goes on at Next. With T = 32 >> c lanes in
a tile, t0 the first lane of a lane's tile, and active the lanes that take part: wherever it is ready, SETPART sets
the partition code; SHFL copies value and S from the lane of R88 where it is active, else the lane's own; VANY and
VALL set pd to the OR or AND over the tile's active lanes and then pb to whether a lane of the tile is inactive; VBAL
writes bit j for an active lane t0 + j whose predicate holds, with S = 0; REDL combines the tile's lanes in the fixed
tree of pairs, an inactive lane counting as the identity of the operation, and writes the result and one S to every
active lane of the tile. Sources are read as they stood before the instruction. Both texts. (R33, R86, R87, R88, R89,
R90, R91) -/
def Obligations.LanesExchange : Prop :=
  let size := fun f : Fibre => 32 >>> f.part
  let first := fun f : Fibre => f.home / size f * size f
  let tile := fun (c : Ctx) (f : Fibre) => c.act.filter fun q => first f ≤ c.lane q && decide (c.lane q < first f + size f)
  let shuffled := fun (s : Nat) (c : Ctx) (p a b : Nat) =>
    let f := c.fibre p
    let x := (f.val b).toNat
    let i := f.home - first f
    let at_ := fun j : Nat => match c.act.find? fun q => c.lane q == first f + j with
      | some q => (c.fibre q).reg a
      | none => f.reg a
    if s = 0 then at_ (x % size f) else if s = 1 then (if i < x then f.reg a else at_ (i - x))
    else if s = 2 then (if size f ≤ i + x then f.reg a else at_ (i + x)) else at_ (i ^^^ (x % size f))
  (∀ i, (∃ x : BitVec 9, x.toNat < 5 ∧ (i = Instr.setpartD x ∨ i = .setpartL x))
      ∨ (∃ (d a b : BitVec 6) (x : BitVec 3), x.toNat < 4 ∧ i = .shflD d a b x) ∨ (∃ (d a b : BitVec 8) (x : BitVec 3), x.toNat < 4 ∧ i = .shflL d a b x)
      ∨ (∃ p q r, i = .vanyD p q r ∨ i = .vanyL p q r ∨ i = .vallD p q r ∨ i = .vallL p q r)
      ∨ (∃ d n, i = .vbalD d n) ∨ (∃ d n, i = .vbalL d n) ∨ (∃ d a x, i = .redlD d a x) ∨ (∃ d a x, i = .redlL d a x) →
    ∀ s u pf c, Ready i s u pf c → ∃ t, exec i s = .next t ∧ GoesOn t c)
  ∧ (∀ x, x.toNat < 5 → Does (.setpartD x) (fun _ _ f => { f with part := x.toNat }) ∧ Does (.setpartL x) fun _ _ f => { f with part := x.toNat })
  ∧ (∀ s, s.toNat < 4 → Both3 (.shflD · · · s) (.shflL · · · s) fun c d a b p f => f.setReg d (shuffled s.toNat c p a b))
  ∧ (∀ p q r,
      let vote := fun (v : Bool) (c : Ctx) (i : Nat) (f : Fibre) =>
        (f.setPred p.toNat v).setPred r.toNat (decide ((tile c (c.fibre i)).length < size (c.fibre i)))
      let any := fun (c : Ctx) (i : Nat) => (tile c (c.fibre i)).any fun m => (c.fibre m).pred q.toNat
      let all := fun (c : Ctx) (i : Nat) => (tile c (c.fibre i)).all fun m => (c.fibre m).pred q.toNat
      Does (.vanyD p q r) (fun c i f => vote (any c i) c i f) ∧ Does (.vanyL p q r) (fun c i f => vote (any c i) c i f)
        ∧ Does (.vallD p q r) (fun c i f => vote (all c i) c i f) ∧ Does (.vallL p q r) fun c i f => vote (all c i) c i f)
  ∧ (∃ ballot : Nat → Ctx → Nat → Word,
      (∀ n c i j, (c.act.map c.lane).Nodup → j < 32 → (ballot n c i).getLsbD j =
        (decide (j < size (c.fibre i)) && c.act.any fun q => c.lane q == first (c.fibre i) + j && (c.fibre q).pred n))
      ∧ (∀ d n, Does (.vbalD d n) fun c i f => f.setReg (c.d d) (regOf (ballot n.toNat c i) false))
      ∧ ∀ d n, Does (.vbalL d n) fun c i f => f.setReg (c.d d) (regOf (ballot n.toNat c i) false))
  ∧ ∃ reduce : Nat → Nat → Ctx → Nat → Reg,
      (∀ x a c i, (c.act.map c.lane).Nodup → (c.fibre i).part < 5 → (c.fibre i).home < 32 →
        let nan := 0x7FC00000 + ((tile c (c.fibre i)).map c.lane).headD (c.lane 0) * 2 ^ 17 + h17 ((c.fibre i).codeVa (c.fibre i).pc)
        let identity : Word := if x = 0 ∨ x = 7 then 0 else if x = 6 then 0xFFFFFFFF else if x = 1 then 0x7FFFFFFF
          else if x = 2 ∨ x = 3 then 0x80000000 else if x = 4 then 0x7F800000 else 0xFF800000
        let join := fun p q : Word × Bool =>
          if x = 0 then (p.1 + q.1, p.2 || q.2) else if x = 1 then (if BitVec.slt q.1 p.1 then q.1 else p.1, p.2 || q.2)
          else if x = 2 then (if BitVec.slt p.1 q.1 then q.1 else p.1, p.2 || q.2)
          else if x = 3 then
            let r := floatOp .add 0 .rn nan (f32 p.1) (f32 q.1) (.fin false 0 0)
            (BitVec.ofNat 32 r.1, p.2 || q.2 || r.2)
          else if x = 4 ∨ x = 5 then (BitVec.ofNat 32 (floatMinMax 0 (x == 5) false p.1.toNat q.1.toNat), p.2 || q.2)
          else if x = 6 then (p.1 &&& q.1, p.2 || q.2) else (p.1 ||| q.1, p.2 || q.2)
        ∃ node : Nat → Nat → Word × Bool,
          (∀ j, j < size (c.fibre i) → node 0 j = match c.act.find? fun q => c.lane q == first (c.fibre i) + j with
            | some q => ((c.fibre q).val a, (c.fibre q).sbit a)
            | none => (identity, false))
          ∧ (∀ l j, l < 5 - (c.fibre i).part → j < size (c.fibre i) / 2 ^ (l + 1) → node (l + 1) j = join (node l (2 * j)) (node l (2 * j + 1)))
          ∧ reduce x a c i = regOf (node (5 - (c.fibre i).part) 0).1 (node (5 - (c.fibre i).part) 0).2)
      ∧ (∀ x a c i j, tile c (c.fibre i) = tile c (c.fibre j) → size (c.fibre i) = size (c.fibre j) → first (c.fibre i) = first (c.fibre j) →
        (c.fibre i).codeVa (c.fibre i).pc = (c.fibre j).codeVa (c.fibre j).pc → reduce x a c i = reduce x a c j)
      ∧ ∀ x, Both2 (.redlD · · x) (.redlL · · x) fun c d a i f => f.setReg d (reduce x.toNat a c i)

/-- Wherever it is ready, each of the four writes, in every active lane, the first NaN operand in order a, b, c with its
quiet bit forced; else the NaN of R206 where the operation is invalid; else the exact result rounded once to FP32 in
the mode s names. S is the OR of the sources' S and the result's inexactness. FSUB adds b with its sign changed, a NaN
excepted; FFMA's product is not rounded. Nothing else changes. Both texts. The worked cases of R214 come out as
tabled. (R211, R212, R213, R214, 14) -/
def Obligations.FloatArithmetic : Prop :=
  let mode := fun s : Nat => if s = 0 then Mode.rn else if s = 1 then .rz else if s = 2 then .ru else if s = 3 then .rd else .rna
  let nanOf := fun xs : List Sys2Proof.Machine.Num => xs.findSome? fun x => match x with | .nan w => some w | _ => none
  let write := fun (s d : Nat) (srcs : List Nat) (exact : Mode → Option Sys2Proof.Machine.Num) (f : Fibre) =>
    let sticky := srcs.any f.sbit
    match nanOf (srcs.map fun n => f32 (f.val n)) with
    | some w => f.setReg d (regOf (w ||| 0x00400000) sticky)
    | none => match exact (mode s) with
      | none => f.setReg d (regOf (BitVec.ofNat 32 (0x7FC00000 + f.home * 2 ^ 17 + h17 (f.codeVa f.pc))) true)
      | some v => f.setReg d (regOf (BitVec.ofNat 32 (finalRound v 0 (mode s) false).1) (sticky || (finalRound v 0 (mode s) false).2))
  (∀ s, s.toNat < 5 →
    Both3 (.faddD · · · s) (.faddL · · · s) (fun _ d a b _ f =>
      write s.toNat d [a, b] (fun m => addNum m (f32 (f.val a)) (f32 (f.val b))) f)
    ∧ Both3 (.fsubD · · · s) (.fsubL · · · s) (fun _ d a b _ f =>
      write s.toNat d [a, b] (fun m => addNum m (f32 (f.val a)) (negNum (f32 (f.val b)))) f)
    ∧ Both3 (.fmulD · · · s) (.fmulL · · · s) (fun _ d a b _ f =>
      write s.toNat d [a, b] (fun _ => mulNum (f32 (f.val a)) (f32 (f.val b))) f)
    ∧ (∀ d a b, Does (.ffmaD d a b s) fun c _ f => write s.toNat (c.d d) [c.a a, c.b b, c.d d]
      (fun m => (mulNum (f32 (f.val (c.a a))) (f32 (f.val (c.b b)))).bind fun p => addNum m p (f32 (f.val (c.d d)))) f)
    ∧ ∀ d a b e, Does (.ffmaL d a b s e) fun c _ f => write s.toNat (c.d d) [c.a a, c.b b, c.c e]
      (fun m => (mulNum (f32 (f.val (c.a a))) (f32 (f.val (c.b b)))).bind fun p => addNum m p (f32 (f.val (c.c e)))) f)
  ∧ ([Mode.rn, .rz, .ru, .rd, .rna].map fun m => (addNum m (f32 0x3F800000) (f32 0x33800000)).map fun v => finalRound v 0 m false)
      = [some (0x3F800000, true), some (0x3F800000, true), some (0x3F800001, true), some (0x3F800000, true), some (0x3F800001, true)]
  ∧ (((mulNum (f32 0x3F800800) (f32 0x3F800800)).bind fun p => addNum .rn p (f32 0xBF801000)).map fun v => finalRound v 0 .rn false)
      = some (0x33800000, false)
  ∧ ((mulNum (f32 0x3F800800) (f32 0x3F800800)).map fun v => finalRound v 0 .rn false) = some (0x3F801000, true)
  ∧ addNum .rn (.inf false) (.inf true) = none ∧ (∀ n e, mulNum (.fin n 0 e) (.inf false) = none) ∧ (∀ n e, mulNum (.inf false) (.fin n 0 e) = none)
  ∧ ∀ m n e, addNum m (.fin n 5 e) (.fin (!n) 5 e) = some (.fin (m == .rd) 0 e)

/-- For BF16, FP16, E4M3, E5M2 and FP32, every finite nonzero value and every mode: where the result does not pass the
format's largest finite value, it encodes a multiple n of the format's grid step about the value with its sign; n
steps lie less than one step from the value; under rz they do not pass it in magnitude, under ru and rd they lie on
the side the mode names, under rn and rna they are nearest, a tie going to even under rn and away from zero under rna;
and S tells exactly whether they differ from the value. (R197, R198, R199, 13) -/
def Obligations.RoundingChoosesNeighbours : Prop :=
  let le := fun (a : Nat) (x : Int) (b : Nat) (y : Int) => a * 2 ^ (x - min x y).toNat ≤ b * 2 ^ (y - min x y).toNat
  ∀ (code m : Nat) (e : Int) (neg : Bool) (mode : Mode), code < 5 → 0 < m →
    let step := max (binade m e) (fmtOf code).emin - (fmtOf code).fbits
    let r := finalRound (.fin neg m e) code mode false
    ∃ n : Nat,
      (le n step (largest code).1 (largest code).2 →
        r.1 = encodeFloat code neg n step ∧ (r.2 = true ↔ ¬ (le n step m e ∧ le m e n step)))
      ∧ ((le n step m e ∧ ¬ le (n + 1) step m e) ∨ (0 < n ∧ le m e n step ∧ ¬ le m e (n - 1) step))
      ∧ (mode = .rz → le n step m e) ∧ (mode = .ru → if neg then le n step m e else le m e n step)
      ∧ (mode = .rd → if neg then le m e n step else le n step m e)
      ∧ (mode = .rn ∨ mode = .rna → le (2 * m) e (2 * n + 1) step ∧ (0 < n → le (2 * n - 1) step (2 * m) e))
      ∧ (mode = .rn → (le (2 * m) e (2 * n + 1) step ∧ le (2 * n + 1) step (2 * m) e) ∨
          (0 < n ∧ le (2 * n - 1) step (2 * m) e ∧ le (2 * m) e (2 * n - 1) step) → n % 2 = 0)
      ∧ (mode = .rna → ¬ (le (2 * m) e (2 * n + 1) step ∧ le (2 * n + 1) step (2 * m) e))

/-- One carry before the final conversion, the first case of R202: for every finite nonzero FP32 operand, every carry
format T and final format U with p_T at least p_U in the operand's binade, every mode and saturation: the final
conversion to U of the value carried to T has the bits of the direct final conversion, and S of the chain, the OR of
the two, is S of the direct conversion. (R202, R200, 13) -/
def Obligations.CarryThenFinalIsDirect : Prop :=
  ∀ (x : Word) (T U : Nat) (mode : Mode) (sat : Bool) (neg : Bool) (m : Nat) (e : Int),
    f32 x = .fin neg m e → 0 < m → 1 ≤ T → T ≤ 6 → U ≤ 7 → precision U (binade m e) ≤ precision T (binade m e) →
    let c := carry (f32 x) T
    let direct := finalRound (f32 x) U mode sat
    (finalRound (f32 c.1) U mode sat).1 = direct.1 ∧ (c.2 || (finalRound (f32 c.1) U mode sat).2) = direct.2

/-- Wherever it is ready: FMIN and FMAX write the lesser or greater of a and b with −0 below +0; a NaN operand is returned
first with its quiet bit forced (s = 0), or passed over unless both are NaNs (s = 1); S is the OR of both. FCMP sets
pd by eq, lt, le or un; FCMPX does so and sets pd + 1 to the OR of the operands' S. FSGN changes bit 31 alone. Nothing
else changes. Both texts; s of 2 to 7 of FMIN or FMAX is the ILLEGAL-OP encoding. The table of R215 comes out as
given. (R215, R216, R217, R219, 14) -/
def Obligations.FloatSelectionAndComparison : Prop :=
  let un := fun x y : Word => isNaN (f32 x) || isNaN (f32 y)
  let pick := fun (isMax num : Bool) (x y : Word) =>
    if isNaN (f32 x) && isNaN (f32 y) then x ||| 0x00400000
    else if isNaN (f32 x) then (if num then y else x ||| 0x00400000)
    else if isNaN (f32 y) then (if num then x else y ||| 0x00400000)
    else
      let below := fun p q : Word => numLt (f32 p) (f32 q) || (numEq (f32 p) (f32 q) && p.msb && !q.msb)
      if (if isMax then below x y else below y x) then y else x
  let cmp := fun (k : BitVec 2) (x y : Word) =>
    if k = 0 then !un x y && numEq (f32 x) (f32 y) else if k = 1 then !un x y && numLt (f32 x) (f32 y)
    else if k = 2 then !un x y && (numLt (f32 x) (f32 y) || numEq (f32 x) (f32 y)) else un x y
  Both3 (.fminD · · · 0) (.fminL · · · 0) (fun _ d a b _ f => f.setReg d (regOf (pick false false (f.val a) (f.val b)) (f.sbit a || f.sbit b)))
  ∧ Both3 (.fminD · · · 1) (.fminL · · · 1) (fun _ d a b _ f => f.setReg d (regOf (pick false true (f.val a) (f.val b)) (f.sbit a || f.sbit b)))
  ∧ Both3 (.fmaxD · · · 0) (.fmaxL · · · 0) (fun _ d a b _ f => f.setReg d (regOf (pick true false (f.val a) (f.val b)) (f.sbit a || f.sbit b)))
  ∧ Both3 (.fmaxD · · · 1) (.fmaxL · · · 1) (fun _ d a b _ f => f.setReg d (regOf (pick true true (f.val a) (f.val b)) (f.sbit a || f.sbit b)))
  ∧ (∀ p a b k, Does (.fcmpD p a b k) fun c _ f => f.setPred p.toNat (cmp k (f.val (c.a a)) (f.val (c.b b))))
  ∧ (∀ p a b k, Does (.fcmpL p a b k) fun c _ f => f.setPred p.toNat (cmp k (f.val (c.a a)) (f.val (c.b b))))
  ∧ (∀ p a b k, Does (.fcmpxD p a b k) fun c _ f =>
      (f.setPred p.toNat (cmp k (f.val (c.a a)) (f.val (c.b b)))).setPred (p.toNat + 1) (f.sbit (c.a a) || f.sbit (c.b b)))
  ∧ (∀ p a b k, Does (.fcmpxL p a b k) fun c _ f =>
      (f.setPred p.toNat (cmp k (f.val (c.a a)) (f.val (c.b b)))).setPred (p.toNat + 1) (f.sbit (c.a a) || f.sbit (c.b b)))
  ∧ Both3 (.fsgnD · · · 0) (.fsgnL · · · 0) (fun _ d a _ _ f => f.setReg d (regOf (f.val a &&& 0x7FFFFFFF) (f.sbit a)))
  ∧ Both3 (.fsgnD · · · 1) (.fsgnL · · · 1) (fun _ d a _ _ f => f.setReg d (regOf (f.val a ^^^ 0x80000000) (f.sbit a)))
  ∧ Both3 (.fsgnD · · · 2) (.fsgnL · · · 2) (fun _ d a _ _ f => f.setReg d (regOf (f.val a ||| 0x80000000) (f.sbit a)))
  ∧ Both3 (.fsgnD · · · 3) (.fsgnL · · · 3) (fun _ d a b _ f => f.setReg d
      (regOf ((f.val a &&& 0x7FFFFFFF) ||| (f.val b &&& 0x80000000)) (f.sbit a || f.sbit b)))
  ∧ (∀ d a b s pf, 2 ≤ s.toNat → (Instr.fminD d a b s).encFault pf = some .illegalOp ∧ (Instr.fmaxD d a b s).encFault pf = some .illegalOp)
  ∧ (∀ d a b s pf, 2 ≤ s.toNat → (Instr.fminL d a b s).encFault pf = some .illegalOp ∧ (Instr.fmaxL d a b s).encFault pf = some .illegalOp)
  ∧ pick false false 0 0x80000000 = 0x80000000 ∧ pick true false 0 0x80000000 = 0
  ∧ pick false false 0x7FA00001 0x40400000 = 0x7FE00001 ∧ pick false true 0x7FA00001 0x40400000 = 0x40400000
  ∧ pick true true 0x40000000 0xFFC00005 = 0x40000000 ∧ pick true false 0xFF800000 1 = 1

/-- FSPF of every s completes wherever it is ready, and every fibre of its unit goes on at Next. It writes in every active
lane the model's value of the function s names of a, and S(a) OR whether it is inexact; nothing else changes. A NaN
operand comes back with its quiet bit forced; reciprocals of zeros are the infinities; 2^x, log2, sinpi, cospi, the
square root and tanh take their exact values at 0, at powers of two and at integers; square roots of negative numbers
and log2 of them are invalid. Where the reciprocal, the square root or its reciprocal of a finite nonzero operand is
finite, no FP32 value lies nearer to the exact value, and S tells whether it differs from it. Both texts. That the
transcendental values are the correctly rounded ones rests on the model's precision (log 14). (R209, R210, R218, 14) -/
def Obligations.SpecialFunctions : Prop :=
  let number := fun w : Word => match f32 w with
    | .fin neg m e => some ((if neg then -1 else 1) * (m : ℝ) * (2 : ℝ) ^ e)
    | _ => none
  let nearest := fun (k : Nat) (exact : ℝ → ℝ) => ∀ (nan : Nat) (a w : Word) (x r y : ℝ), number a = some x → x ≠ 0 → (k ≠ 0 → 0 < x) →
    number (BitVec.ofNat 32 (specialFn k nan a).1) = some r → number w = some y →
    |r - exact x| ≤ |y - exact x| ∧ ((specialFn k nan a).2 = false ↔ r = exact x)
  (∀ i, (∃ d a x, i = Instr.fspfD d a x) ∨ (∃ d a x, i = Instr.fspfL d a x) →
    ∀ s u pf c, Ready i s u pf c → ∃ t, exec i s = .next t ∧ GoesOn t c)
  ∧ nearest 0 (fun x => 1 / x) ∧ nearest 1 (fun x => 1 / Real.sqrt x) ∧ nearest 2 Real.sqrt
  ∧ (∀ s, Both2 (.fspfD · · s) (.fspfL · · s) fun _ d a _ f =>
    let r := specialFn s.toNat (0x7FC00000 + f.home * 2 ^ 17 + h17 (f.codeVa f.pc)) (f.val a)
    f.setReg d (regOf (BitVec.ofNat 32 r.1) (f.sbit a || r.2)))
  ∧ (∀ s nan (w : Word), isNaN (f32 w) = true → specialFn s nan w = ((w ||| 0x00400000).toNat, false))
  ∧ (∀ nan, specialFn 0 nan 0 = (0x7F800000, true) ∧ specialFn 0 nan 0x80000000 = (0xFF800000, true)
      ∧ specialFn 0 nan 0x40000000 = (0x3F000000, false) ∧ specialFn 0 nan 0x40400000 = (0x3EAAAAAB, true)
      ∧ specialFn 2 nan 0x40800000 = (0x40000000, false) ∧ specialFn 2 nan 0x40000000 = (0x3FB504F3, true)
      ∧ specialFn 2 nan 0x80000000 = (0x80000000, false) ∧ specialFn 2 nan 0xBF800000 = (nan, true)
      ∧ specialFn 3 nan 0 = (0x3F800000, false) ∧ specialFn 3 nan 0x40400000 = (0x41000000, false)
      ∧ specialFn 4 nan 0x41000000 = (0x40400000, false) ∧ specialFn 4 nan 0 = (0xFF800000, true) ∧ specialFn 4 nan 0xBF800000 = (nan, true)
      ∧ specialFn 5 nan 0x3F000000 = (0x3F800000, false) ∧ specialFn 6 nan 0x3F800000 = (0xBF800000, false)
      ∧ specialFn 7 nan 0x80000000 = (0x80000000, false) ∧ specialFn 7 nan 0x7F800000 = (0x3F800000, false))

/-- Wherever it is ready: HADD2, HMUL2 and HFMA2 write two elements of the type s[0] names, each as R213 for that type in
the mode of s[2:1], with one S for both; HMNX2 the NaN-propagating minimum or maximum of each element; CVT a carry of
the source's value (mode 0) or its final conversion, zero-extended; PKB d with the low byte or half of a at byte n. S
is the OR of the sources' S and the inexactness. Nothing else changes. Both texts. The worked values of R221 and R224
come out as given. (R220, R221, R222, R223, R224, R225, 14) -/
def Obligations.PackedAndConversions : Prop :=
  let elem := fun (w : Word) (i : Nat) => w.toNat / 2 ^ (16 * i) % 2 ^ 16
  let mode := fun n : Nat => if n = 0 then Mode.rn else if n = 1 then .rz else if n = 2 then .ru else .rd
  let packed := fun (op : FOp) (s d : Nat) (srcs : List Nat) (f : Fibre) =>
    let code := if s % 2 = 0 then 1 else 2
    let nan := if s % 2 = 0 then 0x7FC0 + 2 * f.home + h17 (f.codeVa f.pc) / 2 ^ 16 % 2
      else 0x7E00 + 16 * f.home + h17 (f.codeVa f.pc) / 2 ^ 13 % 16
    let v := fun (i j : Nat) => match srcs[i]? with
      | some n => decodeFloat code (elem (f.val n) j)
      | none => .fin false 0 0
    let el := fun j => floatOp op code (mode (s / 2)) nan (v 0 j) (v 1 j) (v 2 j)
    f.setReg d (regOf (BitVec.ofNat 32 ((el 1).1 * 2 ^ 16 + (el 0).1)) (srcs.any f.sbit || (el 0).2 || (el 1).2))
  (∀ s, Both3 (.hadd2D · · · s) (.hadd2L · · · s) (fun _ d a b _ f => packed .add s.toNat d [a, b] f)
    ∧ Both3 (.hmul2D · · · s) (.hmul2L · · · s) (fun _ d a b _ f => packed .mul s.toNat d [a, b] f)
    ∧ (∀ d a b, Does (.hfma2D d a b s) fun c _ f => packed .fma s.toNat (c.d d) [c.a a, c.b b, c.d d] f)
    ∧ ∀ d a b e, Does (.hfma2L d a b s e) fun c _ f => packed .fma s.toNat (c.d d) [c.a a, c.b b, c.c e] f)
  ∧ (∀ y t, Both3 (.hmnx2D · · · y t) (.hmnx2L · · · y t) fun _ d a b _ f =>
      let code := if t = 1 then 2 else 1
      f.setReg d (regOf (BitVec.ofNat 32 (floatMinMax code (y == 1) false (elem (f.val a) 1) (elem (f.val b) 1) * 2 ^ 16
        + floatMinMax code (y == 1) false (elem (f.val a) 0) (elem (f.val b) 0))) (f.sbit a || f.sbit b)))
  ∧ (∀ src dst, Both2 (.cvtD · · src dst 0) (.cvtL · · src dst 0) fun _ d a _ f =>
      let r := carry (interpret src.toNat (f.val a)) dst.toNat
      f.setReg d (regOf r.1 (f.sbit a || r.2)))
  ∧ (∀ src dst m, m ≠ 0 → Both2 (.cvtD · · src dst m) (.cvtL · · src dst m) fun _ d a _ f =>
      let how := if m = 1 ∨ m = 6 then Mode.rn else if m = 2 then .rz else if m = 3 then .ru else if m = 4 then .rd else .rna
      let r := finalRound (interpret src.toNat (f.val a)) dst.toNat how (m == 6)
      f.setReg d (regOf (BitVec.ofNat 32 r.1) (f.sbit a || r.2)))
  ∧ (∃ ins : Bool → Nat → Word → Word → Word,
      (∀ h n d a i, i < 32 → n < 4 → (ins h n d a).getLsbD i =
        if 8 * n ≤ i ∧ i < 8 * n + (if h then 16 else 8) then a.getLsbD (i - 8 * n) else d.getLsbD i)
      ∧ ∀ w n, Both2 (.pkbD · · w n) (.pkbL · · w n) fun _ d a _ f => f.setReg d
          (regOf (ins (w == 1) n.toNat (f.val d) (f.val a)) (f.sbit d || f.sbit a)))
  ∧ finalRound (interpret 7 0x01000001) 0 .rn false = (0x4B800000, true) ∧ finalRound (interpret 7 0x01000001) 0 .ru false = (0x4B800001, true)
  ∧ finalRound (interpret 5 0x0A) 0 .rn false = (0x3A000000, false) ∧ finalRound (interpret 3 0x39) 0 .rn false = (0x3F900000, false)
  ∧ finalRound (interpret 6 0xFFFFFFF6) 0 .rn false = (0xC1200000, false) ∧ finalRound (interpret 4 0x7C) 0 .rn true = (0x7F7FFFFF, true)
  ∧ finalRound (interpret 0 0xBE99999A) 6 .rd false = (0xFF, true) ∧ carry (interpret 7 0x107) 3 = (0x43840000, true)
  ∧ finalRound (interpret 0 0x43840000) 3 .rn false = (0x78, true)
  ∧ floatOp .add 1 .rn 0 (decodeFloat 1 0x3F80) (decodeFloat 1 0x3B80) (.fin false 0 0) = (0x3F80, true)
  ∧ floatOp .add 1 .ru 0 (decodeFloat 1 0x3F80) (decodeFloat 1 0x3B80) (.fin false 0 0) = (0x3F81, true)

/-- Wherever it is ready: SREAD writes, with S = 0, the value that R65 gives for registers 0 to 18 and 20; for 19 the low
half of the core's cycle counter, latching the high half; for 21 the generation of the address space while no GENBUMP
waits; 22 to 511 are the ILLEGAL-FIELD encoding. SWRITE makes the highest active lane's register the low or the high
half of the core's counter, and no other core changes. FEATQ writes word k of the launch's feature view. Nothing else
changes. Both texts. (R65, R66, R330, 05, 22) -/
def Obligations.SpecialRegisters : Prop :=
  let value := fun (x : Nat) (k : Crew) (f : Fibre) =>
    let stack : DWord := if f.bound then k.desc.stkBase + BitVec.ofNat 64 (k.desc.stkStride.toNat * f.ident) else 0
    let n := BitVec.ofNat 32
    if x = 0 then n f.home else if x = 1 then n f.ident else if x = 2 then n f.gang else if x = 3 then n k.desc.x
    else if x = 4 then n k.desc.y else if x = 5 then n k.desc.z else if x = 6 then n k.desc.ncrewx else if x = 7 then n k.gangs.length
    else if x = 8 then k.desc.args.extractLsb' 0 32 else if x = 9 then k.desc.args.extractLsb' 32 32
    else if x = 10 then n k.scrBase else if x = 11 then n k.desc.scrSize else if x = 12 then n k.accBase
    else if x = 13 then (if k.kind = .sequencer then 0 else n k.desc.accCount) else if x = 14 then n k.core
    else if x = 15 then (if k.kind = .density then 0 else if k.kind = .latency then 1 else 2)
    else if x = 16 then stack.extractLsb' 0 32 else if x = 17 then stack.extractLsb' 32 32
    else if x = 18 then n f.part else f.clkh
  (∀ x, x.toNat < 21 → x.toNat ≠ 19 →
    (∀ d, Does (.sreadD d x) fun c _ f => f.setReg (c.d d) (regOf (value x.toNat c.crew f) false))
    ∧ ∀ d, Does (.sreadL d x) fun c _ f => f.setReg (c.d d) (regOf (value x.toNat c.crew f) false))
  ∧ (let read := fun (d : Ctx → Nat) (c : Ctx) (s : State) (p : Nat) (f : Fibre) =>
      if p ∈ c.act then { f.setReg (d c) (regOf ((s.clk c.core).extractLsb' 0 32) false) with clkh := (s.clk c.core).extractLsb' 32 32 } else f
    (∀ d, Answers (.sreadD d 19) (fun _ _ => True) (fun _ s => s) (read fun c => c.d d))
    ∧ ∀ d, Answers (.sreadL d 19) (fun _ _ => True) (fun _ s => s) (read fun c => c.d d))
  ∧ (let quiet := fun (c : Ctx) (s : State) => ∀ b ∈ s.bumps, b.asid ≠ c.asid
    let read := fun (d : Ctx → Nat) (c : Ctx) (s : State) (p : Nat) (f : Fibre) =>
      if p ∈ c.act then f.setReg (d c) (regOf (BitVec.ofNat 32 (s.gen c.asid)) false) else f
    (∀ d, Answers (.sreadD d 21) quiet (fun _ s => s) (read fun c => c.d d))
    ∧ ∀ d, Answers (.sreadL d 21) quiet (fun _ s => s) (read fun c => c.d d))
  ∧ (∀ d x pf, 22 ≤ x.toNat → (Instr.sreadD d x).encFault pf = some .illegalField)
  ∧ (∀ d x pf, 22 ≤ x.toNat → (Instr.sreadL d x).encFault pf = some .illegalField)
  ∧ (∀ x i (a : Ctx → Nat), x = 19 ∨ x = 20 → (∃ r : BitVec 6, i = Instr.swriteD r (BitVec.ofNat 9 x) ∧ a = fun c => c.a r)
        ∨ (∃ r : BitVec 8, i = Instr.swriteL r (BitVec.ofNat 9 x) ∧ a = fun c => c.a r) →
      ∀ s u pf c, Ready i s u pf c → s.Canonical → ∃ t, exec i s = .next t
        ∧ Only { s with cores := t.cores } t u.crew (fun _ f => f) ∧ GoesOn t c
        ∧ (∀ k, k ≠ c.core → t.coreAt k = s.coreAt k)
        ∧ t.coreAt c.core = { s.coreAt c.core with clkAdj := (t.coreAt c.core).clkAdj }
        ∧ ∀ p, c.act.getLast? = some p → ({ s with cores := t.cores } : State).clk c.core =
            if x = 19 then (s.clk c.core).extractLsb' 32 32 ++ (c.fibre p).val (a c)
            else (c.fibre p).val (a c) ++ (s.clk c.core).extractLsb' 0 32)
  ∧ (let view := fun (x d : Nat) (c : Ctx) (s : State) (p : Nat) (f : Fibre) =>
      if p ∈ c.act then f.setReg d (regOf (((s.launches[c.crew.desc.launch]?).map fun l => l.view.extractLsb' (32 * x) 32).getD 0) false) else f
    (∀ d x, Answers (.featqD d x) (fun c s => (s.launches[c.crew.desc.launch]?).isSome = true) (fun _ s => s) fun c s => view x.toNat (c.d d) c s)
    ∧ ∀ d x, Answers (.featqL d x) (fun c s => (s.launches[c.crew.desc.launch]?).isSome = true) (fun _ s => s) fun c s => view x.toNat (c.d d) c s)

/-- Wherever it is ready: REP leaves every fibre of the unit at the next instruction with a repeat of count + 1 and the
register steps 0, 1, 2 or 4, in L where the word after is fetched, no engine owning its line, and is no control
transfer, REP or DVT; BRA and CALL place every active lane at Base + 4 × offset, Base the clause header in D and the
doubleword in L, the others at Next; CALL also writes Next with S = 0 to v7 of the active lanes. Nothing else changes.
Both texts. (R56, R68, 05, 04) -/
def Obligations.RepeatAndBranch : Prop :=
  (∀ (n : BitVec 6) (sd sa sb se : BitVec 2), ∀ i ∈ [Instr.repD n sd sa sb se, .repL n sd sa sb se], ∀ s u pf c, Ready i s u pf c →
    let step := fun k : BitVec 2 => if k = 3 then 4 else k.toNat
    let r : Sys2Proof.Machine.Rep := { count := n.toNat + 1, stepD := step sd, stepA := step sa, stepB := step sb, stepC := step se, k := 0 }
    let goesOn := fun t : State => ∀ p ∈ c.all,
      (t.fibreAt u.crew p).rep = some r ∧ (t.fibreAt u.crew p).pc = (c.fibre p).pc + (if c.kind.isL then 8 else 4)
    (c.kind.isL = false → ∃ t, exec i s = .next t ∧ Only s t u.crew (fun _ f => f) ∧ goesOn t)
    ∧ (c.kind.isL = true → ∀ s' w,
        (c.start pf s).fetchHeld c.core c.asid c.priv ((c.fibre (c.all.headD 0)).codeVa (c.pc + 12)) = false →
        (c.start pf s).fetch c.core c.asid c.priv c.u.crew c.crew.pair ((c.fibre (c.all.headD 0)).codeVa (c.pc + 12)) = (s', .ok w) →
        ((w.toNat / 2 ^ 25 ∈ [0x08, 0x09, 0x0A, 0x0B, 0x0D, 0x0E, 0x0F, 0x7D, 0x07, 0x73]) = False) →
        ∃ t, exec i s = .next t ∧ Only s' t u.crew (fun _ f => f) ∧ goesOn t))
  ∧ ∀ o : BitVec 21, ∀ i ∈ [Instr.braD o, .braL o, .callD o, .callL o], ∀ s u pf c, Ready i s u pf c →
    let lead := c.fibre (c.all.headD 0)
    let target := (if c.kind.isL then lead.pc else lead.hdr) + 4 * o.signExtend 32
    let link := fun (p : Nat) (f : Fibre) =>
      if p ∈ c.act ∧ (i = .callD o ∨ i = .callL o) then f.setReg 7 (regOf (lead.pc + (if c.kind.isL then 8 else 4)) false) else f
    ∃ t, exec i s = .next t ∧ Only s t u.crew link ∧ GoesTo t c fun _ => target

/-- Wherever it is ready: BRX, where every active lane's target is aligned and its first word, in a line that no engine
owns, is fetched and carries LAND, places each active lane at its own v[a], with brx.call writing Next with S = 0 to
v7; a misaligned target in some lane raises INDIRECT-TARGET naming the lanes that fail, and no lane branches; RET,
where no active lane's link is a trap-return link of a privileged handler fibre and every link is aligned, places each
active lane at v[a]. The lanes not active go on at Next and nothing else changes but what the fetches cache. Both
texts. (R44, R46, R69, R70, 05) -/
def Obligations.IndirectBranches : Prop :=
  let aligned := fun (c : Ctx) (w : Word) => w.toNat % (if c.kind.isL then 8 else 4) = 0
  (∀ i (call : Bool) (a : Ctx → Nat), (∃ (r : BitVec 6) (x : BitVec 1), i = Instr.brxD r x ∧ (a = fun c => c.a r) ∧ call = (x == 1))
      ∨ (∃ (r : BitVec 8) (x : BitVec 1), i = Instr.brxL r x ∧ (a = fun c => c.a r) ∧ call = (x == 1)) →
    ∀ s u pf c, Ready i s u pf c →
      let targets := c.act.map fun p => (p, (c.fibre p).val (a c))
      ((∀ x ∈ targets, aligned c x.2 ∧ (c.start pf s).fetchHeld c.core c.asid c.priv ((c.fibre x.1).codeVa x.2) = false) → ∀ s' ws, fetchTargets c targets (c.start pf s) = (s', ws) →
        (∀ x ∈ ws, ∃ w, x.2.2 = .ok w ∧ (if c.kind.isL then w.getLsbD 1 = true else hdrLand w = true)) →
        ∃ t, exec i s = .next t ∧ GoesTo t c (fun p => (c.fibre p).val (a c))
          ∧ Only s' t u.crew fun p f => if p ∈ c.act ∧ call = true then f.setReg 7 (regOf (c.pc + (if c.kind.isL then 8 else 4)) false) else f)
      ∧ (let bad := targets.filter fun x => !(x.2.toNat % (if c.kind.isL then 8 else 4) == 0)
        bad ≠ [] → exec i s = .next (c.conclude (.raise (c.start pf s) 0x0B 0 0 (bad.map fun x => c.lane x.1)
          (bad.map fun x => (c.lane x.1, [x.2.toNat])))).done))
  ∧ ∀ i (a : Ctx → Nat), (∃ r : BitVec 6, i = Instr.retD r ∧ a = fun c => c.a r) ∨ (∃ r : BitVec 8, i = Instr.retL r ∧ a = fun c => c.a r) →
    ∀ s u pf c, Ready i s u pf c →
      (∀ p ∈ c.act, ¬ (((c.fibre p).val (a c)).getLsbD 0 = true ∧ (c.fibre p).handler = true ∧ (c.fibre p).priv = true)) →
      (∀ p ∈ c.act, aligned c ((c.fibre p).val (a c))) →
      ∃ t, exec i s = .next t ∧ Only s t u.crew (fun _ f => f) ∧ GoesTo t c fun p => (c.fibre p).val (a c)

/-- Wherever it is ready, with an active lane, none of them a handler fibre, and no copy fault attached to a token of the
gang: END completes, every active fibre is dead and holds no register, every other fibre of the unit that lives goes
on at Next, and memory, the other crews, generations, address spaces, graphs, parts, registers of the always-on
domain, errors and power are as before, but for what other fibres may yet miss of the crew's accesses. With no active
lane it changes nothing but goes on at Next. A handler fibre's END ends its launch with the delivered cause. Both
texts. (R31, R71, R183, R287, 05) -/
def Obligations.FibresEnd : Prop :=
  ∀ i ∈ [Instr.endD, .endL], ∀ s u pf c, Ready i s u pf c →
    (c.act = [] → ∃ t, exec i s = .next t ∧ Only s t u.crew (fun _ f => f) ∧ GoesOn t c)
    ∧ (c.act ≠ [] → (∀ p ∈ c.act, (c.fibre p).handler = false) → (c.crew.tokens u.kind).deferred = [] →
      ∃ t, exec i s = .next t
        ∧ (∀ p ∈ c.act, (t.fibreAt u.crew p).live = false ∧ (t.fibreAt u.crew p).regs = [])
        ∧ (∀ p ∈ c.all, p ∉ c.act → (t.fibreAt u.crew p).live = true ∧ (t.fibreAt u.crew p).pc = nextPcOf c.kind (c.fibre p))
        ∧ (∀ j, j ≠ u.crew → t.crews[j]? = s.crews[j]?)
        ∧ { t with crews := s.crews, now := s.now, turn := s.turn, cores := s.cores, queues := s.queues, launches := s.launches, past := s.past, pastScr := s.pastScr, sync := s.sync } = s
        ∧ t.now = s.now + 1 ∧ t.turn = none)
    ∧ (∀ p ∈ c.act, (c.fibre p).handler = true → ∀ d, c.crew.delivery = some d →
      ∃ t, exec i s = .next t ∧ (t.launches[c.crew.desc.launch]?).map Launch.cause =
        (s.launches[c.crew.desc.launch]?).map fun l => l.cause.orElse fun _ => some d.cause)

/-- Wherever it is ready, with an active lane, on a crew of a density or latency core with no fault in delivery, not of a
handler fibre, a handler installed for the cause in the trap table in force, whose window fits the core, no line of
the record owned, and no WAITSIG waiting: TRAP and SYSC complete by taking the fault. The sequence number rises by
one; a loose privileged handler fibre of one window is created at the handler's entry in its own code object, in the
lane of the lowest active fibre, every register 0 with S = 0 but v0:v1, the context area's address plus 0x100, and v7,
the trap-return link; the unit's fibres wait at the instruction, their registers and PC unchanged; no other crew,
queue, launch or generation changes. With no active lane they change nothing and go on at Next. Both texts. (R8, R72,
R281, R284, R285, R287, 19) -/
def Obligations.TrapsEnterTheHandler : Prop :=
  ∀ (x : BitVec 9), ∀ i ∈ [Instr.trapD x, .trapL x, .syscD x, .syscL x], ∀ s u pf c, Ready i s u pf c →
    let cause := if i = .trapD x ∨ i = .trapL x then 0x0E else 0x0F
    (c.act = [] → ∃ t, exec i s = .next t ∧ Only s t u.crew (fun _ f => f) ∧ GoesOn t c)
    ∧ ∀ p ps pc base blocks, c.act = p :: ps → c.kind ≠ .sequencer → c.crew.delivery = none → c.crew.heldFault = none →
      (∀ q ∈ c.all, (c.fibre q).handler = false) → (∀ q ∈ ps, c.lane p < c.lane q) → c.lane p < 32 →
      s.handler? c.asid cause c.kind = some (pc, base, blocks) → (∀ q ∈ s.queues, ∀ m ∈ q.2.packets, m.watched = none) → s.recordHeld c.crew = false →
      ((s.modCrew u.crew fun k => { k with fibres := k.fibres ++
        [{ Fibre.empty with live := true, bound := false, handler := true, home := c.lane p, size := blocks }] }).allotLoose u.crew
          [c.crew.fibres.length]).coreFits c.core = true →
      ∃ t k h, exec i s = .next t ∧ t.crews[u.crew]? = some k
        ∧ k.faultSeq = c.crew.faultSeq + 1 ∧ k.fibres.length = c.crew.fibres.length + 1
        ∧ k.delivery = some
            { unit := u.kind, cause := BitVec.ofNat 8 cause, fibre := c.crew.fibres.length, token := none,
              lanes := c.act.map c.lane }
        ∧ k.fibres[c.crew.fibres.length]? = some h
        ∧ h.live = true ∧ h.bound = false ∧ h.priv = true ∧ h.handler = true ∧ h.home = c.lane p ∧ h.size = blocks
        ∧ h.pc = BitVec.ofNat 32 pc ∧ h.codeBase = BitVec.ofNat 64 base
        ∧ (∀ n, n < 8 * blocks → 8 ≤ 8 * blocks → h.reg n =
            if n = 0 then regOf ((c.crew.desc.ctx + 0x100).extractLsb' 0 32) false
            else if n = 1 then regOf ((c.crew.desc.ctx + 0x100).extractLsb' 32 32) false
            else if n = 7 then regOf (BitVec.ofNat 32 (trapLink (c.crew.faultSeq + 1) u.kind)) false
            else regOf 0 false)
        ∧ (∀ q ∈ c.all, (t.fibreAt u.crew q).wait = .inDelivery ∧ (t.fibreAt u.crew q).pc = (c.fibre q).pc
            ∧ (t.fibreAt u.crew q).regs = (c.fibre q).regs ∧ (t.fibreAt u.crew q).preds = (c.fibre q).preds)
        ∧ (∀ j, j ≠ u.crew → t.crews[j]? = s.crews[j]?) ∧ t.queues = s.queues ∧ t.launches = s.launches ∧ t.gens = s.gens

/-- Wherever it is ready, with the handler fibre of the fault in delivery as its one active fibre and v[a] the trap-return
link of that fault, for a fault that is neither a deferred copy fault nor ILLEGAL-CLAUSE: RET completes; no fault is
in delivery; the handler fibre is dead and holds no register; every fibre of the faulting unit waits for nothing and
stands at the instruction again, or, with SKIP set or the cause TRAP or SYSC, at Next, its registers, S bits and
predicates unchanged, and then under no REP unless it meets a fibre that stands under one; fibres that waited behind
the fault wait no longer; memory and the other crews are unchanged. A link that does not name the fault raises
INDIRECT-TARGET. Both texts. (R8, R70, R284, R287, 19) -/
def Obligations.ReturnFromTrap : Prop :=
  ∀ i (a : Ctx → Nat), (∃ r : BitVec 6, i = Instr.retD r ∧ a = fun c => c.a r) ∨ (∃ r : BitVec 8, i = Instr.retL r ∧ a = fun c => c.a r) →
    ∀ s u pf c p d, Ready i s u pf c → c.act = [p] → (c.fibre p).handler = true → (c.fibre p).priv = true →
      ((c.fibre p).val (a c)).getLsbD 0 = true → c.crew.delivery = some d → d.fibre = p → d.token = none → d.cause ≠ 0x03 →
      p ∉ c.crew.members d.unit → c.crew.linesSince s.tick = [] →
      let link := (c.fibre p).val (a c)
      let names := link.toNat / 2 ^ 16 = c.crew.faultSeq.toNat % 2 ^ 16 ∧ (match d.unit with
        | .gang g _ => link.getLsbD 7 = false ∧ link.toNat / 4 % 32 = g
        | .bin _ => link.getLsbD 7 = true)
      let skips := link.getLsbD 1 = true ∨ d.cause = 0x0E ∨ d.cause = 0x0F
      (names → ∃ t k, exec i s = .next t ∧ t.crews[u.crew]? = some k ∧ k.delivery = none
        ∧ (t.fibreAt u.crew p).live = false ∧ (t.fibreAt u.crew p).regs = []
        ∧ (∀ q ∈ c.crew.members d.unit, (t.fibreAt u.crew q).wait = .none ∧ (t.fibreAt u.crew q).regs = (c.fibre q).regs
          ∧ (t.fibreAt u.crew q).preds = (c.fibre q).preds ∧ (skips → (∀ r, r < c.crew.fibres.length → r ∉ c.crew.members d.unit → (c.fibre r).rep = none) → (t.fibreAt u.crew q).rep = none)
          ∧ (t.fibreAt u.crew q).pc = if skips then (c.fibre q).pc + (if c.kind.isL then 8 else 4) else (c.fibre q).pc)
        ∧ (∀ q, q < c.crew.fibres.length → q ≠ p → (c.fibre q).wait = .behindFault → q ∉ c.all → (t.fibreAt u.crew q).wait = .none)
        ∧ (∀ j, j ≠ u.crew → t.crews[j]? = s.crews[j]?) ∧ { t with crews := s.crews, now := s.now, turn := s.turn } = s)
      ∧ (¬ names → exec i s = .next
          (c.conclude (.raise (c.start pf s) 0x0B 0 0 [c.lane p] [(c.lane p, [link.toNat])])).done)

/-- Wherever it is ready, with an active lane: HALT of an unpaired crew completes by ending its launch with cause 0x20;
TRAP and SYSC for whose cause no handler is installed, no fault being in delivery and no fibre of the unit a handler,
end it with cause 0x0E or 0x0F. The launch's cause becomes that one unless it had one; every crew of the launch has
ended; crews of other launches and memory are unchanged. Both texts. With no active lane HALT goes on at Next. (R72,
R282, R288, R299, 19) -/
def Obligations.LaunchesEndWithTheirCause : Prop :=
  let ends := fun (cause : BitVec 8) (s : State) (c : Ctx) (t : State) =>
    (t.launches[c.crew.desc.launch]?).map Launch.cause = (s.launches[c.crew.desc.launch]?).map (fun l => l.cause.orElse fun _ => some cause)
      ∧ t.crews.length = s.crews.length ∧ t.mem = s.mem ∧ t.gens = s.gens
      ∧ (∀ (j : Nat) (k : Crew), t.crews[j]? = some k → k.desc.launch = c.crew.desc.launch → k.status = .ended)
      ∧ ∀ (j : Nat) (k : Crew), s.crews[j]? = some k → k.desc.launch ≠ c.crew.desc.launch → t.crews[j]? = some k
  (∀ i ∈ [Instr.haltD, .haltL], ∀ s u pf c, Ready i s u pf c →
    (c.act = [] → ∃ t, exec i s = .next t ∧ Only s t u.crew (fun _ f => f) ∧ GoesOn t c)
    ∧ (c.act ≠ [] → c.crew.pair = none → ∃ t, exec i s = .next t ∧ ends 0x20 s c t))
  ∧ ∀ (x : BitVec 9), ∀ i ∈ [Instr.trapD x, .trapL x, .syscD x, .syscL x], ∀ s u pf c, Ready i s u pf c →
    let cause := if i = .trapD x ∨ i = .trapL x then 0x0E else 0x0F
    c.act ≠ [] → c.kind ≠ .sequencer → c.crew.delivery = none → c.crew.heldFault = none → (∀ q ∈ c.all, (c.fibre q).handler = false) →
    s.handler? c.asid cause c.kind = none → ∃ t, exec i s = .next t ∧ ends (BitVec.ofNat 8 cause) s c t

/-- That a FORK is granted where its windows fit as the model packs them is the model's choice (log 50). Wherever it is
ready, with an active lane: a lane whose entry index is outside the code object's entry table raises INDIRECT-TARGET
with its value. With every active lane's entry index inside, no mirrored crew, no handler's window waited for on the
core, and the windows, packed by home slot into shared blocks, and the slots grantable now: FORK and FORK.try create
for each active lane, in lane order, one loose fibre in that lane with the lane's privilege, partition code, gang and
%fibre, at the entry's PC of the core's encoding, with a window of n blocks whose v0 to v7 are the creator's and whose
other registers read 0 with S = 0, every predicate 0; FORK.try sets its predicate. Where the try form cannot be
granted it creates nothing and clears the predicate; where the plain form cannot, the unit waits. The existing fibres
are otherwise unchanged and go on at Next; the other crews are unchanged, and of the rest of the state only what
reading the entry table leaves (State.peekedAll of the VAs read), the requests of the unit, which are withdrawn, and
what the new fibres are bound to see: with no error in storage and no partial pending, every byte outside the stage-2
entries that those reads use reads as before. Every lane's reads are neither held nor in error. Both texts. (R20, R21,
R35, R69, R73, R286, 03, 05) -/
def Obligations.ForksCreateLooseFibres : Prop :=
  ∀ i (a : Ctx → Nat) (n : Nat) (pr : Option Nat),
    (∃ (r : BitVec 6) (m : BitVec 4), i = Instr.forkD r m ∧ (a = fun c => c.a r) ∧ n = m.toNat ∧ pr = none)
      ∨ (∃ (r : BitVec 8) (m : BitVec 4), i = Instr.forkL r m ∧ (a = fun c => c.a r) ∧ n = m.toNat ∧ pr = none)
      ∨ (∃ (q : BitVec 6) (r : BitVec 6) (m : BitVec 4), i = Instr.forkTryD q r m ∧ (a = fun c => c.a r) ∧ n = m.toNat ∧ pr = some q.toNat)
      ∨ (∃ (q : BitVec 8) (r : BitVec 8) (m : BitVec 4), i = Instr.forkTryL q r m ∧ (a = fun c => c.a r) ∧ n = m.toNat ∧ pr = some q.toNat) →
    ∀ s u pf c (e : Nat → Entry), Ready i s u pf c → c.act ≠ [] → 0 < n →
      let base := (c.fibre (c.all.headD 0)).codeBase.toNat
      let begun := c.start pf s
      let reads := c.forkReads (a c) begun
      let x := begun.peekedAll c.asid reads
      begun.readsHeld c.asid reads = false → c.forkErrors (a c) begun = [] →
      let bad := c.act.filter fun p => decide (begun.entryCount c.asid base ≤ ((c.fibre p).val (a c)).toNat);
      (bad ≠ [] → exec i s = .next (c.conclude (.raise x 0x0B 0 0 (bad.map c.lane)
          (bad.map fun p => (c.lane p, [((c.fibre p).val (a c)).toNat])))).done)
      ∧ (s.Canonical → s.partials = [] → s.rel.poison = [] → s.rel.correctable = [] → ∀ b,
        (∀ pre va post, reads = pre ++ va :: post → ∀ at_ ∈ (begun.peekedAll c.asid pre).stage2Used c.asid (va % 2 ^ 48) { priv := true },
          ¬ (at_ ≤ b ∧ b < at_ + 8)) → x.byte b = s.byte b)
      ∧ ((∀ p ∈ c.act, ((c.fibre p).val (a c)).toNat < begun.entryCount c.asid base
        ∧ x.entry? c.asid base ((c.fibre p).val (a c)).toNat = some (e p)
        ∧ (c.fibre p).regs.length = 8 * (c.fibre p).size ∧ 1 ≤ (c.fibre p).size) →
      (∀ k ∈ s.crews, k.mirror = false) →
      let room := ((x.modCrew u.crew fun k => { k with
          fibres := k.fibres ++ c.act.map fun p => { Fibre.empty with live := true, bound := false, home := c.lane p, size := n } }).allotLoose
            u.crew ((List.range c.act.length).map (c.crew.fibres.length + ·))).coreFits c.core = true
      let first := x.handlerWaits c.core = false ∧ match pr with
        | some _ => x.requestsOn c.core = []
        | none => x.requestsOn c.core = [] ∨ ∃ r rs, x.requestsOn c.core = r :: rs ∧ c.owns r = true
      let kept := fun (v : Bool) (p : Nat) (f : Fibre) => match pr with
        | some q => if p ∈ c.act then f.setPred q v else f
        | none => f
      (room ∧ first → ∃ t k, exec i s = .next t ∧ t.crews[u.crew]? = some k ∧ GoesOn t c
        ∧ k.fibres.length = c.crew.fibres.length + c.act.length
        ∧ (∀ p, p < c.crew.fibres.length → (k.fibre p).face = (kept true p (c.fibre p)).face)
        ∧ (∀ j p, c.act[j]? = some p →
          let h := k.fibre (c.crew.fibres.length + j)
          h.live = true ∧ h.bound = false ∧ h.handler = false ∧ h.priv = (c.fibre p).priv ∧ h.part = (c.fibre p).part
            ∧ h.gang = (c.fibre p).gang ∧ h.ident = (c.fibre p).ident ∧ h.home = c.lane p ∧ h.codeBase = (c.fibre p).codeBase
            ∧ h.pc = BitVec.ofNat 32 (if c.kind.isL then (e p).lpc else (e p).dpc) ∧ h.size = n ∧ h.preds = 0
            ∧ h.regs.length = 8 * n ∧ (∀ r, r < 8 → h.reg r = (c.fibre p).reg r) ∧ ∀ r, 8 ≤ r → h.reg r = regOf 0 false)
        ∧ (∀ j, j ≠ u.crew → t.crews[j]? = s.crews[j]?)
        ∧ t.cores = (x.modCore c.core fun w => { w with requests := w.requests.filter fun r => !c.owns r }).cores
        ∧ { t with crews := x.crews, now := x.now, turn := x.turn, cores := x.cores, past := x.past, pastScr := x.pastScr } = x)
      ∧ (¬ (room ∧ first) → match pr with
        | some _ => ∃ t, exec i s = .next t ∧ Only x t u.crew (kept false) ∧ GoesOn t c
        | none => ∃ t, exec i s = .next t ∧ Only { x with cores := t.cores } t u.crew (fun _ f => f) ∧ WaitsFor t c .blocks
            ∧ ∃ r ∈ (t.coreAt c.core).requests, c.owns r = true))

/-- Wherever it is ready, with an active lane, every active window within the kind's limit after growing and no mirrored
crew: REGACQ.wait and REGACQ.try grow each active fibre's window by n blocks whose registers read 0 with S = 0, the
others unchanged, where the core's blocks suffice and no other request or handler waits first, a loose window lying in
as many of the core's loose blocks as it then has; the try form reports this in its predicate, and where it cannot be
granted clears it and changes nothing else; the wait form then waits in the core's queue. REGREL, where every active
window keeps a block, takes the n highest blocks away. A window that would pass the limit, or by REGREL fall below one
block, raises WINDOW naming the lanes. Which requests are granted is the model's packing of windows (log 50). Nothing
else changes. Both texts. (R34, R35, R261, R262, 17) -/
def Obligations.RegisterBlocksGrowAndShrink : Prop :=
  (∀ (n : BitVec 4) (i : Instr) (pr : Option Nat),
    (i = .regacqWaitD n ∧ pr = none) ∨ (i = .regacqWaitL n ∧ pr = none) ∨ (∃ q : BitVec 6, i = .regacqTryD q n ∧ pr = some q.toNat)
      ∨ (∃ q : BitVec 8, i = .regacqTryL q n ∧ pr = some q.toNat) →
    ∀ s u pf c, Ready i s u pf c → s.Canonical → c.act ≠ [] → (∀ k ∈ s.crews, k.mirror = false) →
      let limit := if c.kind.isL then 32 else 8
      let grow := fun f : Fibre => { f with
        size := f.size + n.toNat, regs := f.regs ++ List.replicate (8 * n.toNat) (regOf 0 false), dirty := List.range (f.size + n.toNat) }
      let room := ((s.modFibres u.crew c.act fun _ f => grow f).allotLoose u.crew c.act).coreFits c.core = true
      let first := s.handlerWaits c.core = false ∧ match pr with
        | some _ => s.requestsOn c.core = []
        | none => s.requestsOn c.core = [] ∨ ∃ r rs, s.requestsOn c.core = r :: rs ∧ c.owns r = true
      let report := fun (v : Bool) (f : Fibre) => match pr with
        | some q => f.setPred q v
        | none => f
      ((∀ p ∈ c.act, (c.fibre p).size + n.toNat ≤ limit) → room ∧ first →
        ∃ t, exec i s = .next t ∧ GoesOn t c ∧ (t.coreAt c.core).requests = (s.coreAt c.core).requests.filter (fun r => !c.owns r)
          ∧ (Only { s with cores := t.cores } t u.crew fun p f =>
              if p ∈ c.act then { report true (grow f) with cols := (t.fibreAt u.crew p).cols } else f)
          ∧ ∀ p ∈ c.act, ((c.fibre p).bound = true → (t.fibreAt u.crew p).cols = (c.fibre p).cols)
            ∧ ((c.fibre p).bound = false → (c.fibre p).cols.length = (c.fibre p).size →
                (t.fibreAt u.crew p).cols.length = (c.fibre p).size + n.toNat))
      ∧ ((∀ p ∈ c.act, (c.fibre p).size + n.toNat ≤ limit) → ¬ (room ∧ first) → match pr with
        | some _ => ∃ t, exec i s = .next t ∧ GoesOn t c ∧ Only s t u.crew fun p f => if p ∈ c.act then report false f else f
        | none => ∃ t, exec i s = .next t ∧ WaitsFor t c .blocks ∧ Only { s with cores := t.cores } t u.crew (fun _ f => f)
            ∧ ∃ r ∈ (t.coreAt c.core).requests, c.owns r = true)
      ∧ (let bad := c.act.filter fun p => decide (limit < (c.fibre p).size + n.toNat)
        bad ≠ [] → exec i s = .next (c.conclude (.raise (c.start pf s) 0x06 0 0 (bad.map c.lane) [])).done))
  ∧ ∀ (n : BitVec 4), ∀ i ∈ [Instr.regrelD n, .regrelL n],
      (∀ s u pf c, Ready i s u pf c →
        let bad := c.act.filter fun p => decide ((c.fibre p).size < n.toNat + 1)
        bad ≠ [] → exec i s = .next (c.conclude (.raise (c.start pf s) 0x06 0 0 (bad.map c.lane) [])).done)
      ∧ Answers i (fun c _ => ∀ p ∈ c.act, n.toNat < (c.fibre p).size) (fun _ s => s) fun c _ p f =>
        if p ∈ c.act then { f with size := f.size - n.toNat, regs := f.regs.take (8 * (f.size - n.toNat)), dirty := List.range (f.size - n.toNat), cols := f.cols.take (f.size - n.toNat) }
        else f

/-- Wherever it is ready: MIGR records a pending request for the named kind where a lane is active, the kind is another,
the code object has its text, the crew has at most 16 gangs for a latency core, and none is pending, its read of the
header neither held nor in error; else it changes nothing but what that read leaves, where it is made. DVT passes its
point where no request is pending: every fibre's marker names it with a count of 0, at Next; under a pending request
the unit stops there. CKPT, with an active lane, in a crew that is unpaired and at its stopping points, no error
standing in storage and no WAITSIG waiting, leaves the crew on its core with its save counted, every fibre's
registers, predicates and window as they were, the core's L1 empty, at Next; nothing but memory, keys' owners, the
caches, merged partials and what fibres may miss of earlier accesses changes beside. Both texts of MIGR and CKPT; DVT
is of the L text. (R254, R257, R258, R260, R298, 17) -/
def Obligations.MigrationAndCheckpoints : Prop :=
  (∀ x : BitVec 1, ∀ i ∈ [Instr.migrD x, .migrL x],
    ∀ s u pf c, Ready i s u pf c →
      let k : Kind := if x = 0 then .latency else .density
      let asked := c.act ≠ [] ∧ k ≠ c.kind ∧ (k = .latency → c.crew.gangs.length ≤ 16) ∧ c.crew.pending = none
      let header := [c.crew.desc.codeBase.toNat + 0x4C]
      let y := (c.start pf s).peekedAll c.asid header
      (¬ asked → ∃ t, exec i s = .next t ∧ Only s t u.crew (fun _ f => f) ∧ GoesOn t c)
      ∧ (asked → (c.start pf s).readsHeld c.asid header = false → (c.start pf s).readsError c.asid header = none →
        ∃ t, exec i s = .next t ∧ GoesOn t c
          ∧ Only (if y.hasText c.crew.desc k then y.modCrew u.crew fun w => { w with pending := some k } else y) t u.crew (fun _ f => f)))
  ∧ (∀ k s u pf c, Ready (.dvtL k) s u pf c →
    (c.crew.pending = none → ∃ t, exec (.dvtL k) s = .next t ∧ Only s t u.crew (fun _ f => f)
      ∧ ∀ p ∈ c.all, (t.fibreAt u.crew p).passed = true ∧ (t.fibreAt u.crew p).didx = k.toNat ∧ (t.fibreAt u.crew p).dcount = 0
        ∧ (t.fibreAt u.crew p).pc = (c.fibre p).pc + (if c.kind.isL then 8 else 4))
    ∧ (c.crew.pending ≠ none → ∃ t, exec (.dvtL k) s = .next t ∧ Only s t u.crew (fun _ f => f) ∧ WaitsFor t c .dovetail))
  ∧ ∀ i ∈ [Instr.ckptD, .ckptL], ∀ s u pf c, Ready i s u pf c → s.Canonical → c.act ≠ [] → c.crew.pair = none → s.stoppable u.crew = true →
    s.rel.poison = [] → s.rel.correctable = [] → s.noWatch →
    ∃ t k, exec i s = .next t ∧ GoesOn t c ∧ t.crews[u.crew]? = some k ∧ k.status = .resident ∧ k.saveSeq = c.crew.saveSeq + 1
      ∧ k.fibres.length = c.crew.fibres.length ∧ k.scr = c.crew.scr ∧ k.tiles = c.crew.tiles ∧ k.bench = c.crew.bench
      ∧ (∀ p, p < c.crew.fibres.length → (k.fibre p).regs = (c.fibre p).regs ∧ (k.fibre p).preds = (c.fibre p).preds
          ∧ (k.fibre p).size = (c.fibre p).size ∧ (k.fibre p).live = (c.fibre p).live)
      ∧ (t.coreAt c.core).l1 = [] ∧ (∀ j, j ≠ u.crew → t.crews[j]? = s.crews[j]?)
      ∧ { t with crews := s.crews, now := s.now, turn := s.turn, mem := s.mem, encOwner := s.encOwner, cores := s.cores, l2 := s.l2, l2Next := s.l2Next, partials := s.partials,
                  past := s.past, pastScr := s.pastScr, sync := s.sync } = s

/-- Wherever it is ready, its checks pass and its accesses are plain: LD of every size and cache mode, and LDAQ of every
size and scope, put the little-endian bytes at each active lane's address, zero- or sign-extended, into its registers
with S = 0; LDX restores value and S from the 8-byte image. LDAQ of a scope wider than core first empties the core's
L1. Control goes on at Next; no byte of memory, no other register and nothing else changes but what translation sets
and caches, the core's L1 and slots, the L2 and what orders and hides accesses. Both texts. (R122, R143, R160, R163,
R166, R169, 11) -/
def Obligations.LoadsReadTheirBytes : Prop :=
  let image := fun (d : Nat) (bs : List Byte) (f : Fibre) =>
    f.setReg d (regOf (BitVec.ofNat 32 (leNat (bs.take 4))) (decide (leNat bs / 2 ^ 32 % 2 = 1)))
  let enter := fun (k : BitVec 3) (c : Ctx) (s : State) => if 2 < k.toNat then s.modCore c.core fun x => { x with l1 := [] } else s
  (∀ z (m : BitVec 2) (o : BitVec 4),
    (∀ d a, Loads (.ldD d a z m o) (fun _ s => s) (fun c => c.a a) o.toInt (widthOf z) fun c bs f => loaded z (c.d d) bs f)
    ∧ ∀ d a, Loads (.ldL d a z m o) (fun _ s => s) (fun c => c.a a) o.toInt (widthOf z) fun c bs f => loaded z (c.d d) bs f)
  ∧ (∀ z (k : BitVec 3) (o : BitVec 3),
    (∀ d a, Loads (.ldaqD d a z k o) (enter k) (fun c => c.a a) o.toNat (widthOf z) fun c bs f => loaded z (c.d d) bs f)
    ∧ ∀ d a, Loads (.ldaqL d a z k o) (enter k) (fun c => c.a a) o.toNat (widthOf z) fun c bs f => loaded z (c.d d) bs f)
  ∧ ∀ (m : BitVec 2) (o : BitVec 4),
    (∀ d a, Loads (.ldxD d a m o) (fun _ s => s) (fun c => c.a a) o.toInt 8 fun c bs f => image (c.d d) bs f)
    ∧ ∀ d a, Loads (.ldxL d a m o) (fun _ s => s) (fun c => c.a a) o.toInt 8 fun c bs f => image (c.d d) bs f

/-- Wherever it is ready, its checks pass and its accesses are plain, no write there being one that their fibre need not
see yet: ST and STRL write the low bytes of the registers, STX the 8-byte register image, STC the final conversion of
the carried value, to each active lane's address, the highest lane's bytes standing where lanes meet; STRL where what
precedes it at its scope has completed. Every byte outside the lanes' stored bytes reads as before, no register
changes, control goes on at Next, and nothing else changes but what translation sets and caches, the core's L1, the L2
and what orders and hides accesses. Both texts. (R122, R132, R160, R164, R166, R167, R169, 11) -/
def Obligations.StoresWriteTheirBytes : Prop :=
  let width := fun f : BitVec 3 => if f = 0 ∨ f = 7 then 4 else if f = 1 ∨ f = 2 then 2 else 1
  let convert := fun (f e : BitVec 3) (w : Word) =>
    let how := if e = 1 ∨ e = 6 then Mode.rn else if e = 2 then .rz else if e = 3 then .ru else if e = 4 then .rd else .rna
    leBytes (width f) (finalRound (interpret 0 w) f.toNat how (e == 6)).1
  let any := fun (_ : Ctx) (_ : State) => True
  let released := fun (k : BitVec 3) (c : Ctx) (s : State) => (∀ p ∈ s.parts, p.crew ≠ c.u.crew)
    ∧ (k = 5 → s.unsentPorts c.crew (fun _ _ _ => true) = [] ∧ s.followsUnsent c.u.crew (c.ids c.act) = false
      ∧ ∀ o ∈ s.outbound, o.write = false)
  (∀ z (m : BitVec 2) (o : BitVec 4),
    (∀ d a, Stores (.stD d a z m o) (fun _ s => s) any (fun c => c.a a) o.toInt (widthOf z) fun c f => stored z (c.d d) f)
    ∧ ∀ d a, Stores (.stL d a z m o) (fun _ s => s) any (fun c => c.a a) o.toInt (widthOf z) fun c f => stored z (c.d d) f)
  ∧ (∀ z (k : BitVec 3) (o : BitVec 3),
    (∀ d a, Stores (.strlD d a z k o) (fun _ s => s) (released k) (fun c => c.a a) o.toNat (widthOf z) fun c f => stored z (c.d d) f)
    ∧ ∀ d a, Stores (.strlL d a z k o) (fun _ s => s) (released k) (fun c => c.a a) o.toNat (widthOf z) fun c f => stored z (c.d d) f)
  ∧ (∀ (m : BitVec 2) (o : BitVec 4),
    (∀ d a, Stores (.stxD d a m o) (fun _ s => s) any (fun c => c.a a) o.toInt 8 fun c f => leBytes 4 (f.val (c.d d)).toNat ++ leBytes 4 (f.sbit (c.d d)).toNat)
    ∧ ∀ d a, Stores (.stxL d a m o) (fun _ s => s) any (fun c => c.a a) o.toInt 8 fun c f => leBytes 4 (f.val (c.d d)).toNat ++ leBytes 4 (f.sbit (c.d d)).toNat)
  ∧ ∀ (f e : BitVec 3) (o : BitVec 3),
    (∀ d a, Stores (.stcD d a f e o) (fun _ s => s) any (fun c => c.a a) o.toNat (width f) fun c x => convert f e (x.val (c.d d)))
    ∧ ∀ d a, Stores (.stcL d a f e o) (fun _ s => s) any (fun c => c.a a) o.toNat (width f) fun c x => convert f e (x.val (c.d d))

/-- Wherever LD, LDAQ, LDX, ST, STRL, STX, STC or ATOM is ready and a lane's access fails the ADDRESS check, the
instruction raises ADDRESS in a state that its issue alone has changed, naming every lane that fails with its address;
where every lane passes that check, no walk is held or meets an error and a lane fails translation, all of them but
ATOM raise TRANSLATION naming every such lane, with no register and no cache changed before the fault is taken; that
of memory A alone then stands, in the stage-2 entries that the walks used, is the model's choice (log 48), where R161
lets such bits stand. Both texts. (R160, R161, R286, 11, 19) -/
def Obligations.AccessesFaultBeforeAnyEffect : Prop :=
  ∀ i (n : Nat) (off : Int) (write late back : Bool) (enter : Ctx → State → State) (base : Ctx → Nat),
    let plain := enter = (fun _ s => s) ∧ back = false
    let acquire := fun k : BitVec 3 => enter = (fun c s => if 2 < k.toNat then s.modCore c.core fun x => { x with l1 := [] } else s) ∧ back = true
    (∃ (d a : BitVec 6) (z : BitVec 3) (m : BitVec 2) (o : BitVec 4), (i = Instr.ldD d a z m o ∧ write = false ∨ i = Instr.stD d a z m o ∧ write = true) ∧ n = widthOf z ∧ off = o.toInt ∧ late = true ∧ plain ∧ base = fun c => c.a a)
    ∨ (∃ (d a : BitVec 8) (z : BitVec 3) (m : BitVec 2) (o : BitVec 4), (i = Instr.ldL d a z m o ∧ write = false ∨ i = Instr.stL d a z m o ∧ write = true) ∧ n = widthOf z ∧ off = o.toInt ∧ late = true ∧ plain ∧ base = fun c => c.a a)
    ∨ (∃ (d a : BitVec 6) (z k o : BitVec 3), (i = Instr.ldaqD d a z k o ∧ write = false ∧ acquire k ∨ i = Instr.strlD d a z k o ∧ write = true ∧ plain) ∧ n = widthOf z ∧ off = o.toNat ∧ late = true ∧ base = fun c => c.a a)
    ∨ (∃ (d a : BitVec 8) (z k o : BitVec 3), (i = Instr.ldaqL d a z k o ∧ write = false ∧ acquire k ∨ i = Instr.strlL d a z k o ∧ write = true ∧ plain) ∧ n = widthOf z ∧ off = o.toNat ∧ late = true ∧ base = fun c => c.a a)
    ∨ (∃ (d a : BitVec 6) (m : BitVec 2) (o : BitVec 4), (i = Instr.ldxD d a m o ∧ write = false ∨ i = Instr.stxD d a m o ∧ write = true) ∧ n = 8 ∧ off = o.toInt ∧ late = true ∧ plain ∧ base = fun c => c.a a)
    ∨ (∃ (d a : BitVec 8) (m : BitVec 2) (o : BitVec 4), (i = Instr.ldxL d a m o ∧ write = false ∨ i = Instr.stxL d a m o ∧ write = true) ∧ n = 8 ∧ off = o.toInt ∧ late = true ∧ plain ∧ base = fun c => c.a a)
    ∨ (∃ (d a : BitVec 6) (f e o : BitVec 3), i = Instr.stcD d a f e o ∧ write = true ∧ n = (if f = 0 ∨ f = 7 then 4 else if f = 1 ∨ f = 2 then 2 else 1) ∧ off = o.toNat ∧ late = true ∧ plain ∧ base = fun c => c.a a)
    ∨ (∃ (d a : BitVec 8) (f e o : BitVec 3), i = Instr.stcL d a f e o ∧ write = true ∧ n = (if f = 0 ∨ f = 7 then 4 else if f = 1 ∨ f = 2 then 2 else 1) ∧ off = o.toNat ∧ late = true ∧ plain ∧ base = fun c => c.a a)
    ∨ (∃ (d a b : BitVec 6) (o : BitVec 3), i = Instr.atomD d a b o ∧ n = 4 ∧ off = 0 ∧ write = true ∧ late = false ∧ plain ∧ base = fun c => c.a a)
    ∨ (∃ (d a b : BitVec 8) (o : BitVec 3), i = Instr.atomL d a b o ∧ n = 4 ∧ off = 0 ∧ write = true ∧ late = false ∧ plain ∧ base = fun c => c.a a) →
    ∀ s u pf c, Ready i s u pf c →
      let va := fun p => (c.fibre p).pair (base c) + BitVec.ofInt 64 (off * n)
      let canon := fun v : DWord => v.toNat < 2 ^ 47 ∨ 2 ^ 64 - 2 ^ 47 ≤ v.toNat
      let fails := fun p => ¬ canon ((c.fibre p).pair (base c)) ∨ ¬ canon (va p) ∨ (va p).toNat % n ≠ 0
      let begun := enter c (c.start pf s)
      ((∃ p ∈ c.act, fails p) → ∃ ps : List Nat, (∀ p, p ∈ ps ↔ p ∈ c.act ∧ fails p) ∧
        exec i s = .next (c.conclude (.raise (if back then c.start pf s else begun) 0x07 0 0 (ps.map c.lane)
          (ps.map fun p => (c.lane p, [(va p).toNat % 2 ^ 32, (va p).toNat / 2 ^ 32])))).done)
      ∧ (late = true → (∀ p ∈ c.act, ¬ fails p) →
        let gs := c.globalLanes (base c) off n
        let vas := gs.map fun g => va48 g.ea
        c.walksHeld write (gs.map GAccess.ea) begun = false → c.walkErrors write gs begun = [] → ∀ s' rs x xs,
        translateLanes c.core c.asid { write := write, priv := c.priv } gs begun = (s', rs) → failedLanes rs = x :: xs →
        let left := begun.keepWalks s' c.asid vas
        exec i s = .next (c.conclude (.raise (if back then (c.start pf s).keepWalks left c.asid vas else left)
          0x08 x.2 0 ((x :: xs).map fun g => c.lane g.1.idx)
          ((x :: xs).map fun g => (c.lane g.1.idx,
            [g.1.ea.toNat % 2 ^ 32, g.1.ea.toNat / 2 ^ 32, g.2 + (if write then 32 else 0)])))).done)

/-- PREF and IPREF of every form complete wherever they are ready, FENCE and IFENCE wherever what they wait for is over,
and every fibre of the unit goes on at Next. FENCE of every kind and scope completes where what precedes it has
completed, with engines where every token is complete without a fault; an acquire or full fence wider than core
empties the core's L1, no other changes a thing but what orders and hides accesses; with engines and a token pending
the unit waits for the tokens. IFENCE of an unpaired crew completes where every token is complete without a fault and
no copy that precedes it has still to land, and empties the core's instruction cache, from when on its fetches see
what was written. PREF and IPREF always complete and change nothing but what translation sets and caches, merged
partials and their keys, the caches, the L2, single-bit errors corrected and logged, and, where a WAITSIG waits, its
queue, and where an error is met, what its log entry and the test of the unit take; with no error in storage and no
partial pending, every byte outside the entries of the tables that a lane's walk, or that of a word of the line of
code, uses reads as before: those of State.entriesOf in the state that the lanes or words before it leave. A PREF
whose every lane fails the ADDRESS check changes nothing. No register changes. Both texts. (R143, R155, R157, R165,
R171, R172, R173, 11) -/
def Obligations.FencesAndPrefetches : Prop :=
  let idle := fun (c : Ctx) => (∀ k, k < 8 → (c.crew.tokens c.u.kind).counts.getD k 0 = 0) ∧ (c.crew.tokens c.u.kind).deferred = []
  let left := fun (s t : State) => { s.walked t with
    l2 := t.l2, l2Next := t.l2Next, rel := t.rel, aon := t.aon, inbox := t.inbox, queues := t.queues, wakes := t.wakes }
  let sound := fun (s : State) => s.Canonical ∧ s.partials = [] ∧ s.rel.poison = [] ∧ s.rel.correctable = []
  (∀ (e : BitVec 1) (k : BitVec 2) (x : BitVec 3), ∀ i ∈ [Instr.fenceD e k x, .fenceL e k x], ∀ s u pf c, Ready i s u pf c → s.Canonical →
    (c.act = [] → ∃ t, exec i s = .next t ∧ Only s t u.crew (fun _ f => f) ∧ GoesOn t c)
    ∧ (c.act ≠ [] → c.crew.pair = none → (e = 1 → idle c) →
      (k ≠ 1 → (∀ p ∈ s.parts, p.crew ≠ u.crew)
        ∧ (x = 5 → s.unsentPorts c.crew (fun _ _ _ => true) = [] ∧ s.followsUnsent u.crew (c.ids c.act) = false
          ∧ ∀ o ∈ s.outbound, o.write = false)) →
      ∃ t, exec i s = .next t ∧ GoesOn t c ∧ Only { s with cores := t.cores, past := t.past, pastScr := t.pastScr, sync := t.sync } t u.crew (fun _ f => f)
        ∧ (∀ j, j ≠ c.core → t.coreAt j = s.coreAt j)
        ∧ t.coreAt c.core = if k ≠ 2 ∧ 2 < x.toNat then { s.coreAt c.core with l1 := [] } else s.coreAt c.core)
    ∧ (c.act ≠ [] → e = 1 → (∃ n, n < 8 ∧ (c.crew.tokens u.kind).counts.getD n 0 ≠ 0) →
      ∃ t, exec i s = .next t ∧ Only s t u.crew (fun _ f => f) ∧ WaitsFor t c (.tokens 255)))
  ∧ (∀ i ∈ [Instr.ifenceD, .ifenceL], ∀ s u pf c, Ready i s u pf c → s.Canonical → c.act ≠ [] → c.crew.pair = none → idle c →
      s.copiesAhead (c.ids c.act) = false →
      ∃ t, exec i s = .next t ∧ GoesOn t c ∧ Only { s with cores := t.cores } t u.crew (fun _ f => f)
        ∧ (∀ j, j ≠ c.core → t.coreAt j = s.coreAt j) ∧ t.coreAt c.core = { s.coreAt c.core with icache := [], ifence := s.now })
  ∧ (∀ i (base : Ctx → Nat) (m : BitVec 2) (off : Int), (∃ (a : BitVec 6) (o : BitVec 4), i = Instr.prefD a m o ∧ off = o.toInt ∧ base = fun c => c.a a)
      ∨ (∃ (a : BitVec 8) (o : BitVec 4), i = Instr.prefL a m o ∧ off = o.toInt ∧ base = fun c => c.a a) →
    ∀ s u pf c, Ready i s u pf c → ∃ t, exec i s = .next t ∧ GoesOn t c ∧ Only (left s t) t u.crew (fun _ f => f)
      ∧ (s.noWatch → t.queues = s.queues ∧ t.wakes = s.wakes) ∧ ((∀ g ∈ c.globalLanes (base c) off 1, g.bad 1 = true) → Only s t u.crew fun _ f => f)
      ∧ (sound s → ∀ b, (∀ pre g post, c.globalLanes (base c) off 1 = pre ++ g :: post →
          ∀ at_ ∈ (pre.foldl (prefLane c m.toNat) (c.start pf s)).entriesOf c.asid (va48 g.ea) { priv := c.priv }, ¬ (at_ ≤ b ∧ b < at_ + 8)) →
        t.byte b = s.byte b))
  ∧ ∀ o : BitVec 21, ∀ i ∈ [Instr.iprefD o, .iprefL o], ∀ s u pf c, Ready i s u pf c → ∃ t, exec i s = .next t ∧ GoesOn t c
      ∧ Only (left s t) t u.crew (fun _ f => f)
      ∧ (s.noWatch → t.queues = s.queues ∧ t.wakes = s.wakes) ∧ (c.act = [] → Only s t u.crew fun _ f => f)
      ∧ (sound s →
        let line := (c.fibre (c.all.headD 0)).codeVa (branchTarget c o) / 64 * 64
        ∀ b, (∀ k, k < 16 → ∀ at_ ∈ ((c.start pf s).fetchWords c.core c.asid c.priv u.crew c.crew.pair line k).1.entriesOf c.asid (line + 4 * k)
            { fetch := true, priv := c.priv }, ¬ (at_ ≤ b ∧ b < at_ + 8)) → t.byte b = s.byte b)

/-- Wherever it is ready, an active lane, its checks passed, no line owned, no error met, no write of its gang's engines
still to leave through an aperture it uses, and the crew unpaired: ATOM completes; each active lane's d receives, with
S = 0, the value that its read-modify-write found, the lanes taken in ascending order; no other register changes. One
lane's read-modify-write on plain memory finds the word at its place and leaves there what the code names of it, b and
d, a failed compare leaving memory alone; no other byte of memory changes where nobody but its fibre awaits the write.
Both texts. (R145, R161, R170, 11) -/
def Obligations.GlobalAtomics : Prop :=
  (∀ i (op : Nat) (d a b : Ctx → Nat),
    (∃ (x y z : BitVec 6) (o : BitVec 3), i = Instr.atomD x y z o ∧ op = o.toNat ∧ (d = fun c => c.d x) ∧ (a = fun c => c.a y) ∧ b = fun c => c.b z)
    ∨ (∃ (x y z : BitVec 8) (o : BitVec 3), i = Instr.atomL x y z o ∧ op = o.toNat ∧ (d = fun c => c.d x) ∧ (a = fun c => c.a y) ∧ b = fun c => c.b z) →
    ∀ s u pf c sw ws s' rs, Ready i s u pf c → c.act ≠ [] → c.crew.pair = none →
      c.checkWith atomPlace { write := true, priv := c.priv } 4 (c.globalLanes (a c) 0 4) (c.start pf s) = .ok (sw, ws) →
      translateLanes c.core c.asid { priv := c.priv } (c.globalLanes (a c) 0 4) { c.start pf s with draws := sw.draws } = (s', rs) →
      failedLanes rs = [] → (∀ g ∈ passedLanes rs, s'.owned (placeOf g / 64) = false ∧ s'.eccAt (placeOf g) 4 = none) →
      c.passesEngine (passedLanes rs) s' = false →
      let r := atomLanes c op (d c) (b c) (passedLanes rs) s'
      ∃ t, exec i s = .next t ∧ GoesOn t c ∧ Only r.1 t u.crew fun p f => match r.2.find? fun x => x.1 == p with
        | some x => f.setReg (d c) (regOf x.2 false)
        | none => f)
  ∧ (∀ c op d b g gs s, atomLanes c op d b (g :: gs) s =
      let r := atomLane c op d b g.1 g.2 s
      ((atomLanes c op d b gs r.1).1, (g.1.idx, r.2) :: (atomLanes c op d b gs r.1).2))
  ∧ ∀ (c : Ctx) op d b g s, op < 8 → s.partials = [] → s.rel.poison = [] → s.rel.correctable = [] →
      inMmio (placeOf g) = false → g.2.enc = false → g.2.snapshot = false → (∀ x, placeOf g ≤ x → x < placeOf g + 4 → s.outsideTables x) →
      s.unawaited (c.u.crew, g.1.idx) (placeOf g) 4 →
      (∀ l n p y, let q := { s.modCore c.core (fun x => { x with l1 := x.l1.filter fun l => l.line != placeOf g / 64 }) with l2 := l, l2Next := n, past := p, sync := y }
        q.translate c.core c.asid (va48 g.1.ea) { write := true, priv := c.priv } = (q, .ok g.2)) →
      let old := leWord (s.bytes (placeOf g) 4)
      let f := c.fibre g.1.idx
      let r := atomLane c op d b g.1 g.2 s
      r.2 = old ∧ r.1.mem = (if op = 7 ∧ old ≠ f.val d then s.mem
        else (s.store (placeOf g) (leBytes 4 (atomicResult op old (f.val b) (f.val d)).toNat)).mem)
        ∧ { r.1 with mem := s.mem, cores := s.cores, l2 := s.l2, l2Next := s.l2Next, past := s.past, sync := s.sync } = s

/-- Wherever it is ready and every lane's access is aligned, inside the crew's scratchpad and sound: LDS completes; it
puts each lane's bytes into its registers with S = 0, plain where the fibre may miss no store made to them; or where
its granule is full; or, consuming, where the lanes' granules are full and distinct, and then sets them empty. STS
completes and writes each lane's bytes, the highest lane's standing, plain; or, its crew unpaired and with no placed
part on its way, filling, and then sets its granules full; or where its granules are empty and distinct, and then sets
them full; its bytes those that no other fibre's unused load awaits. Nothing else of the state changes but what orders
and hides accesses, and control goes on at Next. Any lane at a granule that is not as it needs (empty, for wait-full
and consume; full, for wait-empty) leaves the unit waiting, and where it is the first nothing else has changed. Both
texts. (R125, R127, R168, 11) -/
def Obligations.ScratchpadLoadsAndStores : Prop :=
  let granule := fun (c : Ctx) (a : Nat) (off : Int) (n p : Nat) => (scratchAt c a off n p - c.crew.scrBase) / 16
  let bytesAt := fun (c : Ctx) (a : Nat) (off : Int) (n p : Nat) => getBytes c.crew.scr (scratchAt c a off n p - c.crew.scrBase) n
  let granules := fun (c : Ctx) (a : Nat) (off : Int) (n : Nat) => c.act.map (granule c a off n)
  let whole := fun (z : BitVec 3) => z.toNat ≠ 7
  (∀ z (o : BitVec 4) (i : BitVec 2 → Instr) (d a : Ctx → Nat),
    (∃ x y : BitVec 6, (i = fun m => .ldsD x y z m o) ∧ (d = fun c => c.d x) ∧ a = fun c => c.a y)
      ∨ (∃ x y : BitVec 8, (i = fun m => .ldsL x y z m o) ∧ (d = fun c => c.d x) ∧ a = fun c => c.a y) →
    let n := widthOf z
    let put := fun (c : Ctx) (_ : State) (p : Nat) (f : Fibre) =>
      if p ∈ c.act then loaded z (d c) (bytesAt c (a c) o.toInt n p) f else f
    (∀ s u pf c, Ready (i 0) s u pf c → ScratchReady c (a c) o.toInt n s → whole z → ∃ t, exec (i 0) s = .next t ∧ GoesOn t c)
    ∧ AnswersSeen (i 0) (fun c s => ScratchReady c (a c) o.toInt n s ∧ whole z
        ∧ ∀ p ∈ c.act, ∀ e ∈ s.pastScr, e.meets (some c.u.crew) (scratchAt c (a c) o.toInt n p - c.crew.scrBase) n = true →
          e.missable s.now c.core (c.u.crew, p) = false) (fun _ s => s) put
    ∧ AnswersSeen (i 1) (fun c s => ScratchReady c (a c) o.toInt n s ∧ whole z ∧ ∀ g ∈ granules c (a c) o.toInt n, g ∈ c.crew.full) (fun _ s => s) put
    ∧ AnswersSeen (i 2) (fun c s => ScratchReady c (a c) o.toInt n s ∧ whole z ∧ (granules c (a c) o.toInt n).Nodup
        ∧ ∀ g ∈ granules c (a c) o.toInt n, g ∈ c.crew.full)
      (fun c s => s.modCrew c.u.crew fun k => { k with full := k.full.filter fun g => !(granules c (a c) o.toInt n).contains g }) put
    ∧ ∀ m, m = 1 ∨ m = 2 → ∀ s u pf c, Ready (i m) s u pf c → ScratchReady c (a c) o.toInt n s → whole z →
        ((∃ p ∈ c.act, granule c (a c) o.toInt n p ∉ c.crew.full) → ∃ t, exec (i m) s = .next t ∧ WaitsFor t c .granule)
        ∧ ∀ p ps, c.act = p :: ps → granule c (a c) o.toInt n p ∉ c.crew.full →
          ∃ t, exec (i m) s = .next t ∧ Only s t u.crew (fun _ f => f) ∧ WaitsFor t c .granule)
  ∧ ∀ z (o : BitVec 4) (i : BitVec 2 → Instr) (d a : Ctx → Nat),
    (∃ x y : BitVec 6, (i = fun m => .stsD x y z m o) ∧ (d = fun c => c.d x) ∧ a = fun c => c.a y)
      ∨ (∃ x y : BitVec 8, (i = fun m => .stsL x y z m o) ∧ (d = fun c => c.d x) ∧ a = fun c => c.a y) →
    let n := widthOf z
    let written := fun (c : Ctx) (k : Crew) => c.act.foldl (fun m p =>
      putBytes m (scratchAt c (a c) o.toInt n p - c.crew.scrBase) (stored z (d c) (c.fibre p))) k.scr
    let filled := fun (c : Ctx) (k : Crew) => (granules c (a c) o.toInt n).foldl (fun l g => insertRising g l) k.full
    let alone := fun (c : Ctx) (s : State) => c.crew.pair = none ∧ ∀ x ∈ s.parts, x.crew ≠ c.u.crew
    let unused := fun (c : Ctx) (s : State) => ∀ p ∈ c.act, s.scratchUnawaited (c.u.crew, p) (scratchAt c (a c) o.toInt n p - c.crew.scrBase) n
    AnswersSeen (i 0) (fun c s => ScratchReady c (a c) o.toInt n s ∧ whole z ∧ unused c s) (fun c s => s.modCrew c.u.crew fun k => { k with scr := written c k }) (fun _ _ _ f => f)
    ∧ AnswersSeen (i 1) (fun c s => ScratchReady c (a c) o.toInt n s ∧ whole z ∧ alone c s ∧ unused c s)
      (fun c s => s.modCrew c.u.crew fun k => { k with scr := written c k, full := filled c k }) (fun _ _ _ f => f)
    ∧ AnswersSeen (i 2) (fun c s => ScratchReady c (a c) o.toInt n s ∧ whole z ∧ alone c s ∧ unused c s ∧ (granules c (a c) o.toInt n).Nodup
        ∧ ∀ g ∈ granules c (a c) o.toInt n, g ∉ c.crew.full)
      (fun c s => s.modCrew c.u.crew fun k => { k with scr := written c k, full := filled c k }) (fun _ _ _ f => f)
    ∧ ∀ s u pf c, Ready (i 2) s u pf c → ScratchReady c (a c) o.toInt n s → whole z → alone c s →
        ((∃ p ∈ c.act, granule c (a c) o.toInt n p ∈ c.crew.full) → ∃ t, exec (i 2) s = .next t ∧ WaitsFor t c .granule)
        ∧ ∀ p ps, c.act = p :: ps → granule c (a c) o.toInt n p ∈ c.crew.full →
          ∃ t, exec (i 2) s = .next t ∧ Only s t u.crew (fun _ f => f) ∧ WaitsFor t c .granule

/-- Wherever it is ready and every lane's access is aligned, inside the crew's scratchpad and sound: ATOMS completes and
performs one read-modify-write per active lane in ascending order, each lane's d receiving the old word with S = 0;
ARV, its crew unpaired and with no placed part on its way, completes and arrives at each lane's object in that order,
d receiving over, done and the old phase; an arrival of n at an object with n below PENDING lowers it by n, one of
PENDING or more flips PHASE and reloads PENDING from EXPECT, one of 0 changes nothing; AWT, where every lane's
object's phase differs from its parity, completes and writes the phases read with S = 0; where no other fibre's unused
load awaits a word written. Nothing else changes but what orders and hides accesses, and control goes on at Next. An
AWT whose first lane's phase has the parity leaves the unit waiting. Both texts. (R125, R170, R176, R177, R178, 11) -/
def Obligations.ScratchpadAtomicsAndObjects : Prop :=
  let off := fun (c : Ctx) (a n p : Nat) => scratchAt c a 0 n p - c.crew.scrBase
  let object := fun (m : List Host.Cell) (a : Nat) => leDWord (getBytes m a 8)
  let unused := fun (c : Ctx) (a n : Nat) (s : State) => ∀ p ∈ c.act, s.scratchUnawaited (c.u.crew, p) (off c a n p) n
  (∀ (op : BitVec 3) i (d a b : Ctx → Nat),
    (∃ x y z : BitVec 6, i = Instr.atomsD x y z op ∧ (d = fun c => c.d x) ∧ (a = fun c => c.a y) ∧ b = fun c => c.b z)
      ∨ (∃ x y z : BitVec 8, i = Instr.atomsL x y z op ∧ (d = fun c => c.d x) ∧ (a = fun c => c.a y) ∧ b = fun c => c.b z) →
    let run := fun (c : Ctx) => c.act.foldl (fun (x : List Host.Cell × List (Nat × Word)) p =>
      let old := leWord (getBytes x.1 (off c (a c) 4 p) 4)
      let f := c.fibre p
      (if op = 7 ∧ old ≠ f.val (d c) then x.1
        else putBytes x.1 (off c (a c) 4 p) (leBytes 4 (atomicResult op.toNat old (f.val (b c)) (f.val (d c))).toNat), x.2 ++ [(p, old)])) (c.crew.scr, [])
    AnswersSeen i (fun c s => ScratchReady c (a c) 0 4 s ∧ unused c (a c) 4 s) (fun c s => s.modCrew c.u.crew fun k => { k with scr := (run c).1 })
      fun c _ p f => match (run c).2.find? fun x => x.1 == p with
        | some x => f.setReg (d c) (regOf x.2 false)
        | none => f)
  ∧ (∃ arrival : DWord → Nat → DWord × Word,
      (∀ o n, n < 2 ^ 16 →
        let pending := o.toNat / 2 ^ 16 % 2 ^ 16
        let q := o.getLsbD 32
        (n = 0 → arrival o n = (o, BitVec.ofNat 32 q.toNat))
        ∧ (0 < n → n < pending → (arrival o n).2 = BitVec.ofNat 32 q.toNat
            ∧ (arrival o n).1 = o - BitVec.ofNat 64 (n * 2 ^ 16))
        ∧ (0 < n → pending ≤ n → (arrival o n).2 = BitVec.ofNat 32 ((if pending < n then 4 else 0) + 2 + q.toNat)
            ∧ (arrival o n).1.getLsbD 32 = !q ∧ (arrival o n).1.extractLsb' 16 16 = o.extractLsb' 0 16
            ∧ (arrival o n).1.extractLsb' 0 16 = o.extractLsb' 0 16 ∧ (arrival o n).1.extractLsb' 33 31 = o.extractLsb' 33 31))
      ∧ ∀ i (d a b : Ctx → Nat),
        (∃ x y z : BitVec 6, i = Instr.arvD x y z ∧ (d = fun c => c.d x) ∧ (a = fun c => c.a y) ∧ b = fun c => c.b z)
          ∨ (∃ x y z : BitVec 8, i = Instr.arvL x y z ∧ (d = fun c => c.d x) ∧ (a = fun c => c.a y) ∧ b = fun c => c.b z) →
        let run := fun (c : Ctx) => c.act.foldl (fun (x : List Host.Cell × List (Nat × Word)) p =>
          let r := arrival (object x.1 (off c (a c) 8 p)) (((c.fibre p).val (b c)).toNat % 2 ^ 16)
          (putBytes x.1 (off c (a c) 8 p) (leBytes 8 r.1.toNat), x.2 ++ [(p, r.2)])) (c.crew.scr, [])
        AnswersSeen i (fun c s => ScratchReady c (a c) 0 8 s ∧ c.crew.pair = none ∧ (∀ x ∈ s.parts, x.crew ≠ c.u.crew) ∧ unused c (a c) 8 s) (fun c s => s.modCrew c.u.crew fun k => { k with scr := (run c).1 })
          fun c _ p f => match (run c).2.find? fun x => x.1 == p with
            | some x => f.setReg (d c) (regOf x.2 false)
            | none => f)
  ∧ ∀ i (d a b : Ctx → Nat),
    (∃ x y z : BitVec 6, i = Instr.awtD x y z ∧ (d = fun c => c.d x) ∧ (a = fun c => c.a y) ∧ b = fun c => c.b z)
      ∨ (∃ x y z : BitVec 8, i = Instr.awtL x y z ∧ (d = fun c => c.d x) ∧ (a = fun c => c.a y) ∧ b = fun c => c.b z) →
    let phase := fun (c : Ctx) (p : Nat) => (object c.crew.scr (off c (a c) 8 p)).getLsbD 32
    AnswersSeen i (fun c s => ScratchReady c (a c) 0 8 s ∧ ∀ p ∈ c.act, phase c p ≠ ((c.fibre p).val (b c)).getLsbD 0) (fun _ s => s)
      (fun c _ p f => if p ∈ c.act then f.setReg (d c) (regOf (BitVec.ofNat 32 (phase c p).toNat) false) else f)
    ∧ ∀ s u pf c p ps, Ready i s u pf c → ScratchReady c (a c) 0 8 s → c.act = p :: ps →
        phase c p = ((c.fibre p).val (b c)).getLsbD 0 → ∃ t, exec i s = .next t ∧ Only s t u.crew (fun _ f => f) ∧ WaitsFor t c .object

/-- Wherever it is ready: BAR of an unpaired crew with an active lane, its unit at one PC and no two live bound fibres of
a gang in one lane slot, completes; it leaves the active fibres waiting in the phase, their arrivals counted, where a
live bound fibre of the crew has not arrived; where all have, the phase flips, the arrivals are empty and they go on
at Next; the unit's other fibres go on at Next; registers and predicates are unchanged. BRD reads the bench register
with S = 0, BWR writes it from the highest active lane, BATOM performs one read-modify-write on it per active lane in
ascending order, d receiving the old value with S = 0. Nothing else changes but what orders and hides accesses. Both
texts. (R37, R38, R174, R180, 11, 03) -/
def Obligations.BarriersAndBenchRegisters : Prop :=
  (∀ n : BitVec 4, ∀ i ∈ [Instr.barD n, .barL n], ∀ s u pf c, Ready i s u pf c → c.act ≠ [] → c.crew.pair = none → n.toNat < c.crew.barriers.length →
    (∀ p ∈ c.all, (c.fibre p).pc = c.pc) →
    (∀ p q, (c.fibre p).live = true → (c.fibre q).live = true → (c.fibre p).bound = true → (c.fibre q).bound = true →
      (c.fibre p).gang = (c.fibre q).gang → c.lane p = c.lane q → p = q) →
    let b := c.crew.barriers.getD n.toNat { phase := false, arrived := [] }
    let all := ∀ f ∈ c.crew.fibres, f.live = true → f.bound = true → f.ident ∈ b.arrived ∨ ∃ p ∈ c.act, (c.fibre p).ident = f.ident
    ∃ t k, exec i s = .next t ∧ t.crews[u.crew]? = some k ∧ k.fibres.length = c.crew.fibres.length
      ∧ (all → k.barriers = c.crew.barriers.set n.toNat { phase := !b.phase, arrived := [] }
          ∧ ∀ p ∈ c.act, (k.fibre p).wait = .none ∧ (k.fibre p).pc = nextPcOf c.kind (c.fibre p))
      ∧ (¬ all → (∃ l, k.barriers = c.crew.barriers.set n.toNat { phase := b.phase, arrived := l }
            ∧ ∀ x, x ∈ l ↔ x ∈ b.arrived ∨ ∃ p ∈ c.act, (c.fibre p).ident = x)
          ∧ ∀ p ∈ c.act, (k.fibre p).wait = .bar n.toNat b.phase ∧ (k.fibre p).pc = (c.fibre p).pc)
      ∧ (∀ p ∈ c.all, p ∉ c.act → (k.fibre p).pc = nextPcOf c.kind (c.fibre p))
      ∧ (∀ p, p < c.crew.fibres.length → (k.fibre p).face = (c.fibre p).face)
      ∧ { k with fibres := c.crew.fibres, barriers := c.crew.barriers, bins := c.crew.bins } = c.crew
      ∧ (∀ j, j ≠ u.crew → t.crews[j]? = s.crews[j]?) ∧ { t with crews := s.crews, now := s.now, turn := s.turn, past := s.past, pastScr := s.pastScr } = s)
  ∧ (∀ k d, AnswersSeen (.brdD d k) (fun _ _ => True) (fun _ s => s) fun c _ p f =>
      if p ∈ c.act then f.setReg (c.d d) (regOf (c.crew.bench.getD k.toNat 0) false) else f)
  ∧ (∀ k d, AnswersSeen (.brdL d k) (fun _ _ => True) (fun _ s => s) fun c _ p f =>
      if p ∈ c.act then f.setReg (c.d d) (regOf (c.crew.bench.getD k.toNat 0) false) else f)
  ∧ (∀ (k : BitVec 6) i (a : Ctx → Nat), (∃ r : BitVec 6, i = Instr.bwrD r k ∧ a = fun c => c.a r) ∨ (∃ r : BitVec 8, i = Instr.bwrL r k ∧ a = fun c => c.a r) →
      AnswersSeen i (fun _ _ => True) (fun c s => match c.act.getLast? with
        | some p => s.modCrew c.u.crew fun w => { w with bench := w.bench.set k.toNat ((c.fibre p).val (a c)) }
        | none => s) fun _ _ _ f => f)
  ∧ ∀ (k : BitVec 6) (op : BitVec 3) i (d a : Ctx → Nat),
      (∃ x y : BitVec 6, i = Instr.batomD x y op k ∧ (d = fun c => c.d x) ∧ a = fun c => c.a y)
        ∨ (∃ x y : BitVec 8, i = Instr.batomL x y op k ∧ (d = fun c => c.d x) ∧ a = fun c => c.a y) →
      let run := fun (c : Ctx) => c.act.foldl (fun (x : List Word × List (Nat × Word)) p =>
        let old := x.1.getD k.toNat 0
        (x.1.set k.toNat (atomicResult op.toNat old ((c.fibre p).val (a c)) ((c.fibre p).val (d c))), x.2 ++ [(p, old)])) (c.crew.bench, [])
      AnswersSeen i (fun _ _ => True) (fun c s => s.modCrew c.u.crew fun w => { w with bench := (run c).1 })
        fun c _ p f => match (run c).2.find? fun x => x.1 == p with
          | some x => f.setReg (d c) (regOf x.2 false)
          | none => f

/-- Wherever it is ready, with an active lane: WAITT goes on at Next and changes nothing where every token of its mask is
complete without a fault; leaves the unit waiting where one is pending; and raises the deferred copy fault where all
are complete and one carries it. TOKQ sets its predicate to whether the token is complete, or pending, where it
carries no fault. With no active lane WAITT does nothing. Nothing else changes. Both texts. (R181, R183, R185, R186,
11) -/
def Obligations.TokensAreWaitedForAndQueried : Prop :=
  (∀ m : BitVec 8, ∀ i ∈ [Instr.waittD m, .waittL m], ∀ s u pf c, Ready i s u pf c →
    let k := c.crew.tokens u.kind
    let complete := ∀ n, n < 8 → m.getLsbD n = true → k.counts.getD n 0 = 0
    (c.act = [] ∨ (complete ∧ ∀ d ∈ k.deferred, m.getLsbD d.token = false) →
      ∃ t, exec i s = .next t ∧ Only s t u.crew (fun _ f => f) ∧ GoesOn t c)
    ∧ (c.act ≠ [] → ¬ complete → ∃ t, exec i s = .next t ∧ Only s t u.crew (fun _ f => f) ∧ WaitsFor t c (.tokens m))
    ∧ (c.act ≠ [] → complete → ∀ d ds, k.deferred = d :: ds → m.getLsbD d.token = true →
      exec i s = .next (c.conclude (.deferred (c.start pf s) d)).done))
  ∧ ∀ (p : BitVec 7) (n : BitVec 6) (x : BitVec 2), ∀ i ∈ [Instr.tokqD p n x, .tokqL p n x],
      Answers i (fun c _ => ∀ d ∈ (c.crew.tokens c.u.kind).deferred, d.token ≠ n.toNat) (fun _ s => s) fun c _ q f =>
        if q ∈ c.act then f.setPred p.toNat (decide ((c.crew.tokens c.u.kind).counts.getD n.toNat 0 = 0) != (x == 1)) else f

/-- Wherever it is ready, with an active lane, every operand of every lane aligned, canonical or inside the crew's
scratchpad, no walk held, failing or in error: CPA completes with one lane copy for each active lane appended, of the
form, length, source, destination, token and lane that the operands name, nothing of it done, owning the line of
ordinary memory that it will write; for a bound gang the token's count rises by one; control goes on at Next. No
register changes; memory and the rest of the state are those that the checks leave (Ctx.cpaChecked), which set no D,
but that the core's L1 drops the lines taken and what orders and hides accesses follows; a copy between scratchpad
places changes no byte of memory. Both texts. (R161, R181, R182, 11) -/
def Obligations.CopiesAreHandedToTheEngine : Prop :=
  ∀ (i : Instr) (form n tok : Nat) (a b : Ctx → Nat),
    (∃ (x y : BitVec 6) (z : BitVec 2) (t : BitVec 3) (f : BitVec 4), i = .cpaD x y z t f ∧ form = f.toNat ∧ n = z.toNat ∧ tok = t.toNat ∧ (a = fun c => c.a x) ∧ b = fun c => c.b y)
      ∨ (∃ (x y : BitVec 8) (z : BitVec 2) (t : BitVec 3) (f : BitVec 4), i = .cpaL x y z t f ∧ form = f.toNat ∧ n = z.toNat ∧ tok = t.toNat ∧ (a = fun c => c.a x) ∧ b = fun c => c.b y) →
    ∀ s u pf c, Ready i s u pf c → c.act ≠ [] →
      let len := 4 * 2 ^ n
      let toMem := form = 1 ∨ form = 2
      let fromMem := form = 0 ∨ form = 2
      let dst := fun p => if toMem then (c.fibre p).pair (a c) else ((c.fibre p).val (a c)).setWidth 64
      let src := fun p => if fromMem then (c.fibre p).pair (b c) else ((c.fibre p).val (b c)).setWidth 64
      let sound := fun (global : Prop) [Decidable global] (v : DWord) =>
        if global then (v.toNat < 2 ^ 47 ∨ 2 ^ 64 - 2 ^ 47 ≤ v.toNat) ∧ v.toNat % len = 0
        else v.toNat % len = 0 ∧ c.crew.scrBase ≤ v.toNat ∧ v.toNat + len ≤ c.crew.scrBase + c.crew.desc.scrSize
      (∀ p ∈ c.act, sound toMem (dst p) ∧ sound fromMem (src p)) →
      let begun := c.start pf s
      (toMem → c.walksHeld true (c.act.map dst) begun = false) → (fromMem → c.walksHeld false (c.act.map src) begun = false) →
      c.cpaErrors (a c) (b c) form begun = [] → (c.cpaFailed (a c) (b c) form begun).2 = [] →
      let y := c.cpaChecked (a c) (b c) form begun
      let line := fun p => if toMem then y.engineLine c.core c.asid (va48 (dst p)) else none
      ∃ t, ∃ jobs : List LaneCopy, exec i s = .next t ∧ GoesOn t c ∧ jobs.length = c.act.length
        ∧ Only (({ c.act.foldl (fun z p => match line p with
              | some l => z.dropL1 c.core l
              | none => z) y with past := t.past, pastScr := t.pastScr, sync := t.sync } : State).modCrew u.crew fun k =>
            ({ k with copies := k.copies ++ jobs } : Crew).modTokens u.kind fun x => { x with counts := x.counts.modify tok (· + 1) }) t u.crew (fun _ f => f)
        ∧ (∀ (j p : Nat), c.act[j]? = some p → ∃ x : LaneCopy, jobs[j]? = some x ∧ x.lane = c.lane p ∧ x.form = form ∧ x.len = len ∧ x.token = tok
            ∧ x.unit = u.kind ∧ x.kind = c.kind ∧ x.priv = c.priv ∧ x.pc = c.pc ∧ x.done = 0 ∧ x.bytes = none ∧ x.fault = none
            ∧ x.fibre = p ∧ x.line = line p ∧ x.order = s.tick ∧ x.group = s.tick
            ∧ x.dst.toNat = (if toMem then (dst p).toNat else (dst p).toNat - c.crew.scrBase)
            ∧ x.src.toNat = (if fromMem then (src p).toNat else (src p).toNat - c.crew.scrBase))
        ∧ (form = 3 → t.mem = s.mem)

/-- Wherever it is ready, its lowest active lane's address aligned and inside the crew's scratchpad without an error or a
single-bit error pending, and the block it names within the bounds of R235: MMAF8A, MMAF8B, MMAK8, MMAB16, MMAH16 and
MMAI8 complete and append one operation with the block as captured, that lane, the token and no K-block done, MMAK8
with its scale registers inside that fibre's window, sound in every lane of its gang, and captured; ACCST completes:
to a scratchpad destination inside the crew's scratchpad it appends one tile store with the block, its address taken
from the crew's first byte, to a global one whose rows' ends translate, no walk held or in error, one with the block
as it stands, owning the lines of its rows, which the core's L1 drops, and no row done; memory is then what
translating the rows' ends leaves, a translation that sets no D. The token's count rises by one, nothing else of the
state changes but what orders and hides accesses, and control goes on at Next; with no active lane nothing changes.
Both texts. (R189, R230, R235, R236, R244, 15) -/
def Obligations.MatrixOperationsAreIssued : Prop :=
  let block := fun (c : Ctx) (a n p : Nat) (s : State) (w : List Word) =>
    let at_ := ((c.fibre p).val a).toNat
    at_ % (4 * n) = 0 ∧ c.crew.scrBase ≤ at_ ∧ at_ + 4 * n ≤ c.crew.scrBase + c.crew.desc.scrSize
      ∧ s.scrError c.u.crew (at_ - c.crew.scrBase) (4 * n) = false ∧ s.rel.correctable = []
      ∧ w = (List.range n).map fun i => leWord (getBytes c.crew.scr (at_ - c.crew.scrBase + 4 * i) 4)
  (∀ (i : Instr) (major tok : Nat) (a : Ctx → Nat) (scale : Option ((Ctx → Nat) × Nat)),
    (∃ (x : BitVec 6) (t : BitVec 3), tok = t.toNat ∧ (a = fun c => c.a x) ∧ scale = none
      ∧ (i = .mmaf8aD x t ∧ major = 0x63 ∨ i = .mmaf8bD x t ∧ major = 0x64 ∨ i = .mmab16D x t ∧ major = 0x66 ∨ i = .mmah16D x t ∧ major = 0x67 ∨ i = .mmai8D x t ∧ major = 0x68))
    ∨ (∃ (x : BitVec 8) (t : BitVec 3), tok = t.toNat ∧ (a = fun c => c.a x) ∧ scale = none
      ∧ (i = .mmaf8aL x t ∧ major = 0x63 ∨ i = .mmaf8bL x t ∧ major = 0x64 ∨ i = .mmab16L x t ∧ major = 0x66 ∨ i = .mmah16L x t ∧ major = 0x67 ∨ i = .mmai8L x t ∧ major = 0x68))
    ∨ (∃ (x y : BitVec 6) (n : BitVec 2) (t : BitVec 3), tok = t.toNat ∧ (a = fun c => c.a x) ∧ scale = some ((fun c => c.b y), n.toNat) ∧ i = .mmak8D x y n t ∧ major = 0x65)
    ∨ (∃ (x y : BitVec 8) (n : BitVec 2) (t : BitVec 3), tok = t.toNat ∧ (a = fun c => c.a x) ∧ scale = some ((fun c => c.b y), n.toNat) ∧ i = .mmak8L x y n t ∧ major = 0x65) →
    ∀ s u pf c, Ready i s u pf c →
      (c.act = [] → ∃ t, exec i s = .next t ∧ Only s t u.crew (fun _ f => f) ∧ GoesOn t c)
      ∧ ∀ p ps w, c.act = p :: ps → block c (a c) 8 p s w → mmaReason c.crew major w = none →
        (∀ b n, scale = some (b, n) → b c + (w.getD 5 0).toNat / 128 < 8 * (c.fibre p).size ∧ ∀ q ∈ s.rel.poison, ∀ f r, q = .register u.crew f r → b c ≤ r →
          r ≤ b c + (w.getD 5 0).toNat / 128 → (c.fibre f).gang ≠ (c.fibre (c.all.headD 0)).gang) →
        ∃ t j, exec i s = .next t ∧ GoesOn t c ∧ j.major = major ∧ j.block = w ∧ j.lane = c.lane p ∧ j.token = tok ∧ j.unit = u.kind ∧ j.kind = c.kind ∧ j.pc = c.pc ∧ j.done = 0 ∧ j.failed = false ∧ j.order = s.tick
          ∧ (∀ b n, scale = some (b, n) → ∀ kb, kb < (w.getD 5 0).toNat / 128 →
              j.scaleB.getD kb 0 = c.scaleByte kb (b c + (w.getD 5 0).toNat / 128) n
                ∧ ∀ x, x < 128 → j.scaleA.getD (128 * kb + x) 0 = c.scaleByte (x / 4) (b c + kb) (x % 4))
          ∧ Only (({ s with sync := t.sync } : State).modCrew u.crew fun k => ({ k with mats := k.mats ++ [j] } : Crew).modTokens u.kind fun x =>
              { x with counts := x.counts.modify tok (· + 1) }) t u.crew fun _ f => f)
  ∧ ∀ (i : Instr) (tok : Nat) (a : Ctx → Nat),
    (∃ (x : BitVec 6) (t : BitVec 3), i = .accstD x t ∧ tok = t.toNat ∧ a = fun c => c.a x)
      ∨ (∃ (x : BitVec 8) (t : BitVec 3), i = .accstL x t ∧ tok = t.toNat ∧ a = fun c => c.a x) →
    ∀ s u pf c, Ready i s u pf c →
      (c.act = [] → ∃ t, exec i s = .next t ∧ Only s t u.crew (fun _ f => f) ∧ GoesOn t c)
      ∧ (∀ p ps w, c.act = p :: ps → block c (a c) 4 p s w → accstReason c.crew w = none → (w.getD 2 0).getLsbD 7 = true →
        accstBad c.crew w = none → c.crew.scrBase < 2 ^ 32 →
        ∃ t j, exec i s = .next t ∧ GoesOn t c ∧ j.block = w.set 0 (w.getD 0 0 - BitVec.ofNat 32 c.crew.scrBase) ∧ j.lane = c.lane p ∧ j.token = tok
          ∧ j.unit = u.kind ∧ j.kind = c.kind ∧ j.done = 0 ∧ j.lines = [] ∧ j.fault = none ∧ j.order = s.tick
          ∧ Only (({ s with past := t.past, pastScr := t.pastScr, sync := t.sync } : State).modCrew u.crew fun k => ({ k with stores := k.stores ++ [j] } : Crew).modTokens u.kind fun x =>
              { x with counts := x.counts.modify tok (· + 1) }) t u.crew fun _ f => f)
      ∧ ∀ p ps w, c.act = p :: ps → block c (a c) 4 p s w → accstReason c.crew w = none → (w.getD 2 0).getLsbD 7 = false →
        accstBad c.crew w = none →
        let x := w.getD 2 0
        let dest : DWord := w.getD 1 0 ++ w.getD 0 0
        let gs := (rowEnds dest (storePitch x) (128 * fmtBytes (storeFmt x)) 0).map fun v => { idx := p, base := v, ea := v : GAccess }
        let begun := c.blockRead p (a c) 4 (c.start pf s)
        c.walksHeld true (gs.map GAccess.ea) begun = false → (∀ g ∈ gs, begun.walkError c.core c.asid (va48 g.ea) true = none) →
        let tried := translateLanes c.core c.asid { write := true, priv := c.priv } gs begun
        failedLanes tried.2 = [] →
        let y := (translateLanes c.core c.asid { priv := c.priv } gs (begun.keepDraws tried.1)).1
        let lines := y.rowLines c.core c.asid dest (storePitch x) (128 * fmtBytes (storeFmt x)) 0
        ∃ t j, exec i s = .next t ∧ GoesOn t c ∧ j.block = w ∧ j.lane = c.lane p ∧ j.token = tok ∧ j.unit = u.kind ∧ j.kind = c.kind
          ∧ j.done = 0 ∧ j.lines = lines ∧ j.fault = none ∧ j.order = s.tick
          ∧ Only (({ lines.foldl (fun z l => z.dropL1 c.core l) y with pastScr := t.pastScr, sync := t.sync } : State).modCrew u.crew fun k =>
              ({ k with stores := k.stores ++ [j] } : Crew).modTokens u.kind fun x => { x with counts := x.counts.modify tok (· + 1) }) t u.crew fun _ f => f

/-- Wherever it is ready, every tile named within the crew's and free of the gang's earlier operations, and no error in an
element: ACCRD writes the conversion of each lane's element, a carry or a final conversion, with S the element's S or
its inexactness; ACCWR writes each lane's value with its S to its element in ascending lane order, its tile dirty;
ACCZ makes every element of the tile 0 with S = 0 and changes no other. Nothing else changes and control goes on at
Next. A tile beyond the crew's raises MATRIX-BOUNDS with reason 3: of ACCRD and ACCWR it names the active lanes that
name one, of ACCZ every active lane. Both texts. (R228, R229, R239, R241, R242, R243, 15) -/
def Obligations.AccumulatorElements : Prop :=
  let index := fun (c : Ctx) (a p : Nat) => ((c.fibre p).val a).toNat % 2 ^ 21
  let ready := fun (a : Ctx → Nat) (c : Ctx) (s : State) => (∀ p ∈ c.act, index c (a c) p / 2 ^ 14 < c.crew.desc.accCount
      ∧ c.crew.tileBusy c.u.kind (index c (a c) p / 2 ^ 14) s.tick = false)
    ∧ (∀ q ∈ s.rel.poison, ∀ e, q ≠ .acc c.u.crew e) ∧ s.rel.correctable = []
  (∀ (f e : BitVec 3) i (d a : Ctx → Nat),
    (∃ x y : BitVec 6, i = Instr.accrdD x y f e ∧ (d = fun c => c.d x) ∧ a = fun c => c.a y)
      ∨ (∃ x y : BitVec 8, i = Instr.accrdL x y f e ∧ (d = fun c => c.d x) ∧ a = fun c => c.a y) →
    Answers i (ready a) (fun _ s => s) fun c _ p x => if p ∈ c.act then
        let el := c.crew.elem (index c (a c) p)
        let v := if 6 ≤ f.toNat then Sys2Proof.Machine.Num.fin (decide (el.val.toInt < 0)) el.val.toInt.natAbs 0 else f32 el.val
        let how := if e = 1 ∨ e = 6 then Mode.rn else if e = 2 then .rz else if e = 3 then .ru else if e = 4 then .rd else .rna
        if e = 0 then x.setReg (d c) (regOf (carry v f.toNat).1 (el.s || (carry v f.toNat).2))
        else x.setReg (d c) (regOf (BitVec.ofNat 32 (finalRound v f.toNat how (e == 6)).1) (el.s || (finalRound v f.toNat how (e == 6)).2))
      else x)
  ∧ (∀ i (d a : Ctx → Nat),
    (∃ x y : BitVec 6, i = Instr.accwrD x y ∧ (d = fun c => c.d x) ∧ a = fun c => c.a y)
      ∨ (∃ x y : BitVec 8, i = Instr.accwrL x y ∧ (d = fun c => c.d x) ∧ a = fun c => c.a y) →
    Answers i (ready a) (fun c s => s.modCrew c.u.crew fun k => { k with
      tiles := c.act.foldl (fun m p => sset (regOf 0 false) (index c (a c) p) ((c.fibre p).reg (d c)) m) k.tiles
      tileDirty := c.act.foldl (fun m p => insertRising (index c (a c) p / 2 ^ 14) m) k.tileDirty }) fun _ _ _ f => f)
  ∧ (∀ (n : BitVec 7), ∀ i ∈ [Instr.acczD n, .acczL n], ∀ s u pf c, Ready i s u pf c → c.act ≠ [] → n.toNat < c.crew.desc.accCount →
      c.crew.tileBusy u.kind n.toNat s.tick = false → s.Canonical → (∀ q ∈ s.rel.poison, ∀ e, q ≠ .acc u.crew e) → s.rel.correctable = [] →
      ∃ t m, exec i s = .next t ∧ GoesOn t c
        ∧ Only (s.modCrew u.crew fun k => { k with tiles := m, tileDirty := insertRising n.toNat k.tileDirty }) t u.crew (fun _ f => f)
        ∧ swf (regOf 0 false) m = true
        ∧ ∀ e, sget (regOf 0 false) m e = if e / 2 ^ 14 = n.toNat then regOf 0 false else c.crew.elem e)
  ∧ (∀ i (a : Ctx → Nat),
    (∃ (x y : BitVec 6) (f e : BitVec 3), (i = Instr.accrdD x y f e ∨ i = .accwrD x y) ∧ a = fun c => c.a y)
      ∨ (∃ (x y : BitVec 8) (f e : BitVec 3), (i = Instr.accrdL x y f e ∨ i = .accwrL x y) ∧ a = fun c => c.a y) →
    ∀ s u pf c, Ready i s u pf c →
      let bad := c.act.filter fun p => decide (c.crew.desc.accCount ≤ index c (a c) p / 2 ^ 14)
      bad ≠ [] → exec i s = .next (c.conclude (.raise (c.start pf s) 0x0A 0 3 (bad.map c.lane) [])).done)
  ∧ ∀ (n : BitVec 7), ∀ i ∈ [Instr.acczD n, .acczL n], ∀ s u pf c, Ready i s u pf c → c.act ≠ [] → c.crew.desc.accCount ≤ n.toNat →
      exec i s = .next (c.conclude (.raise (c.start pf s) 0x0A 0 3 (c.act.map c.lane) [])).done

/-- Wherever it is ready: PLI, PLF and PLRED of an unpaired crew, with active lanes none of whose parts has been accepted
and whose operands pass the checks of R111, append one part for each of them with its operand addresses, value, the
translations it carries and their generation, none accepted, and the unit waits for their acceptance; with no active
lane they complete and go on at Next. GENBUMP with an active lane raises the address space's generation by one modulo
2^16 at every die, no other's, and writes it to the descriptor, over pending partials merged; the unit waits until the
older accesses are done; where the descriptor's line is owned it waits for that instead and nothing changes.
Registers, predicates and the other crews are unchanged, but for the lines that the engine operations of the address
space own. Both texts. (R105, R107, R111, R112, R113, R114, 06) -/
def Obligations.PlacedInstructionsIssueTheirParts : Prop :=
  (∀ (i : Instr) (major sv : Nat) (d a b : Ctx → Nat),
    (∃ (x y z : BitVec 6) (o : BitVec 3), sv = o.toNat ∧ (d = fun c => c.d x) ∧ (a = fun c => c.a y) ∧ (b = fun c => c.b z)
      ∧ (i = .pliD x y z o ∧ major = 0x6D ∨ i = .plfD x y z o ∧ major = 0x6E))
    ∨ (∃ (x y z : BitVec 8) (o : BitVec 3), sv = o.toNat ∧ (d = fun c => c.d x) ∧ (a = fun c => c.a y) ∧ (b = fun c => c.b z)
      ∧ (i = .pliL x y z o ∧ major = 0x6D ∨ i = .plfL x y z o ∧ major = 0x6E))
    ∨ (∃ (x y : BitVec 6) (o : BitVec 3), sv = o.toNat ∧ (d = fun c => c.d x) ∧ (a = fun c => c.a y) ∧ (b = fun _ => 0) ∧ i = .plredD x y o ∧ major = 0x6F)
    ∨ (∃ (x y : BitVec 8) (o : BitVec 3), sv = o.toNat ∧ (d = fun c => c.d x) ∧ (a = fun c => c.a y) ∧ (b = fun _ => 0) ∧ i = .plredL x y o ∧ major = 0x6F) →
    ∀ s u pf c, Ready i s u pf c →
      (c.act = [] → ∃ t, exec i s = .next t ∧ Only s t u.crew (fun _ f => f) ∧ GoesOn t c)
      ∧ (c.act ≠ [] → c.crew.pair = none → (∀ p ∈ c.act, (c.fibre p).accepted = none) →
        ∀ s' good, c.checkLines major sv (c.act.map fun p => { lane := c.lane p, fibre := p, d := (c.fibre p).pair (d c), a := (c.fibre p).pair (a c),
                                                               b := (c.fibre p).pair (b c), value := (c.fibre p).val (a c) }) (c.start pf s) = .ok (s', good) →
        ∃ t, ∃ parts : List Part, exec i s = .next t ∧ WaitsFor t c .parts ∧ Only { s' with parts := s.parts ++ parts } t u.crew (fun _ f => f)
          ∧ parts.length = c.act.length
          ∧ ∀ (j p : Nat), c.act[j]? = some p → ∃ (x : Part) (g : Lines × Translation × Translation × Translation), parts[j]? = some x ∧ good[j]? = some g
              ∧ g.1.fibre = p ∧ x.td = g.2.1 ∧ x.ta = g.2.2.1 ∧ x.tb = g.2.2.2 ∧ x.pd = x.td.pa (va48 x.d) ∧ x.pa = x.ta.pa (va48 x.a)
              ∧ x.pb = x.tb.pa (va48 x.b) ∧ x.order = s.tick ∧ ((∀ q ∈ c.all, (c.fibre q).accepted = none) → x.issue = s.tick) ∧ x.priv = c.priv ∧ x.crew = u.crew ∧ x.unit = u.kind ∧ x.fibre = p ∧ x.lane = c.lane p
              ∧ x.asid = c.asid ∧ x.major = major ∧ x.s = sv ∧ x.d = (c.fibre p).pair (d c) ∧ x.a = (c.fibre p).pair (a c)
              ∧ x.b = (c.fibre p).pair (b c) ∧ x.value = (c.fibre p).val (a c) ∧ x.gen = s.gen c.asid ∧ x.accepted = false))
  ∧ ∀ i ∈ [Instr.genbumpD, .genbumpL], ∀ s u pf c, Ready i s u pf c → s.Canonical →
      (c.act = [] → ∃ t, exec i s = .next t ∧ Only s t u.crew (fun _ f => f) ∧ GoesOn t c)
      ∧ (c.act ≠ [] → s.spaceHeld c.asid = true → ∃ t, exec i s = .next t ∧ Only s t u.crew (fun _ f => f) ∧ WaitsFor t c .held)
      ∧ (c.act ≠ [] → s.spaceHeld c.asid = false → ∃ t, exec i s = .next t ∧ WaitsFor t c .genbump
        ∧ (s.noWatch → t.queues = s.queues ∧ t.wakes = s.wakes)
        ∧ Only { s.walked t with gens := t.gens, spaces := t.spaces, traps := t.traps, draws := s.draws, queues := t.queues, wakes := t.wakes, bumps := s.bumps ++ [{ asid := c.asid, unit := u }],
                                      crews := ((c.start pf s).bumpGen c.asid).crews } t u.crew (fun _ f => f)
        ∧ (∀ j k, s.crews[j]? = some k → ∃ k', t.crews[j]? = some k'
            ∧ k'.copies.map (fun x => { x with line := none }) = k.copies.map (fun x => { x with line := none })
            ∧ k'.stores.map (fun x => { x with lines := [] }) = k.stores.map (fun x => { x with lines := [] })
            ∧ (j ≠ u.crew → { k' with copies := k.copies, stores := k.stores } = k)
            ∧ (j ≠ u.crew → k.desc.asid ≠ c.asid → k' = k))
        ∧ (∀ die, die < 9 → t.genAt c.asid die = (s.gen c.asid + 1) % 2 ^ 16)
        ∧ (∀ x die, x ≠ c.asid → die < 9 → t.genAt x die = s.genAt x die)
        ∧ ∀ at_, s.spaceAt? c.asid = some at_ → s.partials = [] →
            t.mem = (s.store (at_ + 0x10) (leBytes 4 ((s.gen c.asid + 1) % 2 ^ 16))).mem)

/-- Wherever it is ready and no walk of its lanes is held or meets an error, XLQ completes; it changes no register but
each active lane's pair and nothing else but the count of free values. Where no cached entry differs from the tables
it writes to the pair, with S = 0, the words of R7 for the lane's address as a walk for the unit's privilege gives it,
or those of an address that does not translate: word 0 with the generation, the size, X, W, ENC, NS, the effective
executor, its stack and channel, those of a CXL or MMIO frame being CORE and 0; word 1 with PA[47:16] of the frame.
CHUNK, every record aligned, translated, sound and free, the crew unpaired, completes and writes to each lane's pair
with S = 0 the start and length it draws, the lanes in ascending order; a draw takes the remaining items shared by
twice the participants, at least the minimum, at most what remains, and 0 items where none remain. Both texts. (R7,
R103, R110, R117, 01, 06) -/
def Obligations.QueriesAndChunkDraws : Prop :=
  let free := fun (a : Ctx → Nat) (c : Ctx) (s : State) => c.walksHeld false ((c.xlqAccesses (a c)).map GAccess.ea) s = false
    ∧ c.walkErrors false (c.xlqAccesses (a c)) s = []
  (∀ i (d a : Ctx → Nat),
    (∃ x y : BitVec 6, i = Instr.xlqD x y ∧ (d = fun c => c.d x) ∧ a = fun c => c.a y) ∨ (∃ x y : BitVec 8, i = Instr.xlqL x y ∧ (d = fun c => c.d x) ∧ a = fun c => c.a y) →
    let tr := fun (c : Ctx) (s : State) (v : DWord) =>
      if v.toNat < 2 ^ 47 ∨ 2 ^ 64 - 2 ^ 47 ≤ v.toNat then (match s.walk c.asid (v.toNat % 2 ^ 48) { priv := c.priv } with
        | .ok w => some w.tr
        | .error _ => none)
      else none
    Answers i (fun c s => free a c s ∧ ∀ p ∈ c.act, ∀ e ∈ (s.coreAt c.core).tlb,
        e.covers c.asid (s.gen c.asid) (((c.fibre p).pair (a c)).toNat % 2 ^ 48) = true →
        s.walkAgrees c.asid (((c.fibre p).pair (a c)).toNat % 2 ^ 48) e = true) (fun _ s => s)
      fun c s p f => if p ∈ c.act then
        let t := tr c s ((c.fibre p).pair (a c))
        (f.setReg (d c) (regOf (xlqWord0 (s.gen c.asid) t) false)).setReg (d c + 1) (regOf (xlqWord1 t) false)
      else f)
  ∧ (∀ i (d a : Ctx → Nat),
    (∃ x y : BitVec 6, i = Instr.xlqD x y ∧ (d = fun c => c.d x) ∧ a = fun c => c.a y) ∨ (∃ x y : BitVec 8, i = Instr.xlqL x y ∧ (d = fun c => c.d x) ∧ a = fun c => c.a y) →
    ∀ s u pf c, Ready i s u pf c → free a c s → ∃ t, ∃ w : Nat → Word × Word, exec i s = .next t ∧ GoesOn t c
      ∧ Only { s with draws := t.draws } t u.crew fun p f =>
          if p ∈ c.act then (f.setReg (d c) (regOf (w p).1 false)).setReg (d c + 1) (regOf (w p).2 false) else f)
  ∧ (∀ (t : Translation) k, k < 32 → (xlqWord1 (some t)).getLsbD k = t.frame.testBit (k + 16))
  ∧ (∀ g (t : Translation), g < 2 ^ 16 → t.size < 3 → inDram t.frame = false →
      let w := xlqWord0 g (some t)
      w.extractLsb' 16 16 = BitVec.ofNat 16 g ∧ w.extractLsb' 14 2 = BitVec.ofNat 2 t.size ∧ w.getLsbD 13 = t.x1 ∧ w.getLsbD 12 = t.w1
        ∧ w.getLsbD 11 = t.enc ∧ w.getLsbD 10 = t.ns ∧ w.extractLsb' 0 10 = 0)
  ∧ (∀ g, g < 2 ^ 16 → xlqWord0 g none = BitVec.ofNat 32 (g * 2 ^ 16 + 3) ∧ xlqWord1 none = 0)
  ∧ (∀ g (t : Translation), g < 2 ^ 16 → t.size < 3 → inDram t.frame = true →
      let w := xlqWord0 g (some t)
      w.extractLsb' 16 16 = BitVec.ofNat 16 g ∧ w.extractLsb' 14 2 = BitVec.ofNat 2 t.size ∧ w.getLsbD 13 = t.x1 ∧ w.getLsbD 12 = t.w1
        ∧ w.getLsbD 11 = t.enc ∧ w.getLsbD 10 = t.ns ∧ w.extractLsb' 2 3 = BitVec.ofNat 3 (t.frame / 2 ^ 38)
        ∧ (t.ex = 0 → w.extractLsb' 0 2 = 0 ∧ w.extractLsb' 5 5 = 0) ∧ (t.ex = 1 ∨ t.ex = 2 ∧ t.enc = true → w.extractLsb' 0 2 = 1 ∧ w.extractLsb' 5 5 = 0)
        ∧ (t.ex = 2 → t.enc = false → w.extractLsb' 0 2 = 2 ∧ w.extractLsb' 5 5 = BitVec.ofNat 5 (t.frame / 2 ^ 31)))
  ∧ (∀ i (d a : Ctx → Nat),
    (∃ x y : BitVec 6, i = Instr.chunkD x y ∧ (d = fun c => c.d x) ∧ a = fun c => c.a y) ∨ (∃ x y : BitVec 8, i = Instr.chunkL x y ∧ (d = fun c => c.d x) ∧ a = fun c => c.a y) →
    ∀ s u pf c s' good, Ready i s u pf c → c.act ≠ [] → c.crew.pair = none →
      (∀ p ∈ c.act, let v := (c.fibre p).pair (a c); (v.toNat < 2 ^ 47 ∨ 2 ^ 64 - 2 ^ 47 ≤ v.toNat) ∧ v.toNat % 16 = 0) →
      c.checkLines 0x6F 0 (c.act.map fun p => { lane := c.lane p, fibre := p, d := (c.fibre p).pair (a c), a := 0, b := 0, value := 0 }) (c.start pf s)
        = .ok (s', good) →
      (∀ g ∈ good, s'.owned (g.2.1.pa (va48 g.1.d) / 64) = false ∧ s'.eccAt (g.2.1.pa (va48 g.1.d)) 16 = none) →
      let r := chunkLanes c good s'
      ∃ t, exec i s = .next t ∧ GoesOn t c ∧ Only r.1 t u.crew fun p f => match r.2.find? fun x => x.1 == p with
        | some x => f.setPair (d c) x.2 false
        | none => f)
  ∧ (∀ (c : Ctx) l t ta tb s, s.partials = [] → s.rel.poison = [] → s.rel.correctable = [] → inMmio (t.pa (va48 l.d)) = false → t.enc = false →
      t.snapshot = false → (∀ x, t.pa (va48 l.d) ≤ x → x < t.pa (va48 l.d) + 4 → s.outsideTables x) →
      s.unawaited (c.u.crew, l.fibre) (t.pa (va48 l.d)) 4 →
      let pa := t.pa (va48 l.d)
      let w := fun i => leNat (s.bytes (pa + 4 * i) 4)
      let x := chunkDraw (w 0) (w 1) (w 2) (w 3)
      let r := chunkLanes c [(l, t, ta, tb)] s
      r.2 = [(l.fibre, BitVec.ofNat 64 (x.1 + 2 ^ 32 * x.2.1))] ∧ r.1.mem = (s.store pa (leBytes 4 x.2.2)).mem
        ∧ { r.1 with mem := s.mem, cores := s.cores, l2 := s.l2, l2Next := s.l2Next, past := s.past, sync := s.sync } = s)
  ∧ (∀ next last p least, next < last → ∃ len, chunkDraw next last p least = (next, len, next + len)
      ∧ len ≤ last - next ∧ (least ≤ last - next → least ≤ len) ∧ last - next ≤ 2 * (max p 1) * len
      ∧ (len = last - next ∨ len = least ∨ 2 * (max p 1) * (len - 1) < last - next))
  ∧ ∀ next last p least, last ≤ next → chunkDraw next last p least = (next, 0, next)

/-- Wherever a unit's turn has come, nothing waited for, no point stopping it, an instruction raises ILLEGAL-OP where its
encoding does, naming every active lane; else ILLEGAL-FIELD where its encoding, an operand's alignment under REP or a
step for a field it lacks does; else ILLEGAL-LOOSE where it needs a bound fibre and a loose fibre issues it; else
PRIVILEGE where it is privileged and a fibre of the unit is not; else WINDOW naming those of the lanes whose registers
it reads (every active lane, of an MMA or ACCST the elected one) an operand of which lies outside their window; else,
on a core whose kind executes it and in a crew without mirroring, ECC naming every active lane that reads a register
whose value or S bit holds an uncorrectable error, each with the register's number, INFO telling the first lane's
unit, 0 or 1 (which it tells where lanes differ is the model's choice, log 18; an instruction that reads no S meets no
error of an S bit); a mirrored crew whose mirrors stand runs its own effect, the reads it was served logged, single-
bit errors corrected and logged, and the errors gone that stood in what it has written (that a write ends them is the
model's reading, log 18). Its own effect has not begun where a fault is raised, so registers, memory and every other
part of the state are as they were before the fault is taken. Both texts, every instruction. (R34, R46, R52, R60,
R285, R337, R338, 04, 23) -/
def Obligations.ChecksRaiseInOrder : Prop :=
  ∀ (i : Instr) (body : Ctx → State → Eff), (∀ x, exec i x = issue i body x) →
    ∀ s u pf c, s.turn = some (.issue u pf) → s.ctx? u pf = some c → c.loosePending = [] →
      c.tokenWait pf (c.fibre (c.all.headD 0)).hdrWord s = none →
      c.mustStop = false → c.stalled i = false →
      let rep := (c.fibre (c.all.headD 0)).rep
      let raise := fun (cause : Nat) (ls : List Nat) => exec i s = .next (c.conclude (.raise (c.start pf s) cause 0 0 ls [])).done
      let field := i.encFault pf = some .illegalField ∨ (rep.map (stepFault i.info)).getD false = true
        ∨ ∃ o ∈ c.operands i.info, (o.1.num + o.2) % o.1.align ≠ 0
      let loose := i.info.loose = true ∧ ∃ p ∈ c.all, (c.fibre p).bound = false
      let priv := i.info.priv = true ∧ ∃ p ∈ c.all, (c.fibre p).priv = false
      let out := (c.readers i).filter fun p => Instr.tooWide c.kind i || (c.operands i.info).any fun o => outside o.1 o.2 (c.fibre p)
      (i.encFault pf = some .illegalOp → raise 0x01 (c.act.map c.lane))
      ∧ (i.encFault pf ≠ some .illegalOp → field → raise 0x02 (c.act.map c.lane))
      ∧ (i.encFault pf ≠ some .illegalOp → ¬ field → loose → raise 0x04 (c.act.map c.lane))
      ∧ (i.encFault pf ≠ some .illegalOp → ¬ field → ¬ loose → priv → raise 0x05 (c.act.map c.lane))
      ∧ (i.encFault pf ≠ some .illegalOp → ¬ field → ¬ loose → ¬ priv → out ≠ [] → raise 0x06 (out.map c.lane))
      ∧ (let passes := i.encFault pf = none ∧ ¬ field ∧ ¬ loose ∧ ¬ priv ∧ out = [] ∧ (c.kind = .sequencer → i.info.seq = true)
        (passes → c.crew.mirror = false → ∀ e es, s.badRegs c i = e :: es →
          exec i s = .next (c.conclude (.raise (c.start pf s) 0x10 0 e.2.1 ((e :: es).map fun y => y.1) ((e :: es).map fun y => (y.1, [y.2.2, 0])))).done)
        ∧ (passes → c.crew.mirror = true → (c.start pf s).mirroring c.core = true →
          exec i s = .next (c.conclude (((body c ((c.start pf s).serveRegs c i)).fresh ((c.start pf s).staleRegs c i)).used c i)).done))
      ∧ ∀ y ∈ s.badRegs c i, ∃ p ∈ c.act, y.1 = c.lane p ∧ y.2.2 ∈ numbersOf (c.sources i)
          ∧ (y.2.1 = 0 ∧ s.rel.poison.contains (.register u.crew p y.2.2) = true ∨ y.2.1 = 1 ∧ i.ignoresS = false ∧ s.rel.poison.contains (.sticky u.crew p y.2.2) = true)

/-- Where a unit's turn has come, nothing waited for, no REP under way and its fibres unprivileged and bound, SWRITE of a
legal index, GENBUMP, CKPT and HALT raise PRIVILEGE naming every active lane, with no effect. No other instruction of
a text is privileged. Both texts. (R60, R66, R107, R298, R299, 05) -/
def Obligations.PrivilegedInstructions : Prop :=
  (∀ i ∈ [Instr.genbumpD, .genbumpL, .ckptD, .ckptL, .haltD, .haltL], ∀ s u pf c, s.turn = some (.issue u pf) → s.ctx? u pf = some c →
      c.loosePending = [] → c.tokenWait pf (c.fibre (c.all.headD 0)).hdrWord s = none → c.atDovetail = false →
      (c.fibre (c.all.headD 0)).rep = none → pf.guard.toNat < 96 → (∀ p ∈ c.all, (c.fibre p).bound = true) → (∃ p ∈ c.all, (c.fibre p).priv = false) →
      exec i s = .next (c.conclude (.raise (c.start pf s) 0x05 0 0 (c.act.map c.lane) [])).done)
  ∧ (∀ i, (∃ (a : BitVec 6) (x : BitVec 9), (x = 19 ∨ x = 20) ∧ i = Instr.swriteD a x) ∨ (∃ (a : BitVec 8) (x : BitVec 9), (x = 19 ∨ x = 20) ∧ i = Instr.swriteL a x) →
      ∀ s u pf c, s.turn = some (.issue u pf) → s.ctx? u pf = some c →
      c.loosePending = [] → c.tokenWait pf (c.fibre (c.all.headD 0)).hdrWord s = none → c.atDovetail = false →
      (c.fibre (c.all.headD 0)).rep = none → pf.guard.toNat < 96 → (∀ p ∈ c.all, (c.fibre p).bound = true) → (∃ p ∈ c.all, (c.fibre p).priv = false) →
      exec i s = .next (c.conclude (.raise (c.start pf s) 0x05 0 0 (c.act.map c.lane) [])).done)
  ∧ ∀ i : Instr, i.info.priv = true → i ∈ [Instr.genbumpD, .genbumpL, .ckptD, .ckptL, .haltD, .haltL] ∨ (∃ a x, i = .swriteD a x) ∨ ∃ a x, i = .swriteL a x

/-- For every core, address space, address and need: a translation changes nothing of the state but memory, that core's
cached translations, the count of free values, the record of what was overwritten, partials merged, the keys they
take, the queue of a WAITSIG that waits, and the log of the single-bit errors that it corrects; with no partial and no
single-bit error pending: where it fails, every byte outside the stage-2 entries that its walk used reads as before;
for a read, every byte outside those and the leaf entries the walk used; and the place it gives is the frame of a page
that holds the address, plus the offset in the page. (R94, R96, R98, R105, 06) -/
def Obligations.TranslationLeavesMemoryAlone : Prop :=
  ∀ (s : State) (core asid va : Nat) (need : Need), s.Canonical →
    let r := s.translate core asid va need
    { r.1.walked s with queues := s.queues, wakes := s.wakes, rel := s.rel, aon := s.aon } = s
    ∧ (s.rel.correctable = [] → r.1.rel = s.rel ∧ r.1.aon = s.aon) ∧ (s.noWatch → r.1.queues = s.queues ∧ r.1.wakes = s.wakes)
    ∧ (∀ k, k ≠ core → r.1.coreAt k = s.coreAt k)
    ∧ { r.1.coreAt core with tlb := [] } = { s.coreAt core with tlb := [] }
    ∧ (s.partials = [] → s.rel.correctable = [] → ∀ e, r.2 = .error e → ∀ a, (∀ x ∈ s.stage2Used asid va need, ¬ (x ≤ a ∧ a < x + 8)) → r.1.byte a = s.byte a)
    ∧ (s.partials = [] → s.rel.correctable = [] → need.write = false → ∀ a, (∀ x ∈ s.stage2Used asid va need, ¬ (x ≤ a ∧ a < x + 8)) → (∀ w, s.walk asid va need = .ok w → ∀ e ∈ w.used, ¬ (e ≤ a ∧ a < e + 8)) → r.1.byte a = s.byte a)
    ∧ (∀ t, r.2 = .ok t → t.pa va = t.frame + va % (if t.size = 0 then 2 ^ 16 else if t.size = 1 then 2 ^ 21 else 2 ^ 30))

/-- Right after reset: no crew, launch, queue state, wake, graph, part, partial, GENBUMP or fence, no descriptor or trap
table latched, no L2 sector valid; every generation 0; every core's carve-out 0 and cycle counter 0, its caches empty;
every base register unlocked, so that no table is walked; the producer index of the error ring 0; every island at its
nominal clock; no bring-up step done; memory and every other sparse list in canonical form. What the spec gives no
reset value for is not spoken of (log 3). (R105, R123, R352, R356, R357, R358, 24) -/
def Obligations.ResetLeavesAsSaid : Prop :=
  let s := State.reset
  s.crews = [] ∧ s.launches = [] ∧ s.queues = [] ∧ s.graphs = [] ∧ s.parts = [] ∧ s.partials = [] ∧ s.rel.fenced = []
  ∧ s.wakes = [] ∧ s.bumps = [] ∧ s.spaces = [] ∧ s.traps = [] ∧ s.l2 = [] ∧ s.l2Next = [] ∧ s.sync.early = [] ∧ s.past = [] ∧ s.pastScr = [] ∧ s.outbound = [] ∧ s.replies = []
  ∧ (∀ asid die, s.genAt asid die = 0)
  ∧ (∀ n, (s.coreAt n).carve = 0 ∧ s.clk n = 0 ∧ (s.coreAt n).l1 = [] ∧ (s.coreAt n).tlb = [])
  ∧ s.aon.bases.length = 6 ∧ (∀ r ∈ s.aon.bases, r.getLsbD 0 = false) ∧ (∀ k, s.table? k = none)
  ∧ s.aon.producer = 0 ∧ s.aon.bringUp = 0
  ∧ (∀ i, i < 24 → s.power.islands.getD i 0 = if i % 3 = 2 then 2800 else 1400)
  ∧ (∀ i, 24 ≤ i → i < 32 → s.power.islands.getD i 0 = 1400)
  ∧ s.Canonical

/-- For every state whose memory is in canonical form, whatever instruction issues, whatever event takes place, whatever
fault is taken: where a step gives a next state, its memory is in canonical form too, so that equal memories are equal
data. (R99, 06, 08) -/
def Obligations.MemoryStaysCanonical : Prop :=
  ∀ s t, s.MemoryCanonical → step s = .next t → t.MemoryCanonical

/-- For every state whose cores, queues, graph slots, generations, latched descriptors, key owners, registers of the
always-on domain, crew scratchpads and accumulator tiles are in canonical form: where a step gives a next state, they
are in canonical form there too. (R105, R125, R228, R229, 08, 15) -/
def Obligations.ListsStayCanonical : Prop :=
  ∀ s t, s.ListsCanonical → step s = .next t → t.ListsCanonical

/-- For every instruction of either text and every prefix that are well formed, with every operand at every value the
encoding admits: the instruction has an encoding, of one base word in D and of an extension word and a base word in L,
and decoding those words gives back exactly the prefix and the instruction. Events have no encoding. (R46, R47, R48,
R49, R50, R51, R57, 04) -/
def Obligations.DecodingAnEncodingGivesTheInstruction : Prop :=
  (∀ pf i, WellFormed pf i → i.info.text = .d → ∃ w, encode pf i = some [w] ∧ decodeD w = .ok (pf, i))
  ∧ (∀ pf i, WellFormed pf i → i.info.text = .l → ∃ x w, encode pf i = some [x, w] ∧ decodeL x w = .ok (pf, i))
  ∧ ∀ pf i, i.info.text = .event → encode pf i = none

/-- Where a unit's turn has come and its latched words decode, the step is the meaning of that instruction with its
prefix: in D the word at the PC's place in its clause, in L its doubleword; a unit of D at an issue point enters its
clause, one of L first fetches its doubleword, and reads again the REP of repeats under way. An event's turn runs the
event. Where no turn stands, the step is that of one of the enabled moves, or, where there is none, only counts;
before it a queue that is not ready gives up a positive deficit, the end of a launch enters the event queue, a sector
may leave its L2 slice, merging the partials of its line (log 49), and an error may strike storage, which is the
model's choice (log 18); these change nothing else. (R24, R32, R39, R41, R46, 04, 03) -/
def Obligations.AStepRunsTheDecodedInstruction : Prop :=
  (∀ s u pf0 c pf i, s.turn = some (.issue u pf0) → s.ctx? u Prefix.plain = some c →
      (c.kind.isL = false ∧ (c.fibre (c.all.headD 0)).clause ≠ []
          ∧ decodeD ((c.fibre (c.all.headD 0)).clause.getD (((c.fibre (c.all.headD 0)).pc - (c.fibre (c.all.headD 0)).hdr).toNat / 4 - 1) 0) = .ok (pf, i)
        ∨ ∃ x w, c.kind.isL = true ∧ (c.fibre (c.all.headD 0)).clause = [x, w] ∧ decodeL x w = .ok (pf, i)) →
      step s = exec i { s with turn := some (.issue u pf) })
  ∧ (∀ s u pf0 c, s.turn = some (.issue u pf0) → s.ctx? u Prefix.plain = some c → c.kind.isL = false →
      (c.fibre (c.all.headD 0)).clause = [] → step s = exec .clauseEntry { s with turn := some (.event .clauseEntry { unit := u }) })
  ∧ (∀ s s' u pf0 c x w pf i, s.turn = some (.issue u pf0) → s.ctx? u Prefix.plain = some c → c.kind.isL = true →
      (c.fibre (c.all.headD 0)).clause = [] → (∀ p ∈ c.all, (c.fibre p).rep = none) → c.fetchWaits (c.fibre (c.all.headD 0)).pc 2 s = false →
      c.code (c.fibre (c.all.headD 0)).pc 2 s = (s', .ok [x, w]) → decodeL x w = .ok (pf, i) →
      step s = exec i { s'.modFibres u.crew c.all (fun _ f => { f with clause := [x, w], wait := .none }) with turn := some (.issue u pf) })
  ∧ (∀ s s' s'' u pf0 c x w y pf i (r : Rep), s.turn = some (.issue u pf0) → s.ctx? u Prefix.plain = some c → c.kind.isL = true →
      (c.fibre (c.all.headD 0)).clause = [] → (c.fibre (c.all.headD 0)).rep = some r → r.k ≠ 0 →
      c.fetchWaits (c.fibre (c.all.headD 0)).pc 2 s = false → c.fetchWaits ((c.fibre (c.all.headD 0)).pc - 4) 1 s = false →
      c.code (c.fibre (c.all.headD 0)).pc 2 s = (s', .ok [x, w]) → c.code ((c.fibre (c.all.headD 0)).pc - 4) 1 s' = (s'', .ok [y]) →
      decodeL x w = .ok (pf, i) →
      step s = exec i { s''.modFibres u.crew c.all (fun _ f => { f with clause := [x, w], wait := .none, rep := f.rep.map fun q => q.reread y })
        with turn := some (.issue u pf) })
  ∧ (∀ s i a, s.turn = some (.event i a) → i.info.text = .event → step s = exec i s)
  ∧ (∀ s, s.turn = none → s.dropIdle.tellOver.moves = [] → step s = .next { s.dropIdle.tellOver.strike.evict with now := s.now + 1 })
  ∧ (∀ s, s.turn = none → s.dropIdle.tellOver.moves ≠ [] → ∃ m ∈ s.dropIdle.tellOver.moves,
      step s = step (State.evict (State.strike { s.dropIdle.tellOver with
        turn := some m.turn
        inbox := match m.input with
          | some n => s.inbox.eraseIdx n
          | none => s.inbox })))
  ∧ (∀ s : State, { s.dropIdle with queues := s.queues } = s)
  ∧ (∀ s : State, { s.tellOver with launches := s.launches, queues := s.queues, wakes := s.wakes, graphs := s.graphs } = s
      ∧ s.tellOver.launches.map (fun x => { x with told := false }) = s.launches.map fun x => { x with told := false })
  ∧ (∀ s : State, { s.evict with
          l2 := s.l2, l2Next := s.l2Next, rel := s.rel, mem := s.mem, past := s.past, partials := s.partials, encOwner := s.encOwner,
          queues := s.queues, wakes := s.wakes } = s
      ∧ (s.partials = [] → { s.evict with l2 := s.l2, l2Next := s.l2Next, rel := s.rel } = s)
      ∧ { s.evict.rel with poison := s.rel.poison } = s.rel
      ∧ ∀ q ∈ s.evict.rel.poison, q ∈ s.rel.poison)
  ∧ ∀ s : State, { s.strike with rel := s.rel } = s ∧ { s.strike.rel with poison := s.rel.poison, correctable := s.rel.correctable } = s.rel
      ∧ (∀ q ∈ s.rel.poison, q ∈ s.strike.rel.poison) ∧ ∀ q ∈ s.rel.correctable, q ∈ s.strike.rel.correctable

/-- The words that chapters 04, 05 and 14 work out decode to their instructions: guarded IADD in both texts, FFMA with its
L addend and with the L-only registers, LD with a negative offset, guarded BRA, REP, DVT, SREAD, MOVHI, ICMP,
FORK.try, IMAD in both texts, VBAL under a high guard, REDL, FADD, FMAX, FCMPX, FSPF, HADD2, HFMA2, two CVTs and PKB;
the clause header of the dovetail example has its fields; a word of a reserved major is ILLEGAL-OP. (R40, R46, R47,
R48, R50, R51, R57, 04, 05, 14) -/
def Obligations.WordsOfTheSpecDecode : Prop :=
  let p := Prefix.plain
  decodeD 0x21428C3A = .ok ({ p with guard := 2, neg := true }, .iaddD 5 6 7 2)
  ∧ decodeL 0x00000014 0x20028C3A = .ok ({ p with guard := 2, neg := true }, .iaddL 5 6 7 2)
  ∧ decodeD 0x66041250 = .ok (p, .ffmaD 8 9 10 0) ∧ decodeL 0x00002000 0x66041250 = .ok (p, .ffmaL 8 9 10 0 8)
  ∧ decodeL 0x00C20C00 0x66041250 = .ok (p, .ffmaL 200 9 10 0 131)
  ∧ decodeD 0xA006088E = .ok (p, .ldD 12 4 2 0 14) ∧ decodeL 0 0xA006088E = .ok (p, .ldL 12 4 2 0 14)
  ∧ decodeD 0x103FFFF0 = .ok ({ p with guard := 1 }, .braD 0x1FFFF0)
  ∧ decodeL 0x00000008 0x101FFFE0 = .ok ({ p with guard := 1 }, .braL 0x1FFFE0)
  ∧ decodeD 0x0E01AA00 = .ok (p, .repD 3 1 1 1 0) ∧ decodeL 0 0x0E01AA00 = .ok (p, .repL 3 1 1 1 0)
  ∧ decodeL 0 0xE6000005 = .ok (p, .dvtL 5) ∧ decodeD 0xE6000005 = .error .illegalOp
  ∧ hdrCount 0x380A3005 = 3 ∧ hdrClass 0x380A3005 = 4 ∧ hdrWmask 0x380A3005 = 5 ∧ hdrWfrom 0x380A3005 = 1
    ∧ hdrDove 0x380A3005 = true ∧ hdrLand 0x380A3005 = false ∧ hdrDidx 0x380A3005 = 5
  ∧ decodeD 0x0A008009 = .ok (p, .sreadD 1 9) ∧ decodeD 0x06481234 = .ok (p, .movhiD 9 0x1234)
  ∧ decodeD 0x5C024332 = .ok (p, .icmpD 9 3 12 2) ∧ decodeD 0x18011012 = .ok (p, .forkTryD 2 8 2)
  ∧ decodeD 0x266A2AB0 = .ok ({ p with guard := 3 }, .imadD 20 21 22)
  ∧ decodeL 0x00005018 0x260A2AB0 = .ok ({ p with guard := 3 }, .imadL 20 21 22 20)
  ∧ decodeL 0x00000144 0x86010011 = .ok ({ p with guard := 40, neg := true }, .vbalL 2 17)
  ∧ decodeD 0x88028803 = .ok (p, .redlD 5 4 3)
  ∧ decodeD 0x60018829 = .ok (p, .faddD 3 4 5 1) ∧ decodeD 0x6A408419 = .ok ({ p with guard := 2 }, .fmaxD 1 2 3 1)
  ∧ decodeD 0x6E02861D = .ok (p, .fcmpxD 10 6 7 1) ∧ decodeD 0x70020801 = .ok (p, .fspfD 4 4 1)
  ∧ decodeD 0x74010620 = .ok (p, .hadd2D 2 3 4 0) ∧ decodeL 0x00002000 0x78041255 = .ok (p, .hfma2L 8 9 10 5 8)
  ∧ decodeD 0x7C069808 = .ok (p, .cvtD 13 12 0 1 0) ∧ decodeD 0x7C069A59 = .ok (p, .cvtD 13 13 1 3 1)
  ∧ decodeD 0x7E0A1A01 = .ok (p, .pkbD 20 13 0 1) ∧ decodeD 0 = .error .illegalOp

/-- At its turn: CLAUSE_ENTRY latches the words of a sound clause that is no dovetail point and puts the unit at its first
word, and raises ILLEGAL-CLAUSE where the header breaks R41; TOKEN_WAIT_RESUME ends a unit's wait once every token of
its mask is complete; REGISTER_GRANT ends the wait of the fibres of the oldest request, where the core holds what it
would leave there; BIN_AGE_EXPIRY marks a bin unchanged for 256 cycles eligible; BIN_ISSUE issues the oldest eligible
bin of the core with every token complete; GANG_SLOT_SWAP keeps the ready units in their slots and gives a freed slot
to the pending unit, ready or ready to try again, that has waited through the most swaps, which wakes, and every unit
without a slot has then waited through one swap more; where all eight stand, and its argument asks for it, one gives
way to the pending unit where another sub-gang outranks it or all have issued since that unit did; REG_DEADLOCK ends
the launch of a crew alone on its core, and otherwise pre-empts the oldest requester's crew as PREEMPTION does, with
the blocks that its request needs kept for it. Registers and memory are unchanged but for what fetches cache and
saving writes. How windows are packed, and which unit gives way, is the model's choice (log 50); what is kept for a
deadlocked crew (log 47) and which units count as stalled (log 27) are its readings. (R28, R35, R36, R41, R43, R185,
R276, 03) -/
def Obligations.SchedulingEvents : Prop :=
  let lead := fun (k : Crew) (u : UnitKind) => k.fibre ((k.members u).headD 0)
  (∀ a s c h s1, s.turn = some (.event .clauseEntry a) → s.ctx? a.unit Prefix.plain = some c → c.kind.isL = false →
      (c.fibre (c.all.headD 0)).clause = [] → (c.fibre (c.all.headD 0)).pc = (c.fibre (c.all.headD 0)).hdr →
      c.fetchWaits (c.fibre (c.all.headD 0)).hdr 1 s = false → c.code (c.fibre (c.all.headD 0)).hdr 1 s = (s1, .ok [h]) →
      (headerOk h = false → exec .clauseEntry s = .next (c.atFetch 0x03 0 0 h [] (s1.modFibres a.unit.crew c.all fun _ f => { f with hdrWord := h })).done)
      ∧ ∀ ws s2, headerOk h = true → h.getLsbD 12 = false →
        c.fetchWaits ((c.fibre (c.all.headD 0)).hdr + 4) (hdrCount h) s1 = false → c.code ((c.fibre (c.all.headD 0)).hdr + 4) (hdrCount h) s1 = (s2, .ok ws) →
        clauseOk h ws = true →
        ∃ t, exec .clauseEntry s = .next t ∧ Only s2 t a.unit.crew (fun _ f => f)
          ∧ ∀ p ∈ c.all, (t.fibreAt a.unit.crew p).clause = ws ∧ (t.fibreAt a.unit.crew p).hdrWord = h
            ∧ (t.fibreAt a.unit.crew p).pc = (c.fibre (c.all.headD 0)).hdr + 4)
  ∧ (∀ a s k m, s.turn = some (.event .tokenWaitResume a) → s.crews[a.unit.crew]? = some k → k.members a.unit.kind ≠ [] →
      (lead k a.unit.kind).wait = .tokens m → (∀ j, j < 8 → m.getLsbD j = true → (k.tokens a.unit.kind).counts.getD j 0 = 0) →
      ∃ t, exec .tokenWaitResume s = .next t ∧ Only s t a.unit.crew (fun _ f => f)
        ∧ ∀ p ∈ k.members a.unit.kind, (t.fibreAt a.unit.crew p).wait = .none)
  ∧ (∀ a s r rs, s.turn = some (.event .registerGrant a) → s.requestsOn a.n = r :: rs → s.waitersOf r ≠ [] →
      s.handlerWaits a.n = false → s.requestFits a.n r = true →
      ∃ t, exec .registerGrant s = .next t ∧ Only s t r.crew (fun _ f => f)
        ∧ ∀ p ∈ s.waitersOf r, (t.fibreAt r.crew p).wait = .none)
  ∧ (∀ a s k b, s.turn = some (.event .binAgeExpiry a) → s.crews[a.n]? = some k → k.bins[a.m]? = some b → b.issued = false → b.aged = false →
      k.members (.bin a.m) ≠ [] → exec .binAgeExpiry s = .next (if 256 ≤ cyclesBetween k.core b.changed s.now then
        s.modCrew a.n fun k => { k with bins := k.bins.modify a.m fun b => { b with aged := true } } else s).done)
  ∧ (let eligible := fun (s : State) (n : Nat) (y : Nat × Nat × Bin) => y.2.2.aged = true ∨ s.coreIdle n = true
        ∨ ∃ k, s.crews[y.1]? = some k ∧ 32 ≤ (k.members (.bin y.2.1)).length
    ∀ a s x, s.turn = some (.event .binIssue a) → x ∈ s.binsOn a.n → eligible s a.n x →
      (∀ y ∈ s.binsOn a.n, eligible s a.n y → y ≠ x → x.2.2.born < y.2.2.born) →
      exec .binIssue s = .next (s.modCrew x.1 fun k => { k with
        bins := k.bins.modify x.2.1 fun b => { b with issued := true, tokens := { counts := List.replicate 8 0, deferred := [] } } }).done)
  ∧ (∀ a s, s.turn = some (.event .gangSlotSwap a) → s.Canonical →
      let kept := (s.coreAt a.n).active.filter (s.unitHas Crew.ready)
      let waiting := s.pendingUnits a.n
      let behind := fun v => !s.unitHas Crew.foremost v
      let overdue := (s.nextForSlot a.n).any fun u => kept.any behind || kept.all fun v => decide (s.issuedLast u < s.issuedLast v)
      let gone := (kept.find? behind).orElse fun _ => kept.head?
      let stay := if a.m = 1 ∧ kept.length = 8 ∧ overdue = true then kept.filter fun u => some u != gone else kept
      ∃ (t : State) (l : List UnitId), exec .gangSlotSwap s = .next t ∧ (t.coreAt a.n).active = stay ++ l
        ∧ (8 ≤ stay.length ∨ waiting = [] → l = [])
        ∧ (stay.length < 8 → waiting ≠ [] → ∃ u ∈ waiting, l = [u]
            ∧ (∀ v ∈ waiting, (s.coreAt a.n).waitedSwaps v ≤ (s.coreAt a.n).waitedSwaps u)
            ∧ ∀ k, s.crews[u.crew]? = some k → ∀ p ∈ k.members u.kind, (t.fibreAt u.crew p).wait = .none)
        ∧ (∀ u ∈ s.unitsOn a.n, u ∉ stay ++ l → (t.coreAt a.n).waitedSwaps u = (s.coreAt a.n).waitedSwaps u + if l = [] then 0 else 1)
        ∧ { t.coreAt a.n with active := [], swaps := [] } = { s.coreAt a.n with active := [], swaps := [] }
        ∧ (∀ n, n ≠ a.n → t.coreAt n = s.coreAt n) ∧ t.crews.length = s.crews.length
        ∧ (∀ (c : Nat) (k k' : Crew), s.crews[c]? = some k → t.crews[c]? = some k' → { k' with fibres := k.fibres } = k ∧ k'.fibres.length = k.fibres.length
            ∧ ∀ p, (k'.fibre p).face = (k.fibre p).face)
        ∧ { t with cores := s.cores, crews := s.crews, now := s.now, turn := s.turn } = s)
  ∧ ∀ a s r rs k, s.turn = some (.event .regDeadlock a) → s.regDeadlocked a.n = true → s.requestsOn a.n = r :: rs →
      (∀ c ∈ s.residents a.n, ∀ x, s.crews[c]? = some x → x.heldFault = none) → s.crews[r.crew]? = some k → s.recordHeld k = false →
      (s.residents a.n = [r.crew] → exec .regDeadlock s = .next (s.endLaunch k.desc.launch 0x0C).done)
      ∧ (2 ≤ (s.residents a.n).length →
        exec .regDeadlock s = .next (evPreemption { n := r.crew } ((s.recordDeadlock r).modCrew r.crew fun x =>
          { x with reserve := s.blocksWith a.n r - s.blocksUsed a.n })).done)

/-- At its turn, for the crew's operation named: ENGINE_LINE_WRITE writes a lane copy's bytes, already read, to its
translated destination, and the copy owns its line no more; SCRATCH_GRANULE_LANDING writes a copy's bytes into the
scratchpad and sets the granule full; COPY_COMPLETE takes away a CPA whose lane copies have all landed and lowers its
token's count; DEFERRED_COPY_FAULT abandons a copy whose access fails, lowers the count and attaches the fault to the
token; MMA_BLOCK_ADD replaces the tile by the sum with one K-block, other tiles unchanged, and after the last block
lowers the count; ACCST_ROW_WRITE writes one row's bytes to the scratchpad, its granules full. The writes of the
scratchpad and the sums are stated where no error stands in storage; a copy completes once what it sent through an
aperture is acknowledged. Older bytes of what is written in the scratchpad are seen no more, and the write carries the
releases of its operation; no load there is still unused. An int8 block adds its exact integer dot product modulo
2^32. (R152, R153, R154, R182, R183, R233, R237, R244, 11, 15) -/
def Obligations.EnginesLandAndComplete : Prop :=
  let lower := fun (k : Crew) (u : UnitKind) (tok : Nat) => k.modTokens u fun x => { x with counts := x.counts.modify tok (· - 1) }
  let alive := fun (k : Crew) => ∃ f ∈ k.fibres, f.live = true
  (∀ a s k (j : LaneCopy) bs s1 tr, s.turn = some (.event .engineLineWrite a) → s.crews[a.n]? = some k → a.m = 0 → k.copies = [j] →
      k.status = .resident → k.pair = none → (j.form = 1 ∨ j.form = 2) → j.fault = none → j.done < j.len → j.bytes = some bs → bs.length = j.len →
      s.translate k.core k.desc.asid (va48 j.dst) { write := true, priv := j.priv } = (s1, .ok tr) →
      s.walkHeld k.core k.desc.asid (va48 j.dst) true = false → s.walkError k.core k.desc.asid (va48 j.dst) true = none →
      j.line = some (tr.pa (va48 j.dst) / 64) → s.noWatch →
      (∀ e ∈ s.sync.early, e.scratch = false → meetsRange (tr.pa (va48 j.dst)) j.len e.place e.len = false) →
      s.partials = [] → tr.enc = false → tr.snapshot = false → inMmio (tr.pa (va48 j.dst)) = false → s1.ownedBefore (tr.pa (va48 j.dst) / 64) j.order = false →
      (∀ x, tr.pa (va48 j.dst) ≤ x → x < tr.pa (va48 j.dst) + j.len → s1.outsideTables x) →
      ∃ t, exec .engineLineWrite s = .next t ∧ t.mem = (s1.store (tr.pa (va48 j.dst)) bs).mem
        ∧ t.crews = s.crews.set a.n { k with copies := [{ j with done := j.len, line := none }] }
        ∧ { t with mem := s.mem, crews := s.crews, cores := s.cores, draws := s.draws, rel := s.rel, l2 := s.l2, l2Next := s.l2Next, past := s.past, now := s.now, turn := s.turn } = s)
  ∧ (∀ a s k (j : LaneCopy) bs, s.turn = some (.event .scratchGranuleLanding a) → s.crews[a.n]? = some k → a.m = 0 → k.copies = [j] →
      k.status = .resident → (j.form = 0 ∨ j.form = 3) → j.fault = none → j.done < j.len → j.bytes = some bs → bs.length = j.len →
      j.dst.toNat % 16 + j.len ≤ 16 → s.rel.poison = [] → s.rel.correctable = [] →
      (∀ e ∈ s.sync.early, e.scratch = true → e.fibre.1 = a.n → meetsRange j.dst.toNat j.len e.place e.len = false) →
      ∃ t, exec .scratchGranuleLanding s = .next t
        ∧ { t with pastScr := s.pastScr, sync := s.sync } = (s.modCrew a.n fun k => { k with
            scr := putBytes k.scr j.dst.toNat bs, full := insertRising (j.dst.toNat / 16) k.full,
            copies := [{ j with done := j.len, line := none }] }).done
        ∧ (∃ e : Past, e.known = none ∧ e.tags = j.tags ∧ t.pastScr = e :: s.pastScr.filter fun e => !e.meets (some a.n) j.dst.toNat j.len)
        ∧ { t.sync with fills := s.sync.fills } = s.sync)
  ∧ (∀ a s k (j : LaneCopy), s.turn = some (.event .copyComplete a) → s.crews[a.n]? = some k → alive k → j ∈ k.copies → j.group = a.m →
      (∀ x ∈ k.copies, x.group = a.m → x.fault = none ∧ x.len ≤ x.done ∧ x.unit = j.unit ∧ x.token = j.token) →
      (∀ o ∈ s.outbound, o.crew ≠ a.n ∨ o.write = false) →
      exec .copyComplete s = .next (s.modCrew a.n fun k =>
        lower { k with copies := k.copies.filter fun x => x.group != a.m } j.unit j.token).done)
  ∧ (∀ a s k (j : LaneCopy) s1 bs cause sub write va, s.turn = some (.event .deferredCopyFault a) → a.v = 0 → s.crews[a.n]? = some k → alive k →
      k.status = .resident → k.copies = [j] → a.m = 0 → j.done < j.len → s.copyStep a.n 0 = (s1, .error (.fails cause sub write va)) →
      s.protectedCrew a.n = false → s1.crews = s.crews.set a.n { k with copies := [{ j with bytes := bs }] } →
      ∃ (t : State) (d : Deferred), exec .deferredCopyFault s = .next t ∧ d.kind = j.kind ∧ d.token = j.token ∧ d.cause = BitVec.ofNat 8 cause ∧ d.pc = j.pc
        ∧ d.hdr = j.hdr ∧ d.group = j.group ∧ d.active = [j.lane] ∧ d.entries.map Prod.fst = [j.lane]
        ∧ t.crews = s.crews.set a.n ((lower { k with copies := [{ j with bytes := bs, fault := some (BitVec.ofNat 8 cause, sub), line := none }] } j.unit j.token).modTokens
            j.unit fun x => { x with deferred := x.deferred ++ [d] })
        ∧ { t with crews := s1.crews, now := s1.now, turn := s1.turn } = s1)
  ∧ (∀ a s k (j : MatJob), s.turn = some (.event .mmaBlockAdd a) → s.Canonical → s.crews[a.n]? = some k → alive k → k.mats[a.m]? = some j →
      k.status = .resident → j.failed = false → k.tileBusy j.unit j.tile j.order = false → s.rel.poison = [] → s.rel.correctable = [] →
      ∃ (t : State) (k' : Crew), exec .mmaBlockAdd s = .next t ∧ t.crews = s.crews.set a.n k' ∧ { t with crews := s.crews, now := s.now, turn := s.turn } = s
        ∧ (∀ e, k'.elem e = if e / 2 ^ 14 = j.tile then (j.block_ k).getD (e % 2 ^ 14) (regOf 0 false) else k.elem e)
        ∧ (128 * (j.done + 1) < (j.block.getD 5 0).toNat → k'.mats = k.mats.set a.m { j with done := j.done + 1 }
            ∧ { k' with tiles := k.tiles, tileDirty := k.tileDirty, mats := k.mats } = k)
        ∧ ((j.block.getD 5 0).toNat ≤ 128 * (j.done + 1) →
            { k' with tiles := k.tiles, tileDirty := k.tileDirty } = lower { k with mats := k.mats.eraseIdx a.m } j.unit j.token))
  ∧ (∀ (xs : List (Int × Int)) nan t, blockElem 0x68 nan false 0 0 (xs.map fun x => Sys2Proof.Machine.Num.fin (decide (x.1 < 0)) x.1.natAbs 0)
        (xs.map fun x => Sys2Proof.Machine.Num.fin (decide (x.2 < 0)) x.2.natAbs 0) t
      = regOf (t.val + BitVec.ofInt 32 (xs.map fun x => x.1 * x.2).sum) t.s)
  ∧ ∀ a s k (j : StoreJob), s.turn = some (.event .accstRowWrite a) → s.crews[a.n]? = some k → alive k → k.stores[a.m]? = some j →
      k.status = .resident → j.done < 128 → j.fault = none → k.tileBusy j.unit j.tile j.order = false → (j.block.getD 2 0).getLsbD 7 = true →
      s.rel.poison = [] → s.rel.correctable = [] →
      let off := (j.block.getD 0 0).toNat + j.done * storePitch (j.block.getD 2 0)
      let bs := j.rowBytes k
      let wrote := fun (k : Crew) => { k with
        scr := putBytes k.scr off bs
        full := (List.range ((off % 16 + bs.length + 15) / 16)).foldl (fun l g => insertRising (off / 16 + g) l) k.full : Crew }
      (∀ e ∈ s.sync.early, e.scratch = true → e.fibre.1 = a.n → meetsRange off bs.length e.place e.len = false) →
      ∃ t, exec .accstRowWrite s = .next t
        ∧ (j.done + 1 < 128 → { t with pastScr := s.pastScr, sync := s.sync } = (s.modCrew a.n fun k =>
            { wrote k with stores := k.stores.set a.m { j with done := j.done + 1, lines := [] } }).done)
        ∧ (128 ≤ j.done + 1 → { t with pastScr := s.pastScr, sync := s.sync } = (s.modCrew a.n fun k =>
            lower { wrote k with stores := k.stores.eraseIdx a.m } j.unit j.token).done)
        ∧ (∃ e : Past, e.known = none ∧ e.tags = j.tags ∧ t.pastScr = e :: s.pastScr.filter fun e => !e.meets (some a.n) off bs.length)
        ∧ { t.sync with fills := s.sync.fills } = s.sync

/-- At its turn: HOME_ACCESS_ARRIVAL accepts a line part whose tag is current and that no lower lane's part holds back,
and lets the unit go on at Next where it was the instruction's last, and combines a contribution of an unpaired crew
as a partial of its element; a part whose tag is not current is translated again under the current generation and
stays to arrive. PLACED_PART_EXECUTE writes the 16 results to the destination line and takes the part away.
REDUCE_STATE_MERGE merges a partial into its element. GENBUMP_COMPLETE lets the unit go on at Next once no older
access is left. PLI's elements are the integer operations modulo 2^32. (R105, R107, R112, R113, R114, 06) -/
def Obligations.PlacedPartsAreAcceptedAndExecuted : Prop :=
  (∀ a s p k, s.turn = some (.event .homeAccessArrival a) → s.parts[a.n]? = some p → s.crews[p.crew]? = some k → p.accepted = false →
      p.major ≠ 0x6F → (∀ q ∈ s.parts, p.sibling q = true → q.lane < p.lane → q.accepted = false → p.meets q = false) →
      p.gen = s.genAt p.asid (genDie p.pd) → s.partErrors p = [] →
      ∃ t, exec .homeAccessArrival s = .next t ∧ t.parts = s.parts.set a.n { p with accepted := true, order := 8192 * s.now }
        ∧ (∀ c, c ≠ p.crew → t.crews[c]? = s.crews[c]?) ∧ { t with crews := s.crews, cores := s.cores, parts := s.parts, now := s.now, turn := s.turn } = s
        ∧ ((∃ n q, n ≠ a.n ∧ s.parts[n]? = some q ∧ q.crew = p.crew ∧ q.issue = p.issue ∧ q.accepted = false) →
            ∀ i ∈ k.members (k.fibre p.fibre).unit, (t.fibreAt p.crew i).pc = (k.fibre i).pc ∧ (t.fibreAt p.crew i).wait = (k.fibre i).wait)
        ∧ ((∀ n q, n ≠ a.n → s.parts[n]? = some q → q.crew = p.crew → q.issue = p.issue → q.accepted = true) →
            ∀ i ∈ k.members (k.fibre p.fibre).unit, (k.fibre i).wait = .parts → (t.fibreAt p.crew i).pc = nextPcOf k.kind (k.fibre i) ∧ (t.fibreAt p.crew i).wait = .none))
  ∧ (∀ a s p k s1 tr, s.turn = some (.event .homeAccessArrival a) → s.parts[a.n]? = some p → s.crews[p.crew]? = some k → p.accepted = false →
      (∀ q ∈ s.parts, p.sibling q = true → q.lane < p.lane → q.accepted = false → p.meets q = false) → p.gen ≠ s.genAt p.asid (genDie p.pd) →
      s.lineTr k.core p.asid p.priv p.major p.s { lane := p.lane, fibre := p.fibre, d := p.d, a := p.a, b := p.b, value := p.value } = (s1, .ok tr) →
      splitPlace p.major p.s tr = false → s.replayWaits k.core p = false → s.linesHeld k.core p.asid p.major p.s p.lines = false →
      s.linesError k.core p.asid p.major p.s p.lines = none →
      exec .homeAccessArrival s = .next ({ s1 with parts := s1.parts.set a.n { p with
        gen := s1.gen p.asid, td := tr.1, ta := tr.2.1, tb := tr.2.2, pd := tr.1.pa (va48 p.d), pa := tr.2.1.pa (va48 p.a), pb := tr.2.2.pa (va48 p.b) } } : State).done)
  ∧ (∀ a s p k, s.turn = some (.event .placedPartExecute a) → s.parts[a.n]? = some p → s.crews[p.crew]? = some k → k.pair = none →
      s.computable p = true → s.partials = [] → s.rel.poison = [] → s.rel.correctable = [] → inMmio p.pd = false → p.pd = p.td.pa (p.d.toNat % 2 ^ 48) →
      p.td.enc = false → p.td.snapshot = false → p.ta.enc = false → p.tb.enc = false → (∀ x, p.pd ≤ x → x < p.pd + 64 → s.outsideTables x) → s.noWatch →
      (∀ e ∈ s.sync.early, e.scratch = false → meetsRange p.pd 64 e.place e.len = false) →
      let word := fun (pa e : Nat) => leWord (s.bytes (pa + 4 * e) 4)
      ∃ t, exec .placedPartExecute s = .next t ∧ t.parts = s.parts.eraseIdx a.n ∧ t.crews = s.crews
        ∧ t.mem = (s.store p.pd ((List.range 16).flatMap fun e => leBytes 4 (lineElem p.major p.s (s.partNan p) (word p.pd e)
            (if readsA p.major p.s then word p.pa e else 0) (if readsB p.major p.s then word p.pb e else 0) p.value).toNat)).mem
        ∧ { t with mem := s.mem, cores := s.cores, parts := s.parts, rel := s.rel, l2 := s.l2, l2Next := s.l2Next, past := s.past, now := s.now, turn := s.turn } = s)
  ∧ (∀ a s p k, s.turn = some (.event .homeAccessArrival a) → s.parts[a.n]? = some p → s.crews[p.crew]? = some k → p.accepted = false →
      p.major = 0x6F → k.pair = none → (∀ q ∈ s.parts, p.sibling q = true → q.lane < p.lane → q.accepted = false → p.meets q = false) →
      p.gen = s.genAt p.asid (genDie p.pd) → s.owned (p.pd / 64) = false → p.td.snapshot = false → s.partials = [] → s.rel.poison = [] →
      ∃ t, exec .homeAccessArrival s = .next t ∧ t.parts = s.parts.eraseIdx a.n
        ∧ t.partials = [{ pa := p.pd, op := p.s, value := p.value, nan := s.partNan p, tags := p.tags, asid := p.asid, enc := p.td.enc }]
        ∧ (∀ c, c ≠ p.crew → t.crews[c]? = s.crews[c]?)
        ∧ { t with crews := s.crews, cores := s.cores, parts := s.parts, partials := s.partials, l2 := s.l2, l2Next := s.l2Next, now := s.now, turn := s.turn } = s)
  ∧ (∀ d a b v nan, lineElem 0x6D 0 nan d a b v = a + b ∧ lineElem 0x6D 1 nan d a b v = a - b ∧ lineElem 0x6D 2 nan d a b v = a * b
      ∧ lineElem 0x6D 3 nan d a b v = d + a * b ∧ (lineElem 0x6D 4 nan d a b v).toInt = min a.toInt b.toInt
      ∧ (lineElem 0x6D 5 nan d a b v).toInt = max a.toInt b.toInt ∧ lineElem 0x6D 6 nan d a b v = a ∧ lineElem 0x6D 7 nan d a b v = v)
  ∧ (∀ a s p, s.turn = some (.event .reduceStateMerge a) → s.partials[a.n]? = some p → a.m ≠ 1 → p.enc = false → s.noWatch →
      (∀ x, p.pa ≤ x → x < p.pa + 4 → s.outsideTables x) →
      ∃ t, exec .reduceStateMerge s = .next t ∧ t.partials = s.partials.eraseIdx a.n
        ∧ t.mem = (s.store p.pa (leBytes 4 (plredWith p.nan p.op (leWord (s.bytes p.pa 4)) p.value).toNat)).mem
        ∧ { t with partials := s.partials, mem := s.mem, past := s.past, now := s.now, turn := s.turn } = s)
  ∧ ∀ a s b k, s.turn = some (.event .genbumpComplete a) → s.bumps[a.n]? = some b → s.crews[b.unit.crew]? = some k →
      (∀ p ∈ s.parts, p.asid = b.asid → p.accepted = true → p.gen = s.gen b.asid) →
      ∃ t, exec .genbumpComplete s = .next t ∧ Only { s with bumps := s.bumps.eraseIdx a.n } t b.unit.crew (fun _ f => f)
        ∧ ∀ i ∈ k.members b.unit.kind, (k.fibre i).wait = .genbump → (t.fibreAt b.unit.crew i).pc = nextPcOf k.kind (k.fibre i) ∧ (t.fibreAt b.unit.crew i).wait = .none

/-- At its turn, once bring-up has begun, for a bound port and an address in memory on one line that no engine owns:
PORT_WRITE_ARRIVAL writes the bytes and no other; PORT_READ_ARRIVAL answers with the bytes and changes no memory,
where no partial of the line is pending; PEER_ATOM_ARRIVAL answers with an aligned word and leaves there what its
operation makes of it, a failed compare leaving it. An access of an unbound port is refused there and the refusal
reported, nothing else changing; a write to an expander's memory changes nothing. A write from a host to a notify page
is posted as that queue's notify. HOST_ACKNOWLEDGEMENT takes its request away and nothing else. The model's readings
and choices: one to a line that an engine owns is held, not taken from its port (log 43); one that spans lines changes
nothing (log 54). (R114, R149, R150, R151, R153, R311, R354, R357, 10, 24) -/
def Obligations.PortTraffic : Prop :=
  let opens := fun (s : State) (port : Nat) => port < 2 ∨ (port < 18 ∧ (port - 2) ∈ s.aon.peers)
  let home := fun (s : State) (a : EvArg) (n : Nat) => opens s a.n ∧ 1 ≤ s.aon.bringUp ∧ s.noWatch
    ∧ (∀ e ∈ s.sync.early, e.scratch = false → meetsRange a.v.toNat n e.place e.len = false) ∧ inDram a.v.toNat = true ∧ 0 < n ∧ a.v.toNat % 64 + n ≤ 64
    ∧ s.owned (a.v.toNat / 64) = false ∧ s.partials = [] ∧ s.rel.poison = [] ∧ s.rel.correctable = []
    ∧ ∀ x, a.v.toNat ≤ x → x < a.v.toNat + n → s.outsideTables x
  (∀ a s, s.turn = some (.event .portWriteArrival a) → s.Canonical → home s a a.bytes.length →
      ∃ t, exec .portWriteArrival s = .next t ∧ t.mem = (s.store a.v.toNat a.bytes).mem
        ∧ (∀ x, ¬ (a.v.toNat ≤ x ∧ x < a.v.toNat + a.bytes.length) → t.byte x = s.byte x)
        ∧ { t with mem := s.mem, cores := s.cores, l2 := s.l2, l2Next := s.l2Next, past := s.past, now := s.now, turn := s.turn } = s)
  ∧ Event .portWriteArrival (fun a s => opens s a.n ∧ (inCxl a.v.toNat = true ∨ s.owned (a.v.toNat / 64) = true)) (fun _ s => s)
  ∧ (∀ (a : EvArg) (s : State), s.owned (a.v.toNat / 64) = true → s.takable (.portWriteArrival, a) = false ∧ s.takable (.portReadArrival, a) = false
      ∧ s.takable (.peerAtomArrival, a) = false)
  ∧ (∀ i, i = Instr.portWriteArrival ∨ i = .portReadArrival ∨ i = .peerAtomArrival → Event i (fun a s => ¬ opens s a.n)
      fun a s => { s with replies := s.replies ++ [{ port := a.n, address := a.v.toNat, data := [], refused := true }] })
  ∧ Event .portWriteArrival (fun a s => opens s a.n ∧ a.v.toNat / 64 ≠ (a.v.toNat + a.bytes.length - 1) / 64) (fun _ s => s)
  ∧ Event .portWriteArrival (fun a s => a.n < 2 ∧ 1 ≤ s.aon.bringUp ∧ a.bytes.length = 8 ∧ (∃ q, q < 4096 ∧ a.v.toNat = 0x8100000000000 + 0x20000 * q) ∧ s.owned (a.v.toNat / 64) = false)
      (fun a s => { s with inbox := s.inbox ++ [(.notify, { n := (a.v.toNat - 0x8100000000000) / 0x20000, v := leDWord a.bytes })] })
  ∧ (∀ a s, s.turn = some (.event .portReadArrival a) → home s a a.m →
      ∃ t, exec .portReadArrival s = .next t
        ∧ t.replies = s.replies ++ [{ port := a.n, address := a.v.toNat, data := s.bytes a.v.toNat a.m, refused := false }]
        ∧ { t with replies := s.replies, l2 := s.l2, l2Next := s.l2Next, now := s.now, turn := s.turn } = s)
  ∧ Event .portReadArrival (fun a s => opens s a.n ∧ a.v.toNat / 64 ≠ (a.v.toNat + a.m - 1) / 64) (fun _ s => s)
  ∧ (∀ a s, s.turn = some (.event .peerAtomArrival a) → s.Canonical → home s a 4 → a.v.toNat % 4 = 0 → a.m < 8 →
      let old := leWord (s.bytes a.v.toNat 4)
      let x := leWord (a.bytes.take 4)
      let y := leWord ((a.bytes.drop 4).take 4)
      ∃ t, exec .peerAtomArrival s = .next t
        ∧ t.mem = (if a.m = 7 ∧ old ≠ y then s.mem else (s.store a.v.toNat (leBytes 4 (atomicResult a.m old x y).toNat)).mem)
        ∧ t.replies = s.replies ++ [{ port := a.n, address := a.v.toNat, data := s.bytes a.v.toNat 4, refused := false }]
        ∧ { t with mem := s.mem, cores := s.cores, replies := s.replies, l2 := s.l2, l2Next := s.l2Next, past := s.past, now := s.now, turn := s.turn } = s)
  ∧ Event .hostAcknowledgement (fun _ _ => True) (fun a s => { s with outbound := s.outbound.filter fun o => o.ident != a.n })

/-- At its turn, once bring-up is over: NOTIFY of an enabled queue records the value in the status word's upper half,
clears a stall and posts a wake of the queue; of a disabled one it changes nothing. PACKET_TAKE takes the oldest wake
with the queue's lock for an idle command core, its descriptor in force; under the lock of a queue that a notify has
woken, neither frozen nor stalled, it looks for no more packets where the header's VALID is 0, and releases the lock
once nothing is left to start or to finish and no event has come since; where VALID is 1, with every write that has
left through a port acknowledged, it writes it back as 0, advances the read index by one, and queues a packet that
passes the validator, or freezes the queue with the cause that it fails once its signal can be written and its write-
back, where that left through a port, is acknowledged; what the validator reads of the code object leaves what such
reads leave; an untranslated slot stalls the queue. THAW of a frozen queue with no stall clears FROZEN, CAUSE and TAG
and posts a wake, and its frozen graphs go on; one that is not frozen it leaves alone (the model's reading, log 52).
ABANDON ends a stalled command block, or a waiting WAITSIG, with its signal set to name it. The validator answers 0x01
for a packet type that is unknown or not allowed, 0x02 for a nonzero must-be-zero field, 0x03 for an unknown placement
mode, 0x05 for a misaligned address, 0x06 for a region out of range, and nothing for a NOP that keeps them. (R304,
R309, R310, R311, R312, R313, R316, R318, 20, 21) -/
def Obligations.QueuesWakeTakeAndResume : Prop :=
  (∀ a s d, s.turn = some (.event .notify a) → s.Canonical → s.aon.bringUp = 6 → s.partials = [] → s.noWatch →
      descEnable (s.queueDesc a.n) = true → s.queueAddr? a.n = some d →
      let old := s.word64 (d + 0x18)
      ∃ t, exec .notify s = .next t ∧ t.awake a.n = true ∧ (t.queueAt a.n).ringStall = none ∧ (t.queueAt a.n).notified = true
        ∧ (t.queueAt a.n).packets = (s.queueAt a.n).packets.map (fun p => { p with stalled := none })
        ∧ t.word64 (d + 0x18) / 2 ^ 32 = a.v.toNat % 2 ^ 32 ∧ bitsAt (t.word64 (d + 0x18)) 30 1 = 0
        ∧ bitsAt (t.word64 (d + 0x18)) 31 1 = bitsAt old 31 1
        ∧ (∀ x, ¬ (d + 0x18 ≤ x ∧ x < d + 0x20) → t.byte x = s.byte x)
        ∧ (∀ q, q ≠ a.n → t.queueAt q = s.queueAt q)
        ∧ { t with mem := s.mem, queues := s.queues, wakes := s.wakes, past := s.past, now := s.now, turn := s.turn } = s)
  ∧ Event .notify (fun a s => descEnable (s.queueDesc a.n) = false) (fun _ s => s)
  ∧ (∀ a s d s1, s.turn = some (.event .packetTake a) → (s.queueAt a.n).lock.isSome = true → s.frozen a.n = false → (s.queueAt a.n).ringStall = none →
      (s.queueAt a.n).notified = true → (∀ x ∈ (s.queueAt a.n).packets, x.rejected = none) → (∀ o ∈ s.outbound, o.write = false) →
      s.partials = [] → s.queueAddr? a.n = some d → s.Canonical →
      let desc := (s.queueAt a.n).desc
      let index := s.word64 (d + 0x10)
      let va := descSlot desc index
      s.areaHeld (descAsid desc) va 64 false = false → s.areaHeld (descAsid desc) va 64 true = false →
      (∀ e, s.devRead (descAsid desc) (descPriv desc) va 64 = (s1, .error e) → s1.frozen a.n = false →
          ∃ t, exec .packetTake s = .next t ∧ (t.queueAt a.n).ringStall = some (e, va) ∧ bitsAt (t.word64 (d + 0x18)) 30 1 = 1
            ∧ bitsAt (t.word64 (d + 0x18)) 24 5 = e % 32 ∧ bitsAt (t.word64 (d + 0x18)) 16 8 = 0x08 ∧ bitsAt (t.word64 (d + 0x18)) 0 16 = 0
            ∧ t.word64 (d + 0x38) = va % 2 ^ 64 ∧ t.word64 (d + 0x10) = s1.word64 (d + 0x10))
      ∧ ∀ bs, s.devRead (descAsid desc) (descPriv desc) va 64 = (s1, .ok bs) →
        let ws := recWords bs 16
        ((ws.getD 0 0).getLsbD 0 = false → exec .packetTake s = .next (s1.rest a.n).done)
        ∧ ∀ s2, (ws.getD 0 0).getLsbD 0 = true → s1.readsHeld (descAsid desc) (s1.packetReads desc ws) = false →
          s1.devWrite (descAsid desc) (descPriv desc) va (leBytes 4 ((ws.getD 0 0).toNat - 1)) = (s2, .ok ()) →
          let s3 := (s2.put64 (d + 0x10) (index + 1)).peekedAll (descAsid desc) (s2.packetReads desc ws)
          let adds := fun (c : Option (BitVec 8)) => ∃ p : Packet, p.words = ws ∧ p.started = false ∧ p.stalled = none ∧ p.launch = none ∧ p.rejected = c
            ∧ exec .packetTake s = .next (s3.modQueue a.n fun x => { x with packets := x.packets ++ [p] }).done
          (s3.packetCause desc ws = none → adds none)
          ∧ ∀ c, s3.packetCause desc ws = some c →
            ((∀ o ∈ s3.outbound, o.write = false) → s.releaseHeld a.n ws = false → exec .packetTake s = .next (s3.freeze a.n ws c).done)
            ∧ ((∃ o ∈ s3.outbound, o.write = true) → adds (some (BitVec.ofNat 8 c))))
  ∧ (∀ a s d m p c, s.turn = some (.event .packetTake a) → (s.queueAt a.n).lock.isSome = true → s.queueAddr? a.n = some d →
      (s.queueAt a.n).packets.findIdx? (fun x => x.rejected.isSome) = some m → (s.queueAt a.n).packets[m]? = some p → p.rejected = some c →
      s.releaseHeld a.n p.words = false → exec .packetTake s = .next ((s.dropPacket a.n m).freeze a.n p.words c.toNat).done)
  ∧ (∀ a s ws n, s.turn = some (.event .packetTake a) → s.Canonical → (s.queueAt a.n).lock = none → s.wakes = .queue a.n :: ws →
      s.idleCommand = some n →
      exec .packetTake s = exec .packetTake ((({ s with wakes := ws } : State).latchQueue a.n).modQueue a.n fun x => { x with lock := some n }))
  ∧ (∀ (s : State) q, (s.startable q = true ∨ s.finishable q = true → s.rest q = s)
      ∧ (s.startable q = false → s.finishable q = false → (s.queueAt q).pending = true → s.rest q = s.modQueue q fun x => { x with pending := false })
      ∧ (s.startable q = false → s.finishable q = false → (s.queueAt q).pending = false →
          s.rest q = s.modQueue q fun x => { x with lock := none, notified := false }))
  ∧ (∀ (s : State) d ws, pktType ws ∉ [1, 2, 3, 4, 6] ∨ bitsAt (recNat d 0x20 4) (pktType ws) 1 = 0 → s.packetCause d ws = some 0x01)
  ∧ (∀ (s : State) d ws, pktType ws ∈ [1, 2, 3, 4, 6] → bitsAt (recNat d 0x20 4) (pktType ws) 1 = 1 →
      (mbzOk ws = false → s.packetCause d ws = some 0x02)
      ∧ (mbzOk ws = true → pktType ws = 1 → 4 ≤ pktMode ws → s.packetCause d ws = some 0x03)
      ∧ (mbzOk ws = true → (pktType ws = 1 → pktMode ws < 4) → alignOk ws = false → s.packetCause d ws = some 0x05)
      ∧ (mbzOk ws = true → (pktType ws = 1 → pktMode ws < 4) → alignOk ws = true → rangeOk d ws = false → s.packetCause d ws = some 0x06)
      ∧ (mbzOk ws = true → alignOk ws = true → rangeOk d ws = true → pktType ws = 6 → s.packetCause d ws = none))
  ∧ (∀ a s d, s.turn = some (.event .thaw a) → s.Canonical → s.aon.bringUp = 6 → s.partials = [] → s.noWatch → s.queueAddr? a.n = some d → s.frozen a.n = true →
      (s.queueAt a.n).ringStall = none → (∀ p ∈ (s.queueAt a.n).packets, p.stalled = none) →
      (∀ g ∈ s.graphs, g.2.queue = a.n → g.2.frozen = false) →
      let old := s.word64 (d + 0x18)
      ∃ t, exec .thaw s = .next t ∧ t.frozen a.n = false ∧ bitsAt (t.word64 (d + 0x18)) 16 8 = 0 ∧ bitsAt (t.word64 (d + 0x18)) 0 16 = 0
        ∧ bitsAt (t.word64 (d + 0x18)) 32 32 = bitsAt old 32 32 ∧ t.awake a.n = true ∧ (t.queueAt a.n).notified = true
        ∧ { t with mem := s.mem, queues := s.queues, wakes := s.wakes, past := s.past, now := s.now, turn := s.turn } = s)
  ∧ (∀ a s, s.turn = some (.event .thaw a) → s.Canonical → s.aon.bringUp = 6 → ∃ t, exec .thaw s = .next t ∧ ∀ g, (s.graphAt g).queue = a.n → (t.graphAt g).frozen = false)
  ∧ Event .thaw (fun a s => s.frozen a.n = false ∧ s.Canonical ∧ ∀ g ∈ s.graphs, g.2.queue = a.n → g.2.frozen = false) (fun _ s => s)
  ∧ ∀ a s p rest, s.turn = some (.event .abandon a) → s.aon.bringUp = 6 → (s.queueAt a.n).packets = p :: rest → pktSignal p.words = true → s.releaseHeld a.n p.words = false →
      let d := (s.queueAt a.n).desc
      let signal := fun (v : Int) => s.signalSet (descAsid d) (descPriv d) (pktSignalVa p.words) v
      (p.stalled.isSome = true → exec .abandon s = .next ((signal (-0x1008)).dropPacket a.n 0).done)
      ∧ (p.stalled = none → p.started = true → pktType p.words = 4 → exec .abandon s = .next ((signal (-0x1009)).dropPacket a.n 0).done)

/-- At its turn, for a packet that may start (a command core holds the queue's lock, those before it have started and are
no WAITSIG, with BARRIER none is left before it, none of the queue is stalled) whose signal lines no engine owns,
every write that has left through a port being acknowledged: LAUNCH appends a launch with the packet's words, the
queue's address space and privilege, the feature view of its code object and no crew placed, leaves what reading that
view leaves, and marks the packet started; NOP_PACKET completes; SIGNAL sets its target, or adds to it, once no
protected launch of the address space runs, and completes, or where that left through a port as it is acknowledged;
CMDBLOCK marks the block started at command 0; WAITSIG completes where the condition holds and otherwise waits, its
signal watched at its home; every write to its line evaluates the condition there, and where it came to hold the
WAITSIG completes as its queue's event is served; one whose page had no translation is read once it has. A packet that
completes leaves the queue, its signal lowered by one where it has one. On a plain page a signal's addition is one
64-bit addition at its place. (R302, R305, R314, R315, R318, R345, 20, 21) -/
def Obligations.PacketsStartAndComplete : Prop :=
  let may := fun (q m : Nat) (p : Packet) (s : State) => (s.queueAt q).packets[m]? = some p ∧ p.started = false ∧ p.rejected = none
    ∧ (∀ x ∈ (s.queueAt q).packets.take m, x.started = true ∧ pktType x.words ≠ 4) ∧ (pktBarrier p.words = true → m = 0)
    ∧ (∀ x ∈ (s.queueAt q).packets, x.stalled = none) ∧ (s.queueAt q).lock.isSome = true
  let free := fun (q : Nat) (p : Packet) (s : State) => s.signalHeld q p.words = false ∧ ∀ o ∈ s.outbound, o.write = false
  let completed := fun (q m : Nat) (p : Packet) (s : State) =>
    let d := (s.queueAt q).desc
    (if pktSignal p.words then s.signalAdd (descAsid d) (descPriv d) (pktSignalVa p.words) (-1) else s).dropPacket q m
  let started := fun (q m : Nat) (s : State) (g : Packet → Packet) => s.modQueue q fun x => { x with packets := x.packets.modify m g }
  let evaluated := fun (q m : Nat) (p : Packet) (s t : State) =>
    let d := (s.queueAt q).desc
    ∀ s0 s1 tr bs, s.devTr (descAsid d) (pd p.words 2) { priv := descPriv d } = (s0, .ok tr) →
      s.devRead (descAsid d) (descPriv d) (pd p.words 2) 8 = (s1, .ok bs) → s1.queues = s.queues →
      (waitsigHolds p.words (leDWord bs) = true → t = (completed q m p s1).done)
      ∧ (waitsigHolds p.words (leDWord bs) = false →
          t = ((started q m s1 fun p => { p with started := true, watched := some {
            pa := tr.pa (pd p.words 2), asid := descAsid d, enc := tr.enc, met := false } }).refresh q).done)
  (∀ a s p, s.turn = some (.event .launch a) → may a.n a.m p s → pktType p.words = 1 →
      let asid := descAsid (s.queueAt a.n).desc
      s.readsHeld asid (s.viewReads asid (pd p.words 2)) = false →
      let x := s.peekedAll asid (s.viewReads asid (pd p.words 2))
      ∃ (t : State) (l : Launch), exec .launch s = .next t
        ∧ t = (started a.n a.m { x with launches := s.launches ++ [l] } fun p => { p with started := true, launch := some s.launches.length }).done
        ∧ l.view = s.featureView asid (pd p.words 2)
        ∧ l.words = p.words ∧ l.queue = a.n ∧ l.asid = descAsid (s.queueAt a.n).desc ∧ l.priv = descPriv (s.queueAt a.n).desc ∧ l.placed = 0
        ∧ l.cause = none ∧ l.completed = false ∧ l.rollbacks = 0)
  ∧ (∀ a s p, s.turn = some (.event .nopPacket a) → may a.n a.m p s → pktType p.words = 6 → free a.n p s →
      exec .nopPacket s = .next (completed a.n a.m p s).done)
  ∧ (∀ a s p, s.turn = some (.event .signal a) → may a.n a.m p s → pktType p.words = 3 → p.next ≠ 1 → free a.n p s →
      (∀ l ∈ s.launches, l.asid = descAsid (s.queueAt a.n).desc → l.completed = false → bitsAt (l.words.getD 1 0).toNat 10 1 ≠ 1) →
      let d := (s.queueAt a.n).desc
      let v := (BitVec.ofNat 64 (pd p.words 4)).toInt
      let t : State := if (p.words.getD 1 0).getLsbD 0 then s.signalSet (descAsid d) (descPriv d) (pd p.words 2) v
        else s.signalAdd (descAsid d) (descPriv d) (pd p.words 2) v;
      ((∀ o ∈ t.outbound, o.write = false) → exec .signal s = .next (t.completePacket a.n a.m).done)
      ∧ ((∃ o ∈ t.outbound, o.write = true) → exec .signal s = .next (started a.n a.m t fun p => { p with started := true, next := 1 }).done))
  ∧ (∀ a s p, s.turn = some (.event .signal a) → (s.queueAt a.n).packets[a.m]? = some p → pktType p.words = 3 → p.next = 1 → free a.n p s →
      exec .signal s = .next (completed a.n a.m p s).done)
  ∧ (∀ a s p, s.turn = some (.event .cmdblock a) → may a.n a.m p s → pktType p.words = 2 →
      (∀ l ∈ s.launches, l.asid = descAsid (s.queueAt a.n).desc → l.completed = false → bitsAt (l.words.getD 1 0).toNat 10 1 ≠ 1) →
      exec .cmdblock s = .next (started a.n a.m s fun p => { p with started := true, next := 0 }).done)
  ∧ (∀ a s p, s.turn = some (.event .waitsig a) → may a.n a.m p s → pktType p.words = 4 → free a.n p s →
      ∃ t, exec .waitsig s = .next t ∧ evaluated a.n a.m p s t)
  ∧ (∀ a s p, s.turn = some (.event .waitsigReevaluate a) → (s.queueAt a.n).packets[a.m]? = some p → p.started = true → pktType p.words = 4 →
      free a.n p s →
      (s.readableNow a.n p = true → ∃ t, exec .waitsigReevaluate s = .next t ∧ evaluated a.n a.m p s t)
      ∧ ∀ w s', p.watched = some w → w.met = true → s.serving a.n = some s' → exec .waitsigReevaluate s = .next (completed a.n a.m p s').done)
  ∧ (∀ (s : State) (q m : Nat) (p : Packet) (w : Watch) (pa n : Nat), s.Canonical → (s.queueAt q).packets[m]? = some p → p.watched = some w → w.met = false → inMmio w.pa = false →
      ∃ p' : Packet, ((s.tellSignals pa n).queueAt q).packets[m]? = some p'
        ∧ (p'.watched.any Watch.met = true ↔ meetsRange pa n (w.pa / 64 * 64) 64 = true
            ∧ waitsigHolds p.words (leDWord (s.decrypt w.asid w.enc w.pa (s.freshBytes w.pa 8))) = true)
        ∧ { p' with watched := p.watched } = p)
  ∧ (∀ (s : State) q m, s.Canonical → s.noWatch → ((s.dropPacket q m).queueAt q).packets = (s.queueAt q).packets.eraseIdx m)
  ∧ (∀ ws v, let c : DWord := BitVec.ofNat 64 (pd ws 4)
      (bitsAt (pw ws 1) 0 2 = 0 → (waitsigHolds ws v = true ↔ v = c)) ∧ (bitsAt (pw ws 1) 0 2 = 1 → (waitsigHolds ws v = true ↔ v ≠ c))
      ∧ (bitsAt (pw ws 1) 0 2 = 2 → (waitsigHolds ws v = true ↔ v.toInt < c.toInt)) ∧ (bitsAt (pw ws 1) 0 2 = 3 → (waitsigHolds ws v = true ↔ c.toInt ≤ v.toInt)))
  ∧ ∀ (s : State) asid priv va v w, s.walk asid va { priv := priv } = .ok w → s.walk asid va { write := true, priv := priv } = .ok w →
      s.applyWalk asid va false w = s → (∀ l m, ({ s with l2 := l, l2Next := m } : State).applyWalk asid va true w = { s with l2 := l, l2Next := m }) → va % 8 = 0 → s.partials = [] →
      s.rel.poison = [] → s.rel.correctable = [] → inMmio (w.tr.pa va) = false → w.tr.enc = false → w.tr.snapshot = false →
      (∀ x, w.tr.pa va ≤ x → x < w.tr.pa va + 8 → s.outsideTables x) →
      (s.signalAdd asid priv va v).mem = (s.store (w.tr.pa va) (leBytes 8 (leDWord (s.bytes (w.tr.pa va) 8) + BitVec.ofInt 64 v).toNat)).mem

/-- At its turn, with a command core free: a sound FILL or COPY command of a started block writes its words, and the block
goes on at the next command, or completes after its last, once its signal can be written and what left through ports
is acknowledged; a command that fails its test freezes the queue with the cause. Writing n words writes the first
word, a copy's as read from its source, then the others; no words change nothing. A launch that is over is dealt with
as its queue is served, under its lock or as its oldest event taken by an idle command core: LAUNCH_COMPLETION_SIGNAL
of an unprotected launch all of whose crews have been placed and ended, nothing of it on its way, marks the launch
completed and completes its packet. LAUNCH_END_WITH_CAUSE sets the signal of a launch that ended with a cause, quiet
and unprotected, to minus 0x2000 plus the cause, and takes the packet away. (R288, R305, R313, R316, 20, 21) -/
def Obligations.CommandsAndLaunchesComplete : Prop :=
  (∀ (fill : Bool) (i : Instr) (a : EvArg) (s : State) (p : Packet) s1 b, (i = .fill ∧ fill = true ∨ i = .copy ∧ fill = false) →
      s.turn = some (.event i a) → (s.queueAt a.n).packets[a.m]? = some p → pktType p.words = 2 → p.started = true → p.stalled = none → s.commandOpen = true →
      (bitsAt (pw p.words 1) 0 13 ≤ p.next → s.releaseHeld a.n p.words = false → exec i s = .next (s.completePacket a.n a.m).done)
      ∧ (p.next < bitsAt (pw p.words 1) 0 13 →
      let d := (s.queueAt a.n).desc
      let va := pd p.words 2 + 32 * p.next
      s.areaHeld (descAsid d) va 32 false = false → s.devRead (descAsid d) (descPriv d) va 32 = (s1, .ok b) → (recNat b 0 1 = 2 ↔ fill = true) →
      (∀ c, commandCause d b = some c → s.releaseHeld a.n p.words = false → exec i s = .next ((s1.dropPacket a.n a.m).freeze a.n p.words c).done)
      ∧ ∀ s2, commandCause d b = none →
        runWords (descAsid d) (descPriv d) (recNat b 0 1 == 1) ((b.drop 0x10).take 4) (recNat b 4 4 / 4) (recNat b 8 8) (recNat b 0x10 8) s1 = (s2, .ok ()) →
        (p.next + 1 < bitsAt (pw p.words 1) 0 13 → exec i s = .next (s2.modQueue a.n fun x => { x with packets := x.packets.modify a.m fun p => { p with next := p.next + 1 } }).done)
        ∧ (bitsAt (pw p.words 1) 0 13 ≤ p.next + 1 → s2.releaseHeld a.n p.words = true →
            exec i s = .next (s2.modQueue a.n fun x => { x with packets := x.packets.modify a.m fun p => { p with next := p.next + 1 } }).done)
        ∧ (bitsAt (pw p.words 1) 0 13 ≤ p.next + 1 → s2.releaseHeld a.n p.words = false → exec i s = .next (s2.completePacket a.n a.m).done)))
  ∧ (∀ asid priv copy w dst src s, runWords asid priv copy w 0 dst src s = (s, .ok ()))
  ∧ (∀ asid priv n dst src s s1 w, s.devHeld asid dst true = false → s.devWrite asid priv dst w = (s1, .ok ()) →
      runWords asid priv false w (n + 1) dst src s = runWords asid priv false w n (dst + 4) (src + 4) s1)
  ∧ (∀ asid priv n dst src s s1 s2 w bs, s.devHeld asid dst true = false → s.devHeld asid src false = false → s.devRead asid priv src 4 = (s1, .ok bs) →
      s1.devWrite asid priv dst bs = (s2, .ok ()) → runWords asid priv true w (n + 1) dst src s = runWords asid priv true w n (dst + 4) (src + 4) s2)
  ∧ (∀ d b, (recNat b 1 3 ≠ 0 → commandCause d b = some 0x02)
      ∧ (recNat b 1 3 = 0 → recNat b 0x18 8 = 0 → recNat b 0 1 = 1 → recNat b 8 8 % 4 = 0 → recNat b 0x10 8 % 4 = 0 → inRanges d (recNat b 8 8) (recNat b 4 4) = true →
          inRanges d (recNat b 0x10 8) (recNat b 4 4) = true → recNat b 0x10 8 < recNat b 8 8 + recNat b 4 4 → recNat b 8 8 < recNat b 0x10 8 + recNat b 4 4 →
          commandCause d b = some 0x07))
  ∧ (∀ a s s' x q m, s.turn = some (.event .launchCompletionSignal a) → s.launches[a.n]? = some x → s.serving x.queue = some s' → s'.packetOf a.n = some (q, m) →
      x.completed = false → x.rolling = false → x.handedBack = false → x.cause = none → x.placed = pktCrews x.words → s'.launchQuiet a.n = true → x.node = none →
      s'.releaseHeld q x.words = false → pktProtected x.words = false → (∀ (c : Nat) (k : Crew), s.crews[c]? = some k → k.desc.launch = a.n → k.pair = none) →
      exec .launchCompletionSignal s = .next (((s'.modLaunch a.n fun l => { l with completed := true }).wakeKept).completePacket q m).done)
  ∧ ∀ a s s' x q m cause, s.turn = some (.event .launchEndWithCause a) → s.launches[a.n]? = some x → s.packetOf a.n = some (q, m) → s.serving q = some s' →
      x.cause = some cause → x.completed = false → x.handedBack = false → x.node = none → s'.launchQuiet a.n = true → s'.releaseHeld q x.words = false →
      pktProtected x.words = false → cause.toNat ≠ 0x10 →
      (∀ (c : Nat) (k : Crew), s.crews[c]? = some k → k.desc.launch = a.n → k.pair = none) → pktSignal x.words = true →
      let d := (s'.queueAt q).desc
      let gone := (s'.modLaunch a.n fun l => { l with completed := true }).wakeKept
      exec .launchEndWithCause s = .next ((gone.signalSet (descAsid d) (descPriv d) (pktSignalVa x.words) (-(0x2000 + (cause.toNat : Int)))).dropPacket q m).done

/-- At its turn, with the graph table locked in and bring-up over: GRAPH_REGISTRATION registers the object and queue of
the slot's entry where the object keeps R319, and else leaves the slot unregistered. GRAPH_KICK of a registered slot
that is not frozen posts the graph's wake and keeps the value: it waits for its replay, or is held behind one that
runs or has still to begin, a later one replacing what is held. A kick of a slot with no graph, or of a frozen one,
changes nothing (the model's reading, log 37). An idle command core that takes the wake starts a replay with the value
that waits, where it names no patch table and none runs: every buffer at its initial state, one launch for each node
appended in order with the node's template; a value of 1 to 15 names no patch table (the model's reading, log 37).
Where a replay runs it leaves the value held. Each replay has a number of its own, which its launches bear.
GRAPH_NODE_COMPLETION of a node of the graph's present replay whose launch is over without a cause, unprotected, none
of the replay being handed back, marks the launch completed and, where other nodes remain, the node completed, its
results full, its inputs that are still full empty unless kept, the other buffers unchanged. Reading the object and
the code objects leaves what such reads leave (State.objRead, State.peekedAll). (R272, R317, R319, R320, R357, 21) -/
def Obligations.GraphsReplay : Prop :=
  (∀ a s e, s.turn = some (.event .graphRegistration a) → s.Canonical → s.aon.bringUp = 6 → s.graphAddr? a.n = some e →
      let g := { GraphSt.fresh with
        registered := true, object := BitVec.ofNat 64 (s.word64 e), queue := s.word32 (e + 8), replay := (s.graphAt a.n).replay + 1 }
      s.objHeld g = false →
      let r := s.objRead g
      ∃ t, exec .graphRegistration s = .next t ∧ (t.graphAt a.n).registered = s.objectOk g ∧ (t.graphAt a.n).replay = (s.graphAt a.n).replay + 1
        ∧ (s.objectOk g = true → (t.graphAt a.n).object = BitVec.ofNat 64 (s.word64 e) ∧ (t.graphAt a.n).queue = s.word32 (e + 8) ∧ (t.graphAt a.n).running = false)
        ∧ (∀ x, x ≠ a.n → t.graphAt x = s.graphAt x) ∧ { t with graphs := r.graphs, now := r.now, turn := r.turn } = r)
  ∧ Event .graphKick (fun a s => a.m ≠ 1 ∧ ((s.graphAt a.n).registered = false ∨ (s.graphAt a.n).frozen = true)) (fun _ s => s)
  ∧ Event .graphKick (fun a s => a.m ≠ 1 ∧ (s.graphAt a.n).registered = true ∧ (s.graphAt a.n).frozen = false ∧ (s.table? 4).isSome = true ∧ s.aon.bringUp = 6)
      (fun a s => (s.modGraph a.n fun g => { g with kicks := match g.running, g.kicks with
        | false, k :: _ => [k, a.v]
        | _, _ => [a.v] }).post (.graph a.n))
  ∧ (∀ a s ws n v vs, s.turn = some (.event .graphKick a) → a.m = 1 → s.Canonical → s.wakes = .graph a.n :: ws → (s.graphAt a.n).core = none → s.idleCommand = some n → s.noWatch →
      (s.graphAt a.n).kicks = v :: vs → (s.graphAt a.n).frozen = false →
      (s.graphAt a.n).running = false → (s.queueAt (s.graphAt a.n).queue).desc ≠ [] → v.toNat < 16 →
      let s1 := ({ s with wakes := ws } : State).modGraph a.n fun g => { g with core := some n }
      s1.graphFinishable a.n = false → s1.graphHeld (s1.graphAt a.n) = false → s1.kickHeld (s1.graphAt a.n) v = false →
      let s2 := s1.modGraph a.n fun g => { g with kicks := vs }
      let g := s2.graphAt a.n
      let x := (s2.objRead g).peekedAll (descAsid (s2.descOf g.queue)) (s2.kickReads g v)
      ∃ t, exec .graphKick s = .next t ∧ (t.graphAt a.n).running = true ∧ (t.graphAt a.n).started = [] ∧ (t.graphAt a.n).completed = [] ∧ (t.graphAt a.n).kicks = vs
        ∧ (t.graphAt a.n).core = some n ∧ (t.graphAt a.n).buffers = x.initialBuffers g ∧ (t.graphAt a.n).patched = g.patched
        ∧ (t.graphAt a.n).replay = g.replay + 1
        ∧ t.launches.length = s.launches.length + x.nodeCount g ∧ t.launches.take s.launches.length = s.launches
        ∧ (∀ i, i < x.nodeCount g → ∃ l, t.launches[s.launches.length + i]? = some l ∧ l.node = some (a.n, i) ∧ l.replay = g.replay + 1
            ∧ l.words = x.template g i ∧ l.queue = g.queue ∧ l.placed = 0)
        ∧ t.wakes = ws ∧ { t with graphs := x.graphs, launches := x.launches, now := x.now, turn := x.turn } = x)
  ∧ (∀ a s ws n, s.turn = some (.event .graphKick a) → a.m = 1 → s.Canonical → s.wakes = .graph a.n :: ws → (s.graphAt a.n).core = none → s.idleCommand = some n →
      s.graphFinishable a.n = false → (s.graphAt a.n).running = true →
      ∃ t, exec .graphKick s = .next t ∧ (t.graphAt a.n).kicks = (s.graphAt a.n).kicks ∧ (t.graphAt a.n).running = true ∧ t.wakes = ws
        ∧ (∀ x, x ≠ a.n → t.graphAt x = s.graphAt x) ∧ { t with graphs := s.graphs, wakes := s.wakes, now := s.now, turn := s.turn } = s)
  ∧ ∀ a s x slot i, s.turn = some (.event .graphNodeCompletion a) → s.Canonical → s.launches[a.n]? = some x → x.node = some (slot, i) → s.nodeOver a.n = true →
      (s.graphAt slot).core.isSome = true → x.handedBack = false → x.cause = none → s.graphHeld (s.graphAt slot) = false → pktProtected x.words = false →
      s.ofReplay slot x = true → s.graphBack slot = false →
      (∀ (c : Nat) (k : Crew), s.crews[c]? = some k → k.desc.launch = a.n → k.pair = none) → (s.graphAt slot).cause = none →
      let g := s.graphAt slot
      let r := (s.overLaunch a.n x).objRead g
      (∃ j, j < r.nodeCount g ∧ j ≠ i ∧ j ∉ g.completed) →
      ∃ t, exec .graphNodeCompletion s = .next t ∧ t.launches = s.launches.set a.n { x with completed := true }
        ∧ (t.graphAt slot).completed = g.completed ++ [i] ∧ (t.graphAt slot).running = g.running
        ∧ (∀ b, b < g.buffers.length → (t.graphAt slot).buffers.getD b .empty = if b ∈ r.nodeResults g i then .full
            else if (b, false) ∈ r.nodeInputs g i ∧ g.buffers.getD b .empty = .full then .empty else g.buffers.getD b .empty)
        ∧ { t with graphs := r.graphs, now := r.now, turn := r.turn } = r

/-- At its turn: CREW_PLACEMENT of a fresh launch's next crew, as the placer decided, appends the crew of an unpaired
launch, its fibres at the PC that the entry gives for the encoding of its core, every register 0, one more crew of the
launch placed; a round of a level takes up the scheduling words of the level's queues and gives each that is ready and
still of the level 256 times its quantum, within R268's limits; CREW_RESTORE puts a saved crew back where it fits
(State.placeAgain) and moves the level's pointer. Counts of passes apart, other crews are unchanged. PREEMPTION of an
unpaired resident crew marks it until it stops, and saves it and takes it off its core once it has; MIGRATION of a
crew at its dovetail points does so for a core of the requested kind, RETURN_TRAP for a density core.
FIRMWARE_CHECKPOINT leaves the crew there, its save counted. A saved crew keeps every register, predicate and window.
FAULT_DELIVERY of a held fault ends the launch with its cause where no handler is installed; else the sequence number
rises and a loose privileged handler fibre enters the handler with the record's address and the trap-return link, the
unit waiting. CARVE_OUT_CHANGE, where a crew has just been placed on the core or has ended there, gives the core its
new split, dropping the lines of the ways handed over, or keeps the wish while an allocation stands in its way: when a
change comes, and its size, are the model's choice (log 44). PAIR_COMPARISON of copies that match empties both buffers
and lets the units that stand alike go on; whole words of one fibre on plain pages, stored under the present
generation, are then in memory in their order. A difference is logged and ends an unprotected launch with cause ECC;
when copies match or differ is the model's reading (log 17). PROTECTED_ROLLBACK restarts the launch from its first
crew, its buffers given up, the address space's generation one higher at every die, that of no other space changed.
(R123, R124, R258, R265, R268, R273, R284, R289, R290, R298, R341, R344) -/
def Obligations.CrewsMove : Prop :=
  let unpassed := fun (k : Crew) => { k with passedOver := 0 }
  let passes := fun (k k' x : Crew) => let us := k.matched k'
    x.pair = k.pair.map (fun p => { p with
        signature := 0, buffer := [], arrived := p.arrived.filter fun u => !us.contains u, passed := p.passed ++ us })
      ∧ { x with fibres := k.fibres, pair := k.pair } = k ∧ x.fibres.length = k.fibres.length
      ∧ ∀ q, q < k.fibres.length → (x.fibre q).face = (k.fibre q).face ∧ (x.fibre q).pc = (k.fibre q).pc
        ∧ (x.fibre q).wait = if (k.fibre q).wait = .pair ∧ (k.fibre q).unit ∈ us then .none else (k.fibre q).wait
  let kept := fun (k k' : Crew) => k'.fibres.length = k.fibres.length ∧ k'.scr = k.scr ∧ k'.tiles = k.tiles ∧ k'.bench = k.bench ∧ k'.desc = k.desc
    ∧ ∀ p, (k'.fibre p).regs = (k.fibre p).regs ∧ (k'.fibre p).preds = (k.fibre p).preds ∧ (k'.fibre p).pc = (k.fibre p).pc ∧ (k'.fibre p).size = (k.fibre p).size
  let others := fun (s t : State) (c : Nat) => ∀ j, j ≠ c → t.crews[j]? = s.crews[j]?
  let saved := fun (s t : State) (c : Nat) (k : Crew) (dest : CrewStatus) => others s t c ∧ t.crews.length = s.crews.length
    ∧ ∃ k', t.crews[c]? = some k' ∧ kept k k' ∧ k'.status = dest ∧ k'.saveSeq = k.saveSeq + 1 ∧ k'.preempting = false ∧ k'.returning = false ∧ k'.gangs = k.gangs
  (∀ a s v q l passed x (e : Entry), s.turn = some (.event .crewPlacement a) → s.nextDecision = some (.serve v q (.fresh l) passed) → s.launches[l]? = some x → x.node = none →
      s.entry? x.asid (pd x.words 2) (bitsAt (pw x.words 4) 0 12) = some e → bitsAt (pw x.words 1) 8 1 = 0 → (s.place (.fresh l)).isSome = true →
      passed = [] → s.sync.early = [] →
      ∃ t k, exec .crewPlacement s = .next t ∧ t.crews.length = s.crews.length + 1 ∧ t.crews[s.crews.length]? = some k
        ∧ (t.crews.take s.crews.length).map unpassed = s.crews.map unpassed
        ∧ k.status = .resident ∧ k.kind = kindOfCore k.core ∧ k.desc.launch = l ∧ k.desc.asid = x.asid ∧ k.desc.nbound = pktFibres x.words ∧ k.gangs.length = pktGangs x.words
        ∧ k.desc.x + pktX x.words * (k.desc.y + pktY x.words * k.desc.z) = x.placed
        ∧ (∀ p, p < pktFibres x.words → (k.fibre p).live = true ∧ (k.fibre p).bound = true ∧ (k.fibre p).ident = p ∧ (k.fibre p).home = p % 32 ∧ (k.fibre p).gang = p / 32
            ∧ (∀ pc, (if k.kind.isL then e.lpc else e.dpc) = pc → pc ≠ 0xFFFFFFFF →
                (k.fibre p).pc = BitVec.ofNat 32 pc ∧ (k.fibre p).hdr = BitVec.ofNat 32 pc ∧ (k.fibre p).codeBase = BitVec.ofNat 64 (pd x.words 2))
            ∧ (k.fibre p).priv = x.priv ∧ (k.fibre p).size = e.blocks k.kind ∧ (k.fibre p).preds = 0 ∧ ∀ r, (k.fibre p).reg r = regOf 0 false)
        ∧ (t.launches[l]?).map Launch.placed = some (x.placed + 1))
  ∧ (∀ a s v, s.turn = some (.event .crewPlacement a) → s.Canonical → s.nextDecision = some (.round v) →
      ∃ t, exec .crewPlacement s = .next t ∧ { t with queues := s.queues, now := s.now, turn := s.turn } = s
        ∧ ∀ q, t.queueAt q = if q ∈ s.levelQueues v then
            let w := recNat (s.queueDesc q) 0x0C 4
            let n : Int := (max 1 (bitsAt w 0 24) : Nat)
            { s.queueAt q with
              sched := w
              deficit := if s.queueReady q = true ∧ bitsAt w 30 2 = v then
                  max (-(2 ^ 47)) (min ((s.queueAt q).deficit + 256 * n) (min (2 ^ 47) (1024 * n)))
                else (s.queueAt q).deficit }
          else s.queueAt q)
  ∧ (∀ a s v q c passed s1, s.turn = some (.event .crewRestore a) → s.nextDecision = some (.serve v q (.saved c) passed) → s.placeAgain c = some s1 → passed = [] → s1.Canonical →
      ∃ t, exec .crewRestore s = .next t ∧ t.pointers = s1.pointers.set v ((q + 1) % 4096) ∧ t.crews.map unpassed = s1.crews.map unpassed
        ∧ (∀ n, { t.queueAt n with passed := none, passedOver := 0 } = { s1.queueAt n with passed := none, passedOver := 0 })
        ∧ { t with crews := s1.crews, queues := s1.queues, pointers := s1.pointers, now := s1.now, turn := s1.turn } = s1)
  ∧ (∀ a s k, s.turn = some (.event .preemption a) → s.crews[a.n]? = some k → k.status = .resident → k.pair = none →
      (s.stoppable a.n = false → exec .preemption s = .next (s.modCrew a.n fun k => { k with preempting := true }).done)
      ∧ (s.stoppable a.n = true → k.fibres.all (fun f => f.bound) = true → s.sync.early = [] → ∃ t, exec .preemption s = .next t ∧ saved s t a.n k .saved))
  ∧ (∀ a s k kind, s.turn = some (.event .migration a) → s.crews[a.n]? = some k → k.pair = none → k.pending = some kind → s.stoppable a.n = true →
      k.fibres.all (fun f => f.bound) = true → s.sync.early = [] → (∃ f ∈ k.fibres, f.live = true) → (∀ f ∈ k.fibres, f.live = true → f.wait = .dovetail) →
      ∃ t, exec .migration s = .next t ∧ saved s t a.n k (.moving kind))
  ∧ (∀ a s k, s.turn = some (.event .returnTrap a) → s.crews[a.n]? = some k → k.pair = none → k.returning = true → s.stoppable a.n = true →
      k.fibres.all (fun f => f.bound) = true → s.sync.early = [] → ∃ t, exec .returnTrap s = .next t ∧ saved s t a.n k (.moving .density))
  ∧ (∀ a s k, s.turn = some (.event .firmwareCheckpoint a) → s.crews[a.n]? = some k → k.pair = none → s.stoppable a.n = true → s.sync.early = [] →
      ∃ t k', exec .firmwareCheckpoint s = .next t ∧ others s t a.n ∧ t.crews[a.n]? = some k' ∧ kept k k' ∧ k'.status = .resident ∧ k'.saveSeq = k.saveSeq + 1)
  ∧ (∀ a s k h, s.turn = some (.event .faultDelivery a) → s.crews[a.n]? = some k → k.heldFault = some h → s.canDeliver a.n = true →
      (s.handler? k.desc.asid h.cause.toNat k.kind = none → ∃ t, exec .faultDelivery s = .next t
        ∧ (t.launches[k.desc.launch]?).map Launch.cause = (s.launches[k.desc.launch]?).map (fun l => l.cause.orElse fun _ => some h.cause)
        ∧ t.crews.length = s.crews.length ∧ (∀ (j : Nat) (k' : Crew), t.crews[j]? = some k' → k'.desc.launch = k.desc.launch → k'.status = .ended)
        ∧ ∀ (j : Nat) (k' : Crew), s.crews[j]? = some k' → k'.desc.launch ≠ k.desc.launch → t.crews[j]? = some k')
      ∧ ∀ pc base blocks, s.handler? k.desc.asid h.cause.toNat k.kind = some (pc, base, blocks) → s.noWatch → h.home < 32 →
        ∃ t k' f, exec .faultDelivery s = .next t ∧ others s t a.n ∧ t.crews[a.n]? = some k' ∧ k'.faultSeq = k.faultSeq + 1 ∧ k'.heldFault = none
          ∧ k'.delivery = some { unit := h.unit, cause := h.cause, fibre := k.fibres.length, token := h.token, lanes := h.lanes }
          ∧ k'.fibres.length = k.fibres.length + 1 ∧ k'.fibres[k.fibres.length]? = some f
          ∧ f.live = true ∧ f.bound = false ∧ f.priv = true ∧ f.handler = true ∧ f.home = h.home ∧ f.size = blocks
          ∧ f.pc = BitVec.ofNat 32 pc ∧ f.codeBase = BitVec.ofNat 64 base
          ∧ (∀ n, n < 8 * blocks → 8 ≤ 8 * blocks → f.reg n =
              if n = 0 then regOf ((k.desc.ctx + 0x100).extractLsb' 0 32) false
              else if n = 1 then regOf ((k.desc.ctx + 0x100).extractLsb' 32 32) false
              else if n = 7 then regOf (BitVec.ofNat 32 (trapLink (k.faultSeq + 1) h.unit)) false
              else regOf 0 false)
          ∧ (∀ p, p < k.fibres.length → (k'.fibre p).face = (k.fibre p).face ∧ (k'.fibre p).pc = (k.fibre p).pc
              ∧ (k'.fibre p).wait = if p ∈ k.members h.unit then .inDelivery else (k.fibre p).wait)
          ∧ t.queues = s.queues ∧ t.launches = s.launches ∧ t.gens = s.gens)
  ∧ (∀ a s, s.turn = some (.event .carveOutChange a) → s.Canonical → a.n < 256 → a.m ≤ 7 → s.waysUsed a.n ≤ a.m →
      (s.coreAt a.n).carveDue = true ∨ (s.coreAt a.n).carveWish = some a.m →
      ∃ t, exec .carveOutChange s = .next t
        ∧ t.coreAt a.n = { s.coreAt a.n with carve := a.m, carveDue := false, carveWish := none, l1 := (s.coreAt a.n).l1.filter fun l => decide (a.m ≤ l.way) }
        ∧ (∀ n, n ≠ a.n → t.coreAt n = s.coreAt n) ∧ { t with cores := s.cores, now := s.now, turn := s.turn } = s)
  ∧ (∀ a s, s.turn = some (.event .carveOutChange a) → s.Canonical → a.n < 256 → a.m ≤ 7 → a.m < s.waysUsed a.n → (s.coreAt a.n).carveDue = true →
      ∃ t, exec .carveOutChange s = .next t ∧ t.coreAt a.n = { s.coreAt a.n with carveDue := false, carveWish := some a.m }
        ∧ (∀ n, n ≠ a.n → t.coreAt n = s.coreAt n) ∧ { t with cores := s.cores, now := s.now, turn := s.turn } = s)
  ∧ (∀ a s k p k', s.turn = some (.event .pairComparison a) → s.crews[a.n]? = some k → k.pair = some p → s.crews[p.partner]? = some k' →
      (s.pairMatches a.n = true → k.finished = false → k'.pair.isSome = true → p.partner ≠ a.n → s.sync.early = [] → s.noWatch →
        ∃ t x x', exec .pairComparison s = .next t ∧ t.crews.length = s.crews.length ∧ t.crews[a.n]? = some x ∧ t.crews[p.partner]? = some x'
          ∧ passes k k' x ∧ passes k' k x' ∧ (∀ j, j ≠ a.n → j ≠ p.partner → t.crews[j]? = s.crews[j]?)
          ∧ ∀ i, s.Canonical → s.partials = [] → s.rel.poison = [] → (∀ w ∈ p.buffer, w.plred = none ∧ w.mask = 15 ∧ w.gen = s.gen k.desc.asid ∧ w.who = some i
              ∧ w.release = none ∧ inMmio w.pa = false ∧ w.tr.enc = false ∧ w.tr.snapshot = false ∧ w.va.toNat % 4 = 0
              ∧ (∀ e ∈ s.past, e.missable s.now k.core (a.n, i) = false) ∧ ∀ b, w.pa ≤ b → b < w.pa + 4 → s.outsideTables b) →
            t.mem = (p.buffer.foldl (fun y w => y.store w.pa (leBytes 4 w.data.toNat)) s).mem)
      ∧ (s.pairMatches a.n = false → s.pairDiffers a.n = true → s.protectedCrew a.n = false → exec .pairComparison s = .next (((s.logCrew 4 6 a.n 0).modLaunch k.desc.launch fun x =>
          { x with errUnit := 6, errCore := k.core, errAddr := 0 }).endLaunch k.desc.launch 0x10).done))
  ∧ ∀ a s x, s.turn = some (.event .protectedRollback a) → s.launches[a.n]? = some x → x.rolling = true → s.launchQuiet a.n = true → s.rel.poison = [] → s.noWatch →
      s.Canonical → s.rollbackHeld x.asid = false →
      ∃ t y, exec .protectedRollback s = .next t ∧ t.launches[a.n]? = some y
        ∧ y = { x with rolling := false, rollbacks := x.rollbacks + 1, placed := 0, ended := 0, cause := none, told := false }
        ∧ (∀ die, die < 9 → t.genAt x.asid die = (s.gen x.asid + 1) % 2 ^ 16) ∧ (∀ asid die, asid ≠ x.asid → die < 9 → t.genAt asid die = s.genAt asid die)
        ∧ t.crews.length = s.crews.length ∧ t.queues = s.queues
        ∧ ∀ (c : Nat) (k k' : Crew), s.crews[c]? = some k → t.crews[c]? = some k' → { k' with copies := k.copies, stores := k.stores, pair := k.pair } = k
            ∧ k'.pair = if k.desc.launch = a.n then k.pair.map (fun p => { p with signature := 0, buffer := [] }) else k.pair

/-- At its turn: BASE_REGISTER_WRITE sets BASE and LOCK of a register whose LOCK is clear, and changes nothing where it is
set; REGISTER_WRITE does so below 0x030, sets the ring's n at 0x030, changes nothing at the read-only 0x038, and
elsewhere the register holds the value; ISLAND_CLOCK_CHANGE sets an island's clock up to its nominal value;
POWER_CAP_SET takes caps of 1,200 to 3,200 W and no other; THERMAL_LIMIT marks the die hot and every resident crew for
pre-emption, DIE_COOLED ends it; ASID_KEY_INIT gives an ASID its key, or releases it; UNIT_SELF_TEST pre-empts the
unit's crews, and with none left and no event in service there fences the unit exactly where it fails;
ATTESTATION_REPORT appends 1,408 bytes with the requester's nonce; MODULE_RESET leaves the reset state, memory listing
nothing and each of its bytes a free value, but for the count of steps and free values, the reports given and hot
dies, every cycle counter at 0; BRING_UP does the next of its six steps, step 1 only where the images verify, step 2
leaving fenced what was fenced, step 3 only with a binding of the ports, rounding each expander's capacity up to 1
GiB, step 4 only with every LOCK set. Firmware's registers are written from step 3 on, keys made from step 4, and the
other events but heat and reset served from step 1. That a step is one input, and what waits for which, is the model's
reading (log 41); that the offsets above 0x030 but 0x038 hold what is written is its choice (logs 3 and 12). (R346,
R349, R350, R352, R353, R355, R356, R357, R358, 23, 24) -/
def Obligations.AlwaysOnDomain : Prop :=
  let base := fun (r v : DWord) => if r.getLsbD 0 then r else v &&& 0x000FFFFFFFFFF001#64
  Event .baseRegisterWrite (fun a s => a.n < 0x30 ∧ 3 ≤ s.aon.bringUp) (fun a s => { s with aon := { s.aon with bases := s.aon.bases.modify (a.n / 8) fun r => base r a.v } })
  ∧ Event .registerWrite (fun a s => a.n < 0x30 ∧ 3 ≤ s.aon.bringUp) (fun a s => { s with aon := { s.aon with bases := s.aon.bases.modify (a.n / 8) fun r => base r a.v } })
  ∧ Event .registerWrite (fun a s => a.n = 0x30 ∧ 3 ≤ s.aon.bringUp) (fun a s => { s with aon := { s.aon with ringN := a.v.toNat % 32 } })
  ∧ Event .registerWrite (fun a _ => a.n = 0x38) (fun _ s => s)
  ∧ (∀ a s, s.turn = some (.event .registerWrite a) → s.Canonical → 3 ≤ s.aon.bringUp → 0x30 < a.n → a.n ≠ 0x38 →
      ∃ t, exec .registerWrite s = .next t ∧ t.aonRead a.n = a.v ∧ (∀ x, x ≠ a.n → t.aonRead x = s.aonRead x) ∧ { t with aon := s.aon, now := s.now, turn := s.turn } = s)
  ∧ Event .islandClockChange (fun a s => 1 ≤ s.aon.bringUp ∧ a.n < 32 ∧ 0 < a.m ∧ a.m ≤ if a.n < 24 ∧ a.n % 3 = 2 then 2800 else 1400)
      (fun a s => { s with power := { s.power with islands := s.power.islands.set a.n a.m } })
  ∧ Event .islandClockChange (fun a _ => (if a.n < 24 ∧ a.n % 3 = 2 then 2800 else 1400) < a.m) (fun _ s => s)
  ∧ Event .powerCapSet (fun a s => 1 ≤ s.aon.bringUp ∧ 1200 ≤ a.n ∧ a.n ≤ 3200) (fun a s => { s with power := { s.power with cap := a.n } })
  ∧ Event .powerCapSet (fun a _ => a.n < 1200 ∨ 3200 < a.n) (fun _ s => s)
  ∧ (∀ a s, s.turn = some (.event .thermalLimit a) → a.n < 17 → ∃ t, exec .thermalLimit s = .next t ∧ a.n ∈ t.power.hot ∧ (∀ x ∈ s.power.hot, x ∈ t.power.hot)
      ∧ t.crews = s.crews.map (fun k => if k.status = .resident then { k with preempting := true } else k) ∧ (∀ c, t.coreOpen c = false)
      ∧ { t with crews := s.crews, power := s.power, now := s.now, turn := s.turn } = s)
  ∧ Event .dieCooled (fun _ _ => True) (fun a s => { s with power := { s.power with hot := s.power.hot.filter fun d => d != a.n } })
  ∧ (∀ a s, s.turn = some (.event .asidKeyInit a) → 4 ≤ s.aon.bringUp → a.n < 4096 → a.m ≠ 1 → ∃ t, exec .asidKeyInit s = .next t ∧ a.n ∈ t.rel.keys ∧ t.mem = s.mem ∧ t.crews = s.crews
      ∧ (∀ x, x ≠ a.n → (x ∈ t.rel.keys ↔ x ∈ s.rel.keys)) ∧ (a.n ∈ s.rel.keys → ∀ y ∈ t.encOwner, y.2 ≠ a.n + 1))
  ∧ (∀ a s, s.turn = some (.event .asidKeyInit a) → 4 ≤ s.aon.bringUp → a.n < 4096 → a.m = 1 → ∃ t, exec .asidKeyInit s = .next t ∧ a.n ∉ t.rel.keys ∧ t.mem = s.mem
      ∧ (∀ x, x ≠ a.n → (x ∈ t.rel.keys ↔ x ∈ s.rel.keys)))
  ∧ Event .unitSelfTest (fun a s => a.hw ∈ s.rel.fenced) (fun _ s => s)
  ∧ (∀ a s, s.turn = some (.event .unitSelfTest a) → 1 ≤ s.aon.bringUp → a.hw ∉ s.rel.fenced → s.onUnit a.hw ≠ [] → s.commandBusy a.hw = false → (∀ k ∈ s.crews, k.pair = none) →
      ∃ t, exec .unitSelfTest s = .next t ∧ a.hw ∈ t.rel.underTest ∧ t.rel.fenced = s.rel.fenced
        ∧ (∀ c k, s.crews[c]? = some k → t.crews[c]? = some (if c ∈ s.onUnit a.hw then { k with preempting := true } else k)))
  ∧ (∀ a s, s.turn = some (.event .unitSelfTest a) → 1 ≤ s.aon.bringUp → a.hw ∉ s.rel.fenced → s.onUnit a.hw = [] → s.commandBusy a.hw = false →
      ∃ t, exec .unitSelfTest s = .next t ∧ a.hw ∉ t.rel.underTest ∧ t.crews = s.crews ∧ t.rel.errSeq = s.rel.errSeq + 1
        ∧ (Config.selfTestPasses s.draws = true → t.rel.fenced = s.rel.fenced) ∧ (Config.selfTestPasses s.draws = false → t.rel.fenced = s.rel.fenced ++ [a.hw]))
  ∧ (∀ a s, s.turn = some (.event .attestationReport a) → 1 ≤ s.aon.bringUp → ∃ t r, exec .attestationReport s = .next t ∧ t.rel.reports = s.rel.reports ++ [r] ∧ r.length = 1408
      ∧ (r.drop 32).take 32 = leBytes 32 a.nonce.toNat ∧ { t with rel := s.rel, now := s.now, turn := s.turn } = s)
  ∧ (∀ a s, s.turn = some (.event .moduleReset a) → ∃ t, exec .moduleReset s = .next t ∧ (∀ r ∈ t.aon.bases, r.getLsbD 0 = false)
      ∧ t.rel.fenced = [] ∧ t.launches = [] ∧ t.crews = [] ∧ t.queues = [] ∧ (∀ asid die, t.genAt asid die = 0) ∧ t.power.islands = State.reset.power.islands
      ∧ (∀ core, t.clk core = 0)
      ∧ (∀ pa, t.byte pa = t.blankAt pa) ∧ t.epoch = s.now + 1
      ∧ { t with draws := 0, now := 0, epoch := 0, rel := State.reset.rel, power := State.reset.power } = State.reset)
  ∧ (∀ a s, s.turn = some (.event .bringUp a) → ∃ t, exec .bringUp s = .next t ∧ t.mem = s.mem ∧ t.crews = s.crews
      ∧ (s.aon.bringUp = 0 → (Config.firmwareVerifies s.rel.resets = true → t.aon.bringUp = 1) ∧ (Config.firmwareVerifies s.rel.resets = false → t.aon.bringUp = 0))
      ∧ (s.aon.bringUp = 1 → t.aon.bringUp = 2 ∧ (∀ u ∈ s.rel.fenced, u ∈ t.rel.fenced)
          ∧ ∀ u ∈ t.rel.fenced, u ∈ s.rel.fenced ∨ u ∈ testedUnits ∨ ∃ pa, u = .dramRow pa ∧ inDram pa = true)
      ∧ (s.aon.bringUp = 2 → (bindingOk ((a.bytes.take 16).map BitVec.toNat) = false → t.aon.bringUp = 2)
          ∧ (bindingOk ((a.bytes.take 16).map BitVec.toNat) = true → t.aon.bringUp = 3 ∧ t.aon.peers = (a.bytes.take 16).map BitVec.toNat
            ∧ t.aon.expanders.length = 4 ∧ ∀ e ∈ t.aon.expanders.zipIdx, let n := leNat ((a.bytes.drop (16 + 8 * e.2)).take 8)
              n ≤ e.1 ∧ e.1 < n + 2 ^ 30 ∧ e.1 % 2 ^ 30 = 0))
      ∧ (s.aon.bringUp = 3 → ((∀ r ∈ s.aon.bases, r.getLsbD 0 = true) → t.aon.bringUp = 4) ∧ (¬ (∀ r ∈ s.aon.bases, r.getLsbD 0 = true) → t.aon.bringUp = 3))
      ∧ (s.aon.bringUp = 4 → t.aon.bringUp = 5) ∧ (s.aon.bringUp = 5 → t.aon.bringUp = 6) ∧ (6 ≤ s.aon.bringUp → t = s.done))
end

