-- ==== Sys2Proof/Laws/State.lean ====
section
/-!
SUPPORT. One lemma per field per update of the state, each true by definition.
-/
namespace Sys2Proof.Machine

/-! ## store -/

@[simp] theorem State.store_now (s : State) (pa : Nat) (bs : List Byte) : (s.store pa bs).now = s.now := rfl
@[simp] theorem State.store_turn (s : State) (pa : Nat) (bs : List Byte) : (s.store pa bs).turn = s.turn := rfl
@[simp] theorem State.store_inbox (s : State) (pa : Nat) (bs : List Byte) : (s.store pa bs).inbox = s.inbox := rfl
@[simp] theorem State.store_draws (s : State) (pa : Nat) (bs : List Byte) : (s.store pa bs).draws = s.draws := rfl
@[simp] theorem State.store_mem (s : State) (pa : Nat) (bs : List Byte) : (s.store pa bs).mem = putBytes s.mem pa (s.masked pa bs) := rfl
@[simp] theorem State.store_gens (s : State) (pa : Nat) (bs : List Byte) : (s.store pa bs).gens = s.gens := rfl
@[simp] theorem State.store_epoch (s : State) (pa : Nat) (bs : List Byte) : (s.store pa bs).epoch = s.epoch := rfl
@[simp] theorem State.store_traps (s : State) (pa : Nat) (bs : List Byte) : (s.store pa bs).traps = s.traps := rfl
@[simp] theorem State.store_wakes (s : State) (pa : Nat) (bs : List Byte) : (s.store pa bs).wakes = s.wakes := rfl
@[simp] theorem State.store_l2 (s : State) (pa : Nat) (bs : List Byte) : (s.store pa bs).l2 = s.l2 := rfl
@[simp] theorem State.store_l2Next (s : State) (pa : Nat) (bs : List Byte) : (s.store pa bs).l2Next = s.l2Next := rfl
@[simp] theorem State.store_past (s : State) (pa : Nat) (bs : List Byte) : (s.store pa bs).past = s.before pa bs.length :: s.past := rfl
@[simp] theorem State.store_pastScr (s : State) (pa : Nat) (bs : List Byte) : (s.store pa bs).pastScr = s.pastScr := rfl
@[simp] theorem State.store_sync (s : State) (pa : Nat) (bs : List Byte) : (s.store pa bs).sync = s.sync := rfl
@[simp] theorem State.store_replies (s : State) (pa : Nat) (bs : List Byte) : (s.store pa bs).replies = s.replies := rfl
@[simp] theorem State.store_spaces (s : State) (pa : Nat) (bs : List Byte) : (s.store pa bs).spaces = s.spaces := rfl
@[simp] theorem State.store_cores (s : State) (pa : Nat) (bs : List Byte) : (s.store pa bs).cores = s.cores := rfl
@[simp] theorem State.store_crews (s : State) (pa : Nat) (bs : List Byte) : (s.store pa bs).crews = s.crews := rfl
@[simp] theorem State.store_launches (s : State) (pa : Nat) (bs : List Byte) : (s.store pa bs).launches = s.launches := rfl
@[simp] theorem State.store_queues (s : State) (pa : Nat) (bs : List Byte) : (s.store pa bs).queues = s.queues := rfl
@[simp] theorem State.store_graphs (s : State) (pa : Nat) (bs : List Byte) : (s.store pa bs).graphs = s.graphs := rfl
@[simp] theorem State.store_parts (s : State) (pa : Nat) (bs : List Byte) : (s.store pa bs).parts = s.parts := rfl
@[simp] theorem State.store_partials (s : State) (pa : Nat) (bs : List Byte) : (s.store pa bs).partials = s.partials := rfl
@[simp] theorem State.store_encOwner (s : State) (pa : Nat) (bs : List Byte) : (s.store pa bs).encOwner = s.encOwner := rfl
@[simp] theorem State.store_bumps (s : State) (pa : Nat) (bs : List Byte) : (s.store pa bs).bumps = s.bumps := rfl
@[simp] theorem State.store_outbound (s : State) (pa : Nat) (bs : List Byte) : (s.store pa bs).outbound = s.outbound := rfl
@[simp] theorem State.store_aon (s : State) (pa : Nat) (bs : List Byte) : (s.store pa bs).aon = s.aon := rfl
@[simp] theorem State.store_rel (s : State) (pa : Nat) (bs : List Byte) : (s.store pa bs).rel = s.rel := rfl
@[simp] theorem State.store_power (s : State) (pa : Nat) (bs : List Byte) : (s.store pa bs).power = s.power := rfl
@[simp] theorem State.store_pointers (s : State) (pa : Nat) (bs : List Byte) : (s.store pa bs).pointers = s.pointers := rfl

/-! ## draw -/

@[simp] theorem State.draw_now (s : State) : (s.draw).now = s.now := rfl
@[simp] theorem State.draw_turn (s : State) : (s.draw).turn = s.turn := rfl
@[simp] theorem State.draw_inbox (s : State) : (s.draw).inbox = s.inbox := rfl
@[simp] theorem State.draw_draws (s : State) : (s.draw).draws = s.draws + 1 := rfl
@[simp] theorem State.draw_mem (s : State) : (s.draw).mem = s.mem := rfl
@[simp] theorem State.draw_gens (s : State) : (s.draw).gens = s.gens := rfl
@[simp] theorem State.draw_epoch (s : State) : (s.draw).epoch = s.epoch := rfl
@[simp] theorem State.draw_traps (s : State) : (s.draw).traps = s.traps := rfl
@[simp] theorem State.draw_wakes (s : State) : (s.draw).wakes = s.wakes := rfl
@[simp] theorem State.draw_l2 (s : State) : (s.draw).l2 = s.l2 := rfl
@[simp] theorem State.draw_l2Next (s : State) : (s.draw).l2Next = s.l2Next := rfl
@[simp] theorem State.draw_past (s : State) : (s.draw).past = s.past := rfl
@[simp] theorem State.draw_pastScr (s : State) : (s.draw).pastScr = s.pastScr := rfl
@[simp] theorem State.draw_sync (s : State) : (s.draw).sync = s.sync := rfl
@[simp] theorem State.draw_replies (s : State) : (s.draw).replies = s.replies := rfl
@[simp] theorem State.draw_spaces (s : State) : (s.draw).spaces = s.spaces := rfl
@[simp] theorem State.draw_cores (s : State) : (s.draw).cores = s.cores := rfl
@[simp] theorem State.draw_crews (s : State) : (s.draw).crews = s.crews := rfl
@[simp] theorem State.draw_launches (s : State) : (s.draw).launches = s.launches := rfl
@[simp] theorem State.draw_queues (s : State) : (s.draw).queues = s.queues := rfl
@[simp] theorem State.draw_graphs (s : State) : (s.draw).graphs = s.graphs := rfl
@[simp] theorem State.draw_parts (s : State) : (s.draw).parts = s.parts := rfl
@[simp] theorem State.draw_partials (s : State) : (s.draw).partials = s.partials := rfl
@[simp] theorem State.draw_encOwner (s : State) : (s.draw).encOwner = s.encOwner := rfl
@[simp] theorem State.draw_bumps (s : State) : (s.draw).bumps = s.bumps := rfl
@[simp] theorem State.draw_outbound (s : State) : (s.draw).outbound = s.outbound := rfl
@[simp] theorem State.draw_aon (s : State) : (s.draw).aon = s.aon := rfl
@[simp] theorem State.draw_rel (s : State) : (s.draw).rel = s.rel := rfl
@[simp] theorem State.draw_power (s : State) : (s.draw).power = s.power := rfl
@[simp] theorem State.draw_pointers (s : State) : (s.draw).pointers = s.pointers := rfl

/-! ## modCore -/

@[simp] theorem State.modCore_now (s : State) (n : Nat) (f : CoreSt → CoreSt) : (s.modCore n f).now = s.now := rfl
@[simp] theorem State.modCore_turn (s : State) (n : Nat) (f : CoreSt → CoreSt) : (s.modCore n f).turn = s.turn := rfl
@[simp] theorem State.modCore_inbox (s : State) (n : Nat) (f : CoreSt → CoreSt) : (s.modCore n f).inbox = s.inbox := rfl
@[simp] theorem State.modCore_draws (s : State) (n : Nat) (f : CoreSt → CoreSt) : (s.modCore n f).draws = s.draws := rfl
@[simp] theorem State.modCore_mem (s : State) (n : Nat) (f : CoreSt → CoreSt) : (s.modCore n f).mem = s.mem := rfl
@[simp] theorem State.modCore_gens (s : State) (n : Nat) (f : CoreSt → CoreSt) : (s.modCore n f).gens = s.gens := rfl
@[simp] theorem State.modCore_epoch (s : State) (n : Nat) (f : CoreSt → CoreSt) : (s.modCore n f).epoch = s.epoch := rfl
@[simp] theorem State.modCore_traps (s : State) (n : Nat) (f : CoreSt → CoreSt) : (s.modCore n f).traps = s.traps := rfl
@[simp] theorem State.modCore_wakes (s : State) (n : Nat) (f : CoreSt → CoreSt) : (s.modCore n f).wakes = s.wakes := rfl
@[simp] theorem State.modCore_l2 (s : State) (n : Nat) (f : CoreSt → CoreSt) : (s.modCore n f).l2 = s.l2 := rfl
@[simp] theorem State.modCore_l2Next (s : State) (n : Nat) (f : CoreSt → CoreSt) : (s.modCore n f).l2Next = s.l2Next := rfl
@[simp] theorem State.modCore_past (s : State) (n : Nat) (f : CoreSt → CoreSt) : (s.modCore n f).past = s.past := rfl
@[simp] theorem State.modCore_pastScr (s : State) (n : Nat) (f : CoreSt → CoreSt) : (s.modCore n f).pastScr = s.pastScr := rfl
@[simp] theorem State.modCore_sync (s : State) (n : Nat) (f : CoreSt → CoreSt) : (s.modCore n f).sync = s.sync := rfl
@[simp] theorem State.modCore_replies (s : State) (n : Nat) (f : CoreSt → CoreSt) : (s.modCore n f).replies = s.replies := rfl
@[simp] theorem State.modCore_spaces (s : State) (n : Nat) (f : CoreSt → CoreSt) : (s.modCore n f).spaces = s.spaces := rfl
@[simp] theorem State.modCore_cores (s : State) (n : Nat) (f : CoreSt → CoreSt) : (s.modCore n f).cores = sset CoreSt.reset n (f (s.coreAt n)) s.cores := rfl
@[simp] theorem State.modCore_crews (s : State) (n : Nat) (f : CoreSt → CoreSt) : (s.modCore n f).crews = s.crews := rfl
@[simp] theorem State.modCore_launches (s : State) (n : Nat) (f : CoreSt → CoreSt) : (s.modCore n f).launches = s.launches := rfl
@[simp] theorem State.modCore_queues (s : State) (n : Nat) (f : CoreSt → CoreSt) : (s.modCore n f).queues = s.queues := rfl
@[simp] theorem State.modCore_graphs (s : State) (n : Nat) (f : CoreSt → CoreSt) : (s.modCore n f).graphs = s.graphs := rfl
@[simp] theorem State.modCore_parts (s : State) (n : Nat) (f : CoreSt → CoreSt) : (s.modCore n f).parts = s.parts := rfl
@[simp] theorem State.modCore_partials (s : State) (n : Nat) (f : CoreSt → CoreSt) : (s.modCore n f).partials = s.partials := rfl
@[simp] theorem State.modCore_encOwner (s : State) (n : Nat) (f : CoreSt → CoreSt) : (s.modCore n f).encOwner = s.encOwner := rfl
@[simp] theorem State.modCore_bumps (s : State) (n : Nat) (f : CoreSt → CoreSt) : (s.modCore n f).bumps = s.bumps := rfl
@[simp] theorem State.modCore_outbound (s : State) (n : Nat) (f : CoreSt → CoreSt) : (s.modCore n f).outbound = s.outbound := rfl
@[simp] theorem State.modCore_aon (s : State) (n : Nat) (f : CoreSt → CoreSt) : (s.modCore n f).aon = s.aon := rfl
@[simp] theorem State.modCore_rel (s : State) (n : Nat) (f : CoreSt → CoreSt) : (s.modCore n f).rel = s.rel := rfl
@[simp] theorem State.modCore_power (s : State) (n : Nat) (f : CoreSt → CoreSt) : (s.modCore n f).power = s.power := rfl
@[simp] theorem State.modCore_pointers (s : State) (n : Nat) (f : CoreSt → CoreSt) : (s.modCore n f).pointers = s.pointers := rfl

/-! ## modCrew -/

@[simp] theorem State.modCrew_now (s : State) (c : Nat) (f : Crew → Crew) : (s.modCrew c f).now = s.now := rfl
@[simp] theorem State.modCrew_turn (s : State) (c : Nat) (f : Crew → Crew) : (s.modCrew c f).turn = s.turn := rfl
@[simp] theorem State.modCrew_inbox (s : State) (c : Nat) (f : Crew → Crew) : (s.modCrew c f).inbox = s.inbox := rfl
@[simp] theorem State.modCrew_draws (s : State) (c : Nat) (f : Crew → Crew) : (s.modCrew c f).draws = s.draws := rfl
@[simp] theorem State.modCrew_mem (s : State) (c : Nat) (f : Crew → Crew) : (s.modCrew c f).mem = s.mem := rfl
@[simp] theorem State.modCrew_gens (s : State) (c : Nat) (f : Crew → Crew) : (s.modCrew c f).gens = s.gens := rfl
@[simp] theorem State.modCrew_epoch (s : State) (c : Nat) (f : Crew → Crew) : (s.modCrew c f).epoch = s.epoch := rfl
@[simp] theorem State.modCrew_traps (s : State) (c : Nat) (f : Crew → Crew) : (s.modCrew c f).traps = s.traps := rfl
@[simp] theorem State.modCrew_wakes (s : State) (c : Nat) (f : Crew → Crew) : (s.modCrew c f).wakes = s.wakes := rfl
@[simp] theorem State.modCrew_l2 (s : State) (c : Nat) (f : Crew → Crew) : (s.modCrew c f).l2 = s.l2 := rfl
@[simp] theorem State.modCrew_l2Next (s : State) (c : Nat) (f : Crew → Crew) : (s.modCrew c f).l2Next = s.l2Next := rfl
@[simp] theorem State.modCrew_past (s : State) (c : Nat) (f : Crew → Crew) : (s.modCrew c f).past = s.past := rfl
@[simp] theorem State.modCrew_pastScr (s : State) (c : Nat) (f : Crew → Crew) : (s.modCrew c f).pastScr = s.pastScr := rfl
@[simp] theorem State.modCrew_sync (s : State) (c : Nat) (f : Crew → Crew) : (s.modCrew c f).sync = s.sync := rfl
@[simp] theorem State.modCrew_replies (s : State) (c : Nat) (f : Crew → Crew) : (s.modCrew c f).replies = s.replies := rfl
@[simp] theorem State.modCrew_spaces (s : State) (c : Nat) (f : Crew → Crew) : (s.modCrew c f).spaces = s.spaces := rfl
@[simp] theorem State.modCrew_cores (s : State) (c : Nat) (f : Crew → Crew) : (s.modCrew c f).cores = s.cores := rfl
@[simp] theorem State.modCrew_crews (s : State) (c : Nat) (f : Crew → Crew) : (s.modCrew c f).crews = s.crews.modify c f := rfl
@[simp] theorem State.modCrew_launches (s : State) (c : Nat) (f : Crew → Crew) : (s.modCrew c f).launches = s.launches := rfl
@[simp] theorem State.modCrew_queues (s : State) (c : Nat) (f : Crew → Crew) : (s.modCrew c f).queues = s.queues := rfl
@[simp] theorem State.modCrew_graphs (s : State) (c : Nat) (f : Crew → Crew) : (s.modCrew c f).graphs = s.graphs := rfl
@[simp] theorem State.modCrew_parts (s : State) (c : Nat) (f : Crew → Crew) : (s.modCrew c f).parts = s.parts := rfl
@[simp] theorem State.modCrew_partials (s : State) (c : Nat) (f : Crew → Crew) : (s.modCrew c f).partials = s.partials := rfl
@[simp] theorem State.modCrew_encOwner (s : State) (c : Nat) (f : Crew → Crew) : (s.modCrew c f).encOwner = s.encOwner := rfl
@[simp] theorem State.modCrew_bumps (s : State) (c : Nat) (f : Crew → Crew) : (s.modCrew c f).bumps = s.bumps := rfl
@[simp] theorem State.modCrew_outbound (s : State) (c : Nat) (f : Crew → Crew) : (s.modCrew c f).outbound = s.outbound := rfl
@[simp] theorem State.modCrew_aon (s : State) (c : Nat) (f : Crew → Crew) : (s.modCrew c f).aon = s.aon := rfl
@[simp] theorem State.modCrew_rel (s : State) (c : Nat) (f : Crew → Crew) : (s.modCrew c f).rel = s.rel := rfl
@[simp] theorem State.modCrew_power (s : State) (c : Nat) (f : Crew → Crew) : (s.modCrew c f).power = s.power := rfl
@[simp] theorem State.modCrew_pointers (s : State) (c : Nat) (f : Crew → Crew) : (s.modCrew c f).pointers = s.pointers := rfl

/-! ## modFibres -/

@[simp] theorem State.modFibres_now (s : State) (c : Nat) (is : List Nat) (g : Nat → Fibre → Fibre) : (s.modFibres c is g).now = s.now := rfl
@[simp] theorem State.modFibres_turn (s : State) (c : Nat) (is : List Nat) (g : Nat → Fibre → Fibre) : (s.modFibres c is g).turn = s.turn := rfl
@[simp] theorem State.modFibres_inbox (s : State) (c : Nat) (is : List Nat) (g : Nat → Fibre → Fibre) : (s.modFibres c is g).inbox = s.inbox := rfl
@[simp] theorem State.modFibres_draws (s : State) (c : Nat) (is : List Nat) (g : Nat → Fibre → Fibre) : (s.modFibres c is g).draws = s.draws := rfl
@[simp] theorem State.modFibres_mem (s : State) (c : Nat) (is : List Nat) (g : Nat → Fibre → Fibre) : (s.modFibres c is g).mem = s.mem := rfl
@[simp] theorem State.modFibres_gens (s : State) (c : Nat) (is : List Nat) (g : Nat → Fibre → Fibre) : (s.modFibres c is g).gens = s.gens := rfl
@[simp] theorem State.modFibres_epoch (s : State) (c : Nat) (is : List Nat) (g : Nat → Fibre → Fibre) : (s.modFibres c is g).epoch = s.epoch := rfl
@[simp] theorem State.modFibres_traps (s : State) (c : Nat) (is : List Nat) (g : Nat → Fibre → Fibre) : (s.modFibres c is g).traps = s.traps := rfl
@[simp] theorem State.modFibres_wakes (s : State) (c : Nat) (is : List Nat) (g : Nat → Fibre → Fibre) : (s.modFibres c is g).wakes = s.wakes := rfl
@[simp] theorem State.modFibres_l2 (s : State) (c : Nat) (is : List Nat) (g : Nat → Fibre → Fibre) : (s.modFibres c is g).l2 = s.l2 := rfl
@[simp] theorem State.modFibres_l2Next (s : State) (c : Nat) (is : List Nat) (g : Nat → Fibre → Fibre) : (s.modFibres c is g).l2Next = s.l2Next := rfl
@[simp] theorem State.modFibres_past (s : State) (c : Nat) (is : List Nat) (g : Nat → Fibre → Fibre) : (s.modFibres c is g).past = s.past := rfl
@[simp] theorem State.modFibres_pastScr (s : State) (c : Nat) (is : List Nat) (g : Nat → Fibre → Fibre) : (s.modFibres c is g).pastScr = s.pastScr := rfl
@[simp] theorem State.modFibres_sync (s : State) (c : Nat) (is : List Nat) (g : Nat → Fibre → Fibre) : (s.modFibres c is g).sync = s.sync := rfl
@[simp] theorem State.modFibres_replies (s : State) (c : Nat) (is : List Nat) (g : Nat → Fibre → Fibre) : (s.modFibres c is g).replies = s.replies := rfl
@[simp] theorem State.modFibres_spaces (s : State) (c : Nat) (is : List Nat) (g : Nat → Fibre → Fibre) : (s.modFibres c is g).spaces = s.spaces := rfl
@[simp] theorem State.modFibres_cores (s : State) (c : Nat) (is : List Nat) (g : Nat → Fibre → Fibre) : (s.modFibres c is g).cores = s.cores := rfl
@[simp] theorem State.modFibres_crews (s : State) (c : Nat) (is : List Nat) (g : Nat → Fibre → Fibre) : (s.modFibres c is g).crews = s.crews.modify c fun k => k.modFibres is g := rfl
@[simp] theorem State.modFibres_launches (s : State) (c : Nat) (is : List Nat) (g : Nat → Fibre → Fibre) : (s.modFibres c is g).launches = s.launches := rfl
@[simp] theorem State.modFibres_queues (s : State) (c : Nat) (is : List Nat) (g : Nat → Fibre → Fibre) : (s.modFibres c is g).queues = s.queues := rfl
@[simp] theorem State.modFibres_graphs (s : State) (c : Nat) (is : List Nat) (g : Nat → Fibre → Fibre) : (s.modFibres c is g).graphs = s.graphs := rfl
@[simp] theorem State.modFibres_parts (s : State) (c : Nat) (is : List Nat) (g : Nat → Fibre → Fibre) : (s.modFibres c is g).parts = s.parts := rfl
@[simp] theorem State.modFibres_partials (s : State) (c : Nat) (is : List Nat) (g : Nat → Fibre → Fibre) : (s.modFibres c is g).partials = s.partials := rfl
@[simp] theorem State.modFibres_encOwner (s : State) (c : Nat) (is : List Nat) (g : Nat → Fibre → Fibre) : (s.modFibres c is g).encOwner = s.encOwner := rfl
@[simp] theorem State.modFibres_bumps (s : State) (c : Nat) (is : List Nat) (g : Nat → Fibre → Fibre) : (s.modFibres c is g).bumps = s.bumps := rfl
@[simp] theorem State.modFibres_outbound (s : State) (c : Nat) (is : List Nat) (g : Nat → Fibre → Fibre) : (s.modFibres c is g).outbound = s.outbound := rfl
@[simp] theorem State.modFibres_aon (s : State) (c : Nat) (is : List Nat) (g : Nat → Fibre → Fibre) : (s.modFibres c is g).aon = s.aon := rfl
@[simp] theorem State.modFibres_rel (s : State) (c : Nat) (is : List Nat) (g : Nat → Fibre → Fibre) : (s.modFibres c is g).rel = s.rel := rfl
@[simp] theorem State.modFibres_power (s : State) (c : Nat) (is : List Nat) (g : Nat → Fibre → Fibre) : (s.modFibres c is g).power = s.power := rfl
@[simp] theorem State.modFibres_pointers (s : State) (c : Nat) (is : List Nat) (g : Nat → Fibre → Fibre) : (s.modFibres c is g).pointers = s.pointers := rfl

/-! ## modLaunch -/

@[simp] theorem State.modLaunch_now (s : State) (l : Nat) (f : Launch → Launch) : (s.modLaunch l f).now = s.now := rfl
@[simp] theorem State.modLaunch_turn (s : State) (l : Nat) (f : Launch → Launch) : (s.modLaunch l f).turn = s.turn := rfl
@[simp] theorem State.modLaunch_inbox (s : State) (l : Nat) (f : Launch → Launch) : (s.modLaunch l f).inbox = s.inbox := rfl
@[simp] theorem State.modLaunch_draws (s : State) (l : Nat) (f : Launch → Launch) : (s.modLaunch l f).draws = s.draws := rfl
@[simp] theorem State.modLaunch_mem (s : State) (l : Nat) (f : Launch → Launch) : (s.modLaunch l f).mem = s.mem := rfl
@[simp] theorem State.modLaunch_gens (s : State) (l : Nat) (f : Launch → Launch) : (s.modLaunch l f).gens = s.gens := rfl
@[simp] theorem State.modLaunch_epoch (s : State) (l : Nat) (f : Launch → Launch) : (s.modLaunch l f).epoch = s.epoch := rfl
@[simp] theorem State.modLaunch_traps (s : State) (l : Nat) (f : Launch → Launch) : (s.modLaunch l f).traps = s.traps := rfl
@[simp] theorem State.modLaunch_wakes (s : State) (l : Nat) (f : Launch → Launch) : (s.modLaunch l f).wakes = s.wakes := rfl
@[simp] theorem State.modLaunch_l2 (s : State) (l : Nat) (f : Launch → Launch) : (s.modLaunch l f).l2 = s.l2 := rfl
@[simp] theorem State.modLaunch_l2Next (s : State) (l : Nat) (f : Launch → Launch) : (s.modLaunch l f).l2Next = s.l2Next := rfl
@[simp] theorem State.modLaunch_past (s : State) (l : Nat) (f : Launch → Launch) : (s.modLaunch l f).past = s.past := rfl
@[simp] theorem State.modLaunch_pastScr (s : State) (l : Nat) (f : Launch → Launch) : (s.modLaunch l f).pastScr = s.pastScr := rfl
@[simp] theorem State.modLaunch_sync (s : State) (l : Nat) (f : Launch → Launch) : (s.modLaunch l f).sync = s.sync := rfl
@[simp] theorem State.modLaunch_replies (s : State) (l : Nat) (f : Launch → Launch) : (s.modLaunch l f).replies = s.replies := rfl
@[simp] theorem State.modLaunch_spaces (s : State) (l : Nat) (f : Launch → Launch) : (s.modLaunch l f).spaces = s.spaces := rfl
@[simp] theorem State.modLaunch_cores (s : State) (l : Nat) (f : Launch → Launch) : (s.modLaunch l f).cores = s.cores := rfl
@[simp] theorem State.modLaunch_crews (s : State) (l : Nat) (f : Launch → Launch) : (s.modLaunch l f).crews = s.crews := rfl
@[simp] theorem State.modLaunch_launches (s : State) (l : Nat) (f : Launch → Launch) : (s.modLaunch l f).launches = s.launches.modify l f := rfl
@[simp] theorem State.modLaunch_queues (s : State) (l : Nat) (f : Launch → Launch) : (s.modLaunch l f).queues = s.queues := rfl
@[simp] theorem State.modLaunch_graphs (s : State) (l : Nat) (f : Launch → Launch) : (s.modLaunch l f).graphs = s.graphs := rfl
@[simp] theorem State.modLaunch_parts (s : State) (l : Nat) (f : Launch → Launch) : (s.modLaunch l f).parts = s.parts := rfl
@[simp] theorem State.modLaunch_partials (s : State) (l : Nat) (f : Launch → Launch) : (s.modLaunch l f).partials = s.partials := rfl
@[simp] theorem State.modLaunch_encOwner (s : State) (l : Nat) (f : Launch → Launch) : (s.modLaunch l f).encOwner = s.encOwner := rfl
@[simp] theorem State.modLaunch_bumps (s : State) (l : Nat) (f : Launch → Launch) : (s.modLaunch l f).bumps = s.bumps := rfl
@[simp] theorem State.modLaunch_outbound (s : State) (l : Nat) (f : Launch → Launch) : (s.modLaunch l f).outbound = s.outbound := rfl
@[simp] theorem State.modLaunch_aon (s : State) (l : Nat) (f : Launch → Launch) : (s.modLaunch l f).aon = s.aon := rfl
@[simp] theorem State.modLaunch_rel (s : State) (l : Nat) (f : Launch → Launch) : (s.modLaunch l f).rel = s.rel := rfl
@[simp] theorem State.modLaunch_power (s : State) (l : Nat) (f : Launch → Launch) : (s.modLaunch l f).power = s.power := rfl
@[simp] theorem State.modLaunch_pointers (s : State) (l : Nat) (f : Launch → Launch) : (s.modLaunch l f).pointers = s.pointers := rfl

/-! ## modQueue -/

@[simp] theorem State.modQueue_now (s : State) (q : Nat) (f : QueueSt → QueueSt) : (s.modQueue q f).now = s.now := rfl
@[simp] theorem State.modQueue_turn (s : State) (q : Nat) (f : QueueSt → QueueSt) : (s.modQueue q f).turn = s.turn := rfl
@[simp] theorem State.modQueue_inbox (s : State) (q : Nat) (f : QueueSt → QueueSt) : (s.modQueue q f).inbox = s.inbox := rfl
@[simp] theorem State.modQueue_draws (s : State) (q : Nat) (f : QueueSt → QueueSt) : (s.modQueue q f).draws = s.draws := rfl
@[simp] theorem State.modQueue_mem (s : State) (q : Nat) (f : QueueSt → QueueSt) : (s.modQueue q f).mem = s.mem := rfl
@[simp] theorem State.modQueue_gens (s : State) (q : Nat) (f : QueueSt → QueueSt) : (s.modQueue q f).gens = s.gens := rfl
@[simp] theorem State.modQueue_epoch (s : State) (q : Nat) (f : QueueSt → QueueSt) : (s.modQueue q f).epoch = s.epoch := rfl
@[simp] theorem State.modQueue_traps (s : State) (q : Nat) (f : QueueSt → QueueSt) : (s.modQueue q f).traps = s.traps := rfl
@[simp] theorem State.modQueue_wakes (s : State) (q : Nat) (f : QueueSt → QueueSt) : (s.modQueue q f).wakes = s.wakes := rfl
@[simp] theorem State.modQueue_l2 (s : State) (q : Nat) (f : QueueSt → QueueSt) : (s.modQueue q f).l2 = s.l2 := rfl
@[simp] theorem State.modQueue_l2Next (s : State) (q : Nat) (f : QueueSt → QueueSt) : (s.modQueue q f).l2Next = s.l2Next := rfl
@[simp] theorem State.modQueue_past (s : State) (q : Nat) (f : QueueSt → QueueSt) : (s.modQueue q f).past = s.past := rfl
@[simp] theorem State.modQueue_pastScr (s : State) (q : Nat) (f : QueueSt → QueueSt) : (s.modQueue q f).pastScr = s.pastScr := rfl
@[simp] theorem State.modQueue_sync (s : State) (q : Nat) (f : QueueSt → QueueSt) : (s.modQueue q f).sync = s.sync := rfl
@[simp] theorem State.modQueue_replies (s : State) (q : Nat) (f : QueueSt → QueueSt) : (s.modQueue q f).replies = s.replies := rfl
@[simp] theorem State.modQueue_spaces (s : State) (q : Nat) (f : QueueSt → QueueSt) : (s.modQueue q f).spaces = s.spaces := rfl
@[simp] theorem State.modQueue_cores (s : State) (q : Nat) (f : QueueSt → QueueSt) : (s.modQueue q f).cores = s.cores := rfl
@[simp] theorem State.modQueue_crews (s : State) (q : Nat) (f : QueueSt → QueueSt) : (s.modQueue q f).crews = s.crews := rfl
@[simp] theorem State.modQueue_launches (s : State) (q : Nat) (f : QueueSt → QueueSt) : (s.modQueue q f).launches = s.launches := rfl
@[simp] theorem State.modQueue_queues (s : State) (q : Nat) (f : QueueSt → QueueSt) : (s.modQueue q f).queues = sset QueueSt.fresh q (f (s.queueAt q)) s.queues := rfl
@[simp] theorem State.modQueue_graphs (s : State) (q : Nat) (f : QueueSt → QueueSt) : (s.modQueue q f).graphs = s.graphs := rfl
@[simp] theorem State.modQueue_parts (s : State) (q : Nat) (f : QueueSt → QueueSt) : (s.modQueue q f).parts = s.parts := rfl
@[simp] theorem State.modQueue_partials (s : State) (q : Nat) (f : QueueSt → QueueSt) : (s.modQueue q f).partials = s.partials := rfl
@[simp] theorem State.modQueue_encOwner (s : State) (q : Nat) (f : QueueSt → QueueSt) : (s.modQueue q f).encOwner = s.encOwner := rfl
@[simp] theorem State.modQueue_bumps (s : State) (q : Nat) (f : QueueSt → QueueSt) : (s.modQueue q f).bumps = s.bumps := rfl
@[simp] theorem State.modQueue_outbound (s : State) (q : Nat) (f : QueueSt → QueueSt) : (s.modQueue q f).outbound = s.outbound := rfl
@[simp] theorem State.modQueue_aon (s : State) (q : Nat) (f : QueueSt → QueueSt) : (s.modQueue q f).aon = s.aon := rfl
@[simp] theorem State.modQueue_rel (s : State) (q : Nat) (f : QueueSt → QueueSt) : (s.modQueue q f).rel = s.rel := rfl
@[simp] theorem State.modQueue_power (s : State) (q : Nat) (f : QueueSt → QueueSt) : (s.modQueue q f).power = s.power := rfl
@[simp] theorem State.modQueue_pointers (s : State) (q : Nat) (f : QueueSt → QueueSt) : (s.modQueue q f).pointers = s.pointers := rfl

/-! ## modGraph -/

@[simp] theorem State.modGraph_now (s : State) (g : Nat) (f : GraphSt → GraphSt) : (s.modGraph g f).now = s.now := rfl
@[simp] theorem State.modGraph_turn (s : State) (g : Nat) (f : GraphSt → GraphSt) : (s.modGraph g f).turn = s.turn := rfl
@[simp] theorem State.modGraph_inbox (s : State) (g : Nat) (f : GraphSt → GraphSt) : (s.modGraph g f).inbox = s.inbox := rfl
@[simp] theorem State.modGraph_draws (s : State) (g : Nat) (f : GraphSt → GraphSt) : (s.modGraph g f).draws = s.draws := rfl
@[simp] theorem State.modGraph_mem (s : State) (g : Nat) (f : GraphSt → GraphSt) : (s.modGraph g f).mem = s.mem := rfl
@[simp] theorem State.modGraph_gens (s : State) (g : Nat) (f : GraphSt → GraphSt) : (s.modGraph g f).gens = s.gens := rfl
@[simp] theorem State.modGraph_epoch (s : State) (g : Nat) (f : GraphSt → GraphSt) : (s.modGraph g f).epoch = s.epoch := rfl
@[simp] theorem State.modGraph_traps (s : State) (g : Nat) (f : GraphSt → GraphSt) : (s.modGraph g f).traps = s.traps := rfl
@[simp] theorem State.modGraph_wakes (s : State) (g : Nat) (f : GraphSt → GraphSt) : (s.modGraph g f).wakes = s.wakes := rfl
@[simp] theorem State.modGraph_l2 (s : State) (g : Nat) (f : GraphSt → GraphSt) : (s.modGraph g f).l2 = s.l2 := rfl
@[simp] theorem State.modGraph_l2Next (s : State) (g : Nat) (f : GraphSt → GraphSt) : (s.modGraph g f).l2Next = s.l2Next := rfl
@[simp] theorem State.modGraph_past (s : State) (g : Nat) (f : GraphSt → GraphSt) : (s.modGraph g f).past = s.past := rfl
@[simp] theorem State.modGraph_pastScr (s : State) (g : Nat) (f : GraphSt → GraphSt) : (s.modGraph g f).pastScr = s.pastScr := rfl
@[simp] theorem State.modGraph_sync (s : State) (g : Nat) (f : GraphSt → GraphSt) : (s.modGraph g f).sync = s.sync := rfl
@[simp] theorem State.modGraph_replies (s : State) (g : Nat) (f : GraphSt → GraphSt) : (s.modGraph g f).replies = s.replies := rfl
@[simp] theorem State.modGraph_spaces (s : State) (g : Nat) (f : GraphSt → GraphSt) : (s.modGraph g f).spaces = s.spaces := rfl
@[simp] theorem State.modGraph_cores (s : State) (g : Nat) (f : GraphSt → GraphSt) : (s.modGraph g f).cores = s.cores := rfl
@[simp] theorem State.modGraph_crews (s : State) (g : Nat) (f : GraphSt → GraphSt) : (s.modGraph g f).crews = s.crews := rfl
@[simp] theorem State.modGraph_launches (s : State) (g : Nat) (f : GraphSt → GraphSt) : (s.modGraph g f).launches = s.launches := rfl
@[simp] theorem State.modGraph_queues (s : State) (g : Nat) (f : GraphSt → GraphSt) : (s.modGraph g f).queues = s.queues := rfl
@[simp] theorem State.modGraph_graphs (s : State) (g : Nat) (f : GraphSt → GraphSt) : (s.modGraph g f).graphs = sset GraphSt.fresh g (f (s.graphAt g)) s.graphs := rfl
@[simp] theorem State.modGraph_parts (s : State) (g : Nat) (f : GraphSt → GraphSt) : (s.modGraph g f).parts = s.parts := rfl
@[simp] theorem State.modGraph_partials (s : State) (g : Nat) (f : GraphSt → GraphSt) : (s.modGraph g f).partials = s.partials := rfl
@[simp] theorem State.modGraph_encOwner (s : State) (g : Nat) (f : GraphSt → GraphSt) : (s.modGraph g f).encOwner = s.encOwner := rfl
@[simp] theorem State.modGraph_bumps (s : State) (g : Nat) (f : GraphSt → GraphSt) : (s.modGraph g f).bumps = s.bumps := rfl
@[simp] theorem State.modGraph_outbound (s : State) (g : Nat) (f : GraphSt → GraphSt) : (s.modGraph g f).outbound = s.outbound := rfl
@[simp] theorem State.modGraph_aon (s : State) (g : Nat) (f : GraphSt → GraphSt) : (s.modGraph g f).aon = s.aon := rfl
@[simp] theorem State.modGraph_rel (s : State) (g : Nat) (f : GraphSt → GraphSt) : (s.modGraph g f).rel = s.rel := rfl
@[simp] theorem State.modGraph_power (s : State) (g : Nat) (f : GraphSt → GraphSt) : (s.modGraph g f).power = s.power := rfl
@[simp] theorem State.modGraph_pointers (s : State) (g : Nat) (f : GraphSt → GraphSt) : (s.modGraph g f).pointers = s.pointers := rfl

/-! ## settle -/

@[simp] theorem State.settle_now (s : State) (u : UnitId) : (s.settle u).now = s.now := rfl
@[simp] theorem State.settle_turn (s : State) (u : UnitId) : (s.settle u).turn = s.turn := rfl
@[simp] theorem State.settle_inbox (s : State) (u : UnitId) : (s.settle u).inbox = s.inbox := rfl
@[simp] theorem State.settle_draws (s : State) (u : UnitId) : (s.settle u).draws = s.draws := rfl
@[simp] theorem State.settle_mem (s : State) (u : UnitId) : (s.settle u).mem = s.mem := rfl
@[simp] theorem State.settle_gens (s : State) (u : UnitId) : (s.settle u).gens = s.gens := rfl
@[simp] theorem State.settle_epoch (s : State) (u : UnitId) : (s.settle u).epoch = s.epoch := rfl
@[simp] theorem State.settle_traps (s : State) (u : UnitId) : (s.settle u).traps = s.traps := rfl
@[simp] theorem State.settle_wakes (s : State) (u : UnitId) : (s.settle u).wakes = s.wakes := rfl
@[simp] theorem State.settle_l2 (s : State) (u : UnitId) : (s.settle u).l2 = s.l2 := rfl
@[simp] theorem State.settle_l2Next (s : State) (u : UnitId) : (s.settle u).l2Next = s.l2Next := rfl
@[simp] theorem State.settle_past (s : State) (u : UnitId) : (s.settle u).past = s.past := rfl
@[simp] theorem State.settle_pastScr (s : State) (u : UnitId) : (s.settle u).pastScr = s.pastScr := rfl
@[simp] theorem State.settle_sync (s : State) (u : UnitId) : (s.settle u).sync = s.sync := rfl
@[simp] theorem State.settle_replies (s : State) (u : UnitId) : (s.settle u).replies = s.replies := rfl
@[simp] theorem State.settle_spaces (s : State) (u : UnitId) : (s.settle u).spaces = s.spaces := rfl
@[simp] theorem State.settle_cores (s : State) (u : UnitId) : (s.settle u).cores = s.cores := rfl
@[simp] theorem State.settle_launches (s : State) (u : UnitId) : (s.settle u).launches = s.launches := rfl
@[simp] theorem State.settle_queues (s : State) (u : UnitId) : (s.settle u).queues = s.queues := rfl
@[simp] theorem State.settle_graphs (s : State) (u : UnitId) : (s.settle u).graphs = s.graphs := rfl
@[simp] theorem State.settle_parts (s : State) (u : UnitId) : (s.settle u).parts = s.parts := rfl
@[simp] theorem State.settle_partials (s : State) (u : UnitId) : (s.settle u).partials = s.partials := rfl
@[simp] theorem State.settle_encOwner (s : State) (u : UnitId) : (s.settle u).encOwner = s.encOwner := rfl
@[simp] theorem State.settle_bumps (s : State) (u : UnitId) : (s.settle u).bumps = s.bumps := rfl
@[simp] theorem State.settle_outbound (s : State) (u : UnitId) : (s.settle u).outbound = s.outbound := rfl
@[simp] theorem State.settle_aon (s : State) (u : UnitId) : (s.settle u).aon = s.aon := rfl
@[simp] theorem State.settle_rel (s : State) (u : UnitId) : (s.settle u).rel = s.rel := rfl
@[simp] theorem State.settle_power (s : State) (u : UnitId) : (s.settle u).power = s.power := rfl
@[simp] theorem State.settle_pointers (s : State) (u : UnitId) : (s.settle u).pointers = s.pointers := rfl

/-! ## done -/

@[simp] theorem State.done_now (s : State) : (s.done).now = s.now + 1 := rfl
@[simp] theorem State.done_turn (s : State) : (s.done).turn = none := rfl
@[simp] theorem State.done_inbox (s : State) : (s.done).inbox = s.inbox := rfl
@[simp] theorem State.done_draws (s : State) : (s.done).draws = s.draws := rfl
@[simp] theorem State.done_mem (s : State) : (s.done).mem = s.mem := rfl
@[simp] theorem State.done_gens (s : State) : (s.done).gens = s.gens := rfl
@[simp] theorem State.done_epoch (s : State) : (s.done).epoch = s.epoch := rfl
@[simp] theorem State.done_traps (s : State) : (s.done).traps = s.traps := rfl
@[simp] theorem State.done_wakes (s : State) : (s.done).wakes = s.wakes := rfl
@[simp] theorem State.done_l2 (s : State) : (s.done).l2 = s.l2 := rfl
@[simp] theorem State.done_l2Next (s : State) : (s.done).l2Next = s.l2Next := rfl
@[simp] theorem State.done_past (s : State) : (s.done).past = s.past := rfl
@[simp] theorem State.done_pastScr (s : State) : (s.done).pastScr = s.pastScr := rfl
@[simp] theorem State.done_sync (s : State) : (s.done).sync = s.sync := rfl
@[simp] theorem State.done_replies (s : State) : (s.done).replies = s.replies := rfl
@[simp] theorem State.done_spaces (s : State) : (s.done).spaces = s.spaces := rfl
@[simp] theorem State.done_cores (s : State) : (s.done).cores = s.cores := rfl
@[simp] theorem State.done_crews (s : State) : (s.done).crews = s.crews := rfl
@[simp] theorem State.done_launches (s : State) : (s.done).launches = s.launches := rfl
@[simp] theorem State.done_queues (s : State) : (s.done).queues = s.queues := rfl
@[simp] theorem State.done_graphs (s : State) : (s.done).graphs = s.graphs := rfl
@[simp] theorem State.done_parts (s : State) : (s.done).parts = s.parts := rfl
@[simp] theorem State.done_partials (s : State) : (s.done).partials = s.partials := rfl
@[simp] theorem State.done_encOwner (s : State) : (s.done).encOwner = s.encOwner := rfl
@[simp] theorem State.done_bumps (s : State) : (s.done).bumps = s.bumps := rfl
@[simp] theorem State.done_outbound (s : State) : (s.done).outbound = s.outbound := rfl
@[simp] theorem State.done_aon (s : State) : (s.done).aon = s.aon := rfl
@[simp] theorem State.done_rel (s : State) : (s.done).rel = s.rel := rfl
@[simp] theorem State.done_power (s : State) : (s.done).power = s.power := rfl
@[simp] theorem State.done_pointers (s : State) : (s.done).pointers = s.pointers := rfl

/-! ## keepDraws -/

@[simp] theorem State.keepDraws_now (s : State) (t : State) : (s.keepDraws t).now = s.now := rfl
@[simp] theorem State.keepDraws_turn (s : State) (t : State) : (s.keepDraws t).turn = s.turn := rfl
@[simp] theorem State.keepDraws_inbox (s : State) (t : State) : (s.keepDraws t).inbox = s.inbox := rfl
@[simp] theorem State.keepDraws_draws (s : State) (t : State) : (s.keepDraws t).draws = t.draws := rfl
@[simp] theorem State.keepDraws_mem (s : State) (t : State) : (s.keepDraws t).mem = s.mem := rfl
@[simp] theorem State.keepDraws_gens (s : State) (t : State) : (s.keepDraws t).gens = s.gens := rfl
@[simp] theorem State.keepDraws_epoch (s : State) (t : State) : (s.keepDraws t).epoch = s.epoch := rfl
@[simp] theorem State.keepDraws_traps (s : State) (t : State) : (s.keepDraws t).traps = s.traps := rfl
@[simp] theorem State.keepDraws_wakes (s : State) (t : State) : (s.keepDraws t).wakes = s.wakes := rfl
@[simp] theorem State.keepDraws_l2 (s : State) (t : State) : (s.keepDraws t).l2 = s.l2 := rfl
@[simp] theorem State.keepDraws_l2Next (s : State) (t : State) : (s.keepDraws t).l2Next = s.l2Next := rfl
@[simp] theorem State.keepDraws_past (s : State) (t : State) : (s.keepDraws t).past = s.past := rfl
@[simp] theorem State.keepDraws_pastScr (s : State) (t : State) : (s.keepDraws t).pastScr = s.pastScr := rfl
@[simp] theorem State.keepDraws_sync (s : State) (t : State) : (s.keepDraws t).sync = s.sync := rfl
@[simp] theorem State.keepDraws_replies (s : State) (t : State) : (s.keepDraws t).replies = s.replies := rfl
@[simp] theorem State.keepDraws_spaces (s : State) (t : State) : (s.keepDraws t).spaces = s.spaces := rfl
@[simp] theorem State.keepDraws_cores (s : State) (t : State) : (s.keepDraws t).cores = s.cores := rfl
@[simp] theorem State.keepDraws_crews (s : State) (t : State) : (s.keepDraws t).crews = s.crews := rfl
@[simp] theorem State.keepDraws_launches (s : State) (t : State) : (s.keepDraws t).launches = s.launches := rfl
@[simp] theorem State.keepDraws_queues (s : State) (t : State) : (s.keepDraws t).queues = s.queues := rfl
@[simp] theorem State.keepDraws_graphs (s : State) (t : State) : (s.keepDraws t).graphs = s.graphs := rfl
@[simp] theorem State.keepDraws_parts (s : State) (t : State) : (s.keepDraws t).parts = s.parts := rfl
@[simp] theorem State.keepDraws_partials (s : State) (t : State) : (s.keepDraws t).partials = s.partials := rfl
@[simp] theorem State.keepDraws_encOwner (s : State) (t : State) : (s.keepDraws t).encOwner = s.encOwner := rfl
@[simp] theorem State.keepDraws_bumps (s : State) (t : State) : (s.keepDraws t).bumps = s.bumps := rfl
@[simp] theorem State.keepDraws_outbound (s : State) (t : State) : (s.keepDraws t).outbound = s.outbound := rfl
@[simp] theorem State.keepDraws_aon (s : State) (t : State) : (s.keepDraws t).aon = s.aon := rfl
@[simp] theorem State.keepDraws_rel (s : State) (t : State) : (s.keepDraws t).rel = s.rel := rfl
@[simp] theorem State.keepDraws_power (s : State) (t : State) : (s.keepDraws t).power = s.power := rfl
@[simp] theorem State.keepDraws_pointers (s : State) (t : State) : (s.keepDraws t).pointers = s.pointers := rfl

/-! ## A register or predicate written -/

@[simp] theorem Fibre.setReg_live (f : Fibre) (n : Nat) (r : Reg) : (f.setReg n r).live = f.live := rfl
@[simp] theorem Fibre.setReg_bound (f : Fibre) (n : Nat) (r : Reg) : (f.setReg n r).bound = f.bound := rfl
@[simp] theorem Fibre.setReg_priv (f : Fibre) (n : Nat) (r : Reg) : (f.setReg n r).priv = f.priv := rfl
@[simp] theorem Fibre.setReg_handler (f : Fibre) (n : Nat) (r : Reg) : (f.setReg n r).handler = f.handler := rfl
@[simp] theorem Fibre.setReg_codeBase (f : Fibre) (n : Nat) (r : Reg) : (f.setReg n r).codeBase = f.codeBase := rfl
@[simp] theorem Fibre.setReg_pc (f : Fibre) (n : Nat) (r : Reg) : (f.setReg n r).pc = f.pc := rfl
@[simp] theorem Fibre.setReg_hdr (f : Fibre) (n : Nat) (r : Reg) : (f.setReg n r).hdr = f.hdr := rfl
@[simp] theorem Fibre.setReg_hdrWord (f : Fibre) (n : Nat) (r : Reg) : (f.setReg n r).hdrWord = f.hdrWord := rfl
@[simp] theorem Fibre.setReg_clause (f : Fibre) (n : Nat) (r : Reg) : (f.setReg n r).clause = f.clause := rfl
@[simp] theorem Fibre.setReg_preds (f : Fibre) (n : Nat) (r : Reg) : (f.setReg n r).preds = f.preds := rfl
@[simp] theorem Fibre.setReg_size (f : Fibre) (n : Nat) (r : Reg) : (f.setReg n r).size = f.size := rfl
@[simp] theorem Fibre.setReg_home (f : Fibre) (n : Nat) (r : Reg) : (f.setReg n r).home = f.home := rfl
@[simp] theorem Fibre.setReg_part (f : Fibre) (n : Nat) (r : Reg) : (f.setReg n r).part = f.part := rfl
@[simp] theorem Fibre.setReg_gang (f : Fibre) (n : Nat) (r : Reg) : (f.setReg n r).gang = f.gang := rfl
@[simp] theorem Fibre.setReg_sub (f : Fibre) (n : Nat) (r : Reg) : (f.setReg n r).sub = f.sub := rfl
@[simp] theorem Fibre.setReg_ident (f : Fibre) (n : Nat) (r : Reg) : (f.setReg n r).ident = f.ident := rfl
@[simp] theorem Fibre.setReg_rep (f : Fibre) (n : Nat) (r : Reg) : (f.setReg n r).rep = f.rep := rfl
@[simp] theorem Fibre.setReg_wait (f : Fibre) (n : Nat) (r : Reg) : (f.setReg n r).wait = f.wait := rfl
@[simp] theorem Fibre.setReg_waited (f : Fibre) (n : Nat) (r : Reg) : (f.setReg n r).waited = f.waited := rfl
@[simp] theorem Fibre.setReg_nextLane (f : Fibre) (n : Nat) (r : Reg) : (f.setReg n r).nextLane = f.nextLane := rfl
@[simp] theorem Fibre.setReg_accepted (f : Fibre) (n : Nat) (r : Reg) : (f.setReg n r).accepted = f.accepted := rfl
@[simp] theorem Fibre.setReg_passed (f : Fibre) (n : Nat) (r : Reg) : (f.setReg n r).passed = f.passed := rfl
@[simp] theorem Fibre.setReg_didx (f : Fibre) (n : Nat) (r : Reg) : (f.setReg n r).didx = f.didx := rfl
@[simp] theorem Fibre.setReg_dcount (f : Fibre) (n : Nat) (r : Reg) : (f.setReg n r).dcount = f.dcount := rfl
@[simp] theorem Fibre.setReg_behind (f : Fibre) (n : Nat) (r : Reg) : (f.setReg n r).behind = f.behind := rfl
@[simp] theorem Fibre.setReg_cols (f : Fibre) (n : Nat) (r : Reg) : (f.setReg n r).cols = f.cols := rfl
@[simp] theorem Fibre.setReg_issuedAt (f : Fibre) (n : Nat) (r : Reg) : (f.setReg n r).issuedAt = f.issuedAt := rfl
@[simp] theorem Fibre.setReg_clkh (f : Fibre) (n : Nat) (r : Reg) : (f.setReg n r).clkh = f.clkh := rfl
@[simp] theorem Fibre.setReg_dflt (f : Fibre) (n : Nat) (r : Reg) : (f.setReg n r).dflt = f.dflt := rfl
@[simp] theorem Fibre.setReg_bin (f : Fibre) (n : Nat) (r : Reg) : (f.setReg n r).bin = f.bin := rfl
@[simp] theorem Fibre.setReg_regs (f : Fibre) (n : Nat) (r : Reg) : (f.setReg n r).regs = f.regs.set n r := rfl
@[simp] theorem Fibre.setPred_live (f : Fibre) (n : Nat) (b : Bool) : (f.setPred n b).live = f.live := by
  unfold Fibre.setPred; split <;> rfl
@[simp] theorem Fibre.setPred_bound (f : Fibre) (n : Nat) (b : Bool) : (f.setPred n b).bound = f.bound := by
  unfold Fibre.setPred; split <;> rfl
@[simp] theorem Fibre.setPred_priv (f : Fibre) (n : Nat) (b : Bool) : (f.setPred n b).priv = f.priv := by
  unfold Fibre.setPred; split <;> rfl
@[simp] theorem Fibre.setPred_handler (f : Fibre) (n : Nat) (b : Bool) : (f.setPred n b).handler = f.handler := by
  unfold Fibre.setPred; split <;> rfl
@[simp] theorem Fibre.setPred_codeBase (f : Fibre) (n : Nat) (b : Bool) : (f.setPred n b).codeBase = f.codeBase := by
  unfold Fibre.setPred; split <;> rfl
@[simp] theorem Fibre.setPred_pc (f : Fibre) (n : Nat) (b : Bool) : (f.setPred n b).pc = f.pc := by
  unfold Fibre.setPred; split <;> rfl
@[simp] theorem Fibre.setPred_hdr (f : Fibre) (n : Nat) (b : Bool) : (f.setPred n b).hdr = f.hdr := by
  unfold Fibre.setPred; split <;> rfl
@[simp] theorem Fibre.setPred_hdrWord (f : Fibre) (n : Nat) (b : Bool) : (f.setPred n b).hdrWord = f.hdrWord := by
  unfold Fibre.setPred; split <;> rfl
@[simp] theorem Fibre.setPred_clause (f : Fibre) (n : Nat) (b : Bool) : (f.setPred n b).clause = f.clause := by
  unfold Fibre.setPred; split <;> rfl
@[simp] theorem Fibre.setPred_size (f : Fibre) (n : Nat) (b : Bool) : (f.setPred n b).size = f.size := by
  unfold Fibre.setPred; split <;> rfl
@[simp] theorem Fibre.setPred_regs (f : Fibre) (n : Nat) (b : Bool) : (f.setPred n b).regs = f.regs := by
  unfold Fibre.setPred; split <;> rfl
@[simp] theorem Fibre.setPred_dirty (f : Fibre) (n : Nat) (b : Bool) : (f.setPred n b).dirty = f.dirty := by
  unfold Fibre.setPred; split <;> rfl
@[simp] theorem Fibre.setPred_home (f : Fibre) (n : Nat) (b : Bool) : (f.setPred n b).home = f.home := by
  unfold Fibre.setPred; split <;> rfl
@[simp] theorem Fibre.setPred_part (f : Fibre) (n : Nat) (b : Bool) : (f.setPred n b).part = f.part := by
  unfold Fibre.setPred; split <;> rfl
@[simp] theorem Fibre.setPred_gang (f : Fibre) (n : Nat) (b : Bool) : (f.setPred n b).gang = f.gang := by
  unfold Fibre.setPred; split <;> rfl
@[simp] theorem Fibre.setPred_sub (f : Fibre) (n : Nat) (b : Bool) : (f.setPred n b).sub = f.sub := by
  unfold Fibre.setPred; split <;> rfl
@[simp] theorem Fibre.setPred_ident (f : Fibre) (n : Nat) (b : Bool) : (f.setPred n b).ident = f.ident := by
  unfold Fibre.setPred; split <;> rfl
@[simp] theorem Fibre.setPred_rep (f : Fibre) (n : Nat) (b : Bool) : (f.setPred n b).rep = f.rep := by
  unfold Fibre.setPred; split <;> rfl
@[simp] theorem Fibre.setPred_wait (f : Fibre) (n : Nat) (b : Bool) : (f.setPred n b).wait = f.wait := by
  unfold Fibre.setPred; split <;> rfl
@[simp] theorem Fibre.setPred_waited (f : Fibre) (n : Nat) (b : Bool) : (f.setPred n b).waited = f.waited := by
  unfold Fibre.setPred; split <;> rfl
@[simp] theorem Fibre.setPred_nextLane (f : Fibre) (n : Nat) (b : Bool) : (f.setPred n b).nextLane = f.nextLane := by
  unfold Fibre.setPred; split <;> rfl
@[simp] theorem Fibre.setPred_accepted (f : Fibre) (n : Nat) (b : Bool) : (f.setPred n b).accepted = f.accepted := by
  unfold Fibre.setPred; split <;> rfl
@[simp] theorem Fibre.setPred_passed (f : Fibre) (n : Nat) (b : Bool) : (f.setPred n b).passed = f.passed := by
  unfold Fibre.setPred; split <;> rfl
@[simp] theorem Fibre.setPred_didx (f : Fibre) (n : Nat) (b : Bool) : (f.setPred n b).didx = f.didx := by
  unfold Fibre.setPred; split <;> rfl
@[simp] theorem Fibre.setPred_dcount (f : Fibre) (n : Nat) (b : Bool) : (f.setPred n b).dcount = f.dcount := by
  unfold Fibre.setPred; split <;> rfl
@[simp] theorem Fibre.setPred_behind (f : Fibre) (n : Nat) (b : Bool) : (f.setPred n b).behind = f.behind := by
  unfold Fibre.setPred; split <;> rfl
@[simp] theorem Fibre.setPred_cols (f : Fibre) (n : Nat) (b : Bool) : (f.setPred n b).cols = f.cols := by
  unfold Fibre.setPred; split <;> rfl
@[simp] theorem Fibre.setPred_issuedAt (f : Fibre) (n : Nat) (b : Bool) : (f.setPred n b).issuedAt = f.issuedAt := by
  unfold Fibre.setPred; split <;> rfl
@[simp] theorem Fibre.setPred_clkh (f : Fibre) (n : Nat) (b : Bool) : (f.setPred n b).clkh = f.clkh := by
  unfold Fibre.setPred; split <;> rfl
@[simp] theorem Fibre.setPred_dflt (f : Fibre) (n : Nat) (b : Bool) : (f.setPred n b).dflt = f.dflt := by
  unfold Fibre.setPred; split <;> rfl
@[simp] theorem Fibre.setPred_bin (f : Fibre) (n : Nat) (b : Bool) : (f.setPred n b).bin = f.bin := by
  unfold Fibre.setPred; split <;> rfl

/-- A register written reads back, where the window holds it. -/
theorem Fibre.reg_setReg_self (f : Fibre) (n : Nat) (r : Reg) (h : n < f.regs.length) : (f.setReg n r).reg n = r := by
  simp [Fibre.reg, List.getD, h]

/-- A register written leaves every other one. -/
theorem Fibre.reg_setReg_ne (f : Fibre) (n m : Nat) (r : Reg) (h : m ≠ n) : (f.setReg n r).reg m = f.reg m := by
  simp [Fibre.reg, List.getD, Ne.symm h]

end Sys2Proof.Machine
end

