-- ==== Sys2Proof/Laws/Memory.lean ====
section
/-!
SUPPORT. Sparse storage keeps its canonical form and reads back what was written; bytes and little-endian numbers.
-/
namespace Sys2Proof.Machine

variable {α : Type} [DecidableEq α]

/-! ## The canonical form -/

theorem swfFrom_mono (d : α) {n m : Nat} (h : m ≤ n) : ∀ {l : List (Nat × α)}, swfFrom d n l = true → swfFrom d m l = true
  | [], _ => rfl
  | (k, v) :: r, hl => by
    simp only [swfFrom, Bool.and_eq_true, decide_eq_true_eq] at hl ⊢
    exact ⟨⟨by omega, hl.1.2⟩, hl.2⟩

/-- Every operation of a sparse list is this one: it keeps the canonical form. -/
theorem swfFrom_sset (d : α) (n : Nat) (x : α) : ∀ {lo : Nat} {l : List (Nat × α)}, lo ≤ n → swfFrom d lo l = true →
    swfFrom d lo (sset d n x l) = true
  | lo, [], h, _ => by
    unfold sset
    split
    · rfl
    · rename_i hx; simp [swfFrom, h, hx]
  | lo, (k, v) :: r, h, hl => by
    simp only [swfFrom, Bool.and_eq_true, decide_eq_true_eq] at hl
    unfold sset
    split
    · rename_i hk
      split
      · simp [swfFrom, hl]
      · rename_i hx
        simp only [swfFrom, Bool.and_eq_true, decide_eq_true_eq]
        exact ⟨⟨h, hx⟩, ⟨by omega, hl.1.2⟩, hl.2⟩
    · split
      · rename_i hk hn
        split
        · exact swfFrom_mono d (by omega) hl.2
        · rename_i hx
          simp only [swfFrom, Bool.and_eq_true, decide_eq_true_eq]
          subst hn
          exact ⟨⟨h, hx⟩, hl.2⟩
      · simp only [swfFrom, Bool.and_eq_true, decide_eq_true_eq]
        exact ⟨hl.1, swfFrom_sset d n x (by omega) hl.2⟩

theorem swf_sset (d : α) (n : Nat) (x : α) {l : List (Nat × α)} (h : swf d l = true) : swf d (sset d n x l) = true :=
  swfFrom_sset d n x (Nat.zero_le n) h

/-! ## Reading after writing -/

theorem sget_of_swfFrom (d : α) : ∀ {lo m : Nat} {l : List (Nat × α)}, swfFrom d lo l = true → m < lo → sget d l m = d
  | _, _, [], _, _ => rfl
  | lo, m, (k, v) :: r, hl, h => by
    simp only [swfFrom, Bool.and_eq_true, decide_eq_true_eq] at hl
    have : m < k := by omega
    simp [sget, this]

/-- A key reads what was last written to it, and every other key what it read before. -/
theorem sget_sset (d : α) (n : Nat) (x : α) (m : Nat) : ∀ {lo : Nat} {l : List (Nat × α)}, swfFrom d lo l = true →
    sget d (sset d n x l) m = if m = n then x else sget d l m
  | _, [], _ => by
    unfold sset
    by_cases hx : x = d <;> by_cases hm : m = n <;> simp [sget, hx, hm]
  | lo, (k, v) :: r, hl => by
    simp only [swfFrom, Bool.and_eq_true, decide_eq_true_eq] at hl
    unfold sset
    split
    · rename_i hk
      by_cases hm : m = n
      · subst hm; by_cases hx : x = d <;> simp [sget, hx, hk]
      · by_cases hx : x = d
        · simp [hx, hm]
        · simp only [hx, if_false, hm, sget]
          by_cases h1 : m < n
          · simp [h1, show m < k by omega]
          · simp [h1]
    · split
      · rename_i hk hn
        subst hn
        by_cases hm : m = n
        · subst hm
          by_cases hx : x = d
          · simp [hx, sget_of_swfFrom d hl.2 (Nat.lt_succ_self m)]
          · simp [sget, hx]
        · by_cases hx : x = d
          · simp only [hx, if_true, hm, if_false]
            by_cases h1 : m < n
            · simp [sget, h1, sget_of_swfFrom d hl.2 (by omega : m < n + 1)]
            · simp [sget, h1, hm]
          · simp only [hx, if_false, hm, sget]
      · rename_i hk hn
        have ih := sget_sset d n x m hl.2
        simp only [sget, ih]
        by_cases h1 : m < k
        · have : m ≠ n := by omega
          simp [h1, this]
        · by_cases h2 : m = k
          · have : m ≠ n := by omega
            simp [h2, show k ≠ n from fun h => hn h.symm]
          · simp [h1, h2]

/-! ## Bytes -/

theorem wf_putBytes : ∀ (bs : List Byte) (m : List Host.Cell) (a : Nat), Memory.wf m = true →
    Memory.wf (putBytes m a bs) = true
  | [], _, _, h => h
  | b :: r, _, a, h => wf_putBytes r _ (a + 1) (swf_sset blankByte a b h)

/-- A store keeps physical memory canonical. -/
theorem State.canonical_store (s : State) (pa : Nat) (bs : List Byte) (h : s.MemoryCanonical) :
    (s.store pa bs).MemoryCanonical := wf_putBytes (s.masked pa bs) s.mem pa h

@[simp] theorem State.length_masked (s : State) (pa : Nat) (bs : List Byte) : (s.masked pa bs).length = bs.length := by
  unfold State.masked; split <;> simp

theorem getByte_sset (m : List Host.Cell) (a : Nat) (b : Byte) (x : Nat) (h : Memory.wf m = true) :
    getByte (sset blankByte a b m) x = if x = a then b else getByte m x := sget_sset blankByte a b x h

/-- Bytes outside those stored read as before; a stored byte reads as stored. -/
theorem getByte_putBytes : ∀ (bs : List Byte) (m : List Host.Cell) (a x : Nat), Memory.wf m = true →
    getByte (putBytes m a bs) x = if a ≤ x ∧ x < a + bs.length then bs.getD (x - a) 0 else getByte m x
  | [], _, a, x, _ => by
    simp only [putBytes, List.length_nil, Nat.add_zero]
    split
    · omega
    · rfl
  | b :: r, m, a, x, h => by
    rw [putBytes, getByte_putBytes r _ (a + 1) x (swf_sset blankByte a b h), getByte_sset m a b x h]
    simp only [List.length_cons]
    by_cases h1 : x = a
    · subst h1
      have : ¬ (x + 1 ≤ x ∧ x < x + 1 + r.length) := by omega
      rw [if_neg this, if_pos rfl, if_pos (by omega)]
      simp
    · by_cases h2 : a + 1 ≤ x ∧ x < a + 1 + r.length
      · have h3 : a ≤ x ∧ x < a + (r.length + 1) := by omega
        obtain ⟨j, rfl⟩ : ∃ j, x = a + 1 + j := ⟨x - (a + 1), by omega⟩
        have h4 : a + 1 + j - a = j + 1 := by omega
        have h5 : a + 1 + j - (a + 1) = j := by omega
        rw [if_pos h2, if_pos h3, h4, h5, List.getD_cons_succ]
      · have h3 : ¬ (a ≤ x ∧ x < a + (r.length + 1)) := by omega
        rw [if_neg h2, if_neg h1, if_neg h3]

theorem State.byte_store (s : State) (pa : Nat) (bs : List Byte) (x : Nat) (h : s.MemoryCanonical) :
    (s.store pa bs).byte x = if pa ≤ x ∧ x < pa + bs.length then bs.getD (x - pa) 0 else s.byte x := by
  have hg := getByte_putBytes (s.masked pa bs) s.mem pa x h
  simp only [State.length_masked] at hg
  by_cases hx : pa ≤ x ∧ x < pa + bs.length
  · rw [if_pos hx] at hg ⊢
    have hlt : x - pa < bs.length := by omega
    simp only [State.byte, State.masked, State.store_mem, State.store_rel, State.blankAt, List.getD] at hg ⊢
    by_cases hr : s.rel.resets = 0
    · simp only [hr, if_true] at hg ⊢
      simp [hg]
    · simp only [hr, if_false] at hg ⊢
      have he : pa + (x - pa) = x := by omega
      simp [hg, hlt, he]
  · rw [if_neg hx] at hg ⊢
    simp only [State.byte, State.masked, State.store_mem, State.store_rel, State.blankAt] at hg ⊢
    simp [hg]

theorem length_leBytes : ∀ n v, (leBytes n v).length = n
  | 0, _ => rfl
  | n + 1, v => by simp [leBytes, length_leBytes n]

theorem length_getBytes : ∀ (n : Nat) (m : List Host.Cell) (a : Nat), (getBytes m a n).length = n
  | 0, _, _ => rfl
  | n + 1, m, a => by simp [getBytes, length_getBytes n m]

/-- The little-endian bytes of a number give it back, modulo their range. -/
theorem leNat_leBytes : ∀ n v, leNat (leBytes n v) = v % 256 ^ n
  | 0, v => by simp [leBytes, leNat, Nat.mod_one]
  | n + 1, v => by
    rw [leBytes, leNat, leNat_leBytes n, BitVec.toNat_ofNat]
    have h : 256 ^ (n + 1) = 256 * 256 ^ n := by rw [Nat.pow_succ, Nat.mul_comm]
    rw [h, Nat.mod_mul]

end Sys2Proof.Machine
end

