-- ==== Sys2Proof/Laws/Issue.lean ====
section
/-!
SUPPORT. What the shared wrapper does: an instruction that is ready runs its own effect; what concluding it leaves alone.
-/
namespace Sys2Proof.Machine

@[simp] theorem Ctx.begin_rel (c : Ctx) (pf : Prefix) (s : State) : (c.begin pf s).rel = s.rel := by
  unfold Ctx.begin; dsimp only; split <;> split <;> rfl
@[simp] theorem Ctx.begin_now (c : Ctx) (pf : Prefix) (s : State) : (c.begin pf s).now = s.now := by
  unfold Ctx.begin; dsimp only; split <;> split <;> rfl
@[simp] theorem Ctx.begin_turn (c : Ctx) (pf : Prefix) (s : State) : (c.begin pf s).turn = s.turn := by
  unfold Ctx.begin; dsimp only; split <;> split <;> rfl
@[simp] theorem Ctx.begin_inbox (c : Ctx) (pf : Prefix) (s : State) : (c.begin pf s).inbox = s.inbox := by
  unfold Ctx.begin; dsimp only; split <;> split <;> rfl
@[simp] theorem Ctx.begin_draws (c : Ctx) (pf : Prefix) (s : State) : (c.begin pf s).draws = s.draws := by
  unfold Ctx.begin; dsimp only; split <;> split <;> rfl
@[simp] theorem Ctx.begin_mem (c : Ctx) (pf : Prefix) (s : State) : (c.begin pf s).mem = s.mem := by
  unfold Ctx.begin; dsimp only; split <;> split <;> rfl
@[simp] theorem Ctx.begin_gens (c : Ctx) (pf : Prefix) (s : State) : (c.begin pf s).gens = s.gens := by
  unfold Ctx.begin; dsimp only; split <;> split <;> rfl
@[simp] theorem Ctx.begin_spaces (c : Ctx) (pf : Prefix) (s : State) : (c.begin pf s).spaces = s.spaces := by
  unfold Ctx.begin; dsimp only; split <;> split <;> rfl
@[simp] theorem Ctx.begin_cores (c : Ctx) (pf : Prefix) (s : State) : (c.begin pf s).cores = s.cores := by
  unfold Ctx.begin; dsimp only; split <;> split <;> rfl
@[simp] theorem Ctx.begin_launches (c : Ctx) (pf : Prefix) (s : State) : (c.begin pf s).launches = s.launches := by
  unfold Ctx.begin; dsimp only; split <;> split <;> rfl
@[simp] theorem Ctx.begin_queues (c : Ctx) (pf : Prefix) (s : State) : (c.begin pf s).queues = s.queues := by
  unfold Ctx.begin; dsimp only; split <;> split <;> rfl
@[simp] theorem Ctx.begin_graphs (c : Ctx) (pf : Prefix) (s : State) : (c.begin pf s).graphs = s.graphs := by
  unfold Ctx.begin; dsimp only; split <;> split <;> rfl
@[simp] theorem Ctx.begin_parts (c : Ctx) (pf : Prefix) (s : State) : (c.begin pf s).parts = s.parts := by
  unfold Ctx.begin; dsimp only; split <;> split <;> rfl
@[simp] theorem Ctx.begin_partials (c : Ctx) (pf : Prefix) (s : State) : (c.begin pf s).partials = s.partials := by
  unfold Ctx.begin; dsimp only; split <;> split <;> rfl
@[simp] theorem Ctx.begin_encOwner (c : Ctx) (pf : Prefix) (s : State) : (c.begin pf s).encOwner = s.encOwner := by
  unfold Ctx.begin; dsimp only; split <;> split <;> rfl
@[simp] theorem Ctx.begin_bumps (c : Ctx) (pf : Prefix) (s : State) : (c.begin pf s).bumps = s.bumps := by
  unfold Ctx.begin; dsimp only; split <;> split <;> rfl
@[simp] theorem Ctx.begin_outbound (c : Ctx) (pf : Prefix) (s : State) : (c.begin pf s).outbound = s.outbound := by
  unfold Ctx.begin; dsimp only; split <;> split <;> rfl
@[simp] theorem Ctx.begin_aon (c : Ctx) (pf : Prefix) (s : State) : (c.begin pf s).aon = s.aon := by
  unfold Ctx.begin; dsimp only; split <;> split <;> rfl
@[simp] theorem Ctx.begin_power (c : Ctx) (pf : Prefix) (s : State) : (c.begin pf s).power = s.power := by
  unfold Ctx.begin; dsimp only; split <;> split <;> rfl
@[simp] theorem Ctx.begin_pointers (c : Ctx) (pf : Prefix) (s : State) : (c.begin pf s).pointers = s.pointers := by
  unfold Ctx.begin; dsimp only; split <;> split <;> rfl
@[simp] theorem Ctx.begin_traps (c : Ctx) (pf : Prefix) (s : State) : (c.begin pf s).traps = s.traps := by
  unfold Ctx.begin; dsimp only; split <;> split <;> rfl
@[simp] theorem Ctx.begin_epoch (c : Ctx) (pf : Prefix) (s : State) : (c.begin pf s).epoch = s.epoch := by
  unfold Ctx.begin; dsimp only; split <;> split <;> rfl
@[simp] theorem Ctx.begin_l2 (c : Ctx) (pf : Prefix) (s : State) : (c.begin pf s).l2 = s.l2 := by
  unfold Ctx.begin; dsimp only; split <;> split <;> rfl
@[simp] theorem Ctx.begin_l2Next (c : Ctx) (pf : Prefix) (s : State) : (c.begin pf s).l2Next = s.l2Next := by
  unfold Ctx.begin; dsimp only; split <;> split <;> rfl
@[simp] theorem Ctx.begin_past (c : Ctx) (pf : Prefix) (s : State) : (c.begin pf s).past = s.past := by
  unfold Ctx.begin; dsimp only; split <;> split <;> rfl
@[simp] theorem Ctx.begin_pastScr (c : Ctx) (pf : Prefix) (s : State) : (c.begin pf s).pastScr = s.pastScr := by
  unfold Ctx.begin; dsimp only; split <;> split <;> rfl
@[simp] theorem Ctx.begin_sync (c : Ctx) (pf : Prefix) (s : State) : (c.begin pf s).sync = s.sync := by
  unfold Ctx.begin; dsimp only; split <;> split <;> rfl
@[simp] theorem Ctx.begin_wakes (c : Ctx) (pf : Prefix) (s : State) : (c.begin pf s).wakes = s.wakes := by
  unfold Ctx.begin; dsimp only; split <;> split <;> rfl
@[simp] theorem Ctx.begin_replies (c : Ctx) (pf : Prefix) (s : State) : (c.begin pf s).replies = s.replies := by
  unfold Ctx.begin; dsimp only; split <;> split <;> rfl

@[simp] theorem Ctx.start_rel (c : Ctx) (pf : Prefix) (s : State) : (c.start pf s).rel = s.rel := by
  simp [Ctx.start, Ctx.stamped]
@[simp] theorem Ctx.start_now (c : Ctx) (pf : Prefix) (s : State) : (c.start pf s).now = s.now := by
  simp [Ctx.start, Ctx.stamped]
@[simp] theorem Ctx.start_turn (c : Ctx) (pf : Prefix) (s : State) : (c.start pf s).turn = s.turn := by
  simp [Ctx.start, Ctx.stamped]
@[simp] theorem Ctx.start_inbox (c : Ctx) (pf : Prefix) (s : State) : (c.start pf s).inbox = s.inbox := by
  simp [Ctx.start, Ctx.stamped]
@[simp] theorem Ctx.start_draws (c : Ctx) (pf : Prefix) (s : State) : (c.start pf s).draws = s.draws := by
  simp [Ctx.start, Ctx.stamped]
@[simp] theorem Ctx.start_mem (c : Ctx) (pf : Prefix) (s : State) : (c.start pf s).mem = s.mem := by
  simp [Ctx.start, Ctx.stamped]
@[simp] theorem Ctx.start_gens (c : Ctx) (pf : Prefix) (s : State) : (c.start pf s).gens = s.gens := by
  simp [Ctx.start, Ctx.stamped]
@[simp] theorem Ctx.start_spaces (c : Ctx) (pf : Prefix) (s : State) : (c.start pf s).spaces = s.spaces := by
  simp [Ctx.start, Ctx.stamped]
@[simp] theorem Ctx.start_cores (c : Ctx) (pf : Prefix) (s : State) : (c.start pf s).cores = s.cores := by
  simp [Ctx.start, Ctx.stamped]
@[simp] theorem Ctx.start_launches (c : Ctx) (pf : Prefix) (s : State) : (c.start pf s).launches = s.launches := by
  simp [Ctx.start, Ctx.stamped]
@[simp] theorem Ctx.start_queues (c : Ctx) (pf : Prefix) (s : State) : (c.start pf s).queues = s.queues := by
  simp [Ctx.start, Ctx.stamped]
@[simp] theorem Ctx.start_graphs (c : Ctx) (pf : Prefix) (s : State) : (c.start pf s).graphs = s.graphs := by
  simp [Ctx.start, Ctx.stamped]
@[simp] theorem Ctx.start_parts (c : Ctx) (pf : Prefix) (s : State) : (c.start pf s).parts = s.parts := by
  simp [Ctx.start, Ctx.stamped]
@[simp] theorem Ctx.start_partials (c : Ctx) (pf : Prefix) (s : State) : (c.start pf s).partials = s.partials := by
  simp [Ctx.start, Ctx.stamped]
@[simp] theorem Ctx.start_encOwner (c : Ctx) (pf : Prefix) (s : State) : (c.start pf s).encOwner = s.encOwner := by
  simp [Ctx.start, Ctx.stamped]
@[simp] theorem Ctx.start_bumps (c : Ctx) (pf : Prefix) (s : State) : (c.start pf s).bumps = s.bumps := by
  simp [Ctx.start, Ctx.stamped]
@[simp] theorem Ctx.start_outbound (c : Ctx) (pf : Prefix) (s : State) : (c.start pf s).outbound = s.outbound := by
  simp [Ctx.start, Ctx.stamped]
@[simp] theorem Ctx.start_aon (c : Ctx) (pf : Prefix) (s : State) : (c.start pf s).aon = s.aon := by
  simp [Ctx.start, Ctx.stamped]
@[simp] theorem Ctx.start_power (c : Ctx) (pf : Prefix) (s : State) : (c.start pf s).power = s.power := by
  simp [Ctx.start, Ctx.stamped]
@[simp] theorem Ctx.start_pointers (c : Ctx) (pf : Prefix) (s : State) : (c.start pf s).pointers = s.pointers := by
  simp [Ctx.start, Ctx.stamped]
@[simp] theorem Ctx.start_traps (c : Ctx) (pf : Prefix) (s : State) : (c.start pf s).traps = s.traps := by
  simp [Ctx.start, Ctx.stamped]
@[simp] theorem Ctx.start_epoch (c : Ctx) (pf : Prefix) (s : State) : (c.start pf s).epoch = s.epoch := by
  simp [Ctx.start, Ctx.stamped]
@[simp] theorem Ctx.start_l2 (c : Ctx) (pf : Prefix) (s : State) : (c.start pf s).l2 = s.l2 := by
  simp [Ctx.start, Ctx.stamped]
@[simp] theorem Ctx.start_l2Next (c : Ctx) (pf : Prefix) (s : State) : (c.start pf s).l2Next = s.l2Next := by
  simp [Ctx.start, Ctx.stamped]
@[simp] theorem Ctx.start_past (c : Ctx) (pf : Prefix) (s : State) : (c.start pf s).past = s.past := by
  simp [Ctx.start, Ctx.stamped]
@[simp] theorem Ctx.start_pastScr (c : Ctx) (pf : Prefix) (s : State) : (c.start pf s).pastScr = s.pastScr := by
  simp [Ctx.start, Ctx.stamped]
@[simp] theorem Ctx.start_sync (c : Ctx) (pf : Prefix) (s : State) : (c.start pf s).sync = s.sync := by
  simp [Ctx.start, Ctx.stamped]
@[simp] theorem Ctx.start_wakes (c : Ctx) (pf : Prefix) (s : State) : (c.start pf s).wakes = s.wakes := by
  simp [Ctx.start, Ctx.stamped]
@[simp] theorem Ctx.start_replies (c : Ctx) (pf : Prefix) (s : State) : (c.start pf s).replies = s.replies := by
  simp [Ctx.start, Ctx.stamped]

/-- Who reads for an instruction is active. -/
theorem readers_act {c : Ctx} {i : Instr} {p : Nat} (h : p ∈ c.readers i) : p ∈ c.act := by
  unfold Ctx.readers at h
  split at h
  · exact List.mem_of_mem_take h
  · exact h

/-- No bad register is read where the registers are sound. -/
theorem badRegs_sound {c : Ctx} {i : Instr} {s : State} (h : registersSound c i s) : s.badRegs c i = [] := by
  unfold State.badRegs
  rw [List.filterMap_eq_nil_iff]
  intro p hp
  rw [List.findSome?_eq_none_iff]
  intro r hr
  obtain ⟨h1, h2, -⟩ := (h p (readers_act hp)).1 r hr
  rw [h1]
  rcases h2 with h2 | h2
  · simp [h2]
  · rw [h2, Bool.and_false]; rfl

/-- Nothing stands in a sound register. -/
theorem regError_sound {c : Ctx} {i : Instr} {s : State} (h : registersSound c i s) : s.regError c i = [] := by
  unfold State.regError
  split
  · rfl
  · exact badRegs_sound h

/-- Nothing is corrected or served from a mirror where the registers are sound. -/
theorem serveRegs_sound {c : Ctx} {i : Instr} {s : State} (h : registersSound c i s) : s.serveRegs c i = s := by
  have hw : s.weakRegs c i = [] := by
    unfold State.weakRegs
    rw [List.flatMap_eq_nil_iff]
    intro p hp
    rw [List.filter_eq_nil_iff]
    intro q hq
    obtain ⟨r, hr, rfl⟩ := List.mem_map.1 hq
    obtain ⟨-, -, h3⟩ := (h p (readers_act hp)).1 r hr
    simp only [h3]; decide
  unfold State.serveRegs
  simp [hw, badRegs_sound h]

/-- No error stands in a register to be written where the registers are sound. -/
theorem staleRegs_sound {c : Ctx} {i : Instr} {s : State} (h : registersSound c i s) : s.staleRegs c i = [] := by
  unfold State.staleRegs
  rw [List.filter_eq_nil_iff]
  intro q hq hany
  simp only [List.any_eq_true, Bool.or_eq_true, beq_iff_eq] at hany
  obtain ⟨f, hf, r, hr, he⟩ := hany
  obtain ⟨h1, h2, h3, h4⟩ := (h f hf).2 r hr
  rw [List.contains_eq_mem, decide_eq_false_iff_not] at h1 h2 h3 h4
  rcases List.mem_append.1 hq with hq | hq <;> rcases he with rfl | rfl
  · exact h1 hq
  · exact h2 hq
  · exact h3 hq
  · exact h4 hq

/-- An effect is as it is where no error stands in what it writes. -/
@[simp] theorem Eff.fresh_nil (e : Eff) : e.fresh [] = e := rfl

/-- The checks that every instruction shares pass. -/
theorem check_ready {i : Instr} {s : State} {u : UnitId} {pf : Prefix} {c : Ctx} (h : Ready i s u pf c) (s' : State)
    (hs : s'.rel = s.rel) : c.check pf i (c.fibre (c.all.headD 0)).rep s' = none := by
  obtain ⟨_, _, _, _, _, _, henc, hrep, hal, hloose, hpriv, hfit, hseq, hsound⟩ := h
  unfold Ctx.check
  have e1 : ¬ (i.encFault pf = some .illegalOp) := by simp [henc]
  have e2 : ¬ (i.encFault pf = some .illegalField ∨
      ((c.fibre (c.all.headD 0)).rep.map (stepFault i.info)).getD false = true ∨
      (c.operands i.info).any (fun o => decide ((o.1.num + o.2) % o.1.align ≠ 0)) = true) := by
    rw [henc, hrep]
    simp only [reduceCtorEq, Bool.false_eq_true, false_or, List.any_eq_true, decide_eq_true_eq, not_exists, not_and,
      ne_eq, Decidable.not_not]
    exact fun o ho => hal o ho
  have e3 : ¬ (i.info.loose = true ∧ c.all.any (fun p => !(c.fibre p).bound) = true) := by
    rintro ⟨hl, ha⟩
    rw [List.any_eq_true] at ha
    obtain ⟨p, hp, hb⟩ := ha
    simp [hloose hl p hp] at hb
  have e4 : ¬ (i.info.priv = true ∧ c.all.any (fun p => !(c.fibre p).priv) = true) := by
    rintro ⟨hl, ha⟩
    rw [List.any_eq_true] at ha
    obtain ⟨p, hp, hb⟩ := ha
    simp [hpriv hl p hp] at hb
  have e5 : ((c.readers i).filter fun p => Instr.tooWide c.kind i || (c.operands i.info).any fun o => outside o.1 o.2 (c.fibre p)) = [] := by
    rw [List.filter_eq_nil_iff]
    intro p hp
    obtain ⟨h1, h2⟩ := hfit p (readers_act hp)
    simp only [h1, Bool.false_or, List.any_eq_true, not_exists, not_and, Bool.not_eq_true]
    exact fun o ho => h2 o ho
  have e6 : ¬ (c.kind = .sequencer ∧ ¬ i.info.seq = true) := fun h => h.2 (hseq h.1)
  have e7 : s'.regError c i = [] := by
    refine regError_sound fun p hp => ?_
    rw [hs]; exact hsound p hp
  simp only [if_neg e1, if_neg e2, if_neg e3, if_neg e4, e5, if_neg e6, e7]
  simp

/-- Whether a unit waits for tokens does not depend on the state that would wait. -/
theorem tokenWait_none {c : Ctx} {pf : Prefix} {h : Word} {s : State} (ht : c.tokenWait pf h s = none) (t : State) :
    c.tokenWait pf h t = none := by
  unfold Ctx.tokenWait Ctx.observe at *
  dsimp only at *
  split at ht
  · rw [if_pos ‹_›]
  · rw [if_neg ‹_›]
    split at ht
    · rw [if_pos ‹_›]
      rw [Option.map_eq_none_iff] at ht ⊢
      exact ht
    · cases ht

/-- An instruction that is ready runs its own effect, and the step concludes as that effect ends. -/
theorem issue_ready {i : Instr} {s : State} {u : UnitId} {pf : Prefix} {c : Ctx} (h : Ready i s u pf c)
    (body : Ctx → State → Eff) : issue i body s = .next (c.conclude ((body c (c.start pf s)).used c i)).done := by
  have hc := check_ready h (c.start pf s) (by simp)
  obtain ⟨hturn, hctx, hloose, htok, hdove, hstall, _, _, _, _, _, _, _, hsound⟩ := h
  have hs : registersSound c i (c.start pf s) := by unfold registersSound; rw [Ctx.start_rel]; exact hsound
  have ht : c.tokenWait pf (c.fibre (c.all.headD 0)).hdrWord (c.stamped s) = none := tokenWait_none htok _
  unfold issue
  simp only [hturn, hctx, hloose, ht, hdove, hstall]
  change (match c.check pf i (c.fibre (c.all.headD 0)).rep (c.start pf s) with
    | some e => Host.Outcome.next (c.conclude e).done
    | none => .next (c.conclude (((body c ((c.start pf s).serveRegs c i)).fresh ((c.start pf s).staleRegs c i)).used c i)).done) = _
  rw [hc, serveRegs_sound hs, staleRegs_sound hs]
  simp

/-! ## How an effect ends -/

theorem conclude_stay (c : Ctx) (s : State) : c.conclude (.stay s) = s := rfl

theorem conclude_left (c : Ctx) (s : State) : c.conclude (.left s) = s.settle c.u := rfl

theorem conclude_endLaunch (c : Ctx) (s : State) (n : Nat) : c.conclude (.endLaunch s n) = s.endLaunch c.crew.desc.launch n := rfl

theorem conclude_raise (c : Ctx) (s : State) (cause sub info : Nat) (ls : List Nat) (es : List (Nat × List Nat)) :
    c.conclude (.raise s cause sub info ls es) = s.takeFault c.u (c.faultInfo cause sub info ls es) none := rfl

theorem Eff.used_stay (c : Ctx) (i : Instr) (t : State) :
    Eff.used c i (.stay t) = .stay (if Instr.isPlainLoad i then t else c.useLate i t) := by
  unfold Eff.used; split <;> rfl

@[simp] theorem Eff.used_raise (c : Ctx) (i : Instr) (t : State) (cause sub info : Nat) (ls : List Nat) (es : List (Nat × List Nat)) :
    Eff.used c i (.raise t cause sub info ls es) = .raise t cause sub info ls es := by
  unfold Eff.used; split <;> rfl

/-- An instruction that is ready and stays where it is leaves what its effect left, one step later, the loads that it uses settled. -/
theorem ready_stay {i : Instr} {s : State} {u : UnitId} {pf : Prefix} {c : Ctx} {body : Ctx → State → Eff} {t : State}
    (he : ∀ s, exec i s = issue i body s) (h : Ready i s u pf c) (hb : body c (c.start pf s) = .stay t) :
    exec i s = .next (if Instr.isPlainLoad i then t else c.useLate i t).done := by
  rw [he, issue_ready h, hb, Eff.used_stay]; rfl

/-- An instruction that is ready and raises a fault takes it. -/
theorem ready_raise {i : Instr} {s : State} {u : UnitId} {pf : Prefix} {c : Ctx} {body : Ctx → State → Eff} {t : State}
    {cause sub info : Nat} {ls : List Nat} {es : List (Nat × List Nat)}
    (he : ∀ s, exec i s = issue i body s) (h : Ready i s u pf c) (hb : body c (c.start pf s) = .raise t cause sub info ls es) :
    exec i s = .next (c.conclude (.raise t cause sub info ls es)).done := by
  rw [he, issue_ready h, hb, Eff.used_raise]

/-! ## Events -/

/-- An event's move is made with the arguments its turn holds. -/
theorem onEvent_next (body : EvArg → State → State) {s : State} {i : Instr} {a : EvArg} (h : s.turn = some (.event i a)) :
    onEvent body s = .next (body a s).done := by
  unfold onEvent; rw [h]

/-- An event whose move is, wherever `pre` holds, the state `x`, completes with it. -/
theorem event_of {i : Instr} {body : EvArg → State → State} {pre : EvArg → State → Prop} {x : EvArg → State → State}
    (he : ∀ s, exec i s = onEvent body s) (hb : ∀ a s, pre a s → body a s = x a s) : Event i pre x := by
  intro a s ht hp
  rw [he, onEvent_next body ht, hb a s hp]; rfl

end Sys2Proof.Machine
end

