-- ==== Sys2Proof/Laws/Effect.lean ====
section
/-!
SUPPORT. What concluding an instruction changes: the marks of progress of the unit's crew alone; and so what an instruction
leaves that writes only fibres.
-/
namespace Sys2Proof.Machine

/-! ## Fibres at places -/

theorem Crew.fibre_modFibres (k : Crew) (is : List Nat) (g : Nat → Fibre → Fibre) (p : Nat) (h : p < k.fibres.length) :
    (k.modFibres is g).fibre p = if p ∈ is then g p (k.fibre p) else k.fibre p := by
  simp [Crew.modFibres, Crew.fibre, modAt, List.getD, h]

@[simp] theorem Crew.length_modFibres (k : Crew) (is : List Nat) (g : Nat → Fibre → Fibre) :
    (k.modFibres is g).fibres.length = k.fibres.length := by simp [Crew.modFibres, modAt]

/-- A crew with the same fields but for fibres and bins, its fibres the same but for marks of progress. -/
def Crew.SameFace (k k' : Crew) : Prop :=
  { k' with fibres := k.fibres, bins := k.bins } = k ∧ k'.fibres.length = k.fibres.length
    ∧ ∀ p, p < k.fibres.length → (k'.fibre p).face = (k.fibre p).face ∧ (k'.fibre p).pc = (k.fibre p).pc

theorem Crew.SameFace.refl (k : Crew) : k.SameFace k := ⟨rfl, rfl, fun _ _ => ⟨rfl, rfl⟩⟩

theorem Crew.SameFace.trans {a b c : Crew} (h : a.SameFace b) (h' : b.SameFace c) : a.SameFace c := by
  obtain ⟨h1, h2, h3⟩ := h
  obtain ⟨g1, g2, g3⟩ := h'
  refine ⟨?_, g2.trans h2, fun p hp => ?_⟩
  · rw [← g1] at h1; exact h1
  · exact ⟨(g3 p (h2 ▸ hp)).1.trans (h3 p hp).1, (g3 p (h2 ▸ hp)).2.trans (h3 p hp).2⟩

theorem Crew.sameFace_map (k : Crew) (f : Fibre → Fibre) (h : ∀ x, (f x).face = x.face ∧ (f x).pc = x.pc) :
    k.SameFace { k with fibres := k.fibres.map f } := by
  refine ⟨rfl, by simp, fun p hp => ?_⟩
  simp only [Crew.fibre, List.getD, List.getElem?_map, List.getElem?_eq_getElem hp, Option.map_some, Option.getD_some]
  exact h _

theorem Crew.sameFace_modFibres (k : Crew) (is : List Nat) (g : Nat → Fibre → Fibre)
    (h : ∀ p f, (g p f).face = f.face ∧ (g p f).pc = f.pc) : k.SameFace (k.modFibres is g) := by
  refine ⟨rfl, by simp, fun p hp => ?_⟩
  rw [Crew.fibre_modFibres k is g p hp]
  split
  · exact h p _
  · exact ⟨rfl, rfl⟩

theorem Crew.sameFace_regroup (k : Crew) (g : Nat) : k.SameFace (k.regroup g) :=
  k.sameFace_map _ fun x => by
    split
    · dsimp only
      split <;> exact ⟨rfl, rfl⟩
    · exact ⟨rfl, rfl⟩

theorem Crew.sameFace_enterBin (k : Crew) (now i : Nat) : k.SameFace (k.enterBin now i) := by
  have h : ∀ b : Nat, ∀ p, p < k.fibres.length →
      ((modAt [i] (fun _ f => { f with bin := some b }) k.fibres).getD p Fibre.empty).face = (k.fibre p).face
        ∧ ((modAt [i] (fun _ f => { f with bin := some b }) k.fibres).getD p Fibre.empty).pc = (k.fibre p).pc := by
    intro b p hp
    simp only [Crew.fibre, modAt, List.getD, List.getElem?_mapIdx, List.getElem?_eq_getElem hp, Option.map_some,
      Option.getD_some]
    split <;> exact ⟨rfl, rfl⟩
  unfold Crew.enterBin
  split
  · refine ⟨rfl, by simp, fun p hp => ?_⟩
    simp only [Crew.fibre, List.getD, List.getElem?_mapIdx, List.getElem?_eq_getElem hp, Option.map_some, Option.getD_some]
    split <;> split <;> exact ⟨rfl, rfl⟩
  · exact ⟨rfl, by simp [modAt], h _⟩

theorem Crew.sameFace_foldl {α : Type} (f : Crew → α → Crew) (h : ∀ (k : Crew) a, k.SameFace (f k a)) :
    ∀ (l : List α) (k : Crew), k.SameFace (l.foldl f k)
  | [], k => .refl k
  | a :: r, k => (h k a).trans (sameFace_foldl f h r (f k a))

theorem Crew.sameFace_rebin (k : Crew) (now b : Nat) : k.SameFace (k.rebin now b) := by
  unfold Crew.rebin
  refine Crew.SameFace.trans (k.sameFace_modFibres (k.members (.bin b)) _ fun p f => ?_)
    (Crew.sameFace_foldl _ (fun k i => ?_) _ _)
  · split <;> exact ⟨rfl, rfl⟩
  · split
    · exact .refl k
    · exact k.sameFace_enterBin now i

/-! ## One crew of a state changed -/

theorem crews_modify {s : State} {c : Nat} {k : Crew} (h : s.crews[c]? = some k) (f : Crew → Crew) :
    (s.modCrew c f).crews[c]? = some (f k) := by simp [h]

theorem crews_modify_ne (s : State) {c j : Nat} (h : j ≠ c) (f : Crew → Crew) :
    (s.modCrew c f).crews[j]? = s.crews[j]? := by simp [Ne.symm h]

/-- `Only` from one crew's change: what a state with one crew changed leaves. -/
theorem only_of_crew {s t : State} {c : Nat} {k k' : Crew} {g : Nat → Fibre → Fibre} (hs : s.crews[c]? = some k)
    (hnow : t.now = s.now + 1) (hturn : t.turn = none)
    (hrest : { t with crews := s.crews, now := s.now, turn := s.turn } = s) (hlen : t.crews.length = s.crews.length)
    (hne : ∀ j, j ≠ c → t.crews[j]? = s.crews[j]?) (ht : t.crews[c]? = some k')
    (hk : { k' with fibres := k.fibres, bins := k.bins } = k) (hl : k'.fibres.length = k.fibres.length)
    (hf : ∀ p, p < k.fibres.length → (k'.fibre p).face = (g p (k.fibre p)).face) : Only s t c g :=
  ⟨hnow, hturn, hrest, hlen, hne, k, k', hs, ht, hk, hl, hf⟩

/-- The unit's gang regrouped, or its bin's fibres sent back: the crew keeps its faces. -/
theorem settle_spec {s : State} {u : UnitId} {k : Crew} (h : s.crews[u.crew]? = some k) :
    ∃ k', (s.settle u).crews[u.crew]? = some k' ∧ k.SameFace k' := by
  unfold State.settle
  rw [crews_modify h]
  refine ⟨_, rfl, ?_⟩
  split
  · exact k.sameFace_regroup _
  · split
    · exact .refl k
    · exact k.sameFace_rebin _ _

theorem settle_ne (s : State) (u : UnitId) {j : Nat} (h : j ≠ u.crew) : (s.settle u).crews[j]? = s.crews[j]? := by
  unfold State.settle; exact crews_modify_ne s h _

theorem length_settle (s : State) (u : UnitId) : (s.settle u).crews.length = s.crews.length := by
  unfold State.settle; simp

/-! ## Concluding -/

theorem face_advance (kind : Kind) (f : Fibre) : (f.advance kind).face = f.face := by
  unfold Fibre.advance
  dsimp only
  split
  · split
    · rfl
    · split <;> rfl
  · split <;> rfl

theorem pc_advance (kind : Kind) (f : Fibre) : (f.advance kind).pc = nextPcOf kind f := by
  unfold Fibre.advance nextPcOf
  dsimp only
  split
  · rename_i r hr
    try simp only [hr]
    split
    · rfl
    · split <;> rfl
  · rename_i hr
    try simp only [hr]
    split <;> rfl

theorem face_goto (n : Nat) (t : Word) (f : Fibre) : (f.goto n t).face = f.face := rfl

/-- What the issuing unit is. -/
theorem ctx_spec {s : State} {u : UnitId} {pf : Prefix} {c : Ctx} (h : s.ctx? u pf = some c) :
    c.u = u ∧ s.crews[u.crew]? = some c.crew ∧ c.all = c.crew.members u.kind
      ∧ c.act = c.all.filter fun p => (c.crew.fibre p).pred pf.guard.toNat != pf.neg := by
  unfold State.ctx? at h
  cases hk : s.crews[u.crew]? with
  | none => simp [hk] at h
  | some k =>
    simp only [hk] at h
    split at h
    · cases h
    · rename_i m ms hm
      cases h
      exact ⟨rfl, rfl, hm.symm, rfl⟩

/-- A place among a unit's members is a place of the crew. -/
theorem members_lt {k : Crew} {u : UnitKind} {p : Nat} (h : p ∈ k.members u) : p < k.fibres.length := by
  unfold Crew.members at h
  rw [List.mem_filterMap] at h
  obtain ⟨l, _, h⟩ := h
  exact (List.findIdx?_eq_some_iff_findIdx_eq.mp h).1

theorem ctx_all_lt {s : State} {u : UnitId} {pf : Prefix} {c : Ctx} (h : s.ctx? u pf = some c) {p : Nat} (hp : p ∈ c.all) :
    p < c.crew.fibres.length := members_lt ((ctx_spec h).2.2.1 ▸ hp)

/-- An effect that ends complete: every fibre of the unit goes on, and nothing else changes. -/
theorem conclude_next {c : Ctx} {x : State} {kx : Crew} (hx : x.crews[c.u.crew]? = some kx) :
    Only x (c.conclude (.next x)).done c.u.crew (fun _ f => f)
      ∧ ∀ p ∈ c.all, p < kx.fibres.length →
        ((c.conclude (.next x)).done.fibreAt c.u.crew p).pc = nextPcOf c.kind (kx.fibre p) := by
  let y := x.modFibres c.u.crew c.all fun _ f => f.advance c.kind
  have hy : y.crews[c.u.crew]? = some (kx.modFibres c.all fun _ f => f.advance c.kind) := crews_modify hx _
  obtain ⟨k', hk', ⟨h1, h2, h3⟩⟩ := settle_spec (u := c.u) hy
  have hlen : k'.fibres.length = kx.fibres.length := by rw [h2, Crew.length_modFibres]
  refine ⟨⟨rfl, rfl, rfl, ?_, fun j hj => ?_, kx, k', hx, hk', ?_, hlen, fun p hp => ?_⟩, fun p hp hl => ?_⟩
  · show (y.settle c.u).crews.length = _
    rw [length_settle]; simp [y]
  · show (y.settle c.u).crews[j]? = _
    rw [settle_ne y c.u hj]; exact crews_modify_ne x hj _
  · have := congrArg (fun k : Crew => { k with fibres := kx.fibres, bins := kx.bins }) h1
    exact this
  · rw [(h3 p (by simpa using hp)).1, Crew.fibre_modFibres kx _ _ p hp]
    split
    · exact face_advance _ _
    · rfl
  · show (((y.settle c.u).crews[c.u.crew]?).map (fun k => k.fibre p) |>.getD Fibre.empty).pc = _
    rw [hk']
    simp only [Option.map_some, Option.getD_some]
    rw [(h3 p (by simpa using hl)).2, Crew.fibre_modFibres kx _ _ p hl, if_pos hp, pc_advance]

/-- `Only` through a first change of the crew. -/
theorem Only.after {s x t : State} {c : Nat} {k kx : Crew} {g : Nat → Fibre → Fibre} (hs : s.crews[c]? = some k)
    (hx : x = { s with crews := s.crews.set c kx }) (hk : { kx with fibres := k.fibres, bins := k.bins } = k)
    (hl : kx.fibres.length = k.fibres.length) (hf : ∀ p, p < k.fibres.length → (kx.fibre p).face = (g p (k.fibre p)).face)
    (h : Only x t c fun _ f => f) : Only s t c g := by
  obtain ⟨h1, h2, h3, h4, h5, a, b, ha, hb, hab, hll, hff⟩ := h
  subst hx
  have hlt : c < s.crews.length := (List.getElem?_eq_some_iff.mp hs).1
  have ha' : a = kx := by
    simp only [List.getElem?_set_self hlt, Option.some.injEq] at ha
    exact ha.symm
  subst ha'
  refine ⟨h1, h2, ?_, by simpa using h4, fun j hj => ?_, k, b, hs, hb, ?_, hll.trans hl, fun p hp => ?_⟩
  · have := congrArg (fun z : State => { z with crews := s.crews }) h3
    exact this
  · rw [h5 j hj]
    simp [Ne.symm hj]
  · have := congrArg (fun z : Crew => { z with fibres := k.fibres, bins := k.bins }) hab
    exact this.trans hk
  · rw [hff p (hl ▸ hp), hf p hp]

theorem modCrew_eq_set {s : State} {c : Nat} {k : Crew} (h : s.crews[c]? = some k) (f : Crew → Crew) :
    s.modCrew c f = { s with crews := s.crews.set c (f k) } := by
  have hlt : c < s.crews.length := (List.getElem?_eq_some_iff.mp h).1
  have : s.crews.modify c f = s.crews.set c (f k) := by
    apply List.ext_getElem?
    intro j
    simp only [List.getElem?_modify, List.getElem?_set]
    split
    · rename_i hj; subst hj; rw [h]; simp
    · simp
  rw [State.modCrew, this]

theorem modCrew_modCrew (s : State) (c : Nat) (f g : Crew → Crew) :
    (s.modCrew c f).modCrew c g = s.modCrew c fun k => g (f k) := by
  simp only [State.modCrew]
  congr 1
  apply List.ext_getElem?; intro j
  simp only [List.getElem?_modify]
  split
  · cases s.crews[j]? <;> rfl
  · cases s.crews[j]? <;> rfl

/-! ## What stands before an effect: the marks of `begin` -/

/-- A fibre with other marks: its token wait over, its dovetail marker, when it last issued. -/
def Fibre.marked (f : Fibre) (w ps : Bool) (di dc ia : Nat) : Fibre :=
  { f with waited := w, passed := ps, didx := di, dcount := dc, issuedAt := ia }

theorem modFibres_id (s : State) (c : Nat) (is : List Nat) : s.modFibres c is (fun _ f => f) = s := by
  have h : ∀ l : List Fibre, modAt is (fun _ f => f) l = l := fun l => by
    apply List.ext_getElem?; intro j; simp [modAt]
  have : (fun k : Crew => k.modFibres is fun _ f => f) = id := by
    funext k; simp [Crew.modFibres, h]
  have hm : s.crews.modify c id = s.crews := by
    apply List.ext_getElem?; intro j
    simp only [List.getElem?_modify]
    split <;> simp
  rw [State.modFibres, State.modCrew, this, hm]

theorem modFibres_modFibres (s : State) (c : Nat) (is : List Nat) (g h : Nat → Fibre → Fibre) :
    (s.modFibres c is g).modFibres c is h = s.modFibres c is fun p f => h p (g p f) := by
  have hm : ∀ l : List Fibre, modAt is h (modAt is g l) = modAt is (fun p f => h p (g p f)) l := fun l => by
    apply List.ext_getElem?; intro j
    simp only [modAt, List.getElem?_mapIdx, Option.map_map]
    congr 1
    funext x
    simp only [Function.comp]
    split <;> rfl
  rw [State.modFibres, State.modFibres, modCrew_modCrew, State.modFibres]
  congr 1
  funext k
  simp [Crew.modFibres, hm]

/-- Before an effect the unit's fibres change their marks alone. -/
theorem start_spec (c : Ctx) (pf : Prefix) (s : State) :
    ∃ h : Fibre → Fibre, (∀ f, ∃ w ps di dc ia, h f = f.marked w ps di dc ia)
      ∧ c.start pf s = s.modFibres c.u.crew c.all fun _ f => h f := by
  unfold Ctx.start Ctx.begin Ctx.stamped
  dsimp only
  split <;> split
  · refine ⟨fun f => f.marked f.waited true (hdrDidx f.hdrWord) 0 s.now, fun f => ⟨_, _, _, _, _, rfl⟩, ?_⟩
    rw [modFibres_modFibres]; rfl
  · refine ⟨fun f => f.marked true true (hdrDidx f.hdrWord) 0 s.now, fun f => ⟨_, _, _, _, _, rfl⟩, ?_⟩
    rw [modFibres_modFibres, modFibres_modFibres]; rfl
  · exact ⟨fun f => f.marked f.waited f.passed f.didx f.dcount s.now, fun f => ⟨_, _, _, _, _, rfl⟩, rfl⟩
  · refine ⟨fun f => f.marked true f.passed f.didx f.dcount s.now, fun f => ⟨_, _, _, _, _, rfl⟩, ?_⟩
    rw [modFibres_modFibres]; rfl

/-! ## Instructions that write fibres alone -/

theorem modFibres_nil (s : State) (c : Nat) (g : Nat → Fibre → Fibre) : s.modFibres c [] g = s := by
  have h : ∀ l : List Fibre, modAt [] g l = l := fun l => by
    apply List.ext_getElem?; intro j; simp [modAt]
  have : (fun k : Crew => k.modFibres [] g) = id := by
    funext k; simp [Crew.modFibres, h]
  have hm : s.crews.modify c id = s.crews := by
    apply List.ext_getElem?; intro j
    simp only [List.getElem?_modify]
    split <;> simp
  rw [State.modFibres, State.modCrew, this, hm]

/-- What a completed effect's instruction settles of its fibres' loads is a mark of progress alone. -/
theorem used_next (c : Ctx) (i : Instr) (s : State) : ∃ (js : List Nat) (l : Fibre → List Nat),
    Eff.used c i (.next s) = .next (s.modFibres c.u.crew js fun _ f => { f with late := l f }) := by
  unfold Eff.used
  split
  · exact ⟨[], fun f => f.late, by rw [modFibres_nil]⟩
  · refine ⟨c.act, ?_⟩
    unfold Ctx.useLate Ctx.dropLate
    dsimp only
    split
    · exact ⟨fun _ => [], rfl⟩
    · exact ⟨fun f => f.late.filter _, rfl⟩

/-- An instruction whose effect writes the fibres at the named places, and nothing else, completes with just that: `x` is the
state its effect begins in, up to what it changes beside the crew's fibres. -/
theorem completes_fibres {s x : State} {u : UnitId} {pf : Prefix} {c : Ctx} (hc : s.ctx? u pf = some c)
    (hx : x.crews = s.crews) (is : List Nat) (g : Nat → Fibre → Fibre)
    (hg : ∀ p f w ps di dc ia, (g p (f.marked w ps di dc ia)).face = (g p f).face)
    (hp : ∀ p f, (g p f).pc = f.pc ∧ (g p f).rep = f.rep) {h : Fibre → Fibre}
    (hh : ∀ f, ∃ w ps di dc ia, h f = f.marked w ps di dc ia) (js : List Nat) (l : Fibre → List Nat) :
    let t := (c.conclude (.next (((x.modFibres c.u.crew c.all fun _ f => h f).modFibres c.u.crew is g).modFibres c.u.crew js
      fun _ f => { f with late := l f }))).done
    Only x t u.crew (fun p f => if p ∈ is then g p f else f) ∧ GoesOn t c := by
  intro t
  obtain ⟨hu, hk, hall, -⟩ := ctx_spec hc
  have hk' : x.crews[u.crew]? = some c.crew := hx ▸ hk
  let k0 := (c.crew.modFibres c.all fun _ f => h f).modFibres is g
  let kx := k0.modFibres js fun _ f => { f with late := l f }
  have hy1 : (x.modFibres c.u.crew c.all fun _ f => h f).crews[c.u.crew]? = some (c.crew.modFibres c.all fun _ f => h f) :=
    crews_modify (hu ▸ hk') _
  have hy0 : ((x.modFibres c.u.crew c.all fun _ f => h f).modFibres c.u.crew is g).crews[c.u.crew]? = some k0 :=
    crews_modify hy1 _
  have hy : (((x.modFibres c.u.crew c.all fun _ f => h f).modFibres c.u.crew is g).modFibres c.u.crew js
      fun _ f => { f with late := l f }).crews[c.u.crew]? = some kx := crews_modify hy0 _
  have hlate : ∀ p, p < c.crew.fibres.length →
      (kx.fibre p).face = (k0.fibre p).face ∧ (kx.fibre p).pc = (k0.fibre p).pc ∧ (kx.fibre p).rep = (k0.fibre p).rep := by
    intro p hlt
    have e : kx.fibre p = if p ∈ js then { k0.fibre p with late := l (k0.fibre p) } else k0.fibre p :=
      Crew.fibre_modFibres k0 js _ p (by simpa [k0] using hlt)
    rw [e]
    split <;> exact ⟨rfl, rfl, rfl⟩
  have hfib : ∀ p, p < c.crew.fibres.length → ∃ w ps di dc ia,
      k0.fibre p = if p ∈ is then g p ((c.crew.fibre p).marked w ps di dc ia) else (c.crew.fibre p).marked w ps di dc ia := by
    intro p hlt
    obtain ⟨w, ps, di, dc, ia, hm⟩ := hh (c.crew.fibre p)
    have e : k0.fibre p = if p ∈ is then g p ((c.crew.modFibres c.all fun _ f => h f).fibre p)
        else (c.crew.modFibres c.all fun _ f => h f).fibre p := Crew.fibre_modFibres _ is g p (by simpa using hlt)
    rw [Crew.fibre_modFibres c.crew c.all _ p hlt] at e
    by_cases ha : p ∈ c.all
    · exact ⟨w, ps, di, dc, ia, by rw [e, if_pos ha, hm]⟩
    · exact ⟨(c.crew.fibre p).waited, (c.crew.fibre p).passed, (c.crew.fibre p).didx, (c.crew.fibre p).dcount, (c.crew.fibre p).issuedAt, by
        rw [e, if_neg ha]; rfl⟩
  obtain ⟨ho, hpc⟩ := conclude_next (c := c) hy
  constructor
  · refine Only.after (x := ((x.modFibres c.u.crew c.all fun _ f => h f).modFibres c.u.crew is g).modFibres c.u.crew js
        fun _ f => { f with late := l f }) (k := c.crew) (kx := kx) hk' ?_
      rfl (by simp [kx, k0]) (fun p hlt => ?_) (hu ▸ ho)
    · rw [State.modFibres, State.modFibres, State.modFibres, modCrew_modCrew, modCrew_modCrew, hu, modCrew_eq_set hk']
    · obtain ⟨w, ps, di, dc, ia, hm⟩ := hfib p hlt
      rw [(hlate p hlt).1, hm]
      split
      · exact hg p _ w ps di dc ia
      · rfl
  · intro p hpall
    have hlt : p < c.crew.fibres.length := members_lt (hall ▸ hpall)
    rw [hpc p hpall (by simpa [kx, k0] using hlt)]
    obtain ⟨w, ps, di, dc, ia, hm⟩ := hfib p hlt
    have hn : nextPcOf c.kind (kx.fibre p) = nextPcOf c.kind (k0.fibre p) := by
      simp only [nextPcOf, (hlate p hlt).2.1, (hlate p hlt).2.2]
    rw [hn, hm]
    by_cases hi : p ∈ is
    · simp only [if_pos hi, nextPcOf, (hp p _).1, (hp p _).2]
      rfl
    · simp only [if_neg hi]
      rfl

/-- A ready instruction whose effect writes the fibres at the named places, each from its own fibre and the unit as it stood,
completes with just that. -/
theorem does_fibres {i : Instr} {body : Ctx → State → Eff} (he : ∀ s, exec i s = issue i body s) (is : Ctx → List Nat)
    (g : Ctx → Nat → Fibre → Fibre) (hb : ∀ c s, body c s = .next (s.modFibres c.u.crew (is c) (g c)))
    (hg : ∀ c p f w ps di dc ia, (g c p (f.marked w ps di dc ia)).face = (g c p f).face)
    (hp : ∀ c p f, (g c p f).pc = f.pc ∧ (g c p f).rep = f.rep) {s : State} {u : UnitId} {pf : Prefix} {c : Ctx}
    (h : Ready i s u pf c) :
    ∃ t, exec i s = .next t ∧ Only s t u.crew (fun p f => if p ∈ is c then g c p f else f) ∧ GoesOn t c := by
  obtain ⟨m, hm, hbeg⟩ := start_spec c pf s
  have hc := h.2.1
  refine ⟨_, (he s).trans (issue_ready h body), ?_⟩
  rw [hb, hbeg]
  obtain ⟨js, l, hl⟩ := used_next c i ((s.modFibres c.u.crew c.all fun _ f => m f).modFibres c.u.crew (is c) (g c))
  rw [hl]
  exact completes_fibres hc rfl (is c) (g c) (hg c) (hp c) hm js l

/-- An instruction whose effect writes the active fibres alone does just that. -/
theorem does_active {i : Instr} {body : Ctx → State → Eff} {g : Ctx → Nat → Fibre → Fibre}
    (he : ∀ s, exec i s = issue i body s) (hb : ∀ c s, body c s = .next (s.modFibres c.u.crew c.act (g c)))
    (hg : ∀ c p f w ps di dc ia, (g c p (f.marked w ps di dc ia)).face = (g c p f).face)
    (hp : ∀ c p f, (g c p f).pc = f.pc ∧ (g c p f).rep = f.rep) : Does i g :=
  fun _ _ _ _ h => does_fibres he Ctx.act g hb hg hp h

/-- An instruction whose effect, wherever `pre` holds, writes the active fibres alone does just that; what it writes may
depend on the state. -/
theorem answers_active {i : Instr} {body : Ctx → State → Eff} {g : Ctx → State → Nat → Fibre → Fibre}
    {pre : Ctx → State → Prop} (he : ∀ s, exec i s = issue i body s)
    (hb : ∀ c s pf, pre c s → body c (c.start pf s) = .next ((c.start pf s).modFibres c.u.crew c.act (g c s)))
    (hg : ∀ c s p f w ps di dc ia, (g c s p (f.marked w ps di dc ia)).face = (g c s p f).face)
    (hp : ∀ c s p f, (g c s p f).pc = f.pc ∧ (g c s p f).rep = f.rep) :
    Answers i pre (fun _ s => s) (fun c s p f => if p ∈ c.act then g c s p f else f) := by
  intro s u pf c h hpre
  obtain ⟨m, hm, hbeg⟩ := start_spec c pf s
  have hc := h.2.1
  refine ⟨_, (he s).trans (issue_ready h body), ?_⟩
  rw [hb c s pf hpre, hbeg]
  obtain ⟨js, l, hl⟩ := used_next c i ((s.modFibres c.u.crew c.all fun _ f => m f).modFibres c.u.crew c.act (g c s))
  rw [hl]
  exact completes_fibres hc rfl c.act (g c s) (hg c s) (hp c s) hm js l

end Sys2Proof.Machine
end

