-- ==== Sys2Proof/Laws/Keeps.lean ====
section
/-!
SUPPORT. The operations through which the machine reaches physical memory keep it in canonical form.
-/
namespace Sys2Proof.Machine

/-- Two states with the same memory are both canonical. -/
theorem canonical_of_mem {s t : State} (h : t.mem = s.mem) (hs : s.MemoryCanonical) : t.MemoryCanonical := by
  unfold State.MemoryCanonical at *; rwa [h]

theorem canonical_foldl {α : Type} (g : State → α → State) (h : ∀ s a, s.MemoryCanonical → (g s a).MemoryCanonical) :
    ∀ (l : List α) (s : State), s.MemoryCanonical → (l.foldl g s).MemoryCanonical
  | [], _, hs => hs
  | a :: l, s, hs => canonical_foldl g h l (g s a) (h s a hs)

/-! ## Writes and what follows them -/

theorem mem_foldl {α : Type} (g : State → α → State) (h : ∀ s a, (g s a).mem = s.mem) :
    ∀ (l : List α) (s : State), (l.foldl g s).mem = s.mem
  | [], _ => rfl
  | a :: l, s => (mem_foldl g h l (g s a)).trans (h s a)

@[simp] theorem mem_post (s : State) (w : Wake) : (s.post w).mem = s.mem := by
  unfold State.post; cases w <;> dsimp only <;> split <;> rfl

/-- The evaluation of WAITSIGs moves no byte. -/
@[simp] theorem mem_tellSignals (s : State) (pa n : Nat) : (s.tellSignals pa n).mem = s.mem :=
  mem_foldl _ (fun t _ => mem_post (t.modQueue _ _) _) _ s

theorem mem_releasing (s : State) (m : Mark) : (s.releasing m).1.mem = s.mem := by
  unfold State.releasing; split <;> rfl

/-- Whether a write enters coherence order before the newest one moves no byte. -/
theorem mem_passUnder (s : State) (m : Mark) (crew : Option Nat) (pa : Nat) (bs : List Byte) :
    (s.passUnder m crew pa bs).1.mem = s.mem := by
  unfold State.passUnder
  split
  · rfl
  · split
    · dsimp only; split <;> rfl
    · rfl

theorem canonical_storeOne (s : State) (m : Mark) (pa : Nat) (bs : List Byte) (h : s.MemoryCanonical) :
    (s.storeOne m pa bs).MemoryCanonical := by
  have h1 := canonical_of_mem (mem_passUnder s m none pa bs) h
  unfold State.storeOne
  split <;> rename_i t e <;> rw [e] at h1
  · exact h1
  · exact State.canonical_store t pa bs h1

/-- A store of any mark keeps memory canonical. -/
theorem canonical_storeAs (s : State) (m : Mark) (pa : Nat) (bs : List Byte) (h : s.MemoryCanonical) :
    (s.storeAs m pa bs).MemoryCanonical := by
  have h1 := canonical_of_mem (mem_releasing s m) h
  unfold State.storeAs
  split
  rename_i t m' e
  rw [e] at h1
  split
  · exact canonical_storeOne _ _ _ _ (canonical_storeOne _ _ _ _ h1)
  · exact canonical_storeOne _ _ _ _ h1

/-! ## Homes -/

theorem canonical_takeKey (s : State) (asid : Nat) (enc : Bool) (pa : Nat) (h : s.MemoryCanonical) :
    (s.takeKey asid enc pa).MemoryCanonical := by
  unfold State.takeKey
  split
  · dsimp only
    split
    · exact h
    · exact State.canonical_store s _ _ h
  · exact h

theorem canonical_mergeElement (s : State) (p : Partial) (h : s.MemoryCanonical) : (s.mergeElement p).MemoryCanonical :=
  canonical_of_mem (mem_tellSignals _ _ _) (canonical_storeAs _ _ _ _ (canonical_takeKey _ _ _ _ h))

theorem canonical_mergeLine (s : State) (line : Nat) (h : s.MemoryCanonical) : (s.mergeLine line).MemoryCanonical :=
  canonical_foldl _ (fun t p (ht : t.MemoryCanonical) => canonical_mergeElement { t with partials := t.partials.erase p } p ht) _ s h

theorem canonical_mergeLines (s : State) (pa n : Nat) (h : s.MemoryCanonical) : (s.mergeLines pa n).MemoryCanonical := by
  unfold State.mergeLines
  split
  · exact h
  · exact canonical_foldl _ (fun t i => canonical_mergeLine t _) _ s h

/-- A write of the device's own keeps memory canonical. -/
theorem canonical_put (s : State) (pa : Nat) (bs : List Byte) (h : s.MemoryCanonical) : (s.put pa bs).MemoryCanonical :=
  canonical_of_mem (mem_tellSignals _ _ _) (State.canonical_store _ _ _ (canonical_mergeLines _ _ _ h))

theorem canonical_put32 (s : State) (pa v : Nat) (h : s.MemoryCanonical) : (s.put32 pa v).MemoryCanonical :=
  canonical_put s pa _ h

theorem canonical_put64 (s : State) (pa v : Nat) (h : s.MemoryCanonical) : (s.put64 pa v).MemoryCanonical :=
  canonical_put s pa _ h

theorem canonical_evictSector (s : State) (line : Nat) (h : s.MemoryCanonical) : (s.evictSector line).MemoryCanonical := by
  have h1 := canonical_mergeLine s line h
  unfold State.evictSector
  dsimp only
  split
  · exact h1
  · exact canonical_of_mem rfl h1

theorem canonical_putWhole (s : State) (pa : Nat) (bs : List Byte) (h : s.MemoryCanonical) : (s.putWhole pa bs).MemoryCanonical :=
  canonical_of_mem (s := s.put pa bs) rfl (canonical_put s pa bs h)

/-- An entry of the error log keeps memory canonical. -/
theorem canonical_logEntry (s : State) (kind unit loc asid queue tag addr : Nat) (h : s.MemoryCanonical) :
    (s.logEntry kind unit loc asid queue tag addr).MemoryCanonical := by
  have h2 : ∀ bs, (s.ringEntry bs).MemoryCanonical := by
    intro bs
    unfold State.ringEntry
    split
    · exact h
    · exact canonical_put _ _ _ h
  exact h2 _

/-- Allocating a sector of L2, and evicting others for it, keeps memory canonical. -/
theorem canonical_touchSector (s : State) (mtype line : Nat) (write whole : Bool) (h : s.MemoryCanonical) :
    (s.touchSector mtype line write whole).MemoryCanonical := by
  unfold State.touchSector
  split
  · exact h
  · split
    · split <;> exact h
    · exact canonical_of_mem rfl (canonical_foldl _ canonical_evictSector _ s h)

/-! ## Translation -/

/-- Corrections of what a walk reads keep memory canonical. -/
theorem canonical_mendWalk (s : State) (core asid va : Nat) (h : s.MemoryCanonical) : (s.mendWalk core asid va).MemoryCanonical := by
  unfold State.mendWalk
  split
  · exact h
  · refine canonical_foldl _ (fun t p ht => ?_) _ _ (canonical_of_mem rfl h)
    split
    · exact canonical_logEntry _ _ _ _ _ _ _ _ ht
    · exact canonical_logEntry _ _ _ _ _ _ _ _ ht
    · exact ht

theorem canonical_orBit (s : State) (at_ b : Nat) (h : s.MemoryCanonical) : (s.orBit at_ b).MemoryCanonical := by
  unfold State.orBit
  dsimp only
  split
  · exact h
  · exact canonical_put64 _ _ _ h

theorem canonical_logDirty (s : State) (asid stage addr size : Nat) (h : s.MemoryCanonical) :
    (s.logDirty asid stage addr size).MemoryCanonical := by
  unfold State.logDirty
  split
  · dsimp only
    split
    · exact h
    · split
      · exact canonical_put32 _ _ _ h
      · exact canonical_put32 _ _ _ (canonical_put64 _ _ _ h)
  · exact h

theorem canonical_setDirty (s : State) (asid stage at_ addr size : Nat) (h : s.MemoryCanonical) :
    (s.setDirty asid stage at_ addr size).MemoryCanonical := by
  unfold State.setDirty
  split
  · exact h
  · exact canonical_orBit _ _ _ (canonical_logDirty _ _ _ _ _ h)

theorem canonical_setLeaves (s : State) (asid va leaf1 size1 : Nat) (leaf2 : Option (Nat × Nat × Nat))
    (h : s.MemoryCanonical) : (s.setLeaves asid va leaf1 size1 leaf2).MemoryCanonical := by
  unfold State.setLeaves
  split
  · exact canonical_setDirty _ _ _ _ _ _ (canonical_setDirty _ _ _ _ _ _ h)
  · exact canonical_setDirty _ _ _ _ _ _ h

theorem canonical_stage2A (s : State) (asid va : Nat) (need : Need) (h : s.MemoryCanonical) :
    (s.stage2A asid va need).MemoryCanonical :=
  canonical_foldl _ (fun t e => canonical_orBit t e 9) _ s h

theorem canonical_applyWalk (s : State) (asid va : Nat) (write : Bool) (w : Walk) (h : s.MemoryCanonical) :
    (s.applyWalk asid va write w).MemoryCanonical := by
  have h1 := canonical_foldl (fun t e => State.orBit t e 9) (fun t e => canonical_orBit t e 9) w.used s h
  unfold State.applyWalk
  dsimp only
  split
  · exact canonical_setLeaves _ _ _ _ _ _ h1
  · exact h1

theorem canonical_fillTlb (s : State) (core asid va : Nat) (need : Need) (h : s.MemoryCanonical) :
    (s.fillTlb core asid va need).1.MemoryCanonical := by
  have h1 := canonical_mendWalk s core asid va h
  unfold State.fillTlb
  dsimp only
  split
  · exact canonical_stage2A _ asid va need h1
  · exact canonical_applyWalk _ asid va need.write _ h1

theorem canonical_dirtyThrough (s : State) (core asid va : Nat) (need : Need) (e : TlbEntry) (h : s.MemoryCanonical) :
    (s.dirtyThrough core asid va need e).1.MemoryCanonical := by
  unfold State.dirtyThrough
  split
  · exact canonical_setLeaves s asid va e.leaf1 e.size1 e.leaf2 h
  · exact canonical_fillTlb s core asid va need h

/-- A translation keeps memory canonical. -/
theorem canonical_translate (s : State) (core asid va : Nat) (need : Need) (h : s.MemoryCanonical) :
    (s.translate core asid va need).1.MemoryCanonical := by
  have ht : ∀ e : TlbEntry, ∀ s : State, s.MemoryCanonical → (match e.tr.allows need with
      | some c => (s, Except.error c)
      | none => if need.write ∧ ¬ e.dirty then s.dirtyThrough core asid va need e
          else (s, Except.ok e.tr) : State × Except Nat Translation).1.MemoryCanonical := by
    intro e s h
    split
    · exact h
    · split
      · exact canonical_dirtyThrough s core asid va need e h
      · exact h
  unfold State.translate
  split
  · exact canonical_fillTlb _ _ _ _ _ h
  · rename_i e _
    dsimp only
    split
    · exact ht e s h
    · split
      · exact canonical_fillTlb _ _ _ _ _ h
      · exact ht e s.draw h

theorem canonical_keepWalks (s t : State) (asid : Nat) (vas : List Nat) (h : s.MemoryCanonical) :
    (s.keepWalks t asid vas).MemoryCanonical :=
  canonical_foldl _ (fun t e => canonical_orBit t e 9) _ _ h

/-! ## Reads and writes at a home -/

theorem canonical_homeRead (s : State) (asid : Nat) (tr : Translation) (pa n : Nat) (h : s.MemoryCanonical) :
    (s.homeRead asid tr pa n).1.MemoryCanonical :=
  canonical_touchSector _ _ _ _ _ (canonical_mergeLine s _ h)

theorem canonical_mergeGranule (s : State) (pa : Nat) (h : s.MemoryCanonical) : (s.mergeGranule pa).MemoryCanonical :=
  canonical_foldl _ canonical_mergeLine _ s h

theorem canonical_snapshot (s : State) (asid pa : Nat) (h : s.MemoryCanonical) :
    (s.snapshotGranule asid pa).1.MemoryCanonical := by
  unfold State.snapshotGranule
  split
  · exact h
  · dsimp only
    split
    · exact h
    · split
      · exact h
      · exact canonical_put32 _ _ _ (canonical_put _ _ _ (canonical_putWhole _ _ _ h))

theorem canonical_logError (s : State) (kind unit loc asid queue tag addr : Nat) (h : s.MemoryCanonical) :
    (s.logError kind unit loc asid queue tag addr).MemoryCanonical := by
  have h1 : (s.orderTest kind unit loc addr).MemoryCanonical :=
    canonical_of_mem (by unfold State.orderTest; split <;> rfl) h
  exact canonical_logEntry _ _ _ _ _ _ _ _ h1

theorem canonical_logCrew (s : State) (kind unit c addr : Nat) (h : s.MemoryCanonical) :
    (s.logCrew kind unit c addr).MemoryCanonical := by
  unfold State.logCrew
  split
  · exact h
  · exact canonical_logError _ _ _ _ _ _ _ _ h

theorem canonical_snapshotFirst (s : State) (c asid : Nat) (tr : Translation) (pa : Nat) (h : s.MemoryCanonical) :
    (s.snapshotFirst c asid tr pa).MemoryCanonical := by
  have hs := canonical_snapshot _ asid pa (canonical_mergeGranule s pa h)
  unfold State.snapshotFirst
  split
  · split <;> rename_i t e <;> rw [e] at hs
    · exact hs
    · exact canonical_logCrew t 7 0 c pa hs
  · exact h

@[simp] theorem mem_cleanSectors (s : State) (pa n : Nat) : (s.cleanSectors pa n).mem = s.mem := by
  unfold State.cleanSectors; dsimp only; split <;> rfl

@[simp] theorem mem_markNext (s : State) (mode line : Nat) : (s.markNext mode line).mem = s.mem := by
  unfold State.markNext; split <;> rfl

theorem mem_hear (s : State) (q : FibreId) (ts : List Tag) : (s.hear q ts).mem = s.mem := by
  unfold State.hear; split <;> rfl

/-- What loads that are still early return of a write moves no byte. -/
@[simp] theorem mem_reach (s : State) (who : Option FibreId) (crew : Option Nat) (pa n : Nat)
    (now : State → Early → Option (List Byte)) : (s.reach who crew pa n now).mem = s.mem := by
  unfold State.reach
  dsimp only
  split
  · rfl
  · refine (mem_foldl _ (fun t e => ?_) _ _).trans rfl
    split
    · rfl
    · split
      · exact (mem_hear _ _ _).trans rfl
      · unfold State.sawAll
        split
        · exact (mem_hear _ _ _).trans rfl
        · rfl

/-- A write performed at its home keeps memory canonical. -/
theorem canonical_homeWrite (s : State) (c core asid : Nat) (m : Mark) (tr : Translation) (pa mode : Nat)
    (bs : List Byte) (h : s.MemoryCanonical) : (s.homeWrite c core asid m tr pa mode bs).MemoryCanonical := by
  unfold State.homeWrite
  dsimp only
  refine canonical_of_mem ((mem_tellSignals _ _ _).trans (mem_reach _ _ _ _ _ _)) ?_
  have hm := canonical_touchSector _ tr.mtype (pa / 64) true (decide (pa % 64 = 0) && decide (bs.length = 64))
    (canonical_takeKey _ asid tr.enc pa (canonical_mergeLine _ (pa / 64) (canonical_snapshotFirst s c asid tr pa h)))
  split
  all_goals exact canonical_of_mem (mem_cleanSectors _ _ _) (canonical_storeAs _ _ _ _ (canonical_of_mem (mem_markNext _ _ _) hm))

/-! ## Bytes that the device writes -/

theorem canonical_deviceStore (s : State) (core asid : Nat) (tr : Translation) (pa : Nat) (bs : List Byte)
    (h : s.MemoryCanonical) : (s.deviceStore core asid tr pa bs).MemoryCanonical := by
  unfold State.deviceStore
  dsimp only
  refine canonical_of_mem ((mem_tellSignals _ _ _).trans (mem_cleanSectors _ _ _)) ?_
  exact State.canonical_store _ pa bs (canonical_foldl _ (fun t n ht => canonical_touchSector t _ _ _ _ ht) _ _
    (canonical_foldl _ (fun t n ht => canonical_takeKey _ _ _ _ (canonical_mergeLine t n ht)) _ s h))

/-- What an agent that is no core meets keeps memory canonical. -/
theorem canonical_devMeets (s : State) (asid pa n : Nat) (h : s.MemoryCanonical) : (s.devMeets asid pa n).MemoryCanonical := by
  have hl : ∀ (t : State) (unit : Nat) (x : Nat), t.MemoryCanonical → (t.logAgent unit asid 0 0 x).MemoryCanonical := by
    intro t unit x ht
    refine canonical_logEntry _ _ _ _ _ _ _ _ (canonical_of_mem ?_ ht)
    unfold State.orderTest; split <;> rfl
  unfold State.devMeets
  dsimp only
  split <;> split
  · exact hl _ _ _ (canonical_logEntry _ _ _ _ _ _ _ _ h)
  · exact hl _ _ _ h
  · exact canonical_logEntry _ _ _ _ _ _ _ _ h
  · exact h

/-- A read by the device itself keeps memory canonical. -/
theorem canonical_peeked (s : State) (asid va : Nat) (h : s.MemoryCanonical) : (s.peeked asid va).MemoryCanonical := by
  refine canonical_stage2A _ _ _ _ ?_
  unfold State.devReadMeets
  split
  · exact h
  · exact canonical_foldl _ (fun t x ht => canonical_devMeets t asid _ _ ht) _ s h

theorem canonical_peekedAll (s : State) (asid : Nat) (vas : List Nat) (h : s.MemoryCanonical) :
    (s.peekedAll asid vas).MemoryCanonical := canonical_foldl _ (fun t va ht => canonical_peeked t asid va ht) _ s h

/-- Bytes that the device writes to a virtual address keep memory canonical. -/
theorem canonical_poke (core asid : Nat) : ∀ (fuel : Nat) (s : State) (va : Nat) (bs : List Byte), s.MemoryCanonical →
    (s.poke core asid va fuel bs).MemoryCanonical
  | 0, _, _, _, h => h
  | fuel + 1, s, va, bs, h => by
    unfold State.poke
    split
    · exact h
    · refine canonical_poke core asid fuel _ _ _ ?_
      split
      · exact canonical_peeked s asid _ h
      · exact canonical_deviceStore _ _ _ _ _ _ (canonical_applyWalk _ _ _ _ _ h)

/-! ## Coming to rest -/

theorem canonical_settle (s : State) (u : UnitId) (h : s.MemoryCanonical) : (s.settle u).MemoryCanonical := h

theorem canonical_begin (c : Ctx) (pf : Prefix) (s : State) (h : s.MemoryCanonical) : (c.begin pf s).MemoryCanonical := by
  refine canonical_of_mem ?_ h
  unfold Ctx.begin; dsimp only; split <;> split <;> rfl

end Sys2Proof.Machine
end

