-- ==== Sys2Proof/Laws/PerInstr.lean ====
section
/-!
SUPPORT. How many words every instruction is encoded in: one in Plimus-D, an extension word and a base word in Plimus-L,
none for an event (R46, R50). One lemma for each constructor.
-/
namespace Sys2Proof.Laws.Encodes

/-- The words of an instruction's encoding, with any prefix. -/
def Statement (i : Instr) : Prop :=
  ∀ pf, match i.info.text with
    | .d => ∃ w, encode pf i = some [w]
    | .l => ∃ x w, encode pf i = some [x, w]
    | .event => encode pf i = none

theorem moviD (d : BitVec 6) (i : BitVec 19) : Statement (.moviD d i) := fun _ => ⟨_, rfl⟩
theorem movhiD (d : BitVec 6) (i : BitVec 13) : Statement (.movhiD d i) := fun _ => ⟨_, rfl⟩
theorem movD (d : BitVec 6) (a : BitVec 6) (s : BitVec 3) : Statement (.movD d a s) := fun _ => ⟨_, rfl⟩
theorem sreadD (d : BitVec 6) (x : BitVec 9) : Statement (.sreadD d x) := fun _ => ⟨_, rfl⟩
theorem swriteD (a : BitVec 6) (x : BitVec 9) : Statement (.swriteD a x) := fun _ => ⟨_, rfl⟩
theorem repD (c : BitVec 6) (d : BitVec 2) (a : BitVec 2) (b : BitVec 2) (e : BitVec 2) : Statement (.repD c d a b e) := fun _ => ⟨_, rfl⟩
theorem braD (o : BitVec 21) : Statement (.braD o) := fun _ => ⟨_, rfl⟩
theorem callD (o : BitVec 21) : Statement (.callD o) := fun _ => ⟨_, rfl⟩
theorem brxD (a : BitVec 6) (c : BitVec 1) : Statement (.brxD a c) := fun _ => ⟨_, rfl⟩
theorem retD (a : BitVec 6) : Statement (.retD a) := fun _ => ⟨_, rfl⟩
theorem forkD (a : BitVec 6) (n : BitVec 4) : Statement (.forkD a n) := fun _ => ⟨_, rfl⟩
theorem forkTryD (p : BitVec 6) (a : BitVec 6) (n : BitVec 4) : Statement (.forkTryD p a n) := fun _ => ⟨_, rfl⟩
theorem trapD (x : BitVec 9) : Statement (.trapD x) := fun _ => ⟨_, rfl⟩
theorem syscD (x : BitVec 9) : Statement (.syscD x) := fun _ => ⟨_, rfl⟩
theorem iaddD (d : BitVec 6) (a : BitVec 6) (b : BitVec 6) (s : BitVec 3) : Statement (.iaddD d a b s) := fun _ => ⟨_, rfl⟩
theorem isubD (d : BitVec 6) (a : BitVec 6) (b : BitVec 6) (s : BitVec 3) : Statement (.isubD d a b s) := fun _ => ⟨_, rfl⟩
theorem imulD (d : BitVec 6) (a : BitVec 6) (b : BitVec 6) (s : BitVec 3) : Statement (.imulD d a b s) := fun _ => ⟨_, rfl⟩
theorem imadD (d : BitVec 6) (a : BitVec 6) (b : BitVec 6) : Statement (.imadD d a b) := fun _ => ⟨_, rfl⟩
theorem idivD (d : BitVec 6) (a : BitVec 6) (b : BitVec 6) (s : BitVec 3) : Statement (.idivD d a b s) := fun _ => ⟨_, rfl⟩
theorem iremD (d : BitVec 6) (a : BitVec 6) (b : BitVec 6) (s : BitVec 3) : Statement (.iremD d a b s) := fun _ => ⟨_, rfl⟩
theorem iminD (d : BitVec 6) (a : BitVec 6) (b : BitVec 6) (s : BitVec 3) : Statement (.iminD d a b s) := fun _ => ⟨_, rfl⟩
theorem imaxD (d : BitVec 6) (a : BitVec 6) (b : BitVec 6) (s : BitVec 3) : Statement (.imaxD d a b s) := fun _ => ⟨_, rfl⟩
theorem andD (d : BitVec 6) (a : BitVec 6) (b : BitVec 6) : Statement (.andD d a b) := fun _ => ⟨_, rfl⟩
theorem orD (d : BitVec 6) (a : BitVec 6) (b : BitVec 6) : Statement (.orD d a b) := fun _ => ⟨_, rfl⟩
theorem xorD (d : BitVec 6) (a : BitVec 6) (b : BitVec 6) : Statement (.xorD d a b) := fun _ => ⟨_, rfl⟩
theorem andnD (d : BitVec 6) (a : BitVec 6) (b : BitVec 6) : Statement (.andnD d a b) := fun _ => ⟨_, rfl⟩
theorem shlD (d : BitVec 6) (a : BitVec 6) (b : BitVec 6) (s : BitVec 3) : Statement (.shlD d a b s) := fun _ => ⟨_, rfl⟩
theorem shrD (d : BitVec 6) (a : BitVec 6) (b : BitVec 6) (s : BitVec 3) : Statement (.shrD d a b s) := fun _ => ⟨_, rfl⟩
theorem rotlD (d : BitVec 6) (a : BitVec 6) (b : BitVec 6) : Statement (.rotlD d a b) := fun _ => ⟨_, rfl⟩
theorem bfxD (d : BitVec 6) (a : BitVec 6) (b : BitVec 6) (s : BitVec 3) : Statement (.bfxD d a b s) := fun _ => ⟨_, rfl⟩
theorem iaddiD (d : BitVec 6) (a : BitVec 6) (i : BitVec 9) : Statement (.iaddiD d a i) := fun _ => ⟨_, rfl⟩
theorem andiD (d : BitVec 6) (a : BitVec 6) (i : BitVec 9) : Statement (.andiD d a i) := fun _ => ⟨_, rfl⟩
theorem oriD (d : BitVec 6) (a : BitVec 6) (i : BitVec 9) : Statement (.oriD d a i) := fun _ => ⟨_, rfl⟩
theorem xoriD (d : BitVec 6) (a : BitVec 6) (i : BitVec 9) : Statement (.xoriD d a i) := fun _ => ⟨_, rfl⟩
theorem shliD (d : BitVec 6) (a : BitVec 6) (i : BitVec 5) : Statement (.shliD d a i) := fun _ => ⟨_, rfl⟩
theorem shriD (d : BitVec 6) (a : BitVec 6) (h : BitVec 1) (i : BitVec 5) : Statement (.shriD d a h i) := fun _ => ⟨_, rfl⟩
theorem imuliD (d : BitVec 6) (a : BitVec 6) (i : BitVec 9) : Statement (.imuliD d a i) := fun _ => ⟨_, rfl⟩
theorem leaD (d : BitVec 6) (a : BitVec 6) (b : BitVec 6) (s : BitVec 3) : Statement (.leaD d a b s) := fun _ => ⟨_, rfl⟩
theorem bfiD (d : BitVec 6) (a : BitVec 6) (b : BitVec 6) : Statement (.bfiD d a b) := fun _ => ⟨_, rfl⟩
theorem popcD (d : BitVec 6) (a : BitVec 6) : Statement (.popcD d a) := fun _ => ⟨_, rfl⟩
theorem clzD (d : BitVec 6) (a : BitVec 6) : Statement (.clzD d a) := fun _ => ⟨_, rfl⟩
theorem brevD (d : BitVec 6) (a : BitVec 6) : Statement (.brevD d a) := fun _ => ⟨_, rfl⟩
theorem iabsD (d : BitVec 6) (a : BitVec 6) : Statement (.iabsD d a) := fun _ => ⟨_, rfl⟩
theorem selD (d : BitVec 6) (a : BitVec 6) (b : BitVec 6) (s : BitVec 3) : Statement (.selD d a b s) := fun _ => ⟨_, rfl⟩
theorem icmpD (p : BitVec 7) (a : BitVec 6) (b : BitVec 6) (c : BitVec 2) : Statement (.icmpD p a b c) := fun _ => ⟨_, rfl⟩
theorem icmpuD (p : BitVec 7) (a : BitVec 6) (b : BitVec 6) (c : BitVec 2) : Statement (.icmpuD p a b c) := fun _ => ⟨_, rfl⟩
theorem faddD (d : BitVec 6) (a : BitVec 6) (b : BitVec 6) (s : BitVec 3) : Statement (.faddD d a b s) := fun _ => ⟨_, rfl⟩
theorem fsubD (d : BitVec 6) (a : BitVec 6) (b : BitVec 6) (s : BitVec 3) : Statement (.fsubD d a b s) := fun _ => ⟨_, rfl⟩
theorem fmulD (d : BitVec 6) (a : BitVec 6) (b : BitVec 6) (s : BitVec 3) : Statement (.fmulD d a b s) := fun _ => ⟨_, rfl⟩
theorem ffmaD (d : BitVec 6) (a : BitVec 6) (b : BitVec 6) (s : BitVec 3) : Statement (.ffmaD d a b s) := fun _ => ⟨_, rfl⟩
theorem fminD (d : BitVec 6) (a : BitVec 6) (b : BitVec 6) (s : BitVec 3) : Statement (.fminD d a b s) := fun _ => ⟨_, rfl⟩
theorem fmaxD (d : BitVec 6) (a : BitVec 6) (b : BitVec 6) (s : BitVec 3) : Statement (.fmaxD d a b s) := fun _ => ⟨_, rfl⟩
theorem fcmpD (p : BitVec 7) (a : BitVec 6) (b : BitVec 6) (c : BitVec 2) : Statement (.fcmpD p a b c) := fun _ => ⟨_, rfl⟩
theorem fcmpxD (p : BitVec 7) (a : BitVec 6) (b : BitVec 6) (c : BitVec 2) : Statement (.fcmpxD p a b c) := fun _ => ⟨_, rfl⟩
theorem fspfD (d : BitVec 6) (a : BitVec 6) (s : BitVec 3) : Statement (.fspfD d a s) := fun _ => ⟨_, rfl⟩
theorem fsgnD (d : BitVec 6) (a : BitVec 6) (b : BitVec 6) (s : BitVec 3) : Statement (.fsgnD d a b s) := fun _ => ⟨_, rfl⟩
theorem hadd2D (d : BitVec 6) (a : BitVec 6) (b : BitVec 6) (s : BitVec 3) : Statement (.hadd2D d a b s) := fun _ => ⟨_, rfl⟩
theorem hmul2D (d : BitVec 6) (a : BitVec 6) (b : BitVec 6) (s : BitVec 3) : Statement (.hmul2D d a b s) := fun _ => ⟨_, rfl⟩
theorem hfma2D (d : BitVec 6) (a : BitVec 6) (b : BitVec 6) (s : BitVec 3) : Statement (.hfma2D d a b s) := fun _ => ⟨_, rfl⟩
theorem hmnx2D (d : BitVec 6) (a : BitVec 6) (b : BitVec 6) (y : BitVec 1) (t : BitVec 1) : Statement (.hmnx2D d a b y t) := fun _ => ⟨_, rfl⟩
theorem cvtD (d : BitVec 6) (a : BitVec 6) (f : BitVec 3) (h : BitVec 3) (m : BitVec 3) : Statement (.cvtD d a f h m) := fun _ => ⟨_, rfl⟩
theorem pkbD (d : BitVec 6) (a : BitVec 6) (w : BitVec 1) (n : BitVec 2) : Statement (.pkbD d a w n) := fun _ => ⟨_, rfl⟩
theorem shflD (d : BitVec 6) (a : BitVec 6) (b : BitVec 6) (s : BitVec 3) : Statement (.shflD d a b s) := fun _ => ⟨_, rfl⟩
theorem vanyD (p : BitVec 7) (q : BitVec 7) (r : BitVec 7) : Statement (.vanyD p q r) := fun _ => ⟨_, rfl⟩
theorem vallD (p : BitVec 7) (q : BitVec 7) (r : BitVec 7) : Statement (.vallD p q r) := fun _ => ⟨_, rfl⟩
theorem vbalD (d : BitVec 6) (p : BitVec 7) : Statement (.vbalD d p) := fun _ => ⟨_, rfl⟩
theorem redlD (d : BitVec 6) (a : BitVec 6) (s : BitVec 3) : Statement (.redlD d a s) := fun _ => ⟨_, rfl⟩
theorem setpartD (x : BitVec 9) : Statement (.setpartD x) := fun _ => ⟨_, rfl⟩
theorem pandD (p : BitVec 7) (q : BitVec 7) (r : BitVec 7) : Statement (.pandD p q r) := fun _ => ⟨_, rfl⟩
theorem porD (p : BitVec 7) (q : BitVec 7) (r : BitVec 7) : Statement (.porD p q r) := fun _ => ⟨_, rfl⟩
theorem pxorD (p : BitVec 7) (q : BitVec 7) (r : BitVec 7) : Statement (.pxorD p q r) := fun _ => ⟨_, rfl⟩
theorem pandnD (p : BitVec 7) (q : BitVec 7) (r : BitVec 7) : Statement (.pandnD p q r) := fun _ => ⟨_, rfl⟩
theorem prdD (d : BitVec 6) (x : BitVec 9) : Statement (.prdD d x) := fun _ => ⟨_, rfl⟩
theorem pwrD (a : BitVec 6) (x : BitVec 9) : Statement (.pwrD a x) := fun _ => ⟨_, rfl⟩
theorem stkrdD (p : BitVec 7) (a : BitVec 6) : Statement (.stkrdD p a) := fun _ => ⟨_, rfl⟩
theorem stksetD (d : BitVec 6) (a : BitVec 6) (x : BitVec 9) : Statement (.stksetD d a x) := fun _ => ⟨_, rfl⟩
theorem ldD (d : BitVec 6) (a : BitVec 6) (z : BitVec 3) (m : BitVec 2) (o : BitVec 4) : Statement (.ldD d a z m o) := fun _ => ⟨_, rfl⟩
theorem stD (d : BitVec 6) (a : BitVec 6) (z : BitVec 3) (m : BitVec 2) (o : BitVec 4) : Statement (.stD d a z m o) := fun _ => ⟨_, rfl⟩
theorem ldsD (d : BitVec 6) (a : BitVec 6) (z : BitVec 3) (m : BitVec 2) (o : BitVec 4) : Statement (.ldsD d a z m o) := fun _ => ⟨_, rfl⟩
theorem stsD (d : BitVec 6) (a : BitVec 6) (z : BitVec 3) (m : BitVec 2) (o : BitVec 4) : Statement (.stsD d a z m o) := fun _ => ⟨_, rfl⟩
theorem ldaqD (d : BitVec 6) (a : BitVec 6) (z : BitVec 3) (k : BitVec 3) (o : BitVec 3) : Statement (.ldaqD d a z k o) := fun _ => ⟨_, rfl⟩
theorem strlD (d : BitVec 6) (a : BitVec 6) (z : BitVec 3) (k : BitVec 3) (o : BitVec 3) : Statement (.strlD d a z k o) := fun _ => ⟨_, rfl⟩
theorem atomD (d : BitVec 6) (a : BitVec 6) (b : BitVec 6) (s : BitVec 3) : Statement (.atomD d a b s) := fun _ => ⟨_, rfl⟩
theorem atomsD (d : BitVec 6) (a : BitVec 6) (b : BitVec 6) (s : BitVec 3) : Statement (.atomsD d a b s) := fun _ => ⟨_, rfl⟩
theorem fenceD (e : BitVec 1) (k : BitVec 2) (c : BitVec 3) : Statement (.fenceD e k c) := fun _ => ⟨_, rfl⟩
theorem prefD (a : BitVec 6) (m : BitVec 2) (o : BitVec 4) : Statement (.prefD a m o) := fun _ => ⟨_, rfl⟩
theorem iprefD (o : BitVec 21) : Statement (.iprefD o) := fun _ => ⟨_, rfl⟩
theorem xlqD (d : BitVec 6) (a : BitVec 6) : Statement (.xlqD d a) := fun _ => ⟨_, rfl⟩
theorem stxD (d : BitVec 6) (a : BitVec 6) (m : BitVec 2) (o : BitVec 4) : Statement (.stxD d a m o) := fun _ => ⟨_, rfl⟩
theorem ldxD (d : BitVec 6) (a : BitVec 6) (m : BitVec 2) (o : BitVec 4) : Statement (.ldxD d a m o) := fun _ => ⟨_, rfl⟩
theorem stcD (d : BitVec 6) (a : BitVec 6) (f : BitVec 3) (e : BitVec 3) (o : BitVec 3) : Statement (.stcD d a f e o) := fun _ => ⟨_, rfl⟩
theorem cpaD (a : BitVec 6) (b : BitVec 6) (n : BitVec 2) (t : BitVec 3) (s : BitVec 4) : Statement (.cpaD a b n t s) := fun _ => ⟨_, rfl⟩
theorem waittD (k : BitVec 8) : Statement (.waittD k) := fun _ => ⟨_, rfl⟩
theorem tokqD (p : BitVec 7) (a : BitVec 6) (c : BitVec 2) : Statement (.tokqD p a c) := fun _ => ⟨_, rfl⟩
theorem mmaf8aD (a : BitVec 6) (t : BitVec 3) : Statement (.mmaf8aD a t) := fun _ => ⟨_, rfl⟩
theorem mmaf8bD (a : BitVec 6) (t : BitVec 3) : Statement (.mmaf8bD a t) := fun _ => ⟨_, rfl⟩
theorem mmak8D (a : BitVec 6) (b : BitVec 6) (n : BitVec 2) (t : BitVec 3) : Statement (.mmak8D a b n t) := fun _ => ⟨_, rfl⟩
theorem mmab16D (a : BitVec 6) (t : BitVec 3) : Statement (.mmab16D a t) := fun _ => ⟨_, rfl⟩
theorem mmah16D (a : BitVec 6) (t : BitVec 3) : Statement (.mmah16D a t) := fun _ => ⟨_, rfl⟩
theorem mmai8D (a : BitVec 6) (t : BitVec 3) : Statement (.mmai8D a t) := fun _ => ⟨_, rfl⟩
theorem accrdD (d : BitVec 6) (a : BitVec 6) (f : BitVec 3) (e : BitVec 3) : Statement (.accrdD d a f e) := fun _ => ⟨_, rfl⟩
theorem accwrD (d : BitVec 6) (a : BitVec 6) : Statement (.accwrD d a) := fun _ => ⟨_, rfl⟩
theorem acczD (n : BitVec 7) : Statement (.acczD n) := fun _ => ⟨_, rfl⟩
theorem accstD (a : BitVec 6) (t : BitVec 3) : Statement (.accstD a t) := fun _ => ⟨_, rfl⟩
theorem pliD (d : BitVec 6) (a : BitVec 6) (b : BitVec 6) (s : BitVec 3) : Statement (.pliD d a b s) := fun _ => ⟨_, rfl⟩
theorem plfD (d : BitVec 6) (a : BitVec 6) (b : BitVec 6) (s : BitVec 3) : Statement (.plfD d a b s) := fun _ => ⟨_, rfl⟩
theorem plredD (d : BitVec 6) (a : BitVec 6) (s : BitVec 3) : Statement (.plredD d a s) := fun _ => ⟨_, rfl⟩
theorem regacqWaitD (n : BitVec 4) : Statement (.regacqWaitD n) := fun _ => ⟨_, rfl⟩
theorem regacqTryD (p : BitVec 6) (n : BitVec 4) : Statement (.regacqTryD p n) := fun _ => ⟨_, rfl⟩
theorem regrelD (n : BitVec 4) : Statement (.regrelD n) := fun _ => ⟨_, rfl⟩
theorem migrD (k : BitVec 1) : Statement (.migrD k) := fun _ => ⟨_, rfl⟩
theorem barD (n : BitVec 4) : Statement (.barD n) := fun _ => ⟨_, rfl⟩
theorem arvD (d : BitVec 6) (a : BitVec 6) (b : BitVec 6) : Statement (.arvD d a b) := fun _ => ⟨_, rfl⟩
theorem awtD (d : BitVec 6) (a : BitVec 6) (b : BitVec 6) : Statement (.awtD d a b) := fun _ => ⟨_, rfl⟩
theorem brdD (d : BitVec 6) (k : BitVec 6) : Statement (.brdD d k) := fun _ => ⟨_, rfl⟩
theorem bwrD (a : BitVec 6) (k : BitVec 6) : Statement (.bwrD a k) := fun _ => ⟨_, rfl⟩
theorem batomD (d : BitVec 6) (a : BitVec 6) (o : BitVec 3) (k : BitVec 6) : Statement (.batomD d a o k) := fun _ => ⟨_, rfl⟩
theorem featqD (d : BitVec 6) (x : BitVec 9) : Statement (.featqD d x) := fun _ => ⟨_, rfl⟩
theorem chunkD (d : BitVec 6) (a : BitVec 6) : Statement (.chunkD d a) := fun _ => ⟨_, rfl⟩
theorem moviL (d : BitVec 8) (i : BitVec 19) : Statement (.moviL d i) := fun _ => ⟨_, _, rfl⟩
theorem movhiL (d : BitVec 8) (i : BitVec 13) : Statement (.movhiL d i) := fun _ => ⟨_, _, rfl⟩
theorem movL (d : BitVec 8) (a : BitVec 8) (s : BitVec 3) : Statement (.movL d a s) := fun _ => ⟨_, _, rfl⟩
theorem sreadL (d : BitVec 8) (x : BitVec 9) : Statement (.sreadL d x) := fun _ => ⟨_, _, rfl⟩
theorem swriteL (a : BitVec 8) (x : BitVec 9) : Statement (.swriteL a x) := fun _ => ⟨_, _, rfl⟩
theorem repL (c : BitVec 6) (d : BitVec 2) (a : BitVec 2) (b : BitVec 2) (e : BitVec 2) : Statement (.repL c d a b e) := fun _ => ⟨_, _, rfl⟩
theorem braL (o : BitVec 21) : Statement (.braL o) := fun _ => ⟨_, _, rfl⟩
theorem callL (o : BitVec 21) : Statement (.callL o) := fun _ => ⟨_, _, rfl⟩
theorem brxL (a : BitVec 8) (c : BitVec 1) : Statement (.brxL a c) := fun _ => ⟨_, _, rfl⟩
theorem retL (a : BitVec 8) : Statement (.retL a) := fun _ => ⟨_, _, rfl⟩
theorem forkL (a : BitVec 8) (n : BitVec 4) : Statement (.forkL a n) := fun _ => ⟨_, _, rfl⟩
theorem forkTryL (p : BitVec 8) (a : BitVec 8) (n : BitVec 4) : Statement (.forkTryL p a n) := fun _ => ⟨_, _, rfl⟩
theorem trapL (x : BitVec 9) : Statement (.trapL x) := fun _ => ⟨_, _, rfl⟩
theorem syscL (x : BitVec 9) : Statement (.syscL x) := fun _ => ⟨_, _, rfl⟩
theorem iaddL (d : BitVec 8) (a : BitVec 8) (b : BitVec 8) (s : BitVec 3) : Statement (.iaddL d a b s) := fun _ => ⟨_, _, rfl⟩
theorem isubL (d : BitVec 8) (a : BitVec 8) (b : BitVec 8) (s : BitVec 3) : Statement (.isubL d a b s) := fun _ => ⟨_, _, rfl⟩
theorem imulL (d : BitVec 8) (a : BitVec 8) (b : BitVec 8) (s : BitVec 3) : Statement (.imulL d a b s) := fun _ => ⟨_, _, rfl⟩
theorem imadL (d : BitVec 8) (a : BitVec 8) (b : BitVec 8) (c : BitVec 8) : Statement (.imadL d a b c) := fun _ => ⟨_, _, rfl⟩
theorem idivL (d : BitVec 8) (a : BitVec 8) (b : BitVec 8) (s : BitVec 3) : Statement (.idivL d a b s) := fun _ => ⟨_, _, rfl⟩
theorem iremL (d : BitVec 8) (a : BitVec 8) (b : BitVec 8) (s : BitVec 3) : Statement (.iremL d a b s) := fun _ => ⟨_, _, rfl⟩
theorem iminL (d : BitVec 8) (a : BitVec 8) (b : BitVec 8) (s : BitVec 3) : Statement (.iminL d a b s) := fun _ => ⟨_, _, rfl⟩
theorem imaxL (d : BitVec 8) (a : BitVec 8) (b : BitVec 8) (s : BitVec 3) : Statement (.imaxL d a b s) := fun _ => ⟨_, _, rfl⟩
theorem andL (d : BitVec 8) (a : BitVec 8) (b : BitVec 8) : Statement (.andL d a b) := fun _ => ⟨_, _, rfl⟩
theorem orL (d : BitVec 8) (a : BitVec 8) (b : BitVec 8) : Statement (.orL d a b) := fun _ => ⟨_, _, rfl⟩
theorem xorL (d : BitVec 8) (a : BitVec 8) (b : BitVec 8) : Statement (.xorL d a b) := fun _ => ⟨_, _, rfl⟩
theorem andnL (d : BitVec 8) (a : BitVec 8) (b : BitVec 8) : Statement (.andnL d a b) := fun _ => ⟨_, _, rfl⟩
theorem shlL (d : BitVec 8) (a : BitVec 8) (b : BitVec 8) (s : BitVec 3) : Statement (.shlL d a b s) := fun _ => ⟨_, _, rfl⟩
theorem shrL (d : BitVec 8) (a : BitVec 8) (b : BitVec 8) (s : BitVec 3) : Statement (.shrL d a b s) := fun _ => ⟨_, _, rfl⟩
theorem rotlL (d : BitVec 8) (a : BitVec 8) (b : BitVec 8) : Statement (.rotlL d a b) := fun _ => ⟨_, _, rfl⟩
theorem bfxL (d : BitVec 8) (a : BitVec 8) (b : BitVec 8) (s : BitVec 3) : Statement (.bfxL d a b s) := fun _ => ⟨_, _, rfl⟩
theorem iaddiL (d : BitVec 8) (a : BitVec 8) (i : BitVec 9) : Statement (.iaddiL d a i) := fun _ => ⟨_, _, rfl⟩
theorem andiL (d : BitVec 8) (a : BitVec 8) (i : BitVec 9) : Statement (.andiL d a i) := fun _ => ⟨_, _, rfl⟩
theorem oriL (d : BitVec 8) (a : BitVec 8) (i : BitVec 9) : Statement (.oriL d a i) := fun _ => ⟨_, _, rfl⟩
theorem xoriL (d : BitVec 8) (a : BitVec 8) (i : BitVec 9) : Statement (.xoriL d a i) := fun _ => ⟨_, _, rfl⟩
theorem shliL (d : BitVec 8) (a : BitVec 8) (i : BitVec 5) : Statement (.shliL d a i) := fun _ => ⟨_, _, rfl⟩
theorem shriL (d : BitVec 8) (a : BitVec 8) (h : BitVec 1) (i : BitVec 5) : Statement (.shriL d a h i) := fun _ => ⟨_, _, rfl⟩
theorem imuliL (d : BitVec 8) (a : BitVec 8) (i : BitVec 9) : Statement (.imuliL d a i) := fun _ => ⟨_, _, rfl⟩
theorem leaL (d : BitVec 8) (a : BitVec 8) (b : BitVec 8) (s : BitVec 3) : Statement (.leaL d a b s) := fun _ => ⟨_, _, rfl⟩
theorem bfiL (d : BitVec 8) (a : BitVec 8) (b : BitVec 8) : Statement (.bfiL d a b) := fun _ => ⟨_, _, rfl⟩
theorem popcL (d : BitVec 8) (a : BitVec 8) : Statement (.popcL d a) := fun _ => ⟨_, _, rfl⟩
theorem clzL (d : BitVec 8) (a : BitVec 8) : Statement (.clzL d a) := fun _ => ⟨_, _, rfl⟩
theorem brevL (d : BitVec 8) (a : BitVec 8) : Statement (.brevL d a) := fun _ => ⟨_, _, rfl⟩
theorem iabsL (d : BitVec 8) (a : BitVec 8) : Statement (.iabsL d a) := fun _ => ⟨_, _, rfl⟩
theorem selL (d : BitVec 8) (a : BitVec 8) (b : BitVec 8) (s : BitVec 3) : Statement (.selL d a b s) := fun _ => ⟨_, _, rfl⟩
theorem icmpL (p : BitVec 7) (a : BitVec 8) (b : BitVec 8) (c : BitVec 2) : Statement (.icmpL p a b c) := fun _ => ⟨_, _, rfl⟩
theorem icmpuL (p : BitVec 7) (a : BitVec 8) (b : BitVec 8) (c : BitVec 2) : Statement (.icmpuL p a b c) := fun _ => ⟨_, _, rfl⟩
theorem faddL (d : BitVec 8) (a : BitVec 8) (b : BitVec 8) (s : BitVec 3) : Statement (.faddL d a b s) := fun _ => ⟨_, _, rfl⟩
theorem fsubL (d : BitVec 8) (a : BitVec 8) (b : BitVec 8) (s : BitVec 3) : Statement (.fsubL d a b s) := fun _ => ⟨_, _, rfl⟩
theorem fmulL (d : BitVec 8) (a : BitVec 8) (b : BitVec 8) (s : BitVec 3) : Statement (.fmulL d a b s) := fun _ => ⟨_, _, rfl⟩
theorem ffmaL (d : BitVec 8) (a : BitVec 8) (b : BitVec 8) (s : BitVec 3) (c : BitVec 8) : Statement (.ffmaL d a b s c) := fun _ => ⟨_, _, rfl⟩
theorem fminL (d : BitVec 8) (a : BitVec 8) (b : BitVec 8) (s : BitVec 3) : Statement (.fminL d a b s) := fun _ => ⟨_, _, rfl⟩
theorem fmaxL (d : BitVec 8) (a : BitVec 8) (b : BitVec 8) (s : BitVec 3) : Statement (.fmaxL d a b s) := fun _ => ⟨_, _, rfl⟩
theorem fcmpL (p : BitVec 7) (a : BitVec 8) (b : BitVec 8) (c : BitVec 2) : Statement (.fcmpL p a b c) := fun _ => ⟨_, _, rfl⟩
theorem fcmpxL (p : BitVec 7) (a : BitVec 8) (b : BitVec 8) (c : BitVec 2) : Statement (.fcmpxL p a b c) := fun _ => ⟨_, _, rfl⟩
theorem fspfL (d : BitVec 8) (a : BitVec 8) (s : BitVec 3) : Statement (.fspfL d a s) := fun _ => ⟨_, _, rfl⟩
theorem fsgnL (d : BitVec 8) (a : BitVec 8) (b : BitVec 8) (s : BitVec 3) : Statement (.fsgnL d a b s) := fun _ => ⟨_, _, rfl⟩
theorem hadd2L (d : BitVec 8) (a : BitVec 8) (b : BitVec 8) (s : BitVec 3) : Statement (.hadd2L d a b s) := fun _ => ⟨_, _, rfl⟩
theorem hmul2L (d : BitVec 8) (a : BitVec 8) (b : BitVec 8) (s : BitVec 3) : Statement (.hmul2L d a b s) := fun _ => ⟨_, _, rfl⟩
theorem hfma2L (d : BitVec 8) (a : BitVec 8) (b : BitVec 8) (s : BitVec 3) (c : BitVec 8) : Statement (.hfma2L d a b s c) := fun _ => ⟨_, _, rfl⟩
theorem hmnx2L (d : BitVec 8) (a : BitVec 8) (b : BitVec 8) (y : BitVec 1) (t : BitVec 1) : Statement (.hmnx2L d a b y t) := fun _ => ⟨_, _, rfl⟩
theorem cvtL (d : BitVec 8) (a : BitVec 8) (f : BitVec 3) (h : BitVec 3) (m : BitVec 3) : Statement (.cvtL d a f h m) := fun _ => ⟨_, _, rfl⟩
theorem pkbL (d : BitVec 8) (a : BitVec 8) (w : BitVec 1) (n : BitVec 2) : Statement (.pkbL d a w n) := fun _ => ⟨_, _, rfl⟩
theorem shflL (d : BitVec 8) (a : BitVec 8) (b : BitVec 8) (s : BitVec 3) : Statement (.shflL d a b s) := fun _ => ⟨_, _, rfl⟩
theorem vanyL (p : BitVec 7) (q : BitVec 7) (r : BitVec 7) : Statement (.vanyL p q r) := fun _ => ⟨_, _, rfl⟩
theorem vallL (p : BitVec 7) (q : BitVec 7) (r : BitVec 7) : Statement (.vallL p q r) := fun _ => ⟨_, _, rfl⟩
theorem vbalL (d : BitVec 8) (p : BitVec 7) : Statement (.vbalL d p) := fun _ => ⟨_, _, rfl⟩
theorem redlL (d : BitVec 8) (a : BitVec 8) (s : BitVec 3) : Statement (.redlL d a s) := fun _ => ⟨_, _, rfl⟩
theorem setpartL (x : BitVec 9) : Statement (.setpartL x) := fun _ => ⟨_, _, rfl⟩
theorem pandL (p : BitVec 7) (q : BitVec 7) (r : BitVec 7) : Statement (.pandL p q r) := fun _ => ⟨_, _, rfl⟩
theorem porL (p : BitVec 7) (q : BitVec 7) (r : BitVec 7) : Statement (.porL p q r) := fun _ => ⟨_, _, rfl⟩
theorem pxorL (p : BitVec 7) (q : BitVec 7) (r : BitVec 7) : Statement (.pxorL p q r) := fun _ => ⟨_, _, rfl⟩
theorem pandnL (p : BitVec 7) (q : BitVec 7) (r : BitVec 7) : Statement (.pandnL p q r) := fun _ => ⟨_, _, rfl⟩
theorem prdL (d : BitVec 8) (x : BitVec 9) : Statement (.prdL d x) := fun _ => ⟨_, _, rfl⟩
theorem pwrL (a : BitVec 8) (x : BitVec 9) : Statement (.pwrL a x) := fun _ => ⟨_, _, rfl⟩
theorem stkrdL (p : BitVec 7) (a : BitVec 8) : Statement (.stkrdL p a) := fun _ => ⟨_, _, rfl⟩
theorem stksetL (d : BitVec 8) (a : BitVec 8) (x : BitVec 9) : Statement (.stksetL d a x) := fun _ => ⟨_, _, rfl⟩
theorem ldL (d : BitVec 8) (a : BitVec 8) (z : BitVec 3) (m : BitVec 2) (o : BitVec 4) : Statement (.ldL d a z m o) := fun _ => ⟨_, _, rfl⟩
theorem stL (d : BitVec 8) (a : BitVec 8) (z : BitVec 3) (m : BitVec 2) (o : BitVec 4) : Statement (.stL d a z m o) := fun _ => ⟨_, _, rfl⟩
theorem ldsL (d : BitVec 8) (a : BitVec 8) (z : BitVec 3) (m : BitVec 2) (o : BitVec 4) : Statement (.ldsL d a z m o) := fun _ => ⟨_, _, rfl⟩
theorem stsL (d : BitVec 8) (a : BitVec 8) (z : BitVec 3) (m : BitVec 2) (o : BitVec 4) : Statement (.stsL d a z m o) := fun _ => ⟨_, _, rfl⟩
theorem ldaqL (d : BitVec 8) (a : BitVec 8) (z : BitVec 3) (k : BitVec 3) (o : BitVec 3) : Statement (.ldaqL d a z k o) := fun _ => ⟨_, _, rfl⟩
theorem strlL (d : BitVec 8) (a : BitVec 8) (z : BitVec 3) (k : BitVec 3) (o : BitVec 3) : Statement (.strlL d a z k o) := fun _ => ⟨_, _, rfl⟩
theorem atomL (d : BitVec 8) (a : BitVec 8) (b : BitVec 8) (s : BitVec 3) : Statement (.atomL d a b s) := fun _ => ⟨_, _, rfl⟩
theorem atomsL (d : BitVec 8) (a : BitVec 8) (b : BitVec 8) (s : BitVec 3) : Statement (.atomsL d a b s) := fun _ => ⟨_, _, rfl⟩
theorem fenceL (e : BitVec 1) (k : BitVec 2) (c : BitVec 3) : Statement (.fenceL e k c) := fun _ => ⟨_, _, rfl⟩
theorem prefL (a : BitVec 8) (m : BitVec 2) (o : BitVec 4) : Statement (.prefL a m o) := fun _ => ⟨_, _, rfl⟩
theorem iprefL (o : BitVec 21) : Statement (.iprefL o) := fun _ => ⟨_, _, rfl⟩
theorem xlqL (d : BitVec 8) (a : BitVec 8) : Statement (.xlqL d a) := fun _ => ⟨_, _, rfl⟩
theorem stxL (d : BitVec 8) (a : BitVec 8) (m : BitVec 2) (o : BitVec 4) : Statement (.stxL d a m o) := fun _ => ⟨_, _, rfl⟩
theorem ldxL (d : BitVec 8) (a : BitVec 8) (m : BitVec 2) (o : BitVec 4) : Statement (.ldxL d a m o) := fun _ => ⟨_, _, rfl⟩
theorem stcL (d : BitVec 8) (a : BitVec 8) (f : BitVec 3) (e : BitVec 3) (o : BitVec 3) : Statement (.stcL d a f e o) := fun _ => ⟨_, _, rfl⟩
theorem cpaL (a : BitVec 8) (b : BitVec 8) (n : BitVec 2) (t : BitVec 3) (s : BitVec 4) : Statement (.cpaL a b n t s) := fun _ => ⟨_, _, rfl⟩
theorem waittL (k : BitVec 8) : Statement (.waittL k) := fun _ => ⟨_, _, rfl⟩
theorem tokqL (p : BitVec 7) (a : BitVec 6) (c : BitVec 2) : Statement (.tokqL p a c) := fun _ => ⟨_, _, rfl⟩
theorem mmaf8aL (a : BitVec 8) (t : BitVec 3) : Statement (.mmaf8aL a t) := fun _ => ⟨_, _, rfl⟩
theorem mmaf8bL (a : BitVec 8) (t : BitVec 3) : Statement (.mmaf8bL a t) := fun _ => ⟨_, _, rfl⟩
theorem mmak8L (a : BitVec 8) (b : BitVec 8) (n : BitVec 2) (t : BitVec 3) : Statement (.mmak8L a b n t) := fun _ => ⟨_, _, rfl⟩
theorem mmab16L (a : BitVec 8) (t : BitVec 3) : Statement (.mmab16L a t) := fun _ => ⟨_, _, rfl⟩
theorem mmah16L (a : BitVec 8) (t : BitVec 3) : Statement (.mmah16L a t) := fun _ => ⟨_, _, rfl⟩
theorem mmai8L (a : BitVec 8) (t : BitVec 3) : Statement (.mmai8L a t) := fun _ => ⟨_, _, rfl⟩
theorem accrdL (d : BitVec 8) (a : BitVec 8) (f : BitVec 3) (e : BitVec 3) : Statement (.accrdL d a f e) := fun _ => ⟨_, _, rfl⟩
theorem accwrL (d : BitVec 8) (a : BitVec 8) : Statement (.accwrL d a) := fun _ => ⟨_, _, rfl⟩
theorem acczL (n : BitVec 7) : Statement (.acczL n) := fun _ => ⟨_, _, rfl⟩
theorem accstL (a : BitVec 8) (t : BitVec 3) : Statement (.accstL a t) := fun _ => ⟨_, _, rfl⟩
theorem pliL (d : BitVec 8) (a : BitVec 8) (b : BitVec 8) (s : BitVec 3) : Statement (.pliL d a b s) := fun _ => ⟨_, _, rfl⟩
theorem plfL (d : BitVec 8) (a : BitVec 8) (b : BitVec 8) (s : BitVec 3) : Statement (.plfL d a b s) := fun _ => ⟨_, _, rfl⟩
theorem plredL (d : BitVec 8) (a : BitVec 8) (s : BitVec 3) : Statement (.plredL d a s) := fun _ => ⟨_, _, rfl⟩
theorem regacqWaitL (n : BitVec 4) : Statement (.regacqWaitL n) := fun _ => ⟨_, _, rfl⟩
theorem regacqTryL (p : BitVec 8) (n : BitVec 4) : Statement (.regacqTryL p n) := fun _ => ⟨_, _, rfl⟩
theorem regrelL (n : BitVec 4) : Statement (.regrelL n) := fun _ => ⟨_, _, rfl⟩
theorem migrL (k : BitVec 1) : Statement (.migrL k) := fun _ => ⟨_, _, rfl⟩
theorem barL (n : BitVec 4) : Statement (.barL n) := fun _ => ⟨_, _, rfl⟩
theorem arvL (d : BitVec 8) (a : BitVec 8) (b : BitVec 8) : Statement (.arvL d a b) := fun _ => ⟨_, _, rfl⟩
theorem awtL (d : BitVec 8) (a : BitVec 8) (b : BitVec 8) : Statement (.awtL d a b) := fun _ => ⟨_, _, rfl⟩
theorem brdL (d : BitVec 8) (k : BitVec 6) : Statement (.brdL d k) := fun _ => ⟨_, _, rfl⟩
theorem bwrL (a : BitVec 8) (k : BitVec 6) : Statement (.bwrL a k) := fun _ => ⟨_, _, rfl⟩
theorem batomL (d : BitVec 8) (a : BitVec 8) (o : BitVec 3) (k : BitVec 6) : Statement (.batomL d a o k) := fun _ => ⟨_, _, rfl⟩
theorem featqL (d : BitVec 8) (x : BitVec 9) : Statement (.featqL d x) := fun _ => ⟨_, _, rfl⟩
theorem chunkL (d : BitVec 8) (a : BitVec 8) : Statement (.chunkL d a) := fun _ => ⟨_, _, rfl⟩
theorem dvtL (k : BitVec 11) : Statement (.dvtL k) := fun _ => ⟨_, _, rfl⟩
theorem nopD : Statement (.nopD) := fun _ => ⟨_, rfl⟩
theorem endD : Statement (.endD) := fun _ => ⟨_, rfl⟩
theorem ifenceD : Statement (.ifenceD) := fun _ => ⟨_, rfl⟩
theorem genbumpD : Statement (.genbumpD) := fun _ => ⟨_, rfl⟩
theorem ckptD : Statement (.ckptD) := fun _ => ⟨_, rfl⟩
theorem haltD : Statement (.haltD) := fun _ => ⟨_, rfl⟩
theorem nopL : Statement (.nopL) := fun _ => ⟨_, _, rfl⟩
theorem endL : Statement (.endL) := fun _ => ⟨_, _, rfl⟩
theorem ifenceL : Statement (.ifenceL) := fun _ => ⟨_, _, rfl⟩
theorem genbumpL : Statement (.genbumpL) := fun _ => ⟨_, _, rfl⟩
theorem ckptL : Statement (.ckptL) := fun _ => ⟨_, _, rfl⟩
theorem haltL : Statement (.haltL) := fun _ => ⟨_, _, rfl⟩
theorem clauseEntry : Statement (.clauseEntry) := fun _ => rfl
theorem tokenWaitResume : Statement (.tokenWaitResume) := fun _ => rfl
theorem registerGrant : Statement (.registerGrant) := fun _ => rfl
theorem regDeadlock : Statement (.regDeadlock) := fun _ => rfl
theorem binAgeExpiry : Statement (.binAgeExpiry) := fun _ => rfl
theorem binIssue : Statement (.binIssue) := fun _ => rfl
theorem gangSlotSwap : Statement (.gangSlotSwap) := fun _ => rfl
theorem engineLineWrite : Statement (.engineLineWrite) := fun _ => rfl
theorem scratchGranuleLanding : Statement (.scratchGranuleLanding) := fun _ => rfl
theorem copyComplete : Statement (.copyComplete) := fun _ => rfl
theorem deferredCopyFault : Statement (.deferredCopyFault) := fun _ => rfl
theorem mmaBlockAdd : Statement (.mmaBlockAdd) := fun _ => rfl
theorem accstRowWrite : Statement (.accstRowWrite) := fun _ => rfl
theorem homeAccessArrival : Statement (.homeAccessArrival) := fun _ => rfl
theorem placedPartExecute : Statement (.placedPartExecute) := fun _ => rfl
theorem reduceStateMerge : Statement (.reduceStateMerge) := fun _ => rfl
theorem genbumpComplete : Statement (.genbumpComplete) := fun _ => rfl
theorem portWriteArrival : Statement (.portWriteArrival) := fun _ => rfl
theorem portReadArrival : Statement (.portReadArrival) := fun _ => rfl
theorem peerAtomArrival : Statement (.peerAtomArrival) := fun _ => rfl
theorem faultDelivery : Statement (.faultDelivery) := fun _ => rfl
theorem launchEndWithCause : Statement (.launchEndWithCause) := fun _ => rfl
theorem preemption : Statement (.preemption) := fun _ => rfl
theorem crewRestore : Statement (.crewRestore) := fun _ => rfl
theorem firmwareCheckpoint : Statement (.firmwareCheckpoint) := fun _ => rfl
theorem migration : Statement (.migration) := fun _ => rfl
theorem returnTrap : Statement (.returnTrap) := fun _ => rfl
theorem crewPlacement : Statement (.crewPlacement) := fun _ => rfl
theorem carveOutChange : Statement (.carveOutChange) := fun _ => rfl
theorem notify : Statement (.notify) := fun _ => rfl
theorem packetTake : Statement (.packetTake) := fun _ => rfl
theorem launch : Statement (.launch) := fun _ => rfl
theorem cmdblock : Statement (.cmdblock) := fun _ => rfl
theorem copy : Statement (.copy) := fun _ => rfl
theorem fill : Statement (.fill) := fun _ => rfl
theorem signal : Statement (.signal) := fun _ => rfl
theorem waitsig : Statement (.waitsig) := fun _ => rfl
theorem waitsigReevaluate : Statement (.waitsigReevaluate) := fun _ => rfl
theorem nopPacket : Statement (.nopPacket) := fun _ => rfl
theorem launchCompletionSignal : Statement (.launchCompletionSignal) := fun _ => rfl
theorem thaw : Statement (.thaw) := fun _ => rfl
theorem abandon : Statement (.abandon) := fun _ => rfl
theorem graphKick : Statement (.graphKick) := fun _ => rfl
theorem graphNodeCompletion : Statement (.graphNodeCompletion) := fun _ => rfl
theorem pairComparison : Statement (.pairComparison) := fun _ => rfl
theorem protectedRollback : Statement (.protectedRollback) := fun _ => rfl
theorem unitSelfTest : Statement (.unitSelfTest) := fun _ => rfl
theorem islandClockChange : Statement (.islandClockChange) := fun _ => rfl
theorem powerCapSet : Statement (.powerCapSet) := fun _ => rfl
theorem thermalLimit : Statement (.thermalLimit) := fun _ => rfl
theorem attestationReport : Statement (.attestationReport) := fun _ => rfl
theorem asidKeyInit : Statement (.asidKeyInit) := fun _ => rfl
theorem baseRegisterWrite : Statement (.baseRegisterWrite) := fun _ => rfl
theorem registerWrite : Statement (.registerWrite) := fun _ => rfl
theorem moduleReset : Statement (.moduleReset) := fun _ => rfl
theorem bringUp : Statement (.bringUp) := fun _ => rfl
theorem dieCooled : Statement (.dieCooled) := fun _ => rfl
theorem hostAcknowledgement : Statement (.hostAcknowledgement) := fun _ => rfl
theorem graphRegistration : Statement (.graphRegistration) := fun _ => rfl

end Sys2Proof.Laws.Encodes
end

