-- ==== Sys2Proof/Tests/Slice0.lean ====
section
/-!
SUPPORT. Tests of the model: words of the spec's encodings decode to their instructions and are ready to issue; each check of
an encoding refuses an ill-formed term; states and operands that meet the hypotheses of each statement; single steps whose
results come from the spec's worked cases or by hand.
-/
namespace Sys2Proof.Tests
open Sys2Proof Sys2Proof.Machine

set_option Elab.async false

/-- No guard, no wait, no landing. -/
def plain : Prefix := Prefix.plain

/-- The guard field 1010 of D: not p2. -/
def g : Prefix := { plain with guard := 2, neg := true }

/-- An extension word with WMASK 0x5A, GUARD 77, NEG and LAND. -/
def h : Prefix := { guard := 77, neg := true, land := true, wait := 0x5A }

/-- The same of a form without a guard. -/
def hb : Prefix := { h with guard := 0, neg := false }

/-- DVT's extension word with LAND. -/
def hd : Prefix := { plain with land := true }

/-- The only gang of a lone crew. -/
def u0 : UnitId := { crew := 0, kind := .gang 0 0 }

/-- A privileged crew of one fibre that is about to issue a word. -/
def lone (k : Kind) (ws : List Word) (pf : Prefix) : State :=
  { State.reset.placeWords k ws with turn := some (.issue u0 pf) }

/-- The unit u0 as its instruction sees it. -/
def seen (s : State) (pf : Prefix) : Ctx :=
  (s.ctx? u0 pf).getD { u := u0, crew := loneCrew .density 0 [], all := [], act := [], kd := 0, ka := 0, kb := 0, kc := 0 }

/-- The instruction is ready in the state, its lane active. -/
def ready (i : Instr) (s : State) (pf : Prefix) : Bool :=
  decide (Ready i s u0 pf (seen s pf)) && decide ((seen s pf).act = [0])

/-- D words that decode to well-formed instructions which are ready. -/
def readsD (l : List (Word × Prefix × Instr)) : Bool :=
  l.all fun x => decide ((decodeD x.1).toOption = some x.2) && decide (WellFormed x.2.1 x.2.2)
    && ready x.2.2 (lone .density [x.1] x.2.1) x.2.1

/-- L doublewords, the extension word first, that decode to well-formed instructions which are ready. -/
def readsL (l : List (Word × Word × Prefix × Instr)) : Bool :=
  l.all fun x => decide ((decodeL x.1 x.2.1).toOption = some x.2.2) && decide (WellFormed x.2.2.1 x.2.2.2)
    && ready x.2.2.2 (lone .latency [x.1, x.2.1] x.2.2.1) x.2.2.1

/-! ## Decoding: every constructor by a word laid out field by field from the opcode table (R46, R47, R50, R57) -/

/-- Words of the control instructions in D. -/
theorem test_decode_control_D1 : readsD [
    (0x03400000, g, .nopD),
    (0x0545A5A5, plain, .moviD 40 370085),
    (0x07401234, plain, .movhiD 40 4660),
    (0x09542801, g, .movD 40 20 1),
    (0x0B540009, g, .sreadD 40 9),
    (0x0D402813, g, .swriteD 20 19),
    (0x0E16B600, plain, .repD 45 1 2 3 0),
    (0x1155A5A4, g, .braD 1418660)] = true := by decide +kernel

/-- Words of the control instructions in D. -/
theorem test_decode_control_D2 : readsD [
    (0x134A5A5A, g, .callD 678490),
    (0x15402801, g, .brxD 20 1),
    (0x17402800, g, .retD 20),
    (0x19402803, g, .forkD 20 3),
    (0x1944A813, g, .forkTryD 9 20 3),
    (0x1B400000, g, .endD),
    (0x1D4001AB, g, .trapD 427),
    (0x1F400155, g, .syscD 341)] = true := by decide +kernel

/-- Words of the control instructions in L. -/
theorem test_decode_control_L1 : readsL [
    (0x5A00026E, 0x02000000, h, .nopL),
    (0x5A800002, 0x0545A5A5, hb, .moviL 168 370085),
    (0x5A800002, 0x07401234, hb, .movhiL 168 4660),
    (0x5A90026E, 0x08142801, h, .movL 168 84 1),
    (0x5A80026E, 0x0A140009, h, .sreadL 168 9),
    (0x5A10026E, 0x0C002813, h, .swriteL 84 19),
    (0x5A000002, 0x0E16B680, hb, .repL 45 1 2 3 1),
    (0x5A00026E, 0x1015A5A4, h, .braL 1418660)] = true := by decide +kernel

/-- Words of the control instructions in L. -/
theorem test_decode_control_L2 : readsL [
    (0x5A00026E, 0x120A5A5A, h, .callL 678490),
    (0x5A10026E, 0x14002801, h, .brxL 84 1),
    (0x5A10026E, 0x16002800, h, .retL 84),
    (0x5A10026E, 0x18002803, h, .forkL 84 3),
    (0x5A50026E, 0x1808A813, h, .forkTryL 81 84 3),
    (0x5A00026E, 0x1A000000, h, .endL),
    (0x5A00026E, 0x1C0001AB, h, .trapL 427),
    (0x5A00026E, 0x1E000155, h, .syscL 341)] = true := by decide +kernel

/-- Words of the integer arithmetic instructions in D. -/
theorem test_decode_integer_arithmetic_D1 : readsD [
    (0x215429C1, g, .iaddD 40 20 56 1),
    (0x235429C1, g, .isubD 40 20 56 1),
    (0x255429C1, g, .imulD 40 20 56 1),
    (0x275429C0, g, .imadD 40 20 56),
    (0x295429C1, g, .idivD 40 20 56 1),
    (0x2B5429C1, g, .iremD 40 20 56 1),
    (0x2D5429C1, g, .iminD 40 20 56 1),
    (0x2F5429C1, g, .imaxD 40 20 56 1)] = true := by decide +kernel

/-- Words of the integer arithmetic instructions in D. -/
theorem test_decode_integer_arithmetic_D2 : readsD [
    (0x315429C0, g, .andD 40 20 56),
    (0x335429C0, g, .orD 40 20 56),
    (0x355429C0, g, .xorD 40 20 56),
    (0x375429C0, g, .andnD 40 20 56),
    (0x395429C1, g, .shlD 40 20 56 1),
    (0x3B5429C1, g, .shrD 40 20 56 1),
    (0x3D5429C0, g, .rotlD 40 20 56),
    (0x3F5429C1, g, .bfxD 40 20 56 1)] = true := by decide +kernel

/-- Words of the integer arithmetic instructions in L. -/
theorem test_decode_integer_arithmetic_L1 : readsL [
    (0x5A9C026E, 0x201429C1, h, .iaddL 168 84 248 1),
    (0x5A9C026E, 0x221429C1, h, .isubL 168 84 248 1),
    (0x5A9C026E, 0x241429C1, h, .imulL 168 84 248 1),
    (0x5A9F226E, 0x261429C0, h, .imadL 168 84 248 200),
    (0x5A9C026E, 0x281429C1, h, .idivL 168 84 248 1),
    (0x5A9C026E, 0x2A1429C1, h, .iremL 168 84 248 1),
    (0x5A9C026E, 0x2C1429C1, h, .iminL 168 84 248 1),
    (0x5A9C026E, 0x2E1429C1, h, .imaxL 168 84 248 1)] = true := by decide +kernel

/-- Words of the integer arithmetic instructions in L. -/
theorem test_decode_integer_arithmetic_L2 : readsL [
    (0x5A9C026E, 0x301429C0, h, .andL 168 84 248),
    (0x5A9C026E, 0x321429C0, h, .orL 168 84 248),
    (0x5A9C026E, 0x341429C0, h, .xorL 168 84 248),
    (0x5A9C026E, 0x361429C0, h, .andnL 168 84 248),
    (0x5A9C026E, 0x381429C1, h, .shlL 168 84 248 1),
    (0x5A9C026E, 0x3A1429C1, h, .shrL 168 84 248 1),
    (0x5A9C026E, 0x3C1429C0, h, .rotlL 168 84 248),
    (0x5A9C026E, 0x3E1429C1, h, .bfxL 168 84 248 1)] = true := by decide +kernel

/-- Words of the integer rest instructions in D. -/
theorem test_decode_integer_rest_D1 : readsD [
    (0x415429F3, g, .iaddiD 40 20 499),
    (0x43542955, g, .andiD 40 20 341),
    (0x45542955, g, .oriD 40 20 341),
    (0x47542955, g, .xoriD 40 20 341),
    (0x49542815, g, .shliD 40 20 21),
    (0x4B542833, g, .shriD 40 20 1 19),
    (0x4D542955, g, .imuliD 40 20 341),
    (0x4F5429C1, g, .leaD 40 20 56 1)] = true := by decide +kernel

/-- Words of the integer rest instructions in D. -/
theorem test_decode_integer_rest_D2 : readsD [
    (0x515429C0, g, .bfiD 40 20 56),
    (0x53542800, g, .popcD 40 20),
    (0x55542800, g, .clzD 40 20),
    (0x57542800, g, .brevD 40 20),
    (0x59542800, g, .iabsD 40 20),
    (0x5B5429C1, g, .selD 40 20 56 1),
    (0x5D4254E1, g, .icmpD 9 20 56 1),
    (0x5F4254E1, g, .icmpuD 9 20 56 1)] = true := by decide +kernel

/-- Words of the integer rest instructions in L. -/
theorem test_decode_integer_rest_L1 : readsL [
    (0x5A90026E, 0x401429F3, h, .iaddiL 168 84 499),
    (0x5A90026E, 0x42142955, h, .andiL 168 84 341),
    (0x5A90026E, 0x44142955, h, .oriL 168 84 341),
    (0x5A90026E, 0x46142955, h, .xoriL 168 84 341),
    (0x5A90026E, 0x48142815, h, .shliL 168 84 21),
    (0x5A90026E, 0x4A142833, h, .shriL 168 84 1 19),
    (0x5A90026E, 0x4C142955, h, .imuliL 168 84 341),
    (0x5A9C026E, 0x4E1429C1, h, .leaL 168 84 248 1)] = true := by decide +kernel

/-- Words of the integer rest instructions in L. -/
theorem test_decode_integer_rest_L2 : readsL [
    (0x5A9C026E, 0x501429C0, h, .bfiL 168 84 248),
    (0x5A90026E, 0x52142800, h, .popcL 168 84),
    (0x5A90026E, 0x54142800, h, .clzL 168 84),
    (0x5A90026E, 0x56142800, h, .brevL 168 84),
    (0x5A90026E, 0x58142800, h, .iabsL 168 84),
    (0x5A9C026E, 0x5A1429C1, h, .selL 168 84 248 1),
    (0x5A1C026E, 0x5C1454E1, h, .icmpL 81 84 248 1),
    (0x5A1C026E, 0x5E1454E1, h, .icmpuL 81 84 248 1)] = true := by decide +kernel

/-- Words of the floating instructions in D. -/
theorem test_decode_floating_D1 : readsD [
    (0x615429C1, g, .faddD 40 20 56 1),
    (0x635429C1, g, .fsubD 40 20 56 1),
    (0x655429C1, g, .fmulD 40 20 56 1),
    (0x675429C1, g, .ffmaD 40 20 56 1),
    (0x695429C1, g, .fminD 40 20 56 1),
    (0x6B5429C1, g, .fmaxD 40 20 56 1),
    (0x6D4254E1, g, .fcmpD 9 20 56 1),
    (0x6F4254E1, g, .fcmpxD 9 20 56 1)] = true := by decide +kernel

/-- Words of the floating instructions in D. -/
theorem test_decode_floating_D2 : readsD [
    (0x71542801, g, .fspfD 40 20 1),
    (0x735429C3, g, .fsgnD 40 20 56 3),
    (0x755429C1, g, .hadd2D 40 20 56 1),
    (0x775429C1, g, .hmul2D 40 20 56 1),
    (0x795429C1, g, .hfma2D 40 20 56 1),
    (0x7B5429C2, g, .hmnx2D 40 20 56 1 0),
    (0x7D542809, g, .cvtD 40 20 0 1 1),
    (0x7F542806, g, .pkbD 40 20 1 2)] = true := by decide +kernel

/-- Words of the floating instructions in L. -/
theorem test_decode_floating_L1 : readsL [
    (0x5A9C026E, 0x601429C1, h, .faddL 168 84 248 1),
    (0x5A9C026E, 0x621429C1, h, .fsubL 168 84 248 1),
    (0x5A9C026E, 0x641429C1, h, .fmulL 168 84 248 1),
    (0x5A9F226E, 0x661429C1, h, .ffmaL 168 84 248 1 200),
    (0x5A9C026E, 0x681429C1, h, .fminL 168 84 248 1),
    (0x5A9C026E, 0x6A1429C1, h, .fmaxL 168 84 248 1),
    (0x5A1C026E, 0x6C1454E1, h, .fcmpL 81 84 248 1),
    (0x5A1C026E, 0x6E1454E1, h, .fcmpxL 81 84 248 1)] = true := by decide +kernel

/-- Words of the floating instructions in L. -/
theorem test_decode_floating_L2 : readsL [
    (0x5A90026E, 0x70142801, h, .fspfL 168 84 1),
    (0x5A9C026E, 0x721429C3, h, .fsgnL 168 84 248 3),
    (0x5A9C026E, 0x741429C1, h, .hadd2L 168 84 248 1),
    (0x5A9C026E, 0x761429C1, h, .hmul2L 168 84 248 1),
    (0x5A9F226E, 0x781429C1, h, .hfma2L 168 84 248 1 200),
    (0x5A9C026E, 0x7A1429C2, h, .hmnx2L 168 84 248 1 0),
    (0x5A90026E, 0x7C142809, h, .cvtL 168 84 0 1 1),
    (0x5A90026E, 0x7E142806, h, .pkbL 168 84 1 2)] = true := by decide +kernel

/-- Words of the lanes instructions in D. -/
theorem test_decode_lanes_D1 : readsD [
    (0x815429C1, g, .shflD 40 20 56 1),
    (0x83424283, g, .vanyD 9 5 3),
    (0x85424283, g, .vallD 9 5 3),
    (0x87540009, g, .vbalD 40 9),
    (0x89542806, g, .redlD 40 20 6),
    (0x8B400003, g, .setpartD 3),
    (0x8D424283, g, .pandD 9 5 3)] = true := by decide +kernel

/-- Words of the lanes instructions in D. -/
theorem test_decode_lanes_D2 : readsD [
    (0x8F424283, g, .porD 9 5 3),
    (0x91424283, g, .pxorD 9 5 3),
    (0x93424283, g, .pandnD 9 5 3),
    (0x95540002, g, .prdD 40 2),
    (0x97402802, g, .pwrD 20 2),
    (0x99425400, g, .stkrdD 9 20),
    (0x9B542802, g, .stksetD 40 20 2)] = true := by decide +kernel

/-- Words of the lanes instructions in L. -/
theorem test_decode_lanes_L1 : readsL [
    (0x5A9C026E, 0x801429C1, h, .shflL 168 84 248 1),
    (0x5A00026E, 0x82146123, h, .vanyL 81 66 35),
    (0x5A00026E, 0x84146123, h, .vallL 81 66 35),
    (0x5A80026E, 0x86140051, h, .vbalL 168 81),
    (0x5A90026E, 0x88142806, h, .redlL 168 84 6),
    (0x5A00026E, 0x8A000003, h, .setpartL 3),
    (0x5A00026E, 0x8C146123, h, .pandL 81 66 35)] = true := by decide +kernel

/-- Words of the lanes instructions in L. -/
theorem test_decode_lanes_L2 : readsL [
    (0x5A00026E, 0x8E146123, h, .porL 81 66 35),
    (0x5A00026E, 0x90146123, h, .pxorL 81 66 35),
    (0x5A00026E, 0x92146123, h, .pandnL 81 66 35),
    (0x5A80026E, 0x94140002, h, .prdL 168 2),
    (0x5A10026E, 0x96002802, h, .pwrL 84 2),
    (0x5A10026E, 0x98145400, h, .stkrdL 81 84),
    (0x5A90026E, 0x9A142802, h, .stksetL 168 84 2)] = true := by decide +kernel

/-- Words of the memory instructions in D. -/
theorem test_decode_memory_D1 : readsD [
    (0xA154292D, g, .ldD 40 20 4 2 13),
    (0xA35428D9, g, .stD 40 20 3 1 9),
    (0xA55428AE, g, .ldsD 40 20 2 2 14),
    (0xA7542853, g, .stsD 40 20 1 1 3),
    (0xA95428A5, g, .ldaqD 40 20 2 4 5),
    (0xAB5428E6, g, .strlD 40 20 3 4 6),
    (0xAD5429C1, g, .atomD 40 20 56 1),
    (0xAF5429C1, g, .atomsD 40 20 56 1)] = true := by decide +kernel

/-- Words of the memory instructions in D. -/
theorem test_decode_memory_D2 : readsD [
    (0xB1400034, g, .fenceD 1 2 4),
    (0xB3400000, g, .ifenceD),
    (0xB5402815, g, .prefD 20 1 5),
    (0xB75FFFF2, g, .iprefD 2097138),
    (0xB9542800, g, .xlqD 40 20),
    (0xBB5428D5, g, .stxD 40 20 1 5),
    (0xBD5428D5, g, .ldxD 40 20 1 5),
    (0xBF54288D, g, .stcD 40 20 2 1 5)] = true := by decide +kernel

/-- Words of the memory instructions in L. -/
theorem test_decode_memory_L1 : readsL [
    (0x5A90026E, 0xA014292D, h, .ldL 168 84 4 2 13),
    (0x5A90026E, 0xA21428D9, h, .stL 168 84 3 1 9),
    (0x5A90026E, 0xA41428AE, h, .ldsL 168 84 2 2 14),
    (0x5A90026E, 0xA6142853, h, .stsL 168 84 1 1 3),
    (0x5A90026E, 0xA81428A5, h, .ldaqL 168 84 2 4 5),
    (0x5A90026E, 0xAA1428E6, h, .strlL 168 84 3 4 6),
    (0x5A9C026E, 0xAC1429C1, h, .atomL 168 84 248 1),
    (0x5A9C026E, 0xAE1429C1, h, .atomsL 168 84 248 1)] = true := by decide +kernel

/-- Words of the memory instructions in L. -/
theorem test_decode_memory_L2 : readsL [
    (0x5A00026E, 0xB0000034, h, .fenceL 1 2 4),
    (0x5A00026E, 0xB2000000, h, .ifenceL),
    (0x5A10026E, 0xB4002815, h, .prefL 84 1 5),
    (0x5A00026E, 0xB61FFFF2, h, .iprefL 2097138),
    (0x5A90026E, 0xB8142800, h, .xlqL 168 84),
    (0x5A90026E, 0xBA1428D5, h, .stxL 168 84 1 5),
    (0x5A90026E, 0xBC1428D5, h, .ldxL 168 84 1 5),
    (0x5A90026E, 0xBE14288D, h, .stcL 168 84 2 1 5)] = true := by decide +kernel

/-- Words of the engines instructions in D. -/
theorem test_decode_engines_D1 : readsD [
    (0xC14A7161, g, .cpaD 20 56 2 6 1),
    (0xC34000A5, g, .waittD 165),
    (0xC5424601, g, .tokqD 9 6 1),
    (0xC74A0060, g, .mmaf8aD 20 6),
    (0xC94A0060, g, .mmaf8bD 20 6),
    (0xCB4A71E0, g, .mmak8D 20 56 3 6),
    (0xCD4A0060, g, .mmab16D 20 6),
    (0xCF4A0060, g, .mmah16D 20 6)] = true := by decide +kernel

/-- Words of the engines instructions in D. -/
theorem test_decode_engines_D2 : readsD [
    (0xD14A0060, g, .mmai8D 20 6),
    (0xD3542888, g, .accrdD 40 20 2 1),
    (0xD5542800, g, .accwrD 40 20),
    (0xD740004D, g, .acczD 77),
    (0xD94A0060, g, .accstD 20 6),
    (0xDB5429C1, g, .pliD 40 20 56 1),
    (0xDD5429C1, g, .plfD 40 20 56 1),
    (0xDF542801, g, .plredD 40 20 1)] = true := by decide +kernel

/-- Words of the engines instructions in L. -/
theorem test_decode_engines_L1 : readsL [
    (0x5A1C026E, 0xC00A7161, h, .cpaL 84 248 2 6 1),
    (0x5A00026E, 0xC20000A5, h, .waittL 165),
    (0x5A00026E, 0xC4144601, h, .tokqL 81 6 1),
    (0x5A10026E, 0xC60A0060, h, .mmaf8aL 84 6),
    (0x5A10026E, 0xC80A0060, h, .mmaf8bL 84 6),
    (0x5A1C026E, 0xCA0A71E0, h, .mmak8L 84 248 3 6),
    (0x5A10026E, 0xCC0A0060, h, .mmab16L 84 6),
    (0x5A10026E, 0xCE0A0060, h, .mmah16L 84 6)] = true := by decide +kernel

/-- Words of the engines instructions in L. -/
theorem test_decode_engines_L2 : readsL [
    (0x5A10026E, 0xD00A0060, h, .mmai8L 84 6),
    (0x5A90026E, 0xD2142888, h, .accrdL 168 84 2 1),
    (0x5A90026E, 0xD4142800, h, .accwrL 168 84),
    (0x5A00026E, 0xD600004D, h, .acczL 77),
    (0x5A10026E, 0xD80A0060, h, .accstL 84 6),
    (0x5A9C026E, 0xDA1429C1, h, .pliL 168 84 248 1),
    (0x5A9C026E, 0xDC1429C1, h, .plfL 168 84 248 1),
    (0x5A90026E, 0xDE142801, h, .plredL 168 84 1)] = true := by decide +kernel

/-- Words of the system instructions in D. -/
theorem test_decode_system_D1 : readsD [
    (0xE1400003, g, .regacqWaitD 3),
    (0xE1448013, g, .regacqTryD 9 3),
    (0xE3400003, g, .regrelD 3),
    (0xE5400000, g, .migrD 0),
    (0xE940000D, g, .barD 13),
    (0xEB5429C0, g, .arvD 40 20 56),
    (0xED5429C0, g, .awtD 40 20 56),
    (0xEF540002, g, .brdD 40 2)] = true := by decide +kernel

/-- Words of the system instructions in D. -/
theorem test_decode_system_D2 : readsD [
    (0xF1402802, g, .bwrD 20 2),
    (0xF354296D, g, .batomD 40 20 5 45),
    (0xF5540009, g, .featqD 40 9),
    (0xF7400000, g, .genbumpD),
    (0xF9400000, g, .ckptD),
    (0xFB400000, g, .haltD),
    (0xFD542800, g, .chunkD 40 20)] = true := by decide +kernel

/-- Words of the system instructions in L. -/
theorem test_decode_system_L1 : readsL [
    (0x5A00026E, 0xE0000003, h, .regacqWaitL 3),
    (0x5A40026E, 0xE0088013, h, .regacqTryL 81 3),
    (0x5A00026E, 0xE2000003, h, .regrelL 3),
    (0x5A00026E, 0xE4000000, h, .migrL 0),
    (0x5A00026E, 0xE800000D, h, .barL 13),
    (0x5A9C026E, 0xEA1429C0, h, .arvL 168 84 248),
    (0x5A9C026E, 0xEC1429C0, h, .awtL 168 84 248),
    (0x5A80026E, 0xEE140002, h, .brdL 168 2)] = true := by decide +kernel

/-- Words of the system instructions in L. -/
theorem test_decode_system_L2 : readsL [
    (0x5A10026E, 0xF0002802, h, .bwrL 84 2),
    (0x5A90026E, 0xF214296D, h, .batomL 168 84 5 45),
    (0x5A80026E, 0xF4140009, h, .featqL 168 9),
    (0x5A00026E, 0xF6000000, h, .genbumpL),
    (0x5A00026E, 0xF8000000, h, .ckptL),
    (0x5A00026E, 0xFA000000, h, .haltL),
    (0x5A90026E, 0xFC142800, h, .chunkL 168 84),
    (0x00000002, 0xE6000002, hd, .dvtL 2)] = true := by decide +kernel

/-! ## Ill-formed terms, each refused by its check -/

/-- Every term raises the fault by its encoding, so it is not well formed. -/
def refused (e : EncFault) (l : List Instr) : Bool :=
  l.all fun i => decide (i.encFault plain = some e) && decide (¬ WellFormed plain i)

/-- Reserved codes of D: ILLEGAL-OP (R57, R59). -/
theorem test_ill_formed_op_D : refused .illegalOp [.movD 1 2 2, .forkD 1 0, .forkTryD 1 1 0, .iaddD 0 0 0 4, .isubD 0 0 0 7,
    .imulD 0 0 0 4, .idivD 0 0 0 2, .iremD 0 0 0 2, .iminD 0 0 0 2, .imaxD 0 0 0 7, .shlD 0 0 0 2, .shrD 0 0 0 4, .bfxD 0 0 0 2,
    .icmpuD 1 0 0 2, .faddD 0 0 0 5, .fsubD 0 0 0 7, .fmulD 0 0 0 5, .ffmaD 0 0 0 6, .fminD 0 0 0 2, .fmaxD 0 0 0 2,
    .fsgnD 0 0 0 4, .cvtD 0 0 0 0 7, .cvtD 0 0 7 7 0, .pkbD 0 0 1 1, .shflD 0 0 0 4, .setpartD 5, .prdD 0 3, .pwrD 0 511,
    .stksetD 0 0 3, .ldD 0 0 7 0 0, .ldD 0 0 2 3 0, .stD 0 0 5 0 0, .stD 0 0 0 3 0, .ldsD 0 0 7 0 0, .stsD 0 0 6 0 0,
    .ldaqD 0 0 4 0 0, .strlD 0 0 1 0 0, .fenceD 0 3 0, .prefD 0 3 0, .stxD 0 0 3 0, .ldxD 0 0 3 0, .stcD 0 0 0 0 0,
    .stcD 0 0 0 7 0, .cpaD 0 0 3 0 0, .cpaD 0 0 0 0 4, .tokqD 1 0 2, .accrdD 0 0 1 7, .accrdD 0 0 0 0, .regacqWaitD 0,
    .regacqTryD 1 0, .regrelD 0, .featqD 0 16] = true := by decide +kernel

/-- The same of L. -/
theorem test_ill_formed_op_L : refused .illegalOp [.movL 1 2 7, .forkL 1 0, .iaddL 0 0 0 4, .icmpuL 1 0 0 3, .faddL 0 0 0 5,
    .ffmaL 0 0 0 5 0, .cvtL 0 0 0 0 7, .shflL 0 0 0 7, .ldL 0 0 7 0 0, .fenceL 0 3 0, .cpaL 0 0 3 0 0, .regacqTryL 1 0,
    .featqL 0 511] = true := by decide +kernel

/-- Fields out of their ranges, predicates above p95, unused registers, odd pairs, quads and L offsets: ILLEGAL-FIELD (R47,
R50, R52, R54, R56, R59). -/
theorem test_ill_formed_field : refused .illegalField [.sreadD 0 22, .sreadL 0 511, .swriteD 0 18, .swriteL 0 21, .repD 0 0 0 0 1,
    .forkTryD 0 1 1, .forkTryL 0 1 1, .forkTryL 96 1 1, .braL 1, .callL 3, .iprefL 5, .icmpD 96 0 0 0, .icmpuL 127 0 0 0,
    .fcmpD 96 0 0 0, .fcmpxD 0 0 0 0, .fcmpxD 95 0 0 0, .fsgnD 0 0 1 0, .vanyD 96 0 0, .vallD 0 96 0, .vanyL 0 0 96, .vbalD 0 96,
    .pandD 96 0 0, .porD 0 96 0, .pxorD 0 0 96, .pandnL 127 0 0, .stkrdD 96 0, .stksetD 0 1 0, .ldaqD 0 0 2 6 0, .strlL 0 0 3 7 0,
    .fenceD 0 0 6, .tokqD 1 8 0, .tokqL 96 0 0, .pliD 0 0 1 6, .plfL 0 0 2 7, .regacqTryD 0 1, .regacqTryL 200 1,
    .iaddD 1 0 0 1, .imulL 0 3 0 3, .shlD 0 1 0 1, .shrD 1 0 0 2, .ldD 1 0 3 0 0, .ldD 2 0 4 0 0, .stD 0 1 2 0 0,
    .atomD 0 1 0 0, .ldxL 0 3 0 0, .xlqD 1 0, .chunkD 1 0, .plredD 1 0 0] = true := by decide +kernel

/-- A prefix that D cannot carry, one of a form without a guard, DVT under a wait, GUARD of 96, and an event. -/
theorem test_ill_formed_prefix :
    ¬ WellFormed { plain with wait := 1 } .nopD ∧ ¬ WellFormed { plain with land := true } .nopD ∧ ¬ WellFormed { plain with guard := 8 } .nopD
      ∧ ¬ WellFormed { plain with guard := 1 } (.moviD 0 0) ∧ ¬ WellFormed { plain with neg := true } (.repL 0 0 0 0 0)
      ∧ ¬ WellFormed { plain with wait := 1 } (.dvtL 0) ∧ ¬ WellFormed { plain with guard := 96 } .nopL ∧ ¬ WellFormed plain .thaw := by
  decide +kernel

/-- Words of a reserved major, with a field that must be 0, with a guard in L's base word, with a high bit that extends
nothing: none decodes to an instruction (R46, R47, R59). -/
theorem test_refused_words :
    [decodeD 0x9C000000, decodeD 0xE6000000, decodeD 0x02000001, decodeD 0xFE000000, decodeL 0 0x02200000, decodeL 1 0x02000000,
      decodeL 0x00400000 0x02000000, decodeL 4 0xE6000000, decodeL 0 0x9C000000].all (fun x => !x.isOk) = true := by decide +kernel

/-- The reader of the opcode table's bit numbering: a D word, and an L doubleword with its extension word first. -/
theorem test_table_words :
    decodeTableWord 32 0x20028C3A = some (.iaddD 5 6 7 2) ∧ decodeTableWord 64 0x66041250_00C20C00 = some (.ffmaL 200 9 10 0 131)
      ∧ decodeTableWord 32 0 = none := by decide +kernel

/-! ## Witnesses: states and operands that meet the hypotheses of each statement together -/

/-- A guard that never holds. -/
def never : Prefix := { plain with neg := true }

/-- Bring-up is over; the table of address spaces, of handlers, of queues, of the ring and of graphs locked in. -/
def locked : State :=
  { State.reset with aon := { State.reset.aon with bases := [0x10001, 0x11001, 0x12001, 0x13001, 0x14001, 0x15001], bringUp := 6 } }

/-- The same with memory laid out: address space 0 maps its first GiB onto memory as it lies, to be read, written and
executed, A and D set; at 0x100000 a code object with one entry for either text; a handler installed for TRAP. -/
def mapped : State :=
  [(0x10000, 0x20000), (0x20000, 0xF0000000030001), (0x30000, 0x20000000000307),
    (0x100000, 0x214F5848), (0x100048, 0x300000001), (0x100050, 0x80), (0x100080, 3), (0x100088, 0x200), (0x100090, 16),
    (0x100200, 0x200000001000), (0x100208, 0x40400000000), (0x101000, 0x20000001001E800), (0x102000, 0x400000002),
    (0x110E0, 0x100000), (0x110E8, 0x80000000)].foldl (fun s (x : Nat × Nat) => { s.store64 x.1 x.2 with past := [] }) locked

/-- No load is still unused and no WAITSIG waits. -/
def quiet (s : State) : Bool := s.sync.early.isEmpty && s.queues.all fun q => q.2.packets.all fun m => m.watched.isNone

/-- Every sparse part of the state is in its canonical form. -/
def canonical (s : State) : Bool :=
  Memory.wf s.mem && swf CoreSt.reset s.cores && swf QueueSt.fresh s.queues && swf GraphSt.fresh s.graphs && swf 0 s.gens
    && swf none s.spaces && swf none s.traps && swf none s.l2 && swf 0 s.encOwner && swf 0 s.aon.other
    && s.crews.all fun k => Memory.wf k.scr && swf Reg.zero k.tiles

/-- Memory is canonical, and no error and no partial stands in storage. -/
def sound (s : State) : Bool := canonical s && decide (s.partials = [] ∧ s.rel.poison = [] ∧ s.rel.correctable = [])

/-- A crew of one fibre, changed by `f`, about to issue an instruction. -/
def spot (s : State) (k : Kind) (pf : Prefix) (f : Crew → Crew) : State :=
  { (s.placeWords k [0]).modCrew 0 f with turn := some (.issue u0 pf) }

/-- Every fibre of the crew changed. -/
def each (f : Fibre → Fibre) (k : Crew) : Crew := { k with fibres := k.fibres.map f }

/-- Registers given values. -/
def regs (l : List (Nat × Nat)) : Crew → Crew :=
  each fun f => l.foldl (fun f x => f.setReg x.1 (regOf (BitVec.ofNat 32 x.2) false)) f

/-- The crew's code object is the one at 0x100000. -/
def coded (k : Crew) : Crew :=
  { k with desc := { k.desc with codeBase := 0x100000 }, fibres := k.fibres.map fun f => { f with codeBase := 0x100000 } }

/-- A crew with 256 bytes of scratchpad, all of them full, at the aperture's start. -/
def scratched (k : Crew) : Crew :=
  { k with desc := { k.desc with scrSize := 256, accCount := 2 }, full := List.range 8 }

/-- The translation of a plain page of memory as it lies. -/
def page0 : Translation :=
  { frame := 0, size := 2, mtype := 0, enc := false, ns := false, ex := 0, kernel := false, writable := true, executable := true,
    w1 := true, x1 := true, snapshot := false }

/-- A line part of PLI.mac. -/
def part0 : Part :=
  { crew := 0, unit := .gang 0 0, fibre := 0, lane := 0, asid := 0, priv := true, major := 0x6D, s := 3, pc := 4, d := 0x240000,
    a := 0x240040, b := 0x240080, value := 5, gen := 0, pd := 0x240000, pa := 0x240040, pb := 0x240080, accepted := false, td := page0,
    ta := page0, tb := page0, issue := 1, order := 0, tags := [] }

/-- REP in L: the next doubleword is fetched, its line owned by no engine. -/
theorem witness_repL :
    let s := spot mapped .latency plain coded
    let c := seen s plain
    ready (.repL 3 1 1 1 0) s plain = true
      ∧ (c.start plain s).fetchHeld c.core c.asid c.priv ((c.fibre 0).codeVa (c.pc + 12)) = false
      ∧ ((c.start plain s).fetch c.core c.asid c.priv 0 c.crew.pair ((c.fibre 0).codeVa (c.pc + 12))).2.toOption = some 0 := by decide +kernel

/-- BRX to a header with LAND, and to a misaligned place; RET. -/
theorem witness_brx :
    (let s := spot mapped .density plain (regs [(8, 0x1000)] ∘ coded)
    let c := seen s plain
    let r := fetchTargets c [(0, 0x1000)] (c.start plain s)
    ready (.brxD 8 1) s plain = true ∧ (c.start plain s).fetchHeld c.core c.asid c.priv ((c.fibre 0).codeVa 0x1000) = false
      ∧ r.2.all (fun x => x.2.2.toOption.any hdrLand) = true ∧ r.2.length = 1
      ∧ ready (.retD 8) s plain = true ∧ ((c.fibre 0).val 8).toNat % 4 = 0)
    ∧ (let s := spot mapped .latency plain (regs [(8, 0x2000)] ∘ coded)
      let c := seen s plain
      let r := fetchTargets c [(0, 0x2000)] (c.start plain s)
      ready (.brxL 8 0) s plain = true ∧ r.2.all (fun x => x.2.2.toOption.any fun w => w.getLsbD 1) = true ∧ r.2.length = 1)
    ∧ (let s := spot mapped .latency plain (regs [(8, 0x2004)] ∘ coded)
      ready (.brxL 8 0) s plain = true ∧ (((seen s plain).fibre 0).val 8).toNat % 8 ≠ 0) := by decide +kernel

/-- END with no active lane, with one, and of a handler fibre. -/
theorem witness_end :
    (let s := spot locked .density never id
    decide (Ready .endD s u0 never (seen s never)) = true ∧ (seen s never).act = [])
    ∧ ready .endL (spot locked .latency plain id) plain = true
    ∧ (let s := spot locked .density plain fun k => { each (fun f => { f with handler := true }) k with
          delivery := some { unit := .gang 0 0, cause := 0x0E, fibre := 0, token := none, lanes := [0] } }
      ready .endD s plain = true ∧ (seen s plain).crew.delivery.isSome = true ∧ ((seen s plain).fibre 0).handler = true) := by
  decide +kernel

/-- A gang that traps, with a handler installed and room for its window. -/
def trapping (k : Kind) : State := spot mapped k plain coded

/-- TRAP where a handler is installed, and where none is. -/
theorem witness_trap :
    (let s := trapping .density
    let c := seen s plain
    ready (.trapD 5) s plain = true ∧ s.handler? 0 0x0E .density = some (0x1000, 0x100000, 4) ∧ c.crew.delivery = none
      ∧ c.crew.heldFault = none ∧ (c.fibre 0).handler = false ∧ s.recordHeld c.crew = false
      ∧ ((s.modCrew 0 fun k => { k with fibres := k.fibres ++
        [{ Fibre.empty with live := true, bound := false, handler := true, home := 0, size := 4 }] }).allotLoose 0 [1]).coreFits c.core = true
      ∧ quiet s = true)
    ∧ ready (.trapL 5) (trapping .latency) plain = true
    ∧ (let s := trapping .latency
      ready (.syscL 5) s plain = true ∧ s.handler? 0 0x0F .latency = none) := by decide +kernel

/-- The state after a step's outcome. -/
def after (o : Host.Outcome State Fault Refusal) : State :=
  match o with
  | .next t => t
  | _ => State.reset

/-- The handler fibre, about to issue. -/
def uh : UnitId := { crew := 0, kind := .bin 0 }

/-- The trap taken: the handler fibre issues, v8 holding a link that names nothing. -/
def handling : State :=
  { (after (exec (.trapD 5) (trapping .density))).modFibres 0 [1] (fun _ f => { f.setReg 8 (regOf 1 false) with wait := f.wait }) with
    turn := some (.issue uh plain) }

/-- RET by the trap-return link, and by one that does not name the fault. -/
theorem witness_trap_return :
    let c := (handling.ctx? uh plain).getD (seen handling plain)
    decide (Ready (.retD 7) handling uh plain c) = true ∧ decide (Ready (.retD 8) handling uh plain c) = true ∧ c.act = [1]
      ∧ (c.fibre 1).handler = true ∧ (c.fibre 1).priv = true ∧ ((c.fibre 1).val 7).getLsbD 0 = true
      ∧ c.crew.delivery = some { unit := .gang 0 0, cause := 0x0E, fibre := 1, token := none, lanes := [0] }
      ∧ 1 ∉ c.crew.members (.gang 0 0) ∧ c.crew.linesSince handling.tick = [] ∧ ((c.fibre 1).val 7).toNat / 2 ^ 16 = c.crew.faultSeq.toNat % 2 ^ 16
      ∧ ((c.fibre 1).val 7).getLsbD 7 = false ∧ ((c.fibre 1).val 7).toNat / 4 % 32 = 0
      ∧ ((c.fibre 1).val 8).toNat / 2 ^ 16 ≠ c.crew.faultSeq.toNat % 2 ^ 16 := by decide +kernel

/-- After the return the gang stands past TRAP, and no fault is in delivery. -/
theorem test_trap_and_return :
    let t := after (exec (.retD 7) handling)
    ((t.fibreAt 0 0).pc, (t.fibreAt 0 0).wait, (t.fibreAt 0 1).live) = (8, Wait.none, false)
      ∧ (t.crews.map fun k => k.delivery) = [none] := by decide +kernel

/-- HALT of an unpaired crew; TRAP and SYSC with no handler. -/
theorem witness_launch_ends :
    (let s := spot locked .density plain id
    ready .haltD s plain = true ∧ (seen s plain).crew.pair = none ∧ ready (.syscD 7) s plain = true
      ∧ s.handler? 0 0x0F .density = none ∧ s.handler? 0 0x0E .density = none)
    ∧ (let s := spot locked .density never id
      decide (Ready .haltD s u0 never (seen s never)) = true ∧ (seen s never).act = []) := by decide +kernel

/-- A block request of another crew of the core waits there. -/
def crowded (s : State) : State :=
  let n := s.crews.length
  let t := ((s.placeWords .density [0]).modFibres n [0] fun _ f => { f with wait := .blocks }).modCore 0 fun x => { x with
    requests := [{ crew := n, members := [0], pc := 4, places := [0], grow := 1, forks := [], asked := 1 }] }
  { t with turn := s.turn }

/-- FORK and FORK.try with room, where another request waits first, and with an index outside the entry table. -/
theorem witness_fork :
    let s := spot mapped .density plain (regs [(9, 1)] ∘ coded)
    let c := seen s plain
    ready (.forkD 9 2) s plain = true ∧ s.entryCount 0 0x100000 ≤ ((c.fibre 0).val 9).toNat ∧ quiet s = true
      ∧ ready (.forkD 8 2) s plain = true ∧ ready (.forkTryD 3 8 2) s plain = true ∧ s.entryCount 0 0x100000 = 1
      ∧ s.entry? 0 0x100000 0 = some { dpc := 0x1000, lpc := 0x2000, scratch := 0, dblk := 4, lblk := 4, acc := 0 }
      ∧ ((c.fibre 0).val 8).toNat = 0 ∧ (c.fibre 0).regs.length = 8 * (c.fibre 0).size ∧ s.crews.all (fun k => !k.mirror) = true
      ∧ ((s.modCrew 0 fun k => { k with
          fibres := k.fibres ++ [{ Fibre.empty with live := true, bound := false, home := 0, size := 2 }] }).allotLoose 0 [1]).coreFits c.core = true
      ∧ s.requestsOn c.core = [] ∧ s.handlerWaits c.core = false ∧ sound s = true
      ∧ ready (.forkD 8 2) (crowded s) plain = true ∧ ready (.forkTryD 3 8 2) (crowded s) plain = true
      ∧ (crowded s).requestsOn c.core ≠ [] ∧ ((crowded s).requestsOn c.core).all (fun r => !c.owns r) = true := by decide +kernel

/-- What FORK reads of the code object is neither held nor in error, leaves the entry as it is, and uses one stage-2 table. -/
theorem witness_fork_reads :
    let s := spot mapped .density plain (regs [(9, 1)] ∘ coded)
    let c := seen s plain
    let begun := c.start plain s
    let x := begun.peekedAll c.asid (c.forkReads 8 begun)
    c.forkReads 8 begun ≠ [] ∧ begun.readsHeld c.asid (c.forkReads 8 begun) = false ∧ c.forkErrors 8 begun = []
      ∧ begun.readsHeld c.asid (c.forkReads 9 begun) = false ∧ c.forkErrors 9 begun = [] ∧ x.requestsOn c.core = []
      ∧ begun.entryCount 0 0x100000 = 1 ∧ (x.entry? 0 0x100000 0).map Entry.dpc = some 0x1000 ∧ x.handlerWaits c.core = false
      ∧ (begun.stage2Used c.asid 0x100000 { priv := true }).all (fun at_ => decide (at_ + 8 ≤ 0x280000)) = true := by decide +kernel

/-- A window of four blocks. -/
def small : Crew → Crew := each fun f => { f with size := 4, regs := f.regs.take 32 }

/-- REGACQ with room up to the limit, where another request waits first, and past the limit; REGREL of all but one block, and of all. -/
theorem witness_regacq :
    let s := spot locked .density plain small
    let c := seen s plain
    ready (.regacqWaitD 4) s plain = true ∧ ready (.regacqTryD 3 4) s plain = true ∧ (c.fibre 0).size + 4 ≤ 8
      ∧ ((s.modFibres 0 [0] fun _ f => { f with
          size := f.size + 4, regs := f.regs ++ List.replicate 32 (regOf 0 false), dirty := List.range 8 }).allotLoose 0 [0]).coreFits c.core = true
      ∧ s.requestsOn c.core = [] ∧ s.handlerWaits c.core = false ∧ canonical s = true ∧ s.crews.all (fun k => !k.mirror) = true
      ∧ canonical (crowded s) = true ∧ (crowded s).requestsOn c.core ≠ [] ∧ ready (.regacqWaitD 4) (crowded s) plain = true ∧ ready (.regacqTryD 3 4) (crowded s) plain = true
      ∧ ready (.regacqWaitD 5) s plain = true ∧ 8 < (c.fibre 0).size + 5 ∧ ready (.regrelD 3) s plain = true
      ∧ ready (.regrelD 4) s plain = true ∧ (c.fibre 0).size < 4 + 1 := by decide +kernel

/-- DVT with a request pending and without; MIGR with both texts; CKPT of a stoppable crew. -/
theorem witness_migration :
    (let s := spot mapped .latency plain fun k => { k with pending := some .density }
    ready (.dvtL 5) s plain = true ∧ (seen s plain).crew.pending ≠ none)
    ∧ (let s := spot mapped .density plain coded
      let c := seen s plain
      ready (.migrD 0) s plain = true ∧ (c.start plain s).readsHeld c.asid [0x10004C] = false ∧ c.crew.desc.codeBase.toNat = 0x100000
        ∧ (c.start plain s).readsError c.asid [0x10004C] = none ∧ ready (.migrD 1) s plain = true
        ∧ ((c.start plain s).peekedAll c.asid [0x10004C]).hasText c.crew.desc .latency = true ∧ c.crew.gangs.length ≤ 16 ∧ c.crew.pending = none
        ∧ ready .ckptD s plain = true ∧ canonical s = true ∧ s.stoppable 0 = true ∧ c.crew.pair = none ∧ s.rel.poison = [] ∧ s.rel.correctable = []
        ∧ quiet s = true) := by decide +kernel

/-- The checks of a global access with n bytes pass for its lane at the address, at a plain place with nothing to miss. -/
def passes (s : State) (need : Need) (base : Nat) (off : Int) (n : Nat) : Bool :=
  let c := seen s plain
  match c.checkGlobal { need with priv := c.priv } n (c.globalLanes base off n) (c.start plain s) with
  | .ok (s', ts) => ts.length == 1 && decide (c.crew.pair = none ∧ s'.partials = [] ∧ s'.rel.poison = [] ∧ s'.rel.correctable = [])
      && (ts.all fun g => !inMmio (placeOf g) && !s'.owned (placeOf g / 64) && (s'.eccAt (placeOf g) n).isNone && !g.2.enc
        && !g.2.snapshot && placeOf g % n == 0 && (s'.past.all fun e => !e.meets none (placeOf g) n || !e.missable s'.now c.core (0, g.1.idx)) && quiet s'
        && decide (0x12000 + 256 * 4096 ≤ placeOf g))
      && (s'.coreAt c.core).l1.all fun l => l.data == s'.bytes (64 * l.line) 64
  | .error _ => false

/-- Loads and stores at plain places, the last byte of a page among them; the canonical form. -/
theorem witness_accesses :
    let s := spot mapped .density plain (regs [(8, 0x240000), (10, 0x3FFFFFFF)])
    canonical s = true ∧ passes s {} 8 0 4 = true ∧ ready (.ldD 12 8 2 0 0) s plain = true ∧ passes s {} 10 0 1 = true
      ∧ ready (.ldD 12 10 0 0 0) s plain = true ∧ ready (.ldaqD 12 8 3 5 1) s plain = true ∧ passes s {} 8 1 8 = true
      ∧ ready (.ldxD 12 8 0 15) s plain = true ∧ passes s {} 8 (-1) 8 = true ∧ ready (.stD 12 8 4 0 0) s plain = true
      ∧ passes s { write := true } 8 0 16 = true ∧ ready (.strlD 12 8 2 5 0) s plain = true ∧ s.parts = [] ∧ s.outbound = []
      ∧ s.unsentPorts (seen s plain).crew (fun _ _ _ => true) = [] ∧ s.followsUnsent 0 [(0, 0)] = false ∧ ready (.stxD 12 8 0 15) s plain = true ∧ ready (.stcD 12 8 4 6 0) s plain = true := by decide +kernel

/-- The same in L. -/
theorem witness_accesses_L :
    let s := spot mapped .latency plain (regs [(200, 0x240000)])
    passes s { write := true } 200 7 8 = true ∧ ready (.ldL 100 200 3 2 7) s plain = true ∧ ready (.stL 100 200 3 2 7) s plain = true
      ∧ passes s {} 200 0 4 = true ∧ ready (.ldaqL 100 200 2 0 0) s plain = true := by decide +kernel

/-- A lane whose address is not canonical, one misaligned, and one that does not translate. -/
theorem witness_access_faults :
    (let s := spot mapped .density plain (regs [(9, 0x8000), (10, 2)])
    ready (.ldD 12 8 2 0 0) s plain = true ∧ ((seen s plain).fibre 0).pair 8 = 2 ^ 47 ∧ ready (.atomD 12 10 14 0) s plain = true
      ∧ (((seen s plain).fibre 0).pair 10).toNat % 4 ≠ 0)
    ∧ (let s := spot mapped .density plain (regs [(8, 0x40000000)])
      let c := seen s plain
      ready (.stD 12 8 2 0 0) s plain = true ∧ ready (.stcD 12 8 4 6 0) s plain = true ∧ ready (.strlD 12 8 2 1 0) s plain = true
        ∧ ready (.ldaqD 12 8 2 3 0) s plain = true ∧ c.walksHeld true ((c.globalLanes 8 0 4).map GAccess.ea) (c.start plain s) = false
        ∧ c.walkErrors true (c.globalLanes 8 0 4) (c.start plain s) = [] ∧ c.walksHeld false ((c.globalLanes 8 0 4).map GAccess.ea) (c.start plain s) = false
        ∧ c.walkErrors false (c.globalLanes 8 0 4) (c.start plain s) = []
        ∧ (failedLanes (translateLanes c.core c.asid { priv := c.priv } (c.globalLanes 8 0 4) (c.start plain s)).2).length = 1
        ∧ (failedLanes (translateLanes c.core c.asid { write := true, priv := c.priv } (c.globalLanes 8 0 4) (c.start plain s)).2).length = 1) := by
  decide +kernel

/-- FENCE and IFENCE with every token complete, and with one pending; PREF at an address that fails. -/
theorem witness_fences :
    (let s := spot locked .density plain id
    ready (.fenceD 1 0 5) s plain = true ∧ ready .ifenceD s plain = true ∧ ((seen s plain).crew.tokens u0.kind) = Tokens.fresh
      ∧ (seen s plain).crew.pair = none ∧ s.parts = [] ∧ s.outbound = [] ∧ canonical s = true
      ∧ s.copiesAhead ((seen s plain).ids (seen s plain).act) = false ∧ (seen s plain).act ≠ [])
    ∧ (let s := spot locked .density plain fun k => { k with gangs := [{ counts := [0, 0, 0, 0, 0, 0, 0, 1], deferred := [] }] }
      ready (.fenceD 1 0 0) s plain = true ∧ ((seen s plain).crew.tokens u0.kind).counts.getD 7 0 ≠ 0)
    ∧ (let s := spot locked .density plain (regs [(9, 0x8000)])
      ready (.prefD 8 0 0) s plain = true ∧ ((seen s plain).globalLanes 8 0 1).all (fun g => g.bad 1) = true)
    ∧ ready (.iprefD 16) (spot locked .density plain id) plain = true
    ∧ (let s := spot mapped .density plain (regs [(8, 0x240000)] ∘ coded)
      let c := seen s plain
      ready (.prefD 8 0 0) s plain = true ∧ ready (.iprefD 16) s plain = true ∧ sound s = true ∧ quiet s = true
        ∧ ((c.globalLanes 8 0 1).flatMap fun g => (c.start plain s).entriesOf c.asid (va48 g.ea) { priv := c.priv }) = [0x30000]
        ∧ (c.start plain s).entriesOf c.asid ((c.fibre 0).codeVa (branchTarget c 16) / 64 * 64) { fetch := true, priv := c.priv } = [0x30000]) := by
  decide +kernel

/-- A global atomic whose checks pass, and one lane's read-modify-write through a cached translation. -/
theorem witness_atom :
    let s := spot mapped .density plain (regs [(8, 0x240000)])
    let c := seen s plain
    let gs := c.globalLanes 8 0 4
    ready (.atomD 12 8 14 7) s plain = true ∧ c.act ≠ [] ∧ quiet s = true ∧ c.crew.pair = none
      ∧ (match c.checkWith atomPlace { write := true, priv := c.priv } 4 gs (c.start plain s) with
        | .ok (sw, _) =>
          let r := translateLanes c.core c.asid { priv := c.priv } gs { c.start plain s with draws := sw.draws }
          (failedLanes r.2).isEmpty && (passedLanes r.2).all fun g => !r.1.owned (placeOf g / 64) && (r.1.eccAt (placeOf g) 4).isNone
        | .error _ => false) = true
      ∧ (match s.translate c.core c.asid 0x240000 { write := true, priv := c.priv } with
        | (q, .ok t) => (match q.translate c.core c.asid 0x240000 { write := true, priv := c.priv } with
            | (q', .ok t') => decide (q' = q ∧ t' = t)
            | (_, .error _) => false)
          && decide (q.partials = [] ∧ q.rel.correctable = [] ∧ t.enc = false ∧ t.snapshot = false ∧ inMmio (t.pa 0x240000) = false
            ∧ (q.coreAt c.core).l1 = [])
        | (_, .error _) => false) = true := by decide +kernel

/-- A crew whose gang's v8 addresses byte 16 of its scratchpad, the last four bytes, an object at 64 and a block at 32. -/
def scratching (f : Crew → Crew) : State :=
  spot locked .density plain (f ∘ regs [(8, 16), (9, 252), (10, 64), (11, 0), (12, 32), (13, 1), (16, 32768)] ∘ fun k =>
    { k with desc := { k.desc with scrSize := 256, accCount := 2 }
             scr := [(6, 0x20), (14, 0x20), (20, 0x80), (40, 0x80), (41, 0x0B), (42, 0x80), (64, 1), (66, 1)] })

/-- LDS and STS of every mode: plain at the last word, consuming and waiting at full and at empty granules. -/
theorem witness_scratchpad :
    (let s := scratching id
    let c := seen s plain
    ready (.ldsD 20 9 2 0 0) s plain = true ∧ ready (.ldsD 20 8 2 1 0) s plain = true ∧ ready (.stsD 20 8 3 2 0) s plain = true
      ∧ scratchAt c 9 0 4 0 + 4 = c.crew.scrBase + c.crew.desc.scrSize ∧ scratchAt c 9 0 4 0 % 4 = 0
      ∧ (c.fibre 0).nextLane = 0 ∧ s.rel.correctable = [] ∧ s.scrError 0 252 4 = false ∧ c.crew.full = []
      ∧ scratchAt c 8 0 8 0 = 16 ∧ s.scrError 0 16 8 = false)
    ∧ (let s := scratching fun k => { k with full := [1] }
      ready (.ldsD 20 8 2 1 0) s plain = true ∧ ready (.ldsD 20 8 2 2 0) s plain = true
        ∧ (scratchAt (seen s plain) 8 0 4 0 - (seen s plain).crew.scrBase) / 16 = 1 ∧ (seen s plain).crew.full = [1]
        ∧ ready (.stsD 20 8 2 1 0) s plain = true ∧ ready (.atomsD 20 8 13 7) s plain = true
        ∧ ready (.stsD 20 8 2 2 0) s plain = true) := by decide +kernel

/-- ARV at an object; AWT past its phase, and at it. -/
theorem witness_objects :
    let s := scratching id
    let c := seen s plain
    ready (.arvD 20 10 13) s plain = true ∧ ready (.awtD 20 10 13) s plain = true ∧ scratchAt c 10 0 8 0 = 64
      ∧ s.scrError 0 64 8 = false ∧ (leDWord (getBytes c.crew.scr 64 8)).getLsbD 32 = false
      ∧ ((c.fibre 0).val 13).getLsbD 0 = true ∧ ready (.awtD 20 10 14) s plain = true ∧ ((c.fibre 0).val 14).getLsbD 0 = false := by
  decide +kernel

/-- Two fibres in one gang. -/
def two (k : Crew) : Crew := { k with fibres := k.fibres ++ k.fibres.map fun f => { f with home := 1, ident := 1, sub := 1 } }

/-- BAR where every bound fibre has arrived, and where one has not; the last barrier. -/
theorem witness_barriers :
    (let s := spot locked .density plain id
    ready (.barD 15) s plain = true ∧ (seen s plain).crew.fibres.length = 1 ∧ 15 < (seen s plain).crew.barriers.length
      ∧ (seen s plain).crew.fibres.all (fun f => f.ident == 0) = true ∧ ready (.brdD 20 63) s plain = true
      ∧ ready (.bwrD 20 63) s plain = true ∧ ready (.batomD 20 12 7 0) s plain = true)
    ∧ (let s := spot locked .density plain two
      ready (.barD 0) s plain = true ∧ (seen s plain).crew.fibres.map Fibre.home = [0, 1] ∧ (seen s plain).all = [0]
        ∧ (seen s plain).crew.fibres.any (fun f => f.live && f.bound && f.ident == 1) = true
        ∧ ((seen s plain).crew.barriers.getD 0 { phase := false, arrived := [] }).arrived = []) := by decide +kernel

/-- A copy fault attached to token 7. -/
def attached : Deferred :=
  { token := 7, kind := .density, pc := 4, hdr := 0, cause := 0x07, info := 0, active := [0], entries := [(0, [0, 0])], word := 0, ext := 0, group := 0 }

/-- WAITT with every token complete, with one pending and with a fault attached; TOKQ. -/
theorem witness_tokens :
    (let s := spot locked .density plain id
    ready (.waittD 255) s plain = true ∧ ((seen s plain).crew.tokens u0.kind) = Tokens.fresh ∧ ready (.tokqD 3 7 1) s plain = true)
    ∧ (let s := spot locked .density plain fun k => { k with gangs := [{ counts := [0, 0, 0, 0, 0, 0, 0, 1], deferred := [] }] }
      ready (.waittD 128) s plain = true ∧ ((seen s plain).crew.tokens u0.kind).counts.getD 7 0 ≠ 0)
    ∧ (let s := spot locked .density plain fun k => { k with gangs := [{ Tokens.fresh with deferred := [attached] }] }
      ready (.waittD 128) s plain = true ∧ ((seen s plain).crew.tokens u0.kind).deferred = [attached]
        ∧ ready (.tokqD 3 6 1) s plain = true) := by decide +kernel

/-- CPA of every form with sound operands. -/
theorem witness_copies :
    let s := spot mapped .density plain (regs [(8, 0x240000), (10, 0x250000), (12, 240), (13, 16)] ∘ scratched)
    let c := seen s plain
    ready (.cpaD 12 8 2 7 0) s plain = true ∧ ready (.cpaD 8 12 2 7 1) s plain = true ∧ ready (.cpaD 8 10 2 7 2) s plain = true
      ∧ ready (.cpaD 12 13 2 7 3) s plain = true ∧ ((c.fibre 0).val 12).toNat + 16 = c.crew.scrBase + c.crew.desc.scrSize
      ∧ quiet s = true ∧ c.act ≠ []
      ∧ c.walksHeld true [(c.fibre 0).pair 8] (c.start plain s) = false ∧ c.walksHeld false [(c.fibre 0).pair 8, (c.fibre 0).pair 10] (c.start plain s) = false
      ∧ ([(12, 8, 0), (8, 12, 1), (8, 10, 2), (12, 13, 3)].all fun x => (c.cpaErrors x.1 x.2.1 x.2.2 (c.start plain s)).isEmpty
          && (c.cpaFailed x.1 x.2.1 x.2.2 (c.start plain s)).2.isEmpty) = true
      ∧ (c.cpaChecked 8 10 2 (c.start plain s)).engineLine c.core c.asid 0x240000 = some (0x240000 / 64) := by
  decide +kernel

/-- Matrix operations and tile stores with sound blocks; tiles named within the crew's, and one beyond. -/
theorem witness_matrix :
    let s := scratching fun k => { k with desc := { k.desc with scrSize := 16384 } }
    let c := seen s plain
    let w := (List.range 8).map fun i => leWord (getBytes c.crew.scr (4 * i) 4)
    let v := (List.range 4).map fun i => leWord (getBytes c.crew.scr (32 + 4 * i) 4)
    ready (.mmaf8aD 11 7) s plain = true ∧ ready (.mmah16D 11 0) s plain = true ∧ ready (.mmak8D 11 30 1 3) s plain = true
      ∧ ready (.accstD 12 5) s plain = true ∧ c.crew.scrBase = 0 ∧ s.scrError 0 0 32 = false ∧ s.scrError 0 32 16 = false
      ∧ ((c.fibre 0).val 11).toNat = 0 ∧ ((c.fibre 0).val 12).toNat = 32
      ∧ mmaReason c.crew 0x63 w = none ∧ mmaReason c.crew 0x67 w = none ∧ (w.getD 5 0).toNat = 128 ∧ 30 + 1 < 8 * (c.fibre 0).size
      ∧ accstReason c.crew v = none ∧ (v.getD 2 0).getLsbD 7 = true ∧ accstBad c.crew v = none
      ∧ ready (.accrdD 20 8 6 1) s plain = true ∧ ready (.accwrD 20 8) s plain = true ∧ c.crew.tileBusy u0.kind 0 s.tick = false
      ∧ s.rel.poison = [] ∧ s.rel.correctable = [] ∧ ready (.acczD 1) s plain = true ∧ c.crew.tileBusy u0.kind 1 s.tick = false
      ∧ ready (.acczD 2) s plain = true ∧ c.crew.desc.accCount = 2 ∧ ready (.accrdD 20 16 6 1) s plain = true
      ∧ ready (.accwrD 20 16) s plain = true ∧ elemIndex ((c.fibre 0).val 16) / 2 ^ 14 = 2 := by decide +kernel

/-- Placed instructions whose lines pass the checks; GENBUMP where the table of address spaces is locked in. -/
theorem witness_placed :
    let s := spot mapped .density plain (regs [(8, 0x240000), (10, 0x240040), (12, 0x240080), (14, 1)])
    let c := seen s plain
    let lines := fun (b : Nat) => c.act.map fun p =>
      { lane := c.lane p, fibre := p, d := (c.fibre p).pair 8, a := (c.fibre p).pair 10, b := (c.fibre p).pair b, value := (c.fibre p).val 10 : Lines }
    ready (.pliD 8 10 12 3) s plain = true ∧ ready (.plfD 8 10 12 5) s plain = true ∧ ready (.plredD 8 14 7) s plain = true
      ∧ ready .genbumpD s plain = true ∧ (c.fibre 0).accepted = none ∧ s.spaceHeld c.asid = false ∧ canonical s = true ∧ c.crew.pair = none ∧ s.spaceAt? 0 = some 0x10000
      ∧ (c.checkLines 0x6D 3 (lines 12) (c.start plain s)).isOk = true ∧ (c.checkLines 0x6E 5 (lines 12) (c.start plain s)).isOk = true
      ∧ (c.checkLines 0x6F 7 (lines 0) (c.start plain s)).isOk = true
      ∧ (let t := { s with parts := [{ part0 with pd := 0x10000, accepted := true }] }
        t.spaceHeld c.asid = true ∧ ready .genbumpD t plain = true) := by decide +kernel

/-- XLQ of an address that translates and of one that does not; CHUNK at a sound record. -/
theorem witness_queries :
    let s := spot mapped .density plain (regs [(8, 0x240000), (11, 1)])
    let c := seen s plain
    quiet s = true ∧ inDram 0x1000000000000 = false ∧ ready (.xlqD 20 8) s plain = true ∧ ready (.xlqD 20 10) s plain = true ∧ (s.coreAt c.core).tlb = []
      ∧ ([8, 10].all fun a => !c.walksHeld false ((c.xlqAccesses a).map GAccess.ea) s && (c.walkErrors false (c.xlqAccesses a) s).isEmpty) = true
      ∧ ready (.chunkD 20 8) s plain = true ∧ ((c.fibre 0).pair 8).toNat % 16 = 0
      ∧ (match c.checkLines 0x6F 0 [{ lane := 0, fibre := 0, d := (c.fibre 0).pair 8, a := 0, b := 0, value := 0 }] (c.start plain s) with
        | .ok (s', good) => good.all (fun g => !s'.owned (g.2.1.pa (va48 g.1.d) / 64) && (s'.eccAt (g.2.1.pa (va48 g.1.d)) 16).isNone
            && !inMmio (g.2.1.pa (va48 g.1.d)) && !g.2.1.enc && !g.2.1.snapshot) && s'.partials.isEmpty
        | .error _ => false) = true := by decide +kernel

/-- The conditions under which the checks of R60 are made. -/
def checked (i : Instr) (s : State) (pf : Prefix) : Bool :=
  let c := seen s pf
  decide (s.turn = some (.issue u0 pf) ∧ s.ctx? u0 pf = some c ∧ c.loosePending = []
    ∧ c.tokenWait pf (c.fibre (c.all.headD 0)).hdrWord s = none
    ∧ c.mustStop = false ∧ c.stalled i = false)

/-- Memory locked in, with uncorrectable and single-bit errors in place. -/
def struck (bad weak : List Poison) : State :=
  { locked with rel := { locked.rel with poison := bad, correctable := weak } }

/-- Each check of R60 in turn: encoding, field, a stepped operand, loose, privilege, window; then a register's error, and one
that the mirror serves. -/
theorem witness_checks :
    checked (.movD 1 2 2) (spot locked .density plain id) plain = true ∧ (Instr.movD 1 2 2).encFault plain = some .illegalOp
    ∧ checked (.sreadD 1 22) (spot locked .density plain id) plain = true ∧ (Instr.sreadD 1 22).encFault plain = some .illegalField
    ∧ checked (.iaddD 5 6 8 1) (spot locked .density plain id) plain = true
    ∧ ((seen (spot locked .density plain id) plain).operands (Instr.iaddD 5 6 8 1).info).any (fun o => (o.1.num + o.2) % o.1.align != 0) = true
    ∧ (let s := { spot locked .density plain (fun k => { each (fun f => { f with bound := false, bin := some 0 }) k with
          bins := [{ tokens := Tokens.fresh, issued := true, aged := false, born := 0, changed := 0 }] }) with turn := some (.issue uh plain) }
      (s.ctx? uh plain).any (fun c => (c.loosePending == []) && (c.fibre 0).bound == false && c.stalled (.barD 0) == false
        && (c.tokenWait plain 0 s).isNone) = true ∧ (Instr.barD 0).info.loose = true)
    ∧ (let s := spot locked .density plain (each fun f => { f with priv := false })
      checked (.swriteD 1 20) s plain = true ∧ checked .haltD s plain = true ∧ (Instr.haltD).info.priv = true
        ∧ ((seen s plain).fibre 0).priv = false ∧ ((seen s plain).fibre 0).bound = true)
    ∧ (let s := spot locked .density plain small
      checked (.iaddD 32 0 0 0) s plain = true ∧ outside { num := 32, span := 1, align := 1 } 0 ((seen s plain).fibre 0) = true)
    ∧ (let s := spot (struck [.register 0 0 6, .sticky 0 0 7] []) .density plain id
      checked (.iaddD 5 6 7 0) s plain = true ∧ s.badRegs (seen s plain) (.iaddD 5 6 7 0) = [(0, 0, 6)]
        ∧ (seen s plain).crew.mirror = false ∧ s.badRegs (seen s plain) (.iaddD 5 7 7 0) = [(0, 1, 7)])
    ∧ (let s := spot (struck [.register 0 0 6] [.register 0 0 7]) .density plain fun k => { k with mirror := true }
      checked (.iaddD 5 6 7 0) s plain = true ∧ ((seen s plain).start plain s).mirroring 0 = true) := by
  decide +kernel

/-- It is an event's turn. -/
def due (s : State) (i : Instr) (a : EvArg) : State := { s with turn := some (.event i a) }

/-- CLAUSE_ENTRY at a sound clause, and at a word that is no header. -/
theorem witness_clause_entry :
    (let s := spot mapped .density plain (coded ∘ each fun f => { f with clause := [], pc := 0x1000, hdr := 0x1000 })
    let c := seen s plain
    let f := c.fibre 0
    let h := c.code f.hdr 1 s
    let ws := c.code (f.hdr + 4) 1 h.1
    c.kind.isL = false ∧ f.clause = [] ∧ c.fetchWaits f.hdr 1 s = false ∧ c.fetchWaits (f.hdr + 4) 1 h.1 = false
      ∧ h.2.toOption = some [0x1001E800] ∧ headerOk 0x1001E800 = true
      ∧ (0x1001E800 : Word).getLsbD 12 = false ∧ (0x1001E800 : Word).toNat / 2 ^ 28 = 1 ∧ ws.2.toOption = some [0x02000000]
      ∧ clauseOk 0x1001E800 [0x02000000] = true)
    ∧ (let s := spot mapped .density plain (coded ∘ each fun f => { f with clause := [], pc := 0x3000, hdr := 0x3000 })
      let c := seen s plain
      (c.code 0x3000 1 s).2.toOption = some [0] ∧ headerOk 0 = false) := by decide +kernel

/-- A bin with nothing but its tokens. -/
def bin0 : Bin := { tokens := Tokens.fresh, issued := false, aged := false, born := 0, changed := 0 }

/-- The only fibre made loose, in a bin that has not issued. -/
def loosened (k : Crew) : Crew := { each (fun f => { f with bound := false, bin := some 0 }) k with bins := [bin0] }

/-- The request of the lone unit for n blocks. -/
def asks (n : Nat) (s : State) : State :=
  s.modCore 0 fun x => { x with requests := [{ crew := 0, members := [0], pc := 4, places := [0], grow := n, forks := [], asked := n }] }

/-- TOKEN_WAIT_RESUME, REGISTER_GRANT, BIN_AGE_EXPIRY, BIN_ISSUE and GANG_SLOT_SWAP. -/
theorem witness_units_resume :
    (let s := due (spot locked .density plain (each fun f => { f with wait := .tokens 128 })) .tokenWaitResume { unit := u0 }
    (s.crews[0]?).any (fun k => k.members u0.kind == [0] && (k.tokens u0.kind == Tokens.fresh)) = true)
    ∧ (let s := due (asks 4 (spot locked .density plain (small ∘ each fun f => { f with wait := .blocks }))) .registerGrant {}
      s.requestsOn 0 = [{ crew := 0, members := [0], pc := 4, places := [0], grow := 4, forks := [], asked := 4 }] ∧ s.waitersOf { crew := 0, members := [0], pc := 4, places := [0], grow := 4, forks := [], asked := 4 } = [0]
        ∧ s.requestFits 0 { crew := 0, members := [0], pc := 4, places := [0], grow := 4, forks := [], asked := 4 } = true
        ∧ (s.crews[0]?).any (fun k => k.members u0.kind == [0]) = true ∧ s.handlerWaits 0 = false)
    ∧ (let s := spot locked .density plain loosened
      (s.crews[0]?).any (fun k => k.members (.bin 0) == [0] && k.bins == [bin0]) = true
        ∧ s.binsOn 0 = [(0, 0, bin0)] ∧ s.coreIdle 0 = true ∧ canonical s = true) := by decide +kernel

/-- REG_DEADLOCK of a crew alone on its core, and of one of two. -/
theorem witness_reg_deadlock :
    (let s := asks 5000 (spot locked .density plain (each fun f => { f with wait := .blocks }))
    s.regDeadlocked 0 = true ∧ s.residents 0 = [0] ∧ (s.requestsOn 0).map Request.crew = [0]
      ∧ s.crews.all (fun k => k.heldFault.isNone && !s.recordHeld k) = true)
    ∧ (let s := ((spot locked .density plain id).placeWords .density [0]).modCrew 1 fun k => { k with core := 0 }
      let s := asks 5000 ((s.modFibres 0 [0] fun _ f => { f with wait := .blocks }).modFibres 1 [0] fun _ f => { f with wait := .blocks })
      s.residents 0 = [0, 1] ∧ s.regDeadlocked 0 = true ∧ s.crews.all (fun k => k.heldFault.isNone && !s.recordHeld k) = true
        ∧ ((s.recordDeadlock { crew := 0, members := [0], pc := 4, places := [0], grow := 5000, forks := [], asked := 5000 }).modCrew 0
            fun x => { x with reserve := 5000 }).copiesStop 0 = true) := by decide +kernel

/-- A lane copy of four bytes. -/
def copy4 (form : Nat) (src dst : DWord) (bytes : Option (List Byte)) : LaneCopy :=
  { lane := 0, form := form, bsel := 0, len := 4, src := src, dst := dst, done := 0, token := 7, unit := .gang 0 0, fibre := 0, kind := .density, priv := true,
    pc := 4, hdr := 0, word := 0, ext := 0, bytes := bytes, line := none, fault := none, order := 0, group := 0, tags := [] }

/-- ENGINE_LINE_WRITE, SCRATCH_GRANULE_LANDING, COPY_COMPLETE and DEFERRED_COPY_FAULT. -/
theorem witness_copies_land :
    (let s := spot mapped .density plain fun k => { k with copies := [{ copy4 1 0 0x240000 (some [1, 2, 3, 4]) with line := some (0x240000 / 64) }] }
    s.walkHeld 0 0 0x240000 true = false ∧ s.walkError 0 0 0x240000 true = none ∧ quiet s = true ∧ (match s.translate 0 0 0x240000 { write := true, priv := true } with
      | (s1, .ok t) => t.pa 0x240000 == 0x240000 && !t.enc && !t.snapshot && !inMmio (t.pa 0x240000) && !s1.ownedBefore (t.pa 0x240000 / 64) 0
      | (_, .error _) => false) = true ∧ s.partials = [])
    ∧ (let s := spot locked .density plain fun k => { scratched k with copies := [copy4 3 0 252 (some [1, 2, 3, 4])] }
      (s.crews[0]?).any (fun k => k.status == .resident && k.copies.length == 1) = true ∧ s.rel.poison = [] ∧ s.rel.correctable = []
      ∧ 252 % 16 + 4 = 16 ∧ quiet s = true)
    ∧ (let s := spot locked .density plain fun k => { k with copies := [{ copy4 3 0 252 none with done := 4 }] }
      (s.crews[0]?).any (fun k => k.fibres.any Fibre.live && k.copies.all fun x => x.fault.isNone && decide (x.len ≤ x.done)) = true)
    ∧ (let s := spot locked .density plain fun k => { k with copies := [copy4 2 0x240000 0x250000 none] }
      (match (s.copyStep 0 0).2 with
        | .error (.fails _ _ _ _) => true
        | _ => false) = true ∧ s.protectedCrew 0 = false) := by decide +kernel

/-- A matrix operation on blocks of zeros. -/
def mat (k : Nat) : MatJob :=
  { major := 0x68, block := [0, 0x00200000, 0, 0x00200000, 1, BitVec.ofNat 32 k, 0, 0], lane := 0, token := 7, bsel := 0,
    unit := .gang 0 0, pc := 4, done := 0, order := 0, scaleA := [], scaleB := [], kind := .density, hdr := 0, word := 0, ext := 0, failed := false }

/-- A tile store into the scratchpad. -/
def store (row : Nat) : StoreJob :=
  { block := [0, 0, 0x00800B80, 0], kind := .density, token := 7, lane := 0, unit := .gang 0 0, fibre := 0, priv := true, pc := 4, hdr := 0, word := 0, ext := 0,
    done := row, lines := [], fault := none, order := 0, tags := [] }

/-- MMA_BLOCK_ADD of the last block and of one before it; ACCST_ROW_WRITE of the last row and of the first. -/
theorem witness_matrix_engines :
    let s := spot locked .density plain fun k => { scratched k with mats := [mat 128], stores := [store 127] }
    let t := spot locked .density plain fun k => { scratched k with mats := [mat 256], stores := [store 0] }
    (s.crews[0]?).any (fun k => k.status == .resident && !k.tileBusy (.gang 0 0) 1 0 && !k.tileBusy (.gang 0 0) 0 0) = true
      ∧ (t.crews[0]?).any (fun k => k.fibres.any Fibre.live && !k.tileBusy (.gang 0 0) 1 0 && !k.tileBusy (.gang 0 0) 0 0) = true
      ∧ (mat 128).failed = false ∧ (mat 128).tile = 1 ∧ (store 127).tile = 0 ∧ ((store 0).block.getD 2 0).getLsbD 7 = true ∧ canonical s = true ∧ quiet s = true
      ∧ s.rel.poison = [] ∧ s.rel.correctable = [] := by
  decide +kernel

/-- HOME_ACCESS_ARRIVAL of a part alone, of one of two, and of one of an older generation; PLACED_PART_EXECUTE;
GENBUMP_COMPLETE. -/
theorem witness_placed_parts :
    (let s := { spot mapped .density plain (each fun f => { f with wait := .parts }) with parts := [part0] }
    part0.gen = s.genAt 0 (genDie part0.pd) ∧ s.partErrors part0 = [] ∧ (s.crews[0]?).any (fun k => (k.fibre 0).wait == .parts) = true)
    ∧ (let s := { spot mapped .density plain id with parts := [{ part0 with accepted := true }] }
      let p := { part0 with accepted := true }
      s.computable p = true ∧ s.partials = [] ∧ s.rel.poison = [] ∧ s.rel.correctable = [] ∧ inMmio p.pd = false
        ∧ p.pd = p.td.pa (p.d.toNat % 2 ^ 48) ∧ p.td.enc = false ∧ p.td.snapshot = false ∧ p.ta.enc = false ∧ p.tb.enc = false
        ∧ 0x12000 + 256 * 4096 ≤ p.pd ∧ quiet s = true)
    ∧ (let s := { spot mapped .density plain (each fun f => { f with wait := .parts }) with parts := [{ part0 with major := 0x6F }] }
      s.owned (part0.pd / 64) = false ∧ part0.td.snapshot = false ∧ s.partials = [] ∧ s.rel.poison = [] ∧ (s.crews[0]?).any (fun k => k.pair.isNone) = true
        ∧ (let t := { s with partials := [{ pa := part0.pd, op := 0, value := 5, nan := 0, tags := [], asid := 0, enc := false }] }
          t.partials.length = 1))
    ∧ (let s := { spot mapped .density plain id with parts := [{ part0 with gen := 3 }] }
      3 ≠ s.genAt 0 (genDie part0.pd)
        ∧ (match s.lineTr 0 0 true 0x6D 3 { lane := 0, fibre := 0, d := part0.d, a := part0.a, b := part0.b, value := 5 } with
          | (_, .ok t) => !splitPlace 0x6D 3 t
          | (_, .error _) => false) = true ∧ s.replayWaits 0 { part0 with gen := 3 } = false
        ∧ s.linesHeld 0 0 0x6D 3 part0.lines = false ∧ s.linesError 0 0 0x6D 3 part0.lines = none)
    ∧ (let s := { spot locked .density plain (each fun f => { f with wait := .genbump }) with bumps := [{ asid := 0, unit := u0 }] }
      s.parts = [] ∧ (s.crews[0]?).any (fun k => k.members u0.kind == [0]) = true) := by decide +kernel

/-- Port accesses of bound and unbound ports, the last byte of a line, and of a notify page. -/
theorem witness_ports :
    inDram 0x24003C = true ∧ 0x24003C % 64 + 4 = 64 ∧ locked.owned (0x24003C / 64) = false ∧ locked.partials = []
      ∧ quiet locked = true ∧ 1 ≤ locked.aon.bringUp ∧ canonical locked = true ∧ (0 : Nat) ∉ locked.aon.peers ∧ 0x24003C / 64 ≠ (0x24003C + 8 - 1) / 64
      ∧ locked.owned ((0x8100000000000 + 0x20000 * 4095) / 64) = false := by decide +kernel

/-- A packet not yet started. -/
def packet (ws : List Word) : Packet :=
  { words := ws, started := false, completed := false, next := 0, launch := none, stalled := none, watched := none, rejected := none }

/-- Queue 0: a ring of four slots at 0x260000, address space 0, enabled, privileged, every packet type, one range of the first
GiB; a NOP in slot 0; a FILL command at 0x268000. -/
def queueTable : State :=
  [(0x12000, 0x260000), (0x12008, 0x80000002), (0x12020, 0x10000005E), (0x12028, 0x200000), (0x12030, 0x100001000), (0x12048, 0x40000000),
    (0x260000, 0x0D), (0x268000, 0x400000002), (0x268008, 0x270000), (0x268010, 7)].foldl
    (fun s (x : Nat × Nat) => { s.store64 x.1 x.2 with past := [] }) mapped

/-- The queue's lock held by command core 0, with packets taken. -/
def queued (s : State) (ps : List Packet) : State :=
  s.modQueue 0 fun x => { x with lock := some 0, notified := true, desc := s.queueDesc 0, packets := ps }

/-- NOTIFY of an enabled queue and of one that is not; PACKET_TAKE at a VALID slot, at an empty one, at one that does not
translate, and at a packet that fails the validator; THAW of a frozen queue. -/
theorem witness_queues :
    (descEnable (queueTable.queueDesc 0) = true ∧ queueTable.aon.bringUp = 6 ∧ queueTable.partials = [] ∧ quiet queueTable = true ∧ descEnable (queueTable.queueDesc 1) = false ∧ queueTable.queueAddr? 0 = some 0x12000
      ∧ canonical queueTable = true)
    ∧ (let s := queued queueTable []
      let d := (s.queueAt 0).desc
      let va := descSlot d (s.word64 0x12010)
      let r := s.devRead (descAsid d) (descPriv d) va 64
      (s.queueAt 0).lock.isSome = true ∧ (s.queueAt 0).notified = true ∧ s.outbound = [] ∧ s.partials = [] ∧ s.frozen 0 = false ∧ (s.queueAt 0).ringStall = none ∧ s.releaseHeld 0 [0x1D] = false ∧ va = 0x260000
        ∧ s.areaHeld (descAsid d) va 64 false = false ∧ s.areaHeld (descAsid d) va 64 true = false ∧ canonical s = true
        ∧ (r.1.packetReads d [0x0D]).all (fun v => !r.1.readsHeld (descAsid d) [v]) = true
        ∧ r.2.toOption.map (fun b => recWords b 1) = some [0x0D]
        ∧ (r.1.devWrite (descAsid d) (descPriv d) va (leBytes 4 0x0C)).2.isOk = true ∧ r.1.packetCause d [0x0D] = none
        ∧ r.1.packetCause d [0x1D] = some 0x01
        ∧ (s.devRead (descAsid d) (descPriv d) (descSlot d 1) 64).2.toOption.map (fun b => recWords b 1) = some [0])
    ∧ (let s := queued (queueTable.store64 0x12000 0x40000000) []
      let d := (s.queueAt 0).desc
      s.areaHeld (descAsid d) (descSlot d 0) 64 false = false ∧ s.areaHeld (descAsid d) (descSlot d 0) 64 true = false ∧ (s.devRead (descAsid d) (descPriv d) (descSlot d 0) 64).2.isOk = false)
    ∧ (queueTable.store64 0x12018 0x80000000).frozen 0 = true
    ∧ (let s := queued queueTable [{ packet [0x1D] with rejected := some 0x01 }]
      (s.queueAt 0).packets.findIdx? (fun x => x.rejected.isSome) = some 0 ∧ s.releaseHeld 0 [0x1D] = false ∧ s.queueAddr? 0 = some 0x12000) := by decide +kernel

/-- A LAUNCH of one crew of one fibre of the code object's entry 0. -/
def launchWords : List Word := [0x02, 0, 0x100000, 0, 0, 1, 0x10001, 1, 0, 0, 0, 0, 0, 0, 0, 0]
/-- A SIGNAL that sets, a WAITSIG that holds and one that does not, a CMDBLOCK of one command, a NOP with a signal. -/
def signalWords : List Word := [0x06, 1, 0x270000, 0, 5, 0, 0, 0, 0, 0, 0, 0, 0, 0, 0, 0]
def waitWords (v : Word) : List Word := [0x08, 0, 0x270000, 0, v, 0, 0, 0, 0, 0, 0, 0, 0, 0, 0, 0]
def blockWords : List Word := [0x04, 1, 0x268000, 0, 0, 0, 0, 0, 0, 0, 0, 0, 0, 0, 0, 0]
def nopWords : List Word := [0x20C, 0, 0, 0, 0, 0, 0, 0, 0, 0, 0x270008, 0, 0, 0, 0, 0]

/-- Each packet validates, may start alone and behind a started one, and no engine holds its signal; each type named. -/
theorem witness_packets_start :
    [launchWords, signalWords, waitWords 0, waitWords 1, blockWords, nopWords].all (fun ws =>
      let s := queued queueTable [packet ws]
      let t := queued queueTable [{ packet launchWords with started := true }, packet ws]
      s.mayStart 0 0 && t.mayStart 0 1 && !s.signalHeld 0 ws && (s.packetCause (s.queueAt 0).desc ws).isNone
        && !s.protectedRuns 0) = true
    ∧ (let s := queued queueTable [packet launchWords]
      s.viewReads 0 0x100000 ≠ [] ∧ s.readsHeld 0 (s.viewReads 0 0x100000) = false)
    ∧ [launchWords, blockWords, signalWords, waitWords 0, nopWords].map pktType = [1, 2, 3, 4, 6]
    ∧ (let s := queued queueTable [packet (waitWords 0)]
      let r := s.devRead 0 true 0x270000 8
      r.2.toOption.map leDWord = some 0 ∧ r.1.queues = s.queues ∧ waitsigHolds (waitWords 0) 0 = true ∧ waitsigHolds (waitWords 1) 0 = false)
    ∧ (let w : Watch := { pa := 0x270000, asid := 0, enc := false, met := true }
      let s := queued queueTable [{ packet (waitWords 0) with started := true, watched := some w }]
      (s.serving 0).isSome = true ∧ s.outbound = [] ∧ inMmio w.pa = false ∧ meetsRange 0x270004 4 (w.pa / 64 * 64) 64 = true)
    ∧ (let p := { packet (waitWords 0) with started := true }
      (queued queueTable [p]).readableNow 0 p = true ∧ p.next ≠ 1) := by decide +kernel

/-- A signal's addition on a page whose entries are already set. -/
theorem witness_signal_add :
    (match mapped.walk 0 0x270000 { priv := true }, mapped.walk 0 0x270000 { write := true, priv := true } with
      | .ok w, .ok w' => decide (w = w' ∧ mapped.applyWalk 0 0x270000 false w = mapped ∧ mapped.applyWalk 0 0x270000 true w = mapped
          ∧ w.tr.enc = false ∧ w.tr.snapshot = false ∧ inMmio (w.tr.pa 0x270000) = false)
      | _, _ => false) = true := by decide +kernel

/-- A stalled command block with a signal, and a WAITSIG with one that waits: ABANDON. -/
theorem witness_abandon :
    pktSignal (nopWords.set 0 0x204) = true ∧ pktType (nopWords.set 0 0x208) = 4 ∧ pktSignal (nopWords.set 0 0x208) = true := by
  decide +kernel

/-- A FILL of a started block, and a command that fails its test; no words, and a word, written. -/
theorem witness_commands :
    (let s := queued queueTable [{ packet blockWords with started := true }]
    let d := (s.queueAt 0).desc
    let r := s.devRead 0 true 0x268000 32
    pd blockWords 2 + 32 * 0 = 0x268000 ∧ bitsAt (pw blockWords 1) 0 13 = 1 ∧ s.releaseHeld 0 blockWords = false ∧ s.commandOpen = true ∧ s.areaHeld (descAsid d) 0x268000 32 false = false
      ∧ r.2.toOption.any (fun b => recNat b 0 1 == 2 && (commandCause d b).isNone && recNat b 4 4 == 4
        && (runWords 0 true false ((b.drop 0x10).take 4) 1 0x270000 7 r.1).2.isOk) = true)
    ∧ (let s := queued (queueTable.store64 0x268000 0x400000102) [{ packet blockWords with started := true }]
      let r := s.devRead 0 true 0x268000 32
      r.2.toOption.bind (fun b => commandCause (s.queueAt 0).desc b) = some 0x02)
    ∧ (let s := queueTable
      s.devHeld 0 0x270000 true = false ∧ s.devHeld 0 0x270004 false = false ∧ (s.devWrite 0 true 0x270000 [7, 0, 0, 0]).2.isOk = true
        ∧ (s.devRead 0 true 0x270004 4).2.isOk = true) := by decide +kernel

/-- A launch of the packet taken. -/
def launched (placed : Nat) : Launch :=
  { loneLaunch with words := launchWords, placed := placed, view := 0 }

/-- A launch all of whose crews have ended; one that ended with a cause. -/
theorem witness_launches_complete :
    (let s := { queued queueTable [{ packet launchWords with started := true, launch := some 0 }] with launches := [launched 1] }
    s.packetOf 0 = some (0, 0) ∧ (s.serving 0).isSome = true ∧ s.crews = [] ∧ (launched 1).placed = pktCrews launchWords ∧ s.launchQuiet 0 = true ∧ s.signalHeld 0 launchWords = false
      ∧ bitsAt (launchWords.getD 1 0).toNat 10 1 = 0)
    ∧ (let ws := (launchWords.set 0 0x202).set 10 0x270000
      let s := { queued queueTable [{ packet ws with started := true, launch := some 0 }] with
        launches := [{ launched 1 with words := ws, cause := some 0x20 }] }
      s.packetOf 0 = some (0, 0) ∧ (s.serving 0).isSome = true ∧ s.launchQuiet 0 = true ∧ s.signalHeld 0 ws = false ∧ pktSignal ws = true) := by decide +kernel

/-- A graph object at 0x280000 of two nodes and one buffer, registered for queue 0 in slot 0. -/
def graphed : State :=
  [(0x14000, 0x280000), (0x280000, 0x100000002)].foldl (fun s (x : Nat × Nat) => s.store64 x.1 x.2) queueTable

/-- GRAPH_REGISTRATION, GRAPH_KICK of a slot that is unregistered, that runs and that is free; the completion of a node. -/
theorem witness_graphs :
    let g := { GraphSt.fresh with registered := true, object := 0x280000 }
    let s := graphed.modGraph 0 fun _ => g
    graphed.graphAddr? 0 = some 0x14000 ∧ canonical graphed = true
      ∧ graphed.objHeld { GraphSt.fresh with registered := true, object := 0x280000, queue := 0, replay := 1 } = false ∧ graphed.aon.bringUp = 6 ∧ canonical graphed = true ∧ (graphed.graphAt 0).registered = false
      ∧ (s.graphAt 0).registered = true ∧ (s.graphAt 0).running = false ∧ (s.table? 4).isSome = true ∧ s.nodeCount g = 2
      ∧ (let s := { s.modGraph 0 (fun g => { g with running := true, started := [0, 1], buffers := [.full], core := some 1 }) with
            launches := [{ launched 1 with node := some (0, 0) }, { launched 1 with node := some (0, 1) }] }
        (s.graphAt 0).core.isSome = true ∧ (s.graphAt 0).running = true ∧ s.nodeOver 0 = true ∧ s.graphHeld (s.graphAt 0) = false
          ∧ s.ofReplay 0 { launched 1 with node := some (0, 0) } = true ∧ s.graphBack 0 = false ∧ s.crews = [] ∧ canonical s = true
          ∧ ((s.overLaunch 0 { launched 1 with node := some (0, 0) }).objRead (s.graphAt 0)).nodeCount (s.graphAt 0) = 2 ∧ (s.graphAt 0).completed = [] ∧ (s.graphAt 0).cause = none) := by decide +kernel

/-- A queue with a fresh launch and a deficit. -/
def waitingLaunch (deficit : Int) : State :=
  ({ queued queueTable [{ packet launchWords with started := true, launch := some 0 }] with launches := [launched 0] }).modQueue 0
    fun x => { x with deficit := deficit }

/-- CREW_PLACEMENT of a fresh launch, and a round of its level. -/
theorem witness_placement :
    (let s := waitingLaunch 1
    (match s.nextDecision with
      | some (.serve _ 0 (.fresh 0) []) => true
      | _ => false) = true ∧ bitsAt (pw launchWords 1) 8 1 = 0 ∧ (s.dropIdle.place (.fresh 0)).isSome = true
      ∧ (s.dropIdle.entry? 0 (pd launchWords 2) (bitsAt (pw launchWords 4) 0 12)).isSome = true
      ∧ s.dropIdle.launches[0]? = some (launched 0) ∧ quiet s = true)
    ∧ (match (waitingLaunch 0).nextDecision with
      | some (.round _) => true
      | _ => false) = true ∧ canonical (waitingLaunch 0) = true := by decide +kernel

/-- CREW_RESTORE of a saved crew. -/
theorem witness_restore :
    let s := ({ waitingLaunch 1 with launches := [launched 1], crews := [{ loneCrew .density 0 [] with status := .saved }] } : State)
    (match s.nextDecision with
      | some (.serve _ 0 (.saved 0) []) => true
      | _ => false) = true ∧ (s.dropIdle.placeAgain 0).any canonical = true := by decide +kernel

/-- A crew that stops now, one that a part of it still holds, one at its dovetail point with a request, one returning. -/
theorem witness_saving :
    (let s := spot mapped .density plain coded
    quiet s = true ∧ s.stoppable 0 = true ∧ (s.crews[0]?).any (fun k => k.status == .resident && k.pair.isNone && k.fibres.all Fibre.bound) = true
      ∧ ({ s with parts := [part0] } : State).stoppable 0 = false)
    ∧ (let s := spot mapped .density plain fun k => { each (fun f => { f with wait := .dovetail }) k with pending := some .latency, returning := true }
      s.stoppable 0 = true ∧ (s.crews[0]?).any (fun k => k.pending == some .latency && k.returning
        && k.fibres.all fun f => f.live && f.bound && f.wait == .dovetail) = true) := by decide +kernel

/-- A held fault with a handler that has room; carve-outs that hold the crew's allocation, and one that would cut it. -/
theorem witness_delivery_and_carve :
    (let s := spot mapped .density plain fun k => { k with
        heldFault := some { unit := .gang 0 0, cause := 0x0E, lanes := [0], token := none, home := 0, record := [] } }
    s.canDeliver 0 = true ∧ s.handler? 0 0x0E .density = some (0x1000, 0x100000, 4) ∧ quiet s = true)
    ∧ (let s := spot mapped .density plain fun k => { k with
        heldFault := some { unit := .gang 0 0, cause := 0x0F, lanes := [0], token := none, home := 31, record := [] } }
      s.canDeliver 0 = true ∧ s.handler? 0 0x0F .density = none)
    ∧ (let s := spot locked .density plain scratched
      s.waysUsed 0 = 1 ∧ canonical s = true) := by decide +kernel

/-- Two paired copies that stand at one comparison point. -/
def paired (sig : BitVec 64) : State :=
  let half := fun (partner : Nat) (first : Bool) (sig : BitVec 64) => some
    { partner := partner, first := first, signature := sig, buffer := [], arrived := [.gang 0 0], passed := [], pushed := [], results := [] }
  let s := (spot locked .density plain (each fun f => { f with wait := .pair })).placeWords .density [0]
  ((s.modFibres 1 [0] fun _ f => { f with wait := .pair }).modCrew 0 fun k => { k with pair := half 1 true 1 }).modCrew 1
    fun k => { k with pair := half 0 false sig, core := 64 }

/-- PAIR_COMPARISON of copies that match, and of copies that differ. -/
theorem witness_pairs :
    (paired 1).pairMatches 0 = true ∧ (paired 2).pairMatches 0 = false ∧ (paired 2).pairDiffers 0 = true
      ∧ (paired 2).protectedCrew 0 = false
      ∧ ((paired 1).crews[0]?).any (fun k => !k.finished && k.pair.any fun p => p.partner == 1) = true
      ∧ ((paired 1).crews[1]?).any (fun k => k.pair.isSome) = true ∧ quiet (paired 1) = true ∧ sound (paired 1) = true := by decide +kernel

/-- A word that the first copy's fibre has stored at a plain page, the copies matching. -/
theorem witness_pair_buffer :
    let w : BufWord := { va := 0x240000, mask := 15, data := 7, plred := none, mode := 0, tr := page0, gen := 0, who := some 0, release := none, tags := [] }
    let s := [0, 1].foldl (fun s c => s.modCrew c fun k => { k with pair := k.pair.map fun p => { p with buffer := [w] } }) (paired 1)
    s.pairMatches 0 = true ∧ w.pa = 0x240000 ∧ s.gen 0 = 0 ∧ s.past = [] ∧ inMmio w.pa = false ∧ (s.crews.getD 0 (loneCrew .density 0 [])).desc.asid = 0 := by
  decide +kernel

/-- PROTECTED_ROLLBACK of a launch that rolls back and is quiet. -/
theorem witness_rollback :
    let s := { mapped with launches := [{ launched 1 with rolling := true, words := launchWords.set 1 0x400 }] }
    s.launchQuiet 0 = true ∧ s.rel.poison = [] ∧ quiet s = true ∧ canonical s = true ∧ s.rollbackHeld 0 = false := by decide +kernel

/-- A unit with crews on it, one without, and one fenced; a base register locked and one unlocked; reset's canonical form. -/
theorem witness_always_on :
    (spot locked .density plain id).onUnit (.core 0) = [0] ∧ locked.onUnit (.core 1) = [] ∧ locked.rel.fenced = []
      ∧ locked.aon.bases.getLast? = some 0x15001 ∧ (State.reset.aon.bases.getD 0 0).getLsbD 0 = false
      ∧ locked.aon.bringUp = 6 ∧ bindingOk (0 :: 15 :: List.replicate 14 255) = true ∧ bindingOk (3 :: 3 :: List.replicate 14 255) = false
      ∧ Memory.wf State.reset.mem = true ∧ swf CoreSt.reset State.reset.cores = true ∧ locked.aon.bases.all (fun r => r.getLsbD 0) = true := by
  decide +kernel

/-- A unit's latched word decodes; an event's turn; no turn and no move; a turn to come. -/
theorem witness_step :
    (let s := State.reset.withFetchWord 32 0x20028C3A
    (s.ctx? u0 plain).any (fun c => c.kind.isL == false && (c.fibre 0).clause == [0x20028C3A]
      && ((c.fibre 0).pc - (c.fibre 0).hdr).toNat / 4 - 1 == 0) = true ∧ (decodeD 0x20028C3A).toOption = some (plain, .iaddD 5 6 7 2))
    ∧ (let s := State.reset.withFetchWord 64 0x66041250_00C20C00
      (s.ctx? u0 plain).any (fun c => c.kind.isL == true && (c.fibre 0).clause == [0x00C20C00, 0x66041250]) = true)
    ∧ State.reset.dropIdle.tellOver.moves = [] ∧ (Instr.clauseEntry).info.text = .event
    ∧ ({ State.reset.withFetchWord 32 0x20028C3A with turn := none } : State).dropIdle.tellOver.moves ≠ [] := by decide +kernel

/-- Scratchpad accesses with nothing to miss and no placed part on its way; ports with nothing unsent. -/
theorem witness_scratchpad_orders :
    let s := scratching id
    s.pastScr = [] ∧ quiet s = true ∧ s.parts = [] ∧ (seen s plain).crew.pair = none
      ∧ s.unsentPorts (seen s plain).crew (fun _ _ _ => true) = [] ∧ s.followsUnsent 0 [(0, 0)] = false ∧ s.outbound = [] := by decide +kernel

/-- An atomic and a draw at places outside the tables, no engine's write unsent before them. -/
theorem witness_home_accesses :
    let s := spot mapped .density plain (regs [(8, 0x240000)])
    let c := seen s plain
    (match c.checkWith atomPlace { write := true, priv := c.priv } 4 (c.globalLanes 8 0 4) (c.start plain s) with
      | .ok (s', ts) => !c.passesEngine ts s' && ts.all fun g => decide (0x12000 + 256 * 4096 ≤ g.2.pa (va48 g.1.ea))
      | .error _ => false) = true ∧ c.crew.pair = none
      ∧ ([2, 0].map fun k => (s.table? k)) = [some 0x12000, some 0x10000] := by decide +kernel

/-- A tile store to memory with a sound block, the ends of its rows translated. -/
theorem witness_tile_store :
    let s := spot mapped .density plain (regs [(12, 32)] ∘ fun k => { k with
        desc := { k.desc with scrSize := 256, accCount := 2 }, scr := [(34, 0x24), (40, 0), (41, 0x0B), (42, 0x80)] })
    let c := seen s plain
    let w := (List.range 4).map fun i => leWord (getBytes c.crew.scr (32 + 4 * i) 4)
    let dest : DWord := w.getD 1 0 ++ w.getD 0 0
    let gs := (rowEnds dest (storePitch (w.getD 2 0)) (128 * fmtBytes (storeFmt (w.getD 2 0))) 0).map fun v => { idx := 0, base := v, ea := v : GAccess }
    ready (.accstD 12 5) s plain = true ∧ quiet s = true ∧ c.walksHeld true (gs.map GAccess.ea) (c.blockRead 0 12 4 (c.start plain s)) = false
      ∧ gs.all (fun g => ((c.blockRead 0 12 4 (c.start plain s)).walkError c.core c.asid (va48 g.ea) true).isNone) = true ∧ dest = 0x240000 ∧ accstReason c.crew w = none ∧ (w.getD 2 0).getLsbD 7 = false ∧ accstBad c.crew w = none
      ∧ failedLanes (translateLanes c.core c.asid { write := true, priv := c.priv } gs (c.blockRead 0 12 4 (c.start plain s))).2 = [] := by decide +kernel

/-- A line part not its instruction's last; a partial to be merged. -/
theorem witness_placed_order :
    (let s := { spot mapped .density plain (each fun f => { f with wait := .parts }) with parts := [part0, { part0 with lane := 1, d := 0x240100, pd := 0x240100 }] }
    part0.gen = s.genAt 0 (genDie part0.pd) ∧ (s.parts[1]?).any (fun q => q.issue == part0.issue && !q.accepted && decide (part0.lane < q.lane)) = true)
    ∧ ({ mapped with partials := [{ pa := 0x240000, op := 0, value := 5, nan := 0, tags := [], asid := 0, enc := false }] } : State).partials.length = 1
    ∧ quiet mapped = true ∧ 0x12000 + 256 * 4096 ≤ 0x240000 := by decide +kernel

/-- Eight units in the slots and one more that waits; the same with a slot free. -/
theorem witness_slot_swap :
    let s := spot locked .density plain fun k => { k with
      gangs := k.gangs ++ k.gangs, fibres := k.fibres ++ k.fibres.map fun f => { f with gang := 1, ident := 32 } }
    let v : UnitId := { crew := 0, kind := .gang 1 0 }
    let full := (s.modFibres 0 [0] fun _ f => { f with issuedAt := 5 }).modCore 0 fun x => { x with active := List.replicate 8 u0 }
    let some_ := s.modCore 0 fun x => { x with active := [u0] }
    (full.coreAt 0).active.filter (full.unitHas Crew.ready) = List.replicate 8 u0
      ∧ full.pendingUnits 0 = [v] ∧ full.nextForSlot 0 = some v ∧ full.issuedLast v < full.issuedLast u0
      ∧ (some_.coreAt 0).active.filter (some_.unitHas Crew.ready) = [u0] ∧ canonical full = true
      ∧ some_.pendingUnits 0 = [v] := by decide +kernel

/-- A port write to a line that an accepted part owns, one to an expander's memory, and a read by a bound peer. -/
theorem witness_ports_held :
    ({ mapped with parts := [{ part0 with accepted := true }] } : State).owned (0x240000 / 64) = true ∧ inCxl 0x1000000000000 = true
      ∧ (∀ n, n < 2 → (n < 2 ∨ (n - 2) ∈ mapped.aon.peers)) ∧ mapped.owned (0x240000 / 64) = false := by decide +kernel

/-- A wake that an idle command core takes; a stalled block and a WAITSIG whose signals are free; a frozen queue without a stall. -/
theorem witness_wakes :
    (let s := ({ queueTable with wakes := [.queue 0] } : State)
    (s.queueAt 0).lock = none ∧ s.idleCommand = some 0 ∧ s.commandOpen = true)
    ∧ (let s := queued queueTable [{ packet ((nopWords.set 0 0x204)) with started := true, stalled := some (0, 0x268000) }]
      s.releaseHeld 0 (nopWords.set 0 0x204) = false ∧ pktSignal (nopWords.set 0 0x204) = true)
    ∧ (let s := queueTable.store64 0x12018 0x80000000
      s.frozen 0 = true ∧ (s.queueAt 0).ringStall = none ∧ (s.queueAt 0).packets = [] ∧ s.graphs = [] ∧ s.queueAddr? 0 = some 0x12000) := by
  decide +kernel

/-- A graph's wake that starts a replay, and one that finds a replay running. -/
theorem witness_graph_wakes :
    let g := { GraphSt.fresh with registered := true, object := 0x280000, kicks := [3] }
    let s := ({ (queued graphed []).modGraph 0 (fun _ => g) with wakes := [.graph 0] } : State)
    let s1 := ({ s with wakes := [] } : State).modGraph 0 fun g => { g with core := some 1 }
    s1.graphHeld (s1.graphAt 0) = false ∧ s1.kickHeld (s1.graphAt 0) 3 = false ∧ s1.graphFinishable 0 = false ∧ quiet s = true ∧ canonical s = true ∧ s.idleCommand = some 1 ∧ (s.graphAt 0).core = none ∧ s.graphFinishable 0 = false ∧ (s.queueAt 0).desc ≠ [] ∧ (s.graphAt 0).running = false ∧ (s.graphAt 0).frozen = false
      ∧ ((s.modGraph 0 fun g => { g with running := true }).graphAt 0).running = true := by decide +kernel

/-- A carve-out that is due, and one that an allocation holds back. -/
theorem witness_carve_out :
    let s := (spot locked .density plain scratched).modCore 0 fun x => { x with carveDue := true }
    (s.coreAt 0).carveDue = true ∧ s.waysUsed 0 ≤ 1 ∧ 0 < s.waysUsed 0 := by decide +kernel

/-- A repeat under way in L whose REP is read again. -/
theorem witness_repeat_reread :
    let r : Sys2Proof.Machine.Rep := { count := 4, stepD := 1, stepA := 1, stepB := 1, stepC := 0, k := 1 }
    let s := { spot (mapped.store32 0x102008 0x0E01AA00) .latency plain (coded ∘ each fun f => { f with clause := [], pc := 0x2010, hdr := 0x2010, rep := some r }) with past := [] }
    let c := seen s plain
    c.fetchWaits 0x2010 2 s = false ∧ c.fetchWaits 0x200C 1 s = false ∧ (c.code 0x2010 2 s).2.toOption = some [0, 0]
      ∧ (c.code 0x200C 1 (c.code 0x2010 2 s).1).2.toOption = some [0] := by decide +kernel

/-- No command core is in service in reset's queues; a copy's fault leaves every other part of its crew. -/
theorem witness_units_and_copy_faults :
    locked.commandBusy (.commandCore 3) = false
      ∧ (let s := spot locked .density plain fun k => { k with copies := [copy4 2 0x240000 0x250000 none] }
        let s1 := (s.copyStep 0 0).1
        ∃ bs, s1.crews = s.crews.set 0 { (s.crews.getD 0 (loneCrew .density 0 [])) with copies := [{ copy4 2 0x240000 0x250000 none with bytes := bs }] }) :=
  ⟨by decide +kernel, none, by decide +kernel⟩

/-! ## Single steps; expected values from the spec's worked cases or by hand -/

/-- A register, its S bit and the PC after one step in D of an instruction from given registers. -/
def gives (i : Instr) (l : List (Nat × Nat)) (d : Nat) : Word × Bool × Word :=
  let t := after (exec i (spot mapped .density plain (regs l)))
  ((t.fibreAt 0 0).val d, (t.fibreAt 0 0).sbit d, (t.fibreAt 0 0).pc)

/-- R337, R338: an error in a register that is only written raises nothing and is gone; one that is read from the mirror, and a
single-bit error that is corrected, are logged and the sum is as ever. -/
theorem test_register_errors :
    (let t := after (exec (.iaddD 5 8 9 0) (spot (struck [.register 0 0 5] []) .density plain (regs [(8, 2), (9, 3)])))
    (t.fibreAt 0 0).val 5 = 5 ∧ t.rel.poison = [] ∧ t.rel.errSeq = 0)
    ∧ (let t := after (exec (.iaddD 5 8 9 0) (spot (struck [.register 0 0 8] [.register 0 0 9]) .density plain
          fun k => { regs [(8, 2), (9, 3)] k with mirror := true }))
      (t.fibreAt 0 0).val 5 = 5 ∧ t.rel.poison = [.register 0 0 8] ∧ t.rel.correctable = [] ∧ t.rel.errSeq = 2) := by
  decide +kernel

/-- R74: a 64-bit sum carries into the high half; signed saturation clamps and sets S; unsigned subtraction clamps at 0. -/
theorem test_add_forms :
    gives (.iaddD 8 10 12 1) [(10, 0xFFFFFFFF), (12, 1)] 9 = (1, false, 8)
      ∧ gives (.iaddD 8 10 12 2) [(10, 0x7FFFFFFF), (12, 1)] 8 = (0x7FFFFFFF, true, 8)
      ∧ gives (.isubD 8 10 12 3) [(10, 3), (12, 5)] 8 = (0, true, 8) := by decide +kernel

/-- R75, R76: high halves by sign; division by 0 and of the least number by −1. -/
theorem test_multiply_divide :
    gives (.imulD 8 10 12 1) [(10, 0xFFFFFFFF), (12, 2)] 8 = (0xFFFFFFFF, false, 8)
      ∧ gives (.imulD 8 10 12 2) [(10, 0xFFFFFFFF), (12, 2)] 8 = (1, false, 8)
      ∧ gives (.idivD 8 10 12 0) [(10, 7)] 8 = (0xFFFFFFFF, false, 8)
      ∧ gives (.idivD 8 10 12 0) [(10, 0x80000000), (12, 0xFFFFFFFF)] 8 = (0x80000000, false, 8)
      ∧ gives (.iremD 8 10 12 0) [(10, 0xFFFFFFF9), (12, 2)] 8 = (0xFFFFFFFF, false, 8) := by decide +kernel

/-- R79, R80: an arithmetic 64-bit shift, a rotation, a sign-extended field that meets bit 31, an insertion. -/
theorem test_shifts_fields :
    gives (.shrD 8 10 12 3) [(11, 0x80000000), (12, 63)] 9 = (0xFFFFFFFF, false, 8)
      ∧ gives (.rotlD 8 10 12) [(10, 0x80000001), (12, 33)] 8 = (3, false, 8)
      ∧ gives (.bfxD 8 10 12 1) [(10, 0xF0000000), (12, 0x081C)] 8 = (0xFFFFFFFF, false, 8)
      ∧ gives (.bfiD 8 10 12) [(8, 0xAAAAAAAA), (10, 0xF), (12, 0x0404)] 8 = (0xAAAAAAFA, false, 8) := by decide +kernel

/-- R81, R64: leading zeros of 0, the least number's absolute value, MOVHI over the high bits alone. -/
theorem test_single_operand :
    gives (.clzD 8 10) [] 8 = (32, false, 8) ∧ gives (.iabsD 8 10) [(10, 0x80000000)] 8 = (0x80000000, false, 8)
      ∧ gives (.movhiD 8 0x1FFF) [(8, 0x12345)] 8 = (0xFFF92345, false, 8) ∧ gives (.moviD 8 0x7FFFF) [] 8 = (0xFFFFFFFF, false, 8) := by
  decide +kernel

/-- R213, R215, R221, R224 as worked out in chapter 14. -/
theorem test_floating :
    gives (.faddD 8 10 12 2) [(10, 0x3F800000), (12, 0x33800000)] 8 = (0x3F800001, true, 8)
      ∧ gives (.ffmaD 8 10 12 0) [(8, 0xBF801000), (10, 0x3F800800), (12, 0x3F800800)] 8 = (0x33800000, false, 8)
      ∧ gives (.fminD 8 10 12 0) [(10, 0x7FA00001), (12, 0x40400000)] 8 = (0x7FE00001, false, 8)
      ∧ gives (.cvtD 8 10 7 0 1) [(10, 0x01000001)] 8 = (0x4B800000, true, 8)
      ∧ gives (.hadd2D 8 10 12 4) [(10, 0x3F803F80), (12, 0x3B803B80)] 8 = (0x3F813F81, true, 8) := by decide +kernel

/-- R68, R56: BRA counts from the clause header; REP holds the PC until its last repeat. -/
theorem test_control :
    (gives (.braD 0x1FFFF0) [] 0).2.2 = 0xFFFFFFC0
      ∧ (let s := spot mapped .density plain (each fun f => { f with rep := some { count := 2, stepD := 1, stepA := 0, stepB := 0, stepC := 0, k := 0 } })
        let t := after (exec (.iaddiD 8 10 5) s)
        ((t.fibreAt 0 0).pc, (t.fibreAt 0 0).val 8, (t.fibreAt 0 0).rep.map Rep.k) = (4, 5, some 1)) := by decide +kernel

/-- R163, R166: the low byte of a word stored little-endian is loaded sign-extended; the store leaves the byte after it. -/
theorem test_store_load :
    (let t := after (exec (.stD 12 8 2 0 1) (spot mapped .density plain (regs [(8, 0x240000), (12, 0x11223384)])))
    (t.bytes 0x240003 6) = [0, 0x84, 0x33, 0x22, 0x11, 0])
    ∧ gives (.ldD 12 8 5 0 0) [(8, 0x100000)] 12 = (0x48, false, 8) ∧ gives (.ldD 12 8 5 0 3) [(8, 0x1001FE)] 12 = (0x10, false, 8)
    ∧ gives (.ldD 12 8 6 0 0) [(8, 0x101000)] 12 = (0xFFFFE800, false, 8) := by decide +kernel

/-- R170: a compare and swap that fails leaves memory; an addition returns the old word. -/
theorem test_atomics :
    (let t := after (exec (.atomD 12 8 14 7) (spot mapped .density plain (regs [(8, 0x100000), (12, 1), (14, 9)])))
    (t.word32 0x100000, (t.fibreAt 0 0).val 12) = (0x214F5848, 0x214F5848))
    ∧ (let t := after (exec (.atomD 12 8 14 0) (spot mapped .density plain (regs [(8, 0x100000), (14, 1)])))
      (t.word32 0x100000, (t.fibreAt 0 0).val 12) = (0x214F5849, 0x214F5848)) := by decide +kernel

/-- R177: an arrival of the last one pending flips the phase: done. -/
theorem test_arrival :
    let t := after (exec (.arvD 20 10 13) (scratching id))
    ((t.fibreAt 0 0).val 20, (t.crews.map fun k => getBytes k.scr 64 5)) = (2, [[1, 0, 1, 0, 1]]) := by decide +kernel

/-- R107: GENBUMP advances the generation at every die and in the descriptor, and waits. -/
theorem test_genbump :
    let t := after (exec .genbumpD (spot mapped .density plain id))
    (t.genAt 0 0, t.genAt 0 8, t.genAt 1 0, t.word32 0x10010, (t.fibreAt 0 0).wait) = (1, 1, 0, 1, .genbump) := by decide +kernel

/-- R61, R83: p0 keeps reading 1; a comparison sets its predicate alone. -/
theorem test_predicates :
    let t := after (exec (.icmpD 9 10 12 2) (spot mapped .density plain (regs [(10, 0xFFFFFFFF), (12, 0)])))
    let u := after (exec (.pxorD 0 0 0) (spot mapped .density plain id))
    ((t.fibreAt 0 0).pred 9, (t.fibreAt 0 0).pred 10, (u.fibreAt 0 0).pred 0) = (true, false, true) := by decide +kernel

/-- R60: a user fibre's SWRITE does not write; the fault ends a launch that has no handler for it. -/
theorem test_privilege :
    let t := after (exec (.swriteD 8 19) (spot locked .density plain (each fun f => { f with priv := false })))
    ((t.coreAt 0).clkAdj, t.launches.map Launch.cause) = (0, [some 0x05]) := by decide +kernel

/-- R237: the token's count falls with the last block, and the operation is gone. -/
theorem test_matrix_last_block :
    let t := after (exec .mmaBlockAdd (due (spot locked .density plain fun k =>
      { scratched k with mats := [mat 128], gangs := [{ counts := [0, 0, 0, 0, 0, 0, 0, 1], deferred := [] }] }) .mmaBlockAdd {}))
    (t.crews[0]?).map (fun k => ((k.tokens u0.kind).counts.getD 7 0, k.mats.length)) = some (0, 0) := by decide +kernel

/-- R202: a value carried to FP16, which holds more bits than BF16 in its binade, and converted to BF16. -/
theorem witness_carry :
    f32 0x3F801000 = .fin false 0x801000 (-23) ∧ precision 1 (binade 0x801000 (-23)) ≤ precision 2 (binade 0x801000 (-23)) := by
  decide +kernel

end Sys2Proof.Tests
end

section
/-!
Lanes that exchange (O11): tiles, ballots and the fixed tree of REDL.
-/
namespace Sys2Proof.Machine

/-! ## Tiles -/

theorem shiftRight_part (f : Fibre) : 32 >>> f.part = tileSize f.part := Nat.shiftRight_eq_div_pow 32 f.part

/-- What `Does` says gives completion alone. -/
theorem Does.goesOn {i : Instr} {g : Ctx → Nat → Fibre → Fibre} (h : Does i g) {s : State} {u : UnitId} {pf : Prefix} {c : Ctx}
    (hr : Ready i s u pf c) : ∃ t, exec i s = .next t ∧ GoesOn t c := by
  obtain ⟨t, he, -, hg⟩ := h s u pf c hr
  exact ⟨t, he, hg⟩

/-- An instruction that writes one register of each active lane, whatever the lanes hold, does just that. -/
theorem does_writeEach {i : Instr} {d : Ctx → Nat} {g : Ctx → Nat → Reg}
    (he : ∀ s, exec i s = issue i (fun c => writeEach c (d c) (g c)) s) : Does i fun c p f => f.setReg (d c) (g c p) :=
  does_active he (fun _ _ => rfl) (fun _ _ _ _ _ _ _ _ => rfl) fun _ _ _ => ⟨rfl, rfl⟩

theorem Fibre.setPred_marked (f : Fibre) (n : Nat) (b w ps : Bool) (di dc ia : Nat) :
    (f.marked w ps di dc ia).setPred n b = (f.setPred n b).marked w ps di dc ia := by
  unfold Fibre.setPred; split <;> rfl

@[simp] theorem Fibre.face_marked (f : Fibre) (w ps : Bool) (di dc ia : Nat) : (f.marked w ps di dc ia).face = f.face := rfl

/-! ## SETPART, SHFL, VANY and VALL (R87 to R89) -/

theorem does_setpart {i : Instr} {x : Nat} (he : ∀ s, exec i s = issue i (bodySetpart x) s) :
    Does i fun _ _ f => { f with part := x } :=
  does_active he (fun _ _ => rfl) (fun _ _ _ _ _ _ _ _ => rfl) fun _ _ _ => ⟨rfl, rfl⟩

/-- SHFL's source lane: the active fibre in lane `start + j` of the tile, else the lane itself. -/
def Ctx.laneReg (c : Ctx) (f : Fibre) (a j : Nat) : Reg :=
  match c.activeAt (tileStart f + j) with
  | some q => (c.fibre q).reg a
  | none => f.reg a

/-- What SHFL writes, by its mode (R88). -/
def Ctx.shuffled (c : Ctx) (s a b p : Nat) : Reg :=
  let f := c.fibre p
  let x := (f.val b).toNat
  let i := f.home - tileStart f
  if s = 0 then c.laneReg f a (x % tileSize f.part)
  else if s = 1 then (if i < x then f.reg a else c.laneReg f a (i - x))
  else if s = 2 then (if tileSize f.part ≤ i + x then f.reg a else c.laneReg f a (i + x))
  else c.laneReg f a (i ^^^ (x % tileSize f.part))

theorem bodyShfl_eq (d a b s : Nat) (c : Ctx) (st : State) : bodyShfl d a b s c st = writeEach c d (c.shuffled s a b) st := by
  unfold bodyShfl
  congr 1
  funext p
  match s with
  | 0 => rfl
  | 1 =>
    simp only [shflSource, Ctx.shuffled]
    by_cases h : (c.fibre p).home - tileStart (c.fibre p) < ((c.fibre p).val b).toNat
    · simp [h]
    · simp only [h, if_false]; rfl
  | 2 =>
    simp only [shflSource, Ctx.shuffled]
    by_cases h : tileSize (c.fibre p).part ≤ (c.fibre p).home - tileStart (c.fibre p) + ((c.fibre p).val b).toNat
    · simp [h]
    · simp only [h, if_false]; rfl
  | n + 3 => rfl

theorem does_shfl {i : Instr} {s : Nat} {d a b : Ctx → Nat}
    (he : ∀ st, exec i st = issue i (fun c => bodyShfl (d c) (a c) (b c) s c) st) :
    Does i fun c p f => f.setReg (d c) (c.shuffled s (a c) (b c) p) :=
  does_writeEach fun st => by
    rw [he]
    congr 1
    funext c x
    exact bodyShfl_eq _ _ _ _ c x

theorem does_vote {i : Instr} {isAll : Bool} {p q r : Nat} (he : ∀ s, exec i s = issue i (bodyVote isAll p q r) s) :
    Does i fun c n f => (f.setPred p (if isAll then (c.tileActive (c.fibre n)).all fun m => (c.fibre m).pred q
        else (c.tileActive (c.fibre n)).any fun m => (c.fibre m).pred q)).setPred r
          (decide ((c.tileActive (c.fibre n)).length < tileSize (c.fibre n).part)) :=
  does_active he (fun _ _ => rfl)
    (fun _ _ _ _ _ _ _ _ => by rw [Fibre.setPred_marked, Fibre.setPred_marked, Fibre.face_marked])
    fun _ _ _ => ⟨by rw [Fibre.setPred_pc, Fibre.setPred_pc], by rw [Fibre.setPred_rep, Fibre.setPred_rep]⟩

/-! ## VBAL (R90) -/

/-- A sum of different powers of two has just their bits. -/
theorem testBit_sum_two_pow {l : List Nat} (h : l.Nodup) (j : Nat) : (l.map (2 ^ ·)).sum.testBit j = decide (j ∈ l) := by
  have e : (l.map (2 ^ ·)).sum = ∑ i ∈ l.toFinset, 2 ^ i := (List.sum_toFinset _ h).symm
  have hb := congrArg (j ∈ ·) (Finset.toFinset_bitIndices_sum_two_pow l.toFinset)
  rw [← e] at hb
  simp only [List.mem_toFinset, Nat.mem_bitIndices, eq_iff_iff] at hb
  rw [Bool.eq_iff_iff, hb, decide_eq_true_iff]

theorem sum_map_ite_zero {α : Type} (p : α → Bool) (g : α → Nat) (l : List α) :
    (l.map fun x => if p x then g x else 0).sum = ((l.filter p).map g).sum := by
  induction l with
  | nil => rfl
  | cons x xs ih => cases hp : p x <;> simp [hp, ih]

/-- The ballot word that VBAL writes. -/
def ballot (n : Nat) (c : Ctx) (i : Nat) : Word :=
  BitVec.ofNat 32 ((c.tileActive (c.fibre i)).map fun m =>
    if (c.fibre m).pred n then 2 ^ (c.lane m - tileStart (c.fibre i)) else 0).sum

theorem mem_tileActive {c : Ctx} {f : Fibre} {q : Nat} :
    q ∈ c.tileActive f ↔ q ∈ c.act ∧ tileStart f ≤ c.lane q ∧ c.lane q < tileStart f + tileSize f.part := by
  simp [Ctx.tileActive]

/-- Bit j of a ballot tells of the active lane j of the tile. -/
theorem getLsbD_ballot {n : Nat} {c : Ctx} {i j : Nat} (hn : (c.act.map c.lane).Nodup) (hj : j < 32) :
    (ballot n c i).getLsbD j = (decide (j < tileSize (c.fibre i).part)
      && c.act.any fun q => c.lane q == tileStart (c.fibre i) + j && (c.fibre q).pred n) := by
  let t0 := tileStart (c.fibre i)
  let voters := (c.tileActive (c.fibre i)).filter fun m => (c.fibre m).pred n
  have hv : ∀ q ∈ voters, t0 ≤ c.lane q := fun q hq => (mem_tileActive.1 (List.mem_of_mem_filter hq)).2.1
  have hnd : (voters.map fun m => c.lane m - t0).Nodup := by
    have h1 : (voters.map c.lane).Nodup := hn.sublist (((List.filter_sublist).trans List.filter_sublist).map _)
    refine List.Nodup.of_map (· + t0) ?_
    rw [List.map_map]
    convert h1 using 1
    exact List.map_congr_left fun q hq => Nat.sub_add_cancel (hv q hq)
  unfold ballot
  rw [sum_map_ite_zero (fun m => (c.fibre m).pred n), BitVec.getLsbD_ofNat]
  have e : (voters.map fun m => 2 ^ (c.lane m - t0)) = (voters.map fun m => c.lane m - t0).map (2 ^ ·) := by
    rw [List.map_map]; rfl
  change (decide (j < 32) && (voters.map fun m => 2 ^ (c.lane m - t0)).sum.testBit j) = _
  rw [e, testBit_sum_two_pow hnd, Bool.eq_iff_iff]
  simp only [Bool.and_eq_true, decide_eq_true_eq, List.mem_map, List.any_eq_true, beq_iff_eq]
  constructor
  · rintro ⟨-, q, hq, rfl⟩
    obtain ⟨hq, hp⟩ := List.mem_filter.1 hq
    obtain ⟨ha, h0, h1⟩ := mem_tileActive.1 hq
    exact ⟨by omega, q, ha, by omega, hp⟩
  · rintro ⟨hlt, q, ha, hl, hp⟩
    exact ⟨hj, q, List.mem_filter.2 ⟨mem_tileActive.2 ⟨ha, by omega, by omega⟩, hp⟩, by omega⟩

/-! ## REDL (R33, R91) -/

/-- The tree's leaves: an active lane's value and S, an absent one's identity. -/
def redlLeaves (ident : Word) (a : Nat) (c : Ctx) (f : Fibre) : List (Word × Bool) :=
  (List.range (tileSize f.part)).map fun j => match c.activeAt (tileStart f + j) with
    | some m => ((c.fibre m).val a, (c.fibre m).sbit a)
    | none => (ident, false)

/-- What REDL writes in a lane, the identity of its operation being as told. -/
def redlResult (ident : Word) (x a : Nat) (c : Ctx) (i : Nat) : Reg :=
  let f := c.fibre i
  let r := (redlTree x (invalidNaN 0 (c.lane ((c.tileActive f).headD 0)) (h17 f.instrVa)) 5 (redlLeaves ident a c f)).headD (0, false)
  { val := r.1, s := r.2 }

theorem length_redlLevel (x nan : Nat) : ∀ l : List (Word × Bool), (redlLevel x nan l).length = (l.length + 1) / 2
  | [] => rfl
  | [_] => by simp [redlLevel]
  | _ :: _ :: r => by
    simp only [redlLevel, List.length_cons, length_redlLevel x nan r]
    omega

/-- Two neighbours joined. -/
def redlJoin (x nan : Nat) (p q : Word × Bool) : Word × Bool :=
  ((redlPair x nan p.1 q.1).1, p.2 || q.2 || (redlPair x nan p.1 q.1).2)

/-- A level's element joins the two below it. -/
theorem getD_redlLevel (x nan : Nat) : ∀ (l : List (Word × Bool)) (j : Nat) (e : Word × Bool), 2 * j + 1 < l.length →
    (redlLevel x nan l).getD j e = redlJoin x nan (l.getD (2 * j) e) (l.getD (2 * j + 1) e)
  | [], _, _, h => absurd h (by simp)
  | [_], _, _, h => absurd h (by simp)
  | _ :: _ :: _, 0, _, _ => rfl
  | _ :: _ :: r, j + 1, e, h => by
    have h' : 2 * j + 1 < r.length := by simp only [List.length_cons] at h; omega
    have e2 : 2 * (j + 1) = 2 * j + 1 + 1 := by omega
    simp only [redlLevel, e2, List.getD_cons_succ]
    exact getD_redlLevel x nan r j e h'

theorem redlTree_succ (x nan : Nat) : ∀ (n : Nat) (l : List (Word × Bool)),
    redlTree x nan (n + 1) l = redlLevel x nan (redlTree x nan n l)
  | 0, _ => rfl
  | n + 1, l => redlTree_succ x nan n (redlLevel x nan l)

/-- A tree of `2 ^ k` leaves has `2 ^ (k - n)` elements at level `n`. -/
theorem length_redlTree (x nan k : Nat) {l : List (Word × Bool)} (hl : l.length = 2 ^ k) :
    ∀ n, n ≤ k → (redlTree x nan n l).length = 2 ^ (k - n)
  | 0, _ => hl
  | n + 1, h => by
    rw [redlTree_succ, length_redlLevel, length_redlTree x nan k hl n (by omega)]
    obtain ⟨m, rfl⟩ : ∃ m, k = n + 1 + m := ⟨k - (n + 1), by omega⟩
    have e1 : n + 1 + m - n = m + 1 := by omega
    have e2 : n + 1 + m - (n + 1) = m := by omega
    rw [e1, e2, Nat.pow_succ]
    omega

/-- A tree of one element stays as it is. -/
theorem redlTree_singleton (x nan : Nat) (e : Word × Bool) : ∀ n, redlTree x nan n [e] = [e]
  | 0 => rfl
  | n + 1 => redlTree_singleton x nan e n

theorem redlTree_add (x nan m : Nat) : ∀ (n : Nat) (l : List (Word × Bool)),
    redlTree x nan (n + m) l = redlTree x nan m (redlTree x nan n l)
  | 0, l => by rw [Nat.zero_add]; rfl
  | n + 1, l => by rw [Nat.add_right_comm]; exact redlTree_add x nan m n (redlLevel x nan l)

/-- Further levels leave a tree's one root as it is. -/
theorem headD_redlTree (x nan k n : Nat) {l : List (Word × Bool)} (hl : l.length = 2 ^ k) (hn : k ≤ n) (e : Word × Bool) :
    (redlTree x nan n l).headD e = (redlTree x nan k l).getD 0 e := by
  obtain ⟨m, rfl⟩ : ∃ m, n = k + m := ⟨n - k, by omega⟩
  have h1 : (redlTree x nan k l).length = 1 := by rw [length_redlTree x nan k hl k le_rfl, Nat.sub_self]; rfl
  obtain ⟨r, hr⟩ := List.length_eq_one_iff.1 h1
  rw [redlTree_add, hr, redlTree_singleton]
  rfl

theorem does_redl {i : Instr} {x : Nat} {d a : Ctx → Nat}
    (he : ∀ s, exec i s = issue i (fun c => bodyRedl (d c) (a c) x c) s) :
    Does i fun c p f => f.setReg (d c) (redlResult (redlIdentity x) x (a c) c p) :=
  does_writeEach he

/-- REDL's join of two neighbours, operation by operation, as R91 tells it. -/
theorem redlJoin_eq (x nan : Nat) (p q : Word × Bool) : redlJoin x nan p q =
    if x = 0 then (p.1 + q.1, p.2 || q.2)
    else if x = 1 then (if BitVec.slt q.1 p.1 then q.1 else p.1, p.2 || q.2)
    else if x = 2 then (if BitVec.slt p.1 q.1 then q.1 else p.1, p.2 || q.2)
    else if x = 3 then
      let r := floatOp .add 0 .rn nan (f32 p.1) (f32 q.1) (.fin false 0 0)
      (BitVec.ofNat 32 r.1, p.2 || q.2 || r.2)
    else if x = 4 ∨ x = 5 then (BitVec.ofNat 32 (floatMinMax 0 (x == 5) false p.1.toNat q.1.toNat), p.2 || q.2)
    else if x = 6 then (p.1 &&& q.1, p.2 || q.2) else (p.1 ||| q.1, p.2 || q.2) := by
  have hsame : ∀ a b : Word, a.toInt ≤ b.toInt → ¬ a.toInt < b.toInt → a = b := fun a b h h' =>
    BitVec.eq_of_toInt_eq (by omega)
  match x with
  | 0 | 3 | 4 | 5 | 6 => simp [redlJoin, redlPair]
  | 1 =>
    by_cases h : q.1.toInt < p.1.toInt
    · have h' : ¬ p.1.toInt ≤ q.1.toInt := by omega
      simp [redlJoin, redlPair, imin, BitVec.slt, h, h']
    · have h' : p.1.toInt ≤ q.1.toInt := by omega
      simp [redlJoin, redlPair, imin, BitVec.slt, h, h']
  | 2 =>
    by_cases h : p.1.toInt < q.1.toInt
    · have h' : p.1.toInt ≤ q.1.toInt := by omega
      simp [redlJoin, redlPair, imax, BitVec.slt, h, h']
    · by_cases h' : p.1.toInt ≤ q.1.toInt
      · simp [redlJoin, redlPair, imax, BitVec.slt, hsame _ _ h' h]
      · simp [redlJoin, redlPair, imax, BitVec.slt, h, h']
  | n + 7 => simp [redlJoin, redlPair]

/-- The identity of each operation, and for numbers that name none what the statement of R91 gives them. -/
def identityOf (x : Nat) : Word := if x < 8 then redlIdentity x else 0xFF800000

theorem identityOf_eq (x : Nat) : identityOf x = if x = 0 ∨ x = 7 then 0 else if x = 6 then 0xFFFFFFFF
    else if x = 1 then 0x7FFFFFFF else if x = 2 ∨ x = 3 then 0x80000000 else if x = 4 then 0x7F800000 else 0xFF800000 := by
  match x with
  | 0 | 1 | 2 | 3 | 4 | 5 | 6 | 7 => rfl
  | n + 8 => simp [identityOf]

/-- Element `j` of level `l` of a lane's tree. -/
def redlNode (x a : Nat) (c : Ctx) (i l j : Nat) : Word × Bool :=
  (redlTree x (invalidNaN 0 (c.lane ((c.tileActive (c.fibre i)).headD 0)) (h17 (c.fibre i).instrVa)) l
    (redlLeaves (identityOf x) a c (c.fibre i))).getD j (0, false)

theorem length_redlLeaves (ident : Word) (a : Nat) (c : Ctx) {f : Fibre} (h : f.part < 5) :
    (redlLeaves ident a c f).length = 2 ^ (5 - f.part) := by
  have e : 32 = 2 ^ (5 - f.part) * 2 ^ f.part := by
    rw [← Nat.pow_add, Nat.sub_add_cancel h.le]
  simp only [redlLeaves, List.length_map, List.length_range, tileSize]
  conv_lhs => rw [e]
  exact Nat.mul_div_cancel _ (Nat.two_pow_pos _)

theorem redlNode_zero {x a : Nat} {c : Ctx} {i j : Nat} (hj : j < tileSize (c.fibre i).part) :
    redlNode x a c i 0 j = match c.activeAt (tileStart (c.fibre i) + j) with
      | some m => ((c.fibre m).val a, (c.fibre m).sbit a)
      | none => (identityOf x, false) := by
  simp [redlNode, redlTree, redlLeaves, List.getD, hj]

theorem redlNode_succ {x a : Nat} {c : Ctx} {i l j : Nat} (hp : (c.fibre i).part < 5) (hl : l < 5 - (c.fibre i).part)
    (hj : j < tileSize (c.fibre i).part / 2 ^ (l + 1)) :
    redlNode x a c i (l + 1) j = redlJoin x (invalidNaN 0 (c.lane ((c.tileActive (c.fibre i)).headD 0)) (h17 (c.fibre i).instrVa))
      (redlNode x a c i l (2 * j)) (redlNode x a c i l (2 * j + 1)) := by
  have hlen := length_redlLeaves (identityOf x) a c hp
  have hsize : tileSize (c.fibre i).part = 2 ^ (5 - (c.fibre i).part) := by
    rw [← hlen]; simp [redlLeaves]
  unfold redlNode
  rw [redlTree_succ, getD_redlLevel]
  rw [length_redlTree _ _ _ hlen l hl.le]
  obtain ⟨m, hm⟩ : ∃ m, 5 - (c.fibre i).part = l + 1 + m := ⟨5 - (c.fibre i).part - (l + 1), by omega⟩
  have e : l + 1 + m - l = m + 1 := by omega
  rw [hsize, hm, Nat.pow_add, Nat.mul_div_cancel_left _ (Nat.two_pow_pos _)] at hj
  rw [hm, e, Nat.pow_succ]
  omega

theorem redlResult_eq_root {x a : Nat} {c : Ctx} {i : Nat} (hp : (c.fibre i).part < 5) :
    redlResult (identityOf x) x a c i = regOf (redlNode x a c i (5 - (c.fibre i).part) 0).1 (redlNode x a c i (5 - (c.fibre i).part) 0).2 := by
  unfold redlResult redlNode
  dsimp only
  rw [headD_redlTree _ _ _ _ (length_redlLeaves (identityOf x) a c hp) (by omega)]
  rfl

/-- The lanes of a tile share REDL's result. -/
theorem redlResult_congr {ident : Word} {x a : Nat} {c : Ctx} {i j : Nat} (ht : c.tileActive (c.fibre i) = c.tileActive (c.fibre j))
    (hsize : tileSize (c.fibre i).part = tileSize (c.fibre j).part) (hstart : tileStart (c.fibre i) = tileStart (c.fibre j))
    (hva : (c.fibre i).instrVa = (c.fibre j).instrVa) : redlResult ident x a c i = redlResult ident x a c j := by
  simp only [redlResult, redlLeaves, ht, hsize, hstart, hva]

/-- The NaN of an invalid sum names the tile's first active lane (R207). -/
theorem laneNaN_eq (c : Ctx) (ms : List Nat) (h : Nat) :
    0x7FC00000 + (ms.map c.lane).headD (c.lane 0) * 2 ^ 17 + h = invalidNaN 0 (c.lane (ms.headD 0)) h := by
  cases ms <;> rfl

end Sys2Proof.Machine
end

section
open Sys2Proof Sys2Proof.Machine

/-- Settles O11: each of the six writes the active fibres alone, and what it writes is what R87 to R91 say of the tile. -/
theorem lanesExchange : Obligations.LanesExchange := by
  unfold Obligations.LanesExchange
  simp only [shiftRight_part]
  have hset : ∀ x : BitVec 9, Does (.setpartD x) (fun _ _ f => { f with part := x.toNat })
      ∧ Does (.setpartL x) fun _ _ f => { f with part := x.toNat } :=
    fun x => ⟨does_setpart fun _ => rfl, does_setpart fun _ => rfl⟩
  have hshfl : ∀ s : BitVec 3, Both3 (.shflD · · · s) (.shflL · · · s) fun c d a b p f => f.setReg d (c.shuffled s.toNat a b p) :=
    fun s => ⟨fun _ _ _ => does_shfl fun _ => rfl, fun _ _ _ => does_shfl fun _ => rfl⟩
  have hvote : ∀ p q r : BitVec 7, Does (.vanyD p q r) _ ∧ Does (.vanyL p q r) _ ∧ Does (.vallD p q r) _ ∧ Does (.vallL p q r) _ :=
    fun p q r => ⟨does_vote fun _ => rfl, does_vote fun _ => rfl, does_vote fun _ => rfl, does_vote fun _ => rfl⟩
  have hvbal : (∀ (d : BitVec 6) (n : BitVec 7), Does (.vbalD d n) fun c i f => f.setReg (c.d d) (regOf (ballot n.toNat c i) false))
      ∧ ∀ (d : BitVec 8) (n : BitVec 7), Does (.vbalL d n) fun c i f => f.setReg (c.d d) (regOf (ballot n.toNat c i) false) :=
    ⟨fun _ _ => does_writeEach fun _ => rfl, fun _ _ => does_writeEach fun _ => rfl⟩
  have hredl : ∀ x : BitVec 3, Both2 (.redlD · · x) (.redlL · · x) fun c d a i f =>
      f.setReg d (redlResult (identityOf x.toNat) x.toNat a c i) := fun x => by
    have hid : identityOf x.toNat = redlIdentity x.toNat := if_pos x.isLt
    rw [hid]
    exact ⟨fun _ _ => does_redl fun _ => rfl, fun _ _ => does_redl fun _ => rfl⟩
  refine ⟨?_, fun x _ => hset x, fun s _ => hshfl s, hvote,
    ⟨ballot, fun _ _ _ _ hn hj => getLsbD_ballot hn hj, hvbal.1, hvbal.2⟩,
    fun x => redlResult (identityOf x) x, ?_, ?_, hredl⟩
  · rintro i (⟨x, -, rfl | rfl⟩ | ⟨d, a, b, x, -, rfl⟩ | ⟨d, a, b, x, -, rfl⟩ | ⟨p, q, r, rfl | rfl | rfl | rfl⟩ | ⟨d, n, rfl⟩
      | ⟨d, n, rfl⟩ | ⟨d, a, x, rfl⟩ | ⟨d, a, x, rfl⟩) s u pf c hr
    · exact (hset x).1.goesOn hr
    · exact (hset x).2.goesOn hr
    · exact ((hshfl x).1 d a b).goesOn hr
    · exact ((hshfl x).2 d a b).goesOn hr
    · exact (hvote p q r).1.goesOn hr
    · exact (hvote p q r).2.1.goesOn hr
    · exact (hvote p q r).2.2.1.goesOn hr
    · exact (hvote p q r).2.2.2.goesOn hr
    · exact (hvbal.1 d n).goesOn hr
    · exact (hvbal.2 d n).goesOn hr
    · exact ((hredl x).1 d a).goesOn hr
    · exact ((hredl x).2 d a).goesOn hr
  · intro x a c i _ hp _
    refine ⟨redlNode x a c i, fun j hj => ?_, fun l j hl hj => ?_, redlResult_eq_root hp⟩
    · rw [redlNode_zero hj, identityOf_eq]; rfl
    · rw [redlNode_succ hp hl hj, redlJoin_eq, ← laneNaN_eq]
      rfl
  · intro x a c i j ht hsize hfirst hva
    exact redlResult_congr ht hsize hfirst hva
end

section
/-!
The shared checks of R60 (O42): what an instruction does whose turn has come, by what its checks find.
-/
namespace Sys2Proof.Machine

/-- An instruction whose turn has come and that waits for nothing makes its shared checks, then has its own effect. -/
theorem issue_checks {i : Instr} {s : State} {u : UnitId} {pf : Prefix} {c : Ctx} (body : Ctx → State → Eff)
    (hturn : s.turn = some (.issue u pf)) (hctx : s.ctx? u pf = some c) (hloose : c.loosePending = [])
    (htok : c.tokenWait pf (c.fibre (c.all.headD 0)).hdrWord s = none) (hstop : c.mustStop = false) (hstall : c.stalled i = false) :
    issue i body s = match c.check pf i (c.fibre (c.all.headD 0)).rep (c.start pf s) with
      | some e => .next (c.conclude e).done
      | none => .next (c.conclude (((body c ((c.start pf s).serveRegs c i)).fresh ((c.start pf s).staleRegs c i)).used c i)).done := by
  have ht : c.tokenWait pf (c.fibre (c.all.headD 0)).hdrWord (c.stamped s) = none := tokenWait_none htok _
  unfold issue
  simp only [hturn, hctx, hloose, ht, hstop, hstall]
  rfl

/-- Which registers hold errors does not depend on what stands before an instruction's checks. -/
theorem badRegs_start (c : Ctx) (pf : Prefix) (i : Instr) (s : State) : (c.start pf s).badRegs c i = s.badRegs c i := by
  simp only [State.badRegs, Ctx.start_rel]

/-- The lanes an operand of which lies outside their window. -/
abbrev Ctx.outLanes (c : Ctx) (i : Instr) : List Nat :=
  (c.readers i).filter fun p => Instr.tooWide c.kind i || (c.operands i.info).any fun o => outside o.1 o.2 (c.fibre p)

section
variable {c : Ctx} {pf : Prefix} {i : Instr} {rep : Option Rep} {s : State}

/-- The faults of R60 in their order, as propositions. -/
abbrev fieldFault (c : Ctx) (pf : Prefix) (i : Instr) (rep : Option Rep) : Prop :=
  i.encFault pf = some .illegalField ∨ (rep.map (stepFault i.info)).getD false = true
    ∨ ∃ o ∈ c.operands i.info, (o.1.num + o.2) % o.1.align ≠ 0

abbrev looseFault (c : Ctx) (i : Instr) : Prop := i.info.loose = true ∧ ∃ p ∈ c.all, (c.fibre p).bound = false

abbrev privFault (c : Ctx) (i : Instr) : Prop := i.info.priv = true ∧ ∃ p ∈ c.all, (c.fibre p).priv = false

theorem fieldFault_iff : fieldFault c pf i rep ↔ i.encFault pf = some .illegalField
    ∨ (rep.map (stepFault i.info)).getD false = true
    ∨ (c.operands i.info).any (fun o => decide ((o.1.num + o.2) % o.1.align ≠ 0)) = true := by simp [fieldFault]

theorem looseFault_iff : looseFault c i ↔ i.info.loose = true ∧ c.all.any (fun p => !(c.fibre p).bound) = true := by simp

theorem privFault_iff : privFault c i ↔ i.info.priv = true ∧ c.all.any (fun p => !(c.fibre p).priv) = true := by simp

theorem check_op (h : i.encFault pf = some .illegalOp) : c.check pf i rep s = some (c.raiseAll s causeOp 0) := by
  unfold Ctx.check; exact if_pos h

theorem check_field (h1 : i.encFault pf ≠ some .illegalOp) (h : fieldFault c pf i rep) :
    c.check pf i rep s = some (c.raiseAll s causeField 0) := by
  unfold Ctx.check
  rw [fieldFault_iff] at h
  exact (if_neg h1).trans (if_pos h)

theorem check_loose (h1 : i.encFault pf ≠ some .illegalOp) (h2 : ¬ fieldFault c pf i rep) (h : looseFault c i) :
    c.check pf i rep s = some (c.raiseAll s causeLoose 0) := by
  unfold Ctx.check
  rw [fieldFault_iff] at h2
  rw [looseFault_iff] at h
  exact (if_neg h1).trans ((if_neg h2).trans (if_pos h))

theorem check_privilege (h1 : i.encFault pf ≠ some .illegalOp) (h2 : ¬ fieldFault c pf i rep) (h3 : ¬ looseFault c i)
    (h : privFault c i) : c.check pf i rep s = some (c.raiseAll s causePrivilege 0) := by
  unfold Ctx.check
  rw [fieldFault_iff] at h2
  rw [looseFault_iff] at h3
  rw [privFault_iff] at h
  exact (if_neg h1).trans ((if_neg h2).trans ((if_neg h3).trans (if_pos h)))

/-- The checks after those of privilege: windows, the return trap of R264, the registers' errors. -/
theorem check_windows (h1 : i.encFault pf ≠ some .illegalOp) (h2 : ¬ fieldFault c pf i rep) (h3 : ¬ looseFault c i)
    (h4 : ¬ privFault c i) : c.check pf i rep s =
      if ¬ (c.outLanes i).isEmpty then some (.raise s causeWindow 0 0 ((c.outLanes i).map c.lane) [])
      else if c.kind = .sequencer ∧ ¬ i.info.seq then some (.stay (s.modCrew c.u.crew fun k => { k with returning := true }))
      else match s.regError c i with
        | [] => none
        | e :: es => some (.raise s causeEcc 0 e.2.1 ((e :: es).map Prod.fst) ((e :: es).map fun y => (y.1, [y.2.2, 0]))) := by
  unfold Ctx.check
  rw [fieldFault_iff] at h2
  rw [looseFault_iff] at h3
  rw [privFault_iff] at h4
  exact (if_neg h1).trans ((if_neg h2).trans ((if_neg h3).trans (if_neg h4)))

theorem check_out (h1 : i.encFault pf ≠ some .illegalOp) (h2 : ¬ fieldFault c pf i rep) (h3 : ¬ looseFault c i)
    (h4 : ¬ privFault c i) (h : c.outLanes i ≠ []) :
    c.check pf i rep s = some (.raise s causeWindow 0 0 ((c.outLanes i).map c.lane) []) := by
  rw [check_windows h1 h2 h3 h4, if_pos (by rwa [List.isEmpty_iff])]

/-- Every check but that of the registers' errors passes. -/
theorem check_registers (h1 : i.encFault pf = none) (h2 : ¬ fieldFault c pf i rep) (h3 : ¬ looseFault c i)
    (h4 : ¬ privFault c i) (h5 : c.outLanes i = []) (h6 : c.kind = .sequencer → i.info.seq = true) : c.check pf i rep s =
      match s.regError c i with
        | [] => none
        | e :: es => some (.raise s causeEcc 0 e.2.1 ((e :: es).map Prod.fst) ((e :: es).map fun y => (y.1, [y.2.2, 0]))) := by
  rw [check_windows (by simp [h1]) h2 h3 h4, h5, if_neg (by simp), if_neg fun h => h.2 (h6 h.1)]

end

/-- What an entry of the bad registers tells: a reading lane, and a number among the sources whose value or S bit is in error. -/
theorem mem_badRegs {s : State} {c : Ctx} {i : Instr} {y : Nat × Nat × Nat} (h : y ∈ s.badRegs c i) :
    ∃ p ∈ c.act, y.1 = c.lane p ∧ y.2.2 ∈ numbersOf (c.sources i)
      ∧ (y.2.1 = 0 ∧ s.rel.poison.contains (.register c.u.crew p y.2.2) = true
        ∨ y.2.1 = 1 ∧ i.ignoresS = false ∧ s.rel.poison.contains (.sticky c.u.crew p y.2.2) = true) := by
  obtain ⟨p, hp, hf⟩ := List.mem_filterMap.1 h
  obtain ⟨r, hr, hy⟩ := List.exists_of_findSome?_eq_some hf
  refine ⟨p, readers_act hp, ?_⟩
  split at hy
  · cases hy
    exact ⟨rfl, hr, .inl ⟨rfl, ‹_›⟩⟩
  · split at hy
    · rename_i hs
      cases hy
      simp only [Bool.and_eq_true, Bool.not_eq_true'] at hs
      exact ⟨rfl, hr, .inr ⟨rfl, hs⟩⟩
    · cases hy

end Sys2Proof.Machine
end

section
open Sys2Proof Sys2Proof.Machine

/-- Settles O42: each fault of R60 is the answer of the shared checks where those before it pass. -/
theorem checksRaiseInOrder : Obligations.ChecksRaiseInOrder := by
  unfold Obligations.ChecksRaiseInOrder
  intro i body he s u pf c hturn hctx hloose htok hstop hstall
  have hi := (he s).trans (issue_checks body hturn hctx hloose htok hstop hstall)
  have hraise : ∀ {e : Eff}, c.check pf i (c.fibre (c.all.headD 0)).rep (c.start pf s) = some e →
      exec i s = .next (c.conclude e).done := fun hc => by rw [hi, hc]
  refine ⟨fun h => hraise (check_op h), fun h1 h => hraise (check_field h1 h), fun h1 h2 h => hraise (check_loose h1 h2 h),
    fun h1 h2 h3 h => hraise (check_privilege h1 h2 h3 h), fun h1 h2 h3 h4 h => hraise (check_out h1 h2 h3 h4 h),
    ⟨?_, ?_⟩, ?_⟩
  · rintro ⟨h1, h2, h3, h4, h5, h6⟩ hm e es hbad
    have hreg : (c.start pf s).regError c i = e :: es := by
      unfold State.regError
      rw [if_neg (by simp [hm]), badRegs_start, hbad]
    refine hraise (e := .raise _ _ _ _ _ _) ?_
    rw [check_registers h1 h2 h3 h4 h5 h6, hreg]
    rfl
  · rintro ⟨h1, h2, h3, h4, h5, h6⟩ hm hmir
    have hreg : (c.start pf s).regError c i = [] := if_pos ⟨hmir, hm⟩
    have hc : c.check pf i (c.fibre (c.all.headD 0)).rep (c.start pf s) = none := by
      rw [check_registers h1 h2 h3 h4 h5 h6, hreg]
    rw [hi, hc]
  · exact fun y hy => (ctx_spec hctx).1 ▸ mem_badRegs hy
end

section
/-!
Frames of the memory side: what merges, evictions, walks, fetches and reads by the device leave of the state.
-/
namespace Sys2Proof.Machine

/-! ## Merges (R114) -/

/-- `t` with the fields that merging partials changes taken from `s`. -/
def State.unmerged (t s : State) : State :=
  { t with mem := s.mem, past := s.past, partials := s.partials, encOwner := s.encOwner, queues := s.queues, wakes := s.wakes }

/-- `t` differs from `s` by what merging partials changes alone. -/
def Merges (s t : State) : Prop := t.unmerged s = s

theorem Merges.refl (s : State) : Merges s s := rfl

theorem Merges.trans {s t r : State} (h : Merges s t) (h' : Merges t r) : Merges s r :=
  (congrArg (State.unmerged · s) h' : _ = t.unmerged s).trans h

theorem Merges.foldl {α : Type} {f : State → α → State} (h : ∀ s a, Merges s (f s a)) :
    ∀ (l : List α) (s : State), Merges s (l.foldl f s)
  | [], s => .refl s
  | a :: l, s => (h s a).trans (Merges.foldl h l (f s a))

/-- An event of a queue, or its pending bit. -/
theorem merges_post (s : State) (q : Nat) : Merges s (s.post (.queue q)) := by
  unfold State.post; dsimp only; split <;> rfl

theorem merges_tellSignals (s : State) (pa n : Nat) : Merges s (s.tellSignals pa n) :=
  Merges.foldl (fun t _ => Merges.trans (t := t.modQueue _ _) rfl (merges_post _ _)) _ s

/-- A store that is no fibre's enters the order of its location as the newest. -/
theorem storeAs_anonymous (s : State) (m : Mark) (hm : m.who = none) (pa : Nat) (bs : List Byte) :
    s.storeAs m pa bs = { s.store pa bs with past := s.record m none pa (s.bytes pa bs.length) :: s.past } := by
  have hr : s.releasing m = (s, m) := by unfold State.releasing; rw [hm]
  have hp : s.passUnder m none pa bs = (s, false) := by
    unfold State.passUnder State.mayPrecede; rw [hm]
  unfold State.storeAs
  rw [hr]
  simp only [hm, Option.isSome_none, Bool.false_eq_true, false_and, if_false]
  unfold State.storeOne
  rw [hp]

theorem merges_takeKey (s : State) (asid : Nat) (enc : Bool) (pa : Nat) : Merges s (s.takeKey asid enc pa) := by
  unfold State.takeKey
  split
  · dsimp only; split <;> rfl
  · rfl

theorem merges_mergeElement (s : State) (p : Partial) : Merges s (s.mergeElement p) := by
  unfold State.mergeElement
  refine (merges_takeKey s p.asid p.enc p.pa).trans (Merges.trans ?_ (merges_tellSignals _ _ _))
  rw [storeAs_anonymous _ _ rfl]
  rfl

theorem merges_mergeLine (s : State) (line : Nat) : Merges s (s.mergeLine line) :=
  Merges.foldl (fun t p => Merges.trans (t := { t with partials := t.partials.erase p }) rfl (merges_mergeElement _ p)) _ s

/-- With no partial pending nothing merges. -/
theorem mergeLine_none {s : State} (h : s.partials = []) (line : Nat) : s.mergeLine line = s := by
  unfold State.mergeLine; simp [h]

theorem merges_mergeLines (s : State) (pa n : Nat) : Merges s (s.mergeLines pa n) := by
  unfold State.mergeLines
  split
  · exact .refl s
  · exact Merges.foldl (fun t i => merges_mergeLine t _) _ s

/-- A write of the device's own. -/
theorem merges_put (s : State) (pa : Nat) (bs : List Byte) : Merges s (s.put pa bs) :=
  (merges_mergeLines s pa bs.length).trans (Merges.trans (t := (s.mergeLines pa bs.length).store pa bs) rfl (merges_tellSignals _ _ _))

/-! ## The memory side -/

/-- `t` with the memory side taken from `s`: memory, caches and what orders them, keys, partials, errors and their log, the events
of queues, and the count of free values. -/
def State.memoryOf (t s : State) : State :=
  { t.unmerged s with cores := s.cores, draws := s.draws, rel := s.rel, aon := s.aon, l2 := s.l2, l2Next := s.l2Next, inbox := s.inbox }

/-- `t` differs from `s` on the memory side alone. -/
def MemorySide (s t : State) : Prop := t.memoryOf s = s

theorem MemorySide.refl (s : State) : MemorySide s s := rfl

theorem MemorySide.trans {s t r : State} (h : MemorySide s t) (h' : MemorySide t r) : MemorySide s r :=
  (congrArg (State.memoryOf · s) h' : _ = t.memoryOf s).trans h

theorem MemorySide.foldl {α : Type} {f : State → α → State} (h : ∀ s a, MemorySide s (f s a)) :
    ∀ (l : List α) (s : State), MemorySide s (l.foldl f s)
  | [], s => .refl s
  | a :: l, s => (h s a).trans (MemorySide.foldl h l (f s a))

theorem Merges.memorySide {s t : State} (h : Merges s t) : MemorySide s t :=
  (congrArg (State.memoryOf · s) h : _ = s.memoryOf s)

theorem MemorySide.crews {s t : State} (h : MemorySide s t) : t.crews = s.crews :=
  (congrArg State.crews (show t.memoryOf s = s from h) : (t.memoryOf s).crews = s.crews)

theorem MemorySide.now {s t : State} (h : MemorySide s t) : t.now = s.now :=
  (congrArg State.now (show t.memoryOf s = s from h) : (t.memoryOf s).now = s.now)

theorem MemorySide.turn {s t : State} (h : MemorySide s t) : t.turn = s.turn :=
  (congrArg State.turn (show t.memoryOf s = s from h) : (t.memoryOf s).turn = s.turn)

/-- Who issues depends on the crews alone. -/
theorem ctx_of_crews {s t : State} (h : t.crews = s.crews) (u : UnitId) (pf : Prefix) : t.ctx? u pf = s.ctx? u pf := by
  unfold State.ctx?; rw [h]

theorem memorySide_rel (s : State) (r : Reliability) : MemorySide s { s with rel := r } := rfl

theorem memorySide_aon_rel (s : State) (a : AonRegs) (r : Reliability) : MemorySide s { s with aon := a, rel := r } := rfl

theorem memorySide_modCore (s : State) (n : Nat) (f : CoreSt → CoreSt) : MemorySide s (s.modCore n f) := rfl

theorem memorySide_draw (s : State) : MemorySide s s.draw := rfl

theorem memorySide_l2 (s : State) (x : List (Nat × Option Bool)) (l : List Nat) (r : Reliability) :
    MemorySide s { s with l2 := x, l2Next := l, rel := r } := rfl

/-! ## Errors met and logged (R337, R348) -/

theorem memorySide_logEntry (s : State) (kind unit loc asid queue tag addr : Nat) :
    MemorySide s (s.logEntry kind unit loc asid queue tag addr) := by
  have h : ∀ bs, MemorySide s (s.ringEntry bs) := fun bs => by
    unfold State.ringEntry
    split
    · exact .refl s
    · exact (merges_put _ _ _).memorySide
  unfold State.logEntry
  exact (h _).trans (memorySide_aon_rel _ _ _)

theorem memorySide_orderTest (s : State) (kind unit loc addr : Nat) : MemorySide s (s.orderTest kind unit loc addr) := by
  unfold State.orderTest; split <;> rfl

theorem memorySide_logCrew (s : State) (kind unit c addr : Nat) : MemorySide s (s.logCrew kind unit c addr) := by
  unfold State.logCrew
  split
  · exact .refl s
  · exact (memorySide_orderTest _ _ _ _ _).trans (memorySide_logEntry _ _ _ _ _ _ _ _)

theorem memorySide_correctAt (s : State) (c pa n : Nat) : MemorySide s (s.correctAt c pa n) := by
  unfold State.correctAt
  dsimp only
  split
  · exact .refl s
  · exact (memorySide_rel s _).trans (MemorySide.foldl (fun t p => memorySide_logCrew t _ _ _ _) _ _)

theorem memorySide_devMeets (s : State) (asid pa n : Nat) : MemorySide s (s.devMeets asid pa n) := by
  have hl : ∀ (t : State) (unit x : Nat), MemorySide t (t.logAgent unit asid 0 0 x) := fun t unit x =>
    (memorySide_orderTest t 2 unit 0x3FF x).trans ((memorySide_draw _).trans
      (memorySide_logEntry _ _ _ _ _ _ _ _))
  have hm : ∀ (r : Reliability) (unit : Nat), MemorySide s (({ s with rel := r } : State).logEntry 1 unit 0x3FF asid 0 0 pa) :=
    fun r unit => (memorySide_rel s r).trans (memorySide_logEntry _ _ _ _ _ _ _ _)
  unfold State.devMeets
  dsimp only
  split <;> split
  · exact (hm _ _).trans (hl _ _ _)
  · exact hl _ _ _
  · exact hm _ _
  · exact .refl s

/-! ## Walks -/

theorem memorySide_mendWalk (s : State) (core asid va : Nat) : MemorySide s (s.mendWalk core asid va) := by
  unfold State.mendWalk
  split
  · exact .refl s
  · refine (memorySide_rel s _).trans (MemorySide.foldl (fun t p => ?_) _ _)
    split
    · exact memorySide_logEntry _ _ _ _ _ _ _ _
    · exact memorySide_logEntry _ _ _ _ _ _ _ _
    · exact .refl t

theorem merges_orBit (s : State) (at_ b : Nat) : Merges s (s.orBit at_ b) := by
  unfold State.orBit
  dsimp only
  split
  · exact .refl s
  · exact merges_put _ _ _

theorem merges_logDirty (s : State) (asid stage addr size : Nat) : Merges s (s.logDirty asid stage addr size) := by
  unfold State.logDirty
  split
  · dsimp only
    split
    · exact .refl s
    · split
      · exact merges_put _ _ _
      · exact (merges_put _ _ _).trans (merges_put _ _ _)
  · exact .refl s

theorem merges_setDirty (s : State) (asid stage at_ addr size : Nat) : Merges s (s.setDirty asid stage at_ addr size) := by
  unfold State.setDirty
  split
  · exact .refl s
  · exact (merges_logDirty _ _ _ _ _).trans (merges_orBit _ _ _)

theorem merges_setLeaves (s : State) (asid va leaf1 size1 : Nat) (leaf2 : Option (Nat × Nat × Nat)) :
    Merges s (s.setLeaves asid va leaf1 size1 leaf2) := by
  unfold State.setLeaves
  split
  · exact (merges_setDirty _ _ _ _ _ _).trans (merges_setDirty _ _ _ _ _ _)
  · exact merges_setDirty _ _ _ _ _ _

theorem merges_stage2A (s : State) (asid va : Nat) (need : Need) : Merges s (s.stage2A asid va need) :=
  Merges.foldl (fun t e => merges_orBit t e 9) _ s

theorem merges_applyWalk (s : State) (asid va : Nat) (write : Bool) (w : Walk) : Merges s (s.applyWalk asid va write w) := by
  have h : Merges s (w.used.foldl (fun t e => State.orBit t e 9) s) := Merges.foldl (fun t e => merges_orBit t e 9) _ s
  unfold State.applyWalk
  dsimp only
  split
  · exact h.trans (merges_setLeaves _ _ _ _ _ _)
  · exact h

theorem memorySide_fillTlb (s : State) (core asid va : Nat) (need : Need) : MemorySide s (s.fillTlb core asid va need).1 := by
  have h := memorySide_mendWalk s core asid va
  unfold State.fillTlb
  dsimp only
  split
  · exact h.trans (merges_stage2A _ _ _ _).memorySide
  · exact (h.trans (merges_applyWalk _ _ _ _ _).memorySide).trans (memorySide_modCore _ _ _)

theorem memorySide_dirtyThrough (s : State) (core asid va : Nat) (need : Need) (e : TlbEntry) :
    MemorySide s (s.dirtyThrough core asid va need e).1 := by
  unfold State.dirtyThrough
  split
  · exact (merges_setLeaves _ _ _ _ _ _).memorySide.trans (memorySide_modCore _ _ _)
  · exact memorySide_fillTlb _ _ _ _ _

/-- A translation changes the memory side alone. -/
theorem memorySide_translate (s : State) (core asid va : Nat) (need : Need) : MemorySide s (s.translate core asid va need).1 := by
  have ht : ∀ (e : TlbEntry) (t : State), MemorySide t (match e.tr.allows need with
      | some c => (t, Except.error c)
      | none => if need.write ∧ ¬ e.dirty then t.dirtyThrough core asid va need e
          else (t, Except.ok e.tr) : State × Except Nat Translation).1 := fun e t => by
    split
    · exact .refl t
    · split
      · exact memorySide_dirtyThrough _ _ _ _ _ _
      · exact .refl t
  unfold State.translate
  split
  · exact memorySide_fillTlb _ _ _ _ _
  · rename_i e _
    dsimp only
    split
    · exact ht e s
    · split
      · exact (memorySide_draw s).trans (memorySide_fillTlb _ _ _ _ _)
      · exact (memorySide_draw s).trans (ht e s.draw)

/-! ## Reads by the device itself -/

theorem memorySide_peeked (s : State) (asid va : Nat) : MemorySide s (s.peeked asid va) := by
  refine MemorySide.trans ?_ (merges_stage2A _ _ _ _).memorySide
  unfold State.devReadMeets
  split
  · exact .refl s
  · exact MemorySide.foldl (fun t x => memorySide_devMeets t _ _ _) _ s

theorem memorySide_peekedAll (s : State) (asid : Nat) (vas : List Nat) : MemorySide s (s.peekedAll asid vas) :=
  MemorySide.foldl (fun t va => memorySide_peeked t asid va) vas s

/-! ## The L2, and reads at a home -/

theorem memorySide_evictSector (s : State) (line : Nat) : MemorySide s (s.evictSector line) := by
  have h := (merges_mergeLine s line).memorySide
  unfold State.evictSector
  dsimp only
  split
  · exact h
  · exact h.trans (memorySide_l2 _ _ _ _)

theorem memorySide_touchSector (s : State) (mtype line : Nat) (write whole : Bool) :
    MemorySide s (s.touchSector mtype line write whole) := by
  unfold State.touchSector
  split
  · exact .refl s
  · split
    · split <;> rfl
    · exact (MemorySide.foldl memorySide_evictSector _ s).trans (memorySide_l2 _ _ _ _)

theorem memorySide_homeRead (s : State) (asid : Nat) (tr : Translation) (pa n : Nat) :
    MemorySide s (s.homeRead asid tr pa n).1 :=
  (merges_mergeLine s _).memorySide.trans (memorySide_touchSector _ _ _ _ _)

/-! ## Fetches (R55, R67) -/

theorem memorySide_fetch (s : State) (core asid : Nat) (priv : Bool) (c : Nat) (pair : Option PairHalf) (va : Nat) :
    MemorySide s (s.fetch core asid priv c pair va).1 := by
  unfold State.fetch
  split
  · exact .refl s
  · rename_i t _ _ e
    have ht := memorySide_translate s core asid va { fetch := true, priv := priv }
    rwa [e] at ht
  · rename_i t tr _ e
    have ht := memorySide_translate s core asid va { fetch := true, priv := priv }
    rw [e] at ht
    split
    · exact ht
    · exact ht
    · have hr := ht.trans ((memorySide_correctAt t c (tr.pa va) 4).trans (memorySide_homeRead _ asid tr (tr.pa va) 4))
      split
      rename_i r bs e
      rw [e] at hr
      dsimp only
      split
      · exact hr.trans (memorySide_modCore _ _ _)
      · exact hr.trans ((memorySide_draw _).trans (memorySide_modCore _ _ _))

/-- Fetching words of code changes the memory side alone. -/
theorem memorySide_fetchWords (core asid : Nat) (priv : Bool) (c : Nat) (pair : Option PairHalf) :
    ∀ (n : Nat) (s : State) (va : Nat), MemorySide s (s.fetchWords core asid priv c pair va n).1
  | 0, s, _ => .refl s
  | n + 1, s, va => by
    have h1 := memorySide_fetch s core asid priv c pair va
    unfold State.fetchWords
    split <;> rename_i t _ e <;> rw [e] at h1
    · exact h1
    · have h2 := h1.trans (memorySide_fetchWords core asid priv c pair n t (va + 4))
      split <;> rename_i r _ e' <;> rw [e'] at h2 <;> exact h2

theorem memorySide_code {c : Ctx} {off : Word} {n : Nat} {s s' : State} {r : Except FetchStop (List Word)}
    (h : c.code off n s = (s', r)) : MemorySide s s' := by
  have hm := memorySide_fetchWords c.core c.asid c.priv c.u.crew c.crew.pair n s ((c.fibre (c.all.headD 0)).codeVa off)
  rw [Ctx.code] at h
  rwa [h] at hm

end Sys2Proof.Machine
end

section
/-!
One step (O49): the turn that stands is what runs; which move comes next; what precedes it.
-/
namespace Sys2Proof.Machine

/-! ## The move of a turn that stands -/

theorem move_issue {s : State} {u : UnitId} {pf : Prefix} (h : s.turn = some (.issue u pf)) : s.move = s.fetchIssue u := by
  have hs : s.turn.isSome = true := by rw [h]; rfl
  unfold State.move
  dsimp only
  rw [if_pos hs, h]

theorem step_event {s : State} {i : Instr} {a : EvArg} (h : s.turn = some (.event i a)) (hi : i.info.text = .event) :
    step s = exec i s := by
  have hs : s.turn.isSome = true := by rw [h]; rfl
  have hm : s.move = (s, some i) := by
    unfold State.move
    dsimp only
    rw [if_pos hs, h]
    exact if_pos hi
  unfold step
  rw [hm]

/-- A unit of D at an issue point enters its clause. -/
theorem fetchIssue_clause {s : State} {u : UnitId} {c : Ctx} (hc : s.ctx? u Prefix.plain = some c) (hk : c.kind.isL = false)
    (hcl : (c.fibre (c.all.headD 0)).clause = []) :
    s.fetchIssue u = ({ s with turn := some (.event .clauseEntry { unit := u }) }, some .clauseEntry) := by
  unfold State.fetchIssue
  simp only [hc]
  exact if_pos ⟨by rw [hcl]; rfl, hk⟩

/-- The unit as its words stand latched: those it holds, or those that a fetch has brought. -/
theorem fetchIssue_decodes {s t : State} {u : UnitId} {c c' : Ctx} {w x : Word} {pf : Prefix} {i : Instr}
    (hc : s.ctx? u Prefix.plain = some c) (hne : ¬ ((c.fibre (c.all.headD 0)).clause.isEmpty ∧ c.kind.isL = false))
    (ht : (if (c.fibre (c.all.headD 0)).clause.isEmpty then c.fetchL s else s) = t) (hc' : t.ctx? u Prefix.plain = some c')
    (hw : c'.wordsAt = some (w, x)) (hd : decodeFor c.kind w x = .ok (pf, i)) :
    s.fetchIssue u = ({ t with turn := some (.issue u pf) }, some i) := by
  unfold State.fetchIssue
  simp only [hc]
  rw [if_neg hne, ht, hc']
  simp only [Option.bind_some, hw, hd]

theorem wordsAt_D {c : Ctx} (hk : c.kind.isL = false) (hcl : (c.fibre (c.all.headD 0)).clause ≠ []) :
    c.wordsAt = some ((c.fibre (c.all.headD 0)).clause.getD (((c.fibre (c.all.headD 0)).pc - (c.fibre (c.all.headD 0)).hdr).toNat / 4 - 1) 0, 0) := by
  have he : (c.fibre (c.all.headD 0)).clause.isEmpty = false := by rwa [← Bool.not_eq_true, List.isEmpty_iff]
  unfold Ctx.wordsAt
  simp only [hk, he, Bool.false_eq_true, if_false]

theorem wordsAt_L {c : Ctx} {x w : Word} (hk : c.kind.isL = true) (hcl : (c.fibre (c.all.headD 0)).clause = [x, w]) :
    c.wordsAt = some (w, x) := by
  unfold Ctx.wordsAt
  simp only [hk, if_true, hcl]

/-- A unit whose words are latched runs the instruction they decode to. -/
theorem step_latched {s : State} {u : UnitId} {pf0 pf : Prefix} {c : Ctx} {w x : Word} {i : Instr}
    (hturn : s.turn = some (.issue u pf0)) (hc : s.ctx? u Prefix.plain = some c) (hcl : (c.fibre (c.all.headD 0)).clause ≠ [])
    (hw : c.wordsAt = some (w, x)) (hd : decodeFor c.kind w x = .ok (pf, i)) :
    step s = exec i { s with turn := some (.issue u pf) } := by
  have he : ¬ (c.fibre (c.all.headD 0)).clause.isEmpty = true := by rwa [List.isEmpty_iff]
  unfold step
  rw [move_issue hturn, fetchIssue_decodes hc (fun h => he h.1) (if_neg he) hc hw hd]

/-! ## A doubleword fetched (R46, R56) -/

/-- A fibre with the words of a doubleword latched, its REP as `r` makes it. -/
def Fibre.latched (ws : List Word) (r : Rep → Rep) (f : Fibre) : Fibre := { f with clause := ws, wait := .none, rep := f.rep.map r }

theorem inUnit_latched (ws : List Word) (r : Rep → Rep) (f : Fibre) (u : UnitKind) : (f.latched ws r).inUnit u = f.inUnit u := by
  cases u <;> rfl

theorem findIdx?_congr {α β : Type} {p : α → Bool} {q : β → Bool} : ∀ {l : List α} {m : List β}, l.length = m.length →
    (∀ (i : Nat) (x : α) (y : β), l[i]? = some x → m[i]? = some y → p x = q y) → l.findIdx? p = m.findIdx? q
  | [], [], _, _ => rfl
  | x :: l, y :: m, hl, h => by
    have hxy := h 0 x y rfl rfl
    rw [List.findIdx?_cons, List.findIdx?_cons, hxy,
      findIdx?_congr (by simpa using hl) fun i x y hx hy => h (i + 1) x y (by simpa using hx) (by simpa using hy)]

/-- A crew's units do not change where its fibres keep what makes them members. -/
theorem members_modFibres (k : Crew) (is : List Nat) (g : Nat → Fibre → Fibre) (u : UnitKind)
    (h : ∀ p f, (g p f).inUnit u = f.inUnit u ∧ (g p f).home = f.home) : (k.modFibres is g).members u = k.members u := by
  unfold Crew.members
  congr 1
  funext l
  refine findIdx?_congr (by simp) fun i x y hx hy => ?_
  simp only [Crew.modFibres, modAt, List.getElem?_mapIdx, hy, Option.map_some, Option.some.injEq] at hx
  subst hx
  split
  · rw [(h i y).1, (h i y).2]
  · rfl

theorem ctx_all_ne_nil {s : State} {u : UnitId} {pf : Prefix} {c : Ctx} (hc : s.ctx? u pf = some c) : c.all ≠ [] := by
  obtain ⟨-, hk, hall, -⟩ := ctx_spec hc
  intro h
  rw [hall] at h
  unfold State.ctx? at hc
  simp only [hk, h] at hc
  cases hc

/-- The issuing unit of a crew whose fibres change what makes no member. -/
theorem ctx_modFibres {s : State} {u : UnitId} {c : Ctx} (hc : s.ctx? u Prefix.plain = some c) (g : Nat → Fibre → Fibre)
    (h : ∀ p f, (g p f).inUnit u.kind = f.inUnit u.kind ∧ (g p f).home = f.home) :
    ∃ c', (s.modFibres u.crew c.all g).ctx? u Prefix.plain = some c' ∧ c'.kind = c.kind ∧ c'.all = c.all
      ∧ c'.crew = c.crew.modFibres c.all g := by
  obtain ⟨-, hk, hall, -⟩ := ctx_spec hc
  have hk' : (s.modFibres u.crew c.all g).crews[u.crew]? = some (c.crew.modFibres c.all g) := crews_modify hk _
  have hm : (c.crew.modFibres c.all g).members u.kind = c.all := (members_modFibres _ _ _ _ h).trans hall.symm
  unfold State.ctx?
  simp only [hk', hm]
  cases hca : c.all with
  | nil => exact absurd hca (ctx_all_ne_nil hc)
  | cons m ms => exact ⟨_, rfl, rfl, rfl, rfl⟩

/-- The lead of a unit is one of its members, and a place of its crew. -/
theorem lead_mem {s : State} {u : UnitId} {pf : Prefix} {c : Ctx} (hc : s.ctx? u pf = some c) : c.all.headD 0 ∈ c.all := by
  have := ctx_all_ne_nil hc
  cases h : c.all with
  | nil => exact absurd h this
  | cons m ms => simp

/-- A unit of L whose doubleword a fetch brings runs the instruction it decodes to. -/
theorem step_fetched {s t : State} {u : UnitId} {pf0 pf : Prefix} {c : Ctx} {w x : Word} {i : Instr} {r : Rep → Rep}
    (hturn : s.turn = some (.issue u pf0)) (hc : s.ctx? u Prefix.plain = some c) (hk : c.kind.isL = true)
    (hcl : (c.fibre (c.all.headD 0)).clause = []) (ht : MemorySide s t)
    (hf : c.fetchL s = t.modFibres u.crew c.all fun _ f => f.latched [x, w] r) (hd : decodeL x w = .ok (pf, i)) :
    step s = exec i { t.modFibres u.crew c.all (fun _ f => f.latched [x, w] r) with turn := some (.issue u pf) } := by
  have hct : t.ctx? u Prefix.plain = some c := (ctx_of_crews ht.crews u _).trans hc
  obtain ⟨c', hc', hkind, hall, hcrew⟩ := ctx_modFibres hct (fun _ f => f.latched [x, w] r)
    fun _ f => ⟨inUnit_latched _ _ f _, rfl⟩
  have hlead := lead_mem hc
  have hlatch : (c'.fibre (c'.all.headD 0)).clause = [x, w] := by
    rw [hall, Ctx.fibre, hcrew, Crew.fibre_modFibres _ _ _ _ (ctx_all_lt hc hlead), if_pos hlead]
    rfl
  unfold step
  rw [move_issue hturn, fetchIssue_decodes hc (by simp [hk]) ((if_pos (by rw [hcl]; rfl)).trans hf) hc'
    (wordsAt_L (hkind ▸ hk) hlatch) ((if_pos hk).trans hd)]

/-- A doubleword fetched outside a REP's repeats. -/
theorem fetchL_plain {s s' : State} {u : UnitId} {pf : Prefix} {c : Ctx} {ws : List Word} (hc : s.ctx? u pf = some c)
    (hrep : ∀ p ∈ c.all, (c.fibre p).rep = none) (hwait : c.fetchWaits (c.fibre (c.all.headD 0)).pc 2 s = false)
    (hcode : c.code (c.fibre (c.all.headD 0)).pc 2 s = (s', .ok ws)) :
    c.fetchL s = s'.modFibres u.crew c.all fun _ f => f.latched ws id := by
  have hr := hrep _ (lead_mem hc)
  unfold Ctx.fetchL
  simp only [hwait, hr, hcode, (ctx_spec hc).1]
  simp only [Option.map_none, Option.getD_none, bne_self_eq_false, Bool.false_and, Bool.or_false, Bool.false_eq_true, if_false]
  rfl

/-- A doubleword fetched while a REP repeats it, the REP read again. -/
theorem fetchL_again {s s' s'' : State} {u : UnitId} {pf : Prefix} {c : Ctx} {ws : List Word} {y : Word} {r : Rep}
    (hc : s.ctx? u pf = some c) (hrep : (c.fibre (c.all.headD 0)).rep = some r) (hk : r.k ≠ 0)
    (hwait : c.fetchWaits (c.fibre (c.all.headD 0)).pc 2 s = false)
    (hwait' : c.fetchWaits ((c.fibre (c.all.headD 0)).pc - 4) 1 s = false)
    (hcode : c.code (c.fibre (c.all.headD 0)).pc 2 s = (s', .ok ws))
    (hcode' : c.code ((c.fibre (c.all.headD 0)).pc - 4) 1 s' = (s'', .ok [y])) :
    c.fetchL s = s''.modFibres u.crew c.all fun _ f => f.latched ws fun q => q.reread y := by
  have hb : (r.k != 0) = true := by simpa using hk
  unfold Ctx.fetchL
  simp only [hwait, hwait', hrep, hcode, Option.map_some, Option.getD_some, hb, Bool.and_false, Bool.or_false, Bool.false_eq_true,
    if_false, if_true, hcode', (ctx_spec hc).1]
  rfl

/-! ## The choice of a move -/

theorem foldl_pick_mem {α : Type} (f : Option α → α → Option α) (hf : ∀ b m x, f b m = some x → b = some x ∨ m = x) :
    ∀ (l : List α) (b : Option α) (x : α), l.foldl f b = some x → b = some x ∨ x ∈ l
  | [], _, _, h => .inl h
  | m :: l, b, x, h => by
    rcases foldl_pick_mem f hf l (f b m) x h with h' | h'
    · rcases hf b m x h' with h'' | rfl
      · exact .inl h''
      · exact .inr (List.mem_cons_self ..)
    · exact .inr (List.mem_cons_of_mem _ h')

/-- A move that is due is one of those told. -/
theorem due_mem {s : State} {ms : List Move} {m : Move} (h : s.due ms = some m) : m ∈ ms := by
  unfold State.due at h
  split at h
  · refine (foldl_pick_mem _ (fun b m x hx => ?_) ms none m h).resolve_left (by simp)
    split at hx
    · split at hx
      · exact .inr (Option.some.inj hx)
      · exact .inl hx
    · exact .inr (Option.some.inj hx)
    · exact .inl hx
  · split at h
    · exact List.mem_of_mem_filter (List.mem_of_getElem? h)
    · cases h

theorem getD_mem_cons {α : Type} (m : α) (ms : List α) (n : Nat) : (m :: ms).getD n m ∈ m :: ms := by
  unfold List.getD
  cases h : (m :: ms)[n]? with
  | none => exact List.mem_cons_self ..
  | some x => exact List.mem_of_getElem? h

/-- The state with the turn of one of its moves taken. -/
def State.taking (s : State) (m : Move) : State :=
  { s with turn := some m.turn, inbox := match m.input with
      | some i => s.inbox.eraseIdx i
      | none => s.inbox }

theorem pick_none {s : State} (h : s.dropIdle.tellOver.moves = []) : s.pick = s.dropIdle.tellOver := by
  unfold State.pick
  simp only [h]

theorem pick_some {s : State} (h : s.dropIdle.tellOver.moves ≠ []) :
    ∃ m ∈ s.dropIdle.tellOver.moves, s.pick = s.dropIdle.tellOver.taking m := by
  cases hm : s.dropIdle.tellOver.moves with
  | nil => exact absurd hm h
  | cons m ms =>
    unfold State.pick
    simp only [hm]
    refine ⟨_, ?_, rfl⟩
    split
    · exact List.mem_cons_self ..
    · cases hd : s.dropIdle.tellOver.due (m :: ms) with
      | some x => exact due_mem hd
      | none => exact getD_mem_cons m ms _

/-! ## What precedes a move -/

/-- What each step of a fold keeps, the fold keeps. -/
theorem foldl_keeps {α : Type} {P : State → Prop} {f : State → α → State} (h : ∀ s a, P s → P (f s a)) :
    ∀ (l : List α) (s : State), P s → P (l.foldl f s)
  | [], _, hs => hs
  | a :: l, s, hs => foldl_keeps h l (f s a) (h s a hs)

/-- `t` with the queues of `s`. -/
def State.queuesOf (t s : State) : State := { t with queues := s.queues }

/-- Only queues change where one that is not ready gives up its deficit. -/
theorem dropIdle_frame (s : State) : s.dropIdle.queuesOf s = s := by
  unfold State.dropIdle
  refine foldl_keeps (P := fun t => t.queuesOf s = s) (fun t q ht => ?_) _ s rfl
  split
  · exact ht
  · exact ht

/-- `t` with the fields that the ends of launches change taken from `s`. -/
def State.untold (t s : State) : State :=
  { t with launches := s.launches, queues := s.queues, wakes := s.wakes, graphs := s.graphs }

/-- A launch that is not yet told. -/
def Launch.untold (x : Launch) : Launch := { x with told := false }

theorem untold_post (t s : State) (w : Wake) : (t.post w).untold s = t.untold s := by
  unfold State.post
  cases w <;> dsimp only <;> split <;> rfl

@[simp] theorem launches_post (t : State) (w : Wake) : (t.post w).launches = t.launches := by
  unfold State.post
  cases w <;> dsimp only <;> split <;> rfl

theorem map_untold_modLaunch (t : State) (n : Nat) :
    (t.modLaunch n fun y => { y with told := true }).launches.map Launch.untold = t.launches.map Launch.untold := by
  apply List.ext_getElem?
  intro j
  simp only [State.modLaunch, List.getElem?_map, List.getElem?_modify]
  cases t.launches[j]? with
  | none => rfl
  | some x =>
    simp only [Option.map_eq_map, Option.map_some]
    split <;> rfl

/-- The ends of launches enter the event queue: nothing else changes. -/
theorem tellOver_frame (s : State) :
    s.tellOver.untold s = s ∧ s.tellOver.launches.map Launch.untold = s.launches.map Launch.untold := by
  unfold State.tellOver
  refine foldl_keeps (P := fun t => t.untold s = s ∧ t.launches.map Launch.untold = s.launches.map Launch.untold)
    (fun t n ht => ?_) _ s ⟨rfl, rfl⟩
  split
  · exact ht
  · exact ⟨(untold_post _ _ _).trans ht.1, (congrArg _ (launches_post _ _)).trans ((map_untold_modLaunch t n).trans ht.2)⟩

/-- `t` with the fields that a sector's leaving its slice changes taken from `s`. -/
def State.unevicted (t s : State) : State := { t.unmerged s with l2 := s.l2, l2Next := s.l2Next, rel := s.rel }

theorem Merges.rel {s t : State} (h : Merges s t) : t.rel = s.rel :=
  (congrArg State.rel (show t.unmerged s = s from h) : (t.unmerged s).rel = s.rel)

theorem evictSector_frame (s : State) (line : Nat) : (s.evictSector line).unevicted s = s := by
  have h := congrArg (State.unevicted · s) (show (s.mergeLine line).unmerged s = s from merges_mergeLine s line)
  unfold State.evictSector
  dsimp only
  split
  · exact h
  · exact h

/-- With no partial pending a sector that leaves changes the slice and the errors alone. -/
theorem evictSector_frame_none {s : State} (hp : s.partials = []) (line : Nat) :
    { s.evictSector line with l2 := s.l2, l2Next := s.l2Next, rel := s.rel } = s := by
  unfold State.evictSector
  rw [mergeLine_none hp]
  dsimp only
  split <;> rfl

/-- A sector that leaves takes errors away and adds none. -/
theorem evictSector_rel (s : State) (line : Nat) :
    { (s.evictSector line).rel with poison := s.rel.poison } = s.rel ∧ ∀ q ∈ (s.evictSector line).rel.poison, q ∈ s.rel.poison := by
  have h := (merges_mergeLine s line).rel
  unfold State.evictSector
  dsimp only
  split
  · rw [h]; exact ⟨rfl, fun _ hq => hq⟩
  · split
    · rw [h]; exact ⟨rfl, fun _ hq => List.mem_of_mem_filter hq⟩
    · rw [h]; exact ⟨rfl, fun _ hq => hq⟩

theorem evict_cases (s : State) : s.evict = s ∨ ∃ line, s.evict = s.evictSector line := by
  unfold State.evict
  split
  · exact .inr ⟨_, rfl⟩
  · exact .inl rfl

theorem evict_frame (s : State) : s.evict.unevicted s = s := by
  rcases evict_cases s with h | ⟨line, h⟩ <;> rw [h]
  · rfl
  · exact evictSector_frame s line

/-- An error struck, or none: one more uncorrectable or one more single-bit error. -/
theorem strike_cases (s : State) : s.strike = s
    ∨ (∃ p, s.strike = { s with rel := { s.rel with correctable := s.rel.correctable ++ [p] } })
    ∨ ∃ p, s.strike = { s with rel := { s.rel with poison := s.rel.poison ++ [p] } } := by
  unfold State.strike
  split
  · exact .inl rfl
  · dsimp only
    split
    · exact .inr (.inl ⟨_, rfl⟩)
    · exact .inr (.inr ⟨_, rfl⟩)

theorem strike_frame (s : State) : { s.strike with rel := s.rel } = s := by
  rcases strike_cases s with h | ⟨p, h⟩ | ⟨p, h⟩ <;> rw [h]

/-- What precedes a move leaves the clock and the turn. -/
theorem strike_evict_now_turn (s : State) : s.strike.evict.now = s.now ∧ s.strike.evict.turn = s.turn := by
  have he := evict_frame s.strike
  have hs := strike_frame s
  have hn := congrArg State.now hs
  have ht := congrArg State.turn hs
  exact ⟨(congrArg State.now he).trans hn, (congrArg State.turn he).trans ht⟩

/-- What the choice of a move finds before it: the inbox, the clock and the turn as they were. -/
theorem dropIdle_tellOver_frame (s : State) :
    s.dropIdle.tellOver.now = s.now ∧ s.dropIdle.tellOver.turn = s.turn ∧ s.dropIdle.tellOver.inbox = s.inbox := by
  have ht := (tellOver_frame s.dropIdle).1
  have hd := dropIdle_frame s
  have hnow := congrArg State.now hd
  have hturn := congrArg State.turn hd
  have hinbox := congrArg State.inbox hd
  exact ⟨(congrArg State.now ht).trans hnow, (congrArg State.turn ht).trans hturn, (congrArg State.inbox ht).trans hinbox⟩

/-- With no turn standing a step is that of the move picked. -/
theorem move_pick {s : State} (h : s.turn = none) : s.move = match s.pick.strike.evict.turn with
    | none => (s.pick.strike.evict.done, none)
    | some _ => s.pick.strike.evict.move := by
  have hs : ¬ s.turn.isSome = true := by simp [h]
  conv_lhs => unfold State.move
  dsimp only
  rw [if_neg hs]
  cases ht : s.pick.strike.evict.turn with
  | none => rfl
  | some x =>
    have hi : s.pick.strike.evict.turn.isSome = true := by rw [ht]; rfl
    conv_rhs => dsimp only; unfold State.move
    dsimp only
    rw [if_pos hi, ht]

end Sys2Proof.Machine
end

section
open Sys2Proof Sys2Proof.Machine

/-- Settles O49: the turn that stands decides what runs; where none stands, one of the moves does, after what may precede it. -/
theorem aStepRunsTheDecodedInstruction : Obligations.AStepRunsTheDecodedInstruction := by
  unfold Obligations.AStepRunsTheDecodedInstruction
  refine ⟨?_, ?_, ?_, ?_, fun s i a h hi => step_event h hi, ?_, ?_, dropIdle_frame, tellOver_frame, ?_, ?_⟩
  · rintro s u pf0 c pf i hturn hc (⟨hk, hcl, hd⟩ | ⟨x, w, hk, hcl, hd⟩)
    · exact step_latched hturn hc hcl (wordsAt_D hk hcl) (by rw [decodeFor, hk]; exact hd)
    · exact step_latched hturn hc (by rw [hcl]; simp) (wordsAt_L hk hcl) ((if_pos hk).trans hd)
  · intro s u pf0 c hturn hc hk hcl
    unfold step
    rw [move_issue hturn, fetchIssue_clause hc hk hcl]
  · intro s s' u pf0 c x w pf i hturn hc hk hcl hrep hwait hcode hd
    rw [step_fetched hturn hc hk hcl (memorySide_code hcode) (fetchL_plain hc hrep hwait hcode) hd]
    simp only [Fibre.latched, Option.map_id]
    rfl
  · intro s s' s'' u pf0 c x w y pf i r hturn hc hk hcl hrep hr hwait hwait' hcode hcode' hd
    exact step_fetched hturn hc hk hcl ((memorySide_code hcode).trans (memorySide_code hcode'))
      (fetchL_again hc hrep hr hwait hwait' hcode hcode') hd
  · intro s hturn hm
    obtain ⟨hnow, hturn', -⟩ := dropIdle_tellOver_frame s
    obtain ⟨hn, ht⟩ := strike_evict_now_turn s.dropIdle.tellOver
    have hnone : s.dropIdle.tellOver.strike.evict.turn = none := ht.trans (hturn'.trans hturn)
    unfold step
    rw [move_pick hturn, pick_none hm, hnone]
    dsimp only
    unfold State.done
    rw [hn, hnow, ← hnone]
  · intro s hturn hm
    obtain ⟨m, hmem, hp⟩ := pick_some hm
    refine ⟨m, hmem, ?_⟩
    have ht : s.pick.strike.evict.turn = some m.turn := (strike_evict_now_turn s.pick).2.trans (by rw [hp]; rfl)
    have hinbox := (dropIdle_tellOver_frame s).2.2
    conv_lhs => unfold step
    rw [move_pick hturn, ht, hp]
    simp only [State.taking, hinbox]
    rfl
  · intro s
    refine ⟨evict_frame s, fun hp => ?_, ?_⟩
    · rcases evict_cases s with h | ⟨line, h⟩ <;> rw [h]
      exact evictSector_frame_none hp line
    · rcases evict_cases s with h | ⟨line, h⟩ <;> rw [h]
      · exact ⟨rfl, fun _ hq => hq⟩
      · exact evictSector_rel s line
  · intro s
    refine ⟨strike_frame s, ?_⟩
    rcases strike_cases s with h | ⟨p, h⟩ | ⟨p, h⟩ <;> rw [h]
    · exact ⟨rfl, fun _ hq => hq, fun _ hq => hq⟩
    · exact ⟨rfl, fun _ hq => hq, fun _ hq => List.mem_append_left _ hq⟩
    · exact ⟨rfl, fun _ hq => List.mem_append_left _ hq, fun _ hq => hq⟩
end

section
/-!
Register windows (R34, R35): what the blocks and fibre slots of a core depend on, what giving runs of blocks changes, and what the marks
of an issuing unit leave.
-/
namespace Sys2Proof.Machine

/-! ## What a core's blocks depend on -/

/-- What the blocks and slots of a core depend on in a fibre. -/
def Fibre.window (f : Fibre) : Fibre :=
  { Fibre.empty with live := f.live, bound := f.bound, handler := f.handler, home := f.home, size := f.size, cols := f.cols,
                     gang := if f.bound then f.gang else 0 }

/-- What the blocks and slots of a core depend on in a crew. -/
structure CrewWindows where
  status : CrewStatus
  core : Nat
  gangs : Nat
  fibres : List Fibre

/-- Those of a crew. -/
def Crew.windows (k : Crew) : CrewWindows :=
  { status := k.status, core := k.core, gangs := k.gangs.length, fibres := k.fibres.map Fibre.window }

/-- Those of every crew. -/
def State.windows (s : State) : List CrewWindows := s.crews.map Crew.windows

theorem window_eq_fields {f g : Fibre} (h : f.window = g.window) :
    f.live = g.live ∧ f.bound = g.bound ∧ f.size = g.size ∧ f.cols = g.cols ∧ f.home = g.home := by
  have h1 := congrArg Fibre.live h
  have h2 := congrArg Fibre.bound h
  have h3 := congrArg Fibre.size h
  have h4 := congrArg Fibre.cols h
  have h5 := congrArg Fibre.home h
  exact ⟨h1, h2, h3, h4, h5⟩

theorem getElem?_windows (s : State) (c : Nat) : s.windows[c]? = (s.crews[c]?).map Crew.windows := List.getElem?_map ..

theorem window_fibre (k : Crew) (i : Nat) : (k.fibre i).window = (k.windows.fibres).getD i Fibre.empty := by
  simp only [Crew.fibre, Crew.windows, List.getD, List.getElem?_map]
  cases k.fibres[i]? <;> rfl

theorem boundBlocks_windows (k : Crew) : k.boundBlocks =
    ((List.range k.windows.gangs).map fun g =>
      (k.windows.fibres.map fun f => if f.live && f.bound && f.gang == g then f.size else 0).foldl max 0).sum := by
  simp only [Crew.boundBlocks, Crew.windows, List.map_map]
  congr 2
  funext g
  congr 2
  funext f
  simp only [Function.comp, Fibre.window]
  by_cases hb : f.bound = true <;> simp [hb]

theorem columnsOf_windows (fs : List Fibre) : columnsOf fs = columnsOf (fs.map Fibre.window) := by
  simp only [columnsOf, List.filter_map, List.flatMap_map]
  rfl

section
variable {s t : State} (h : s.windows = t.windows)
include h

theorem lookup_windows (c : Nat) : (s.crews[c]?).map Crew.windows = (t.crews[c]?).map Crew.windows := by
  rw [← getElem?_windows, ← getElem?_windows, h]

theorem residents_windows (core : Nat) : s.residents core = t.residents core := by
  have hl : s.crews.length = t.crews.length := by
    have := congrArg List.length h
    simpa [State.windows] using this
  unfold State.residents
  rw [hl]
  refine List.filter_congr fun c _ => ?_
  have hc := lookup_windows h c
  cases hs : s.crews[c]? <;> cases ht : t.crews[c]? <;> rw [hs, ht] at hc
  · cases hc
  · cases hc
  · have hw := Option.some.inj hc
    have h1 := congrArg CrewWindows.status hw
    have h2 := congrArg CrewWindows.core hw
    simp only [Crew.windows] at h1 h2
    simp only [h1, h2]

/-- The crews on a core, by their windows. -/
theorem residentWindows (core : Nat) : ((s.residents core).filterMap fun c => s.crews[c]?).map Crew.windows
    = ((t.residents core).filterMap fun c => t.crews[c]?).map Crew.windows := by
  rw [residents_windows h, List.map_filterMap, List.map_filterMap]
  congr 1
  funext c
  exact lookup_windows h c

theorem columns_windows (core : Nat) : s.columns core = t.columns core := by
  have hf : ∀ ks : List Crew, columnsOf (ks.flatMap Crew.fibres) = columnsOf ((ks.map Crew.windows).flatMap CrewWindows.fibres) := by
    intro ks
    rw [columnsOf_windows, List.map_flatMap, List.flatMap_map]
    rfl
  unfold State.columns
  rw [hf, hf, residentWindows h]

theorem blocksUsed_windows (core : Nat) : s.blocksUsed core = t.blocksUsed core := by
  have hb : ∀ ks : List Crew, (ks.map Crew.boundBlocks) = (ks.map Crew.windows).map fun w =>
      ((List.range w.gangs).map fun g => (w.fibres.map fun f => if f.live && f.bound && f.gang == g then f.size else 0).foldl max 0).sum := by
    intro ks
    rw [List.map_map]
    exact List.map_congr_left fun k _ => boundBlocks_windows k
  have hc := columns_windows h core
  unfold State.columns at hc
  unfold State.blocksUsed looseBlocks
  dsimp only
  rw [hb, hb, residentWindows h, hc]

theorem fibresOn_windows (core : Nat) : s.fibresOn core = t.fibresOn core := by
  have hf : ∀ ks : List Crew, (ks.map fun k => (k.fibres.filter fun f => f.live && !f.handler).length)
      = (ks.map Crew.windows).map fun w => (w.fibres.filter fun f => f.live && !f.handler).length := by
    intro ks
    rw [List.map_map]
    refine List.map_congr_left fun k _ => ?_
    simp only [Function.comp, Crew.windows, List.filter_map, List.length_map]
    rfl
  unfold State.fibresOn
  rw [hf, hf, residentWindows h]

/-- Whether a core holds what stands on it depends on windows alone. -/
theorem coreFits_windows (core : Nat) : s.coreFits core = t.coreFits core := by
  unfold State.coreFits
  rw [blocksUsed_windows h, fibresOn_windows h]

end

/-! ## Runs of blocks given (R34, R35) -/

/-- One fibre's step of `allotLoose`. -/
def State.allotOne (t : State) (c i : Nat) : State :=
  match t.crews[c]? with
  | none => t
  | some k =>
    let f := k.fibre i
    if f.bound ∨ ¬ f.live ∨ f.size ≤ f.cols.length then t
    else
      let t := t.modFibres c [i] fun _ f => { f with cols := [] }
      let run := allot (t.columns k.core) f.home f.size
      t.modFibres c [i] fun _ f => { f with cols := run }

theorem allotLoose_cons (s : State) (c i : Nat) (is : List Nat) : s.allotLoose c (i :: is) = (s.allotOne c i).allotLoose c is := rfl

/-- A run has as many blocks as its window. -/
theorem length_allot (cs : List (Nat × Nat)) (home n : Nat) : (allot cs home n).length = n := by
  unfold allot
  dsimp only
  simp only [List.length_append, List.length_take, List.length_drop, List.length_map, List.length_range]
  cases hf : (List.range (blocksOf cs).length).find? fun r =>
      (((blocksOf cs).drop r).take n).all fun b => !cs.contains (home, b) with
  | none => simp only [Option.getD_none]; omega
  | some r =>
    have hr : r < (blocksOf cs).length := List.mem_range.1 (List.mem_of_find?_eq_some hf)
    simp only [Option.getD_some]
    omega

/-- Windows of a crew some fibres of which have their windows changed. -/
theorem windows_modFibres {s t : State} (h : s.windows = t.windows) (c : Nat) (is : List Nat) (g : Fibre → Fibre) (gw : Fibre → Fibre)
    (hg : ∀ f, (g f).window = gw f.window) : (s.modFibres c is fun _ f => g f).windows = (t.modFibres c is fun _ f => g f).windows := by
  have hk : ∀ k : Crew, (k.modFibres is fun _ f => g f).windows =
      { k.windows with fibres := modAt is (fun _ f => gw f) k.windows.fibres } := by
    intro k
    simp only [Crew.windows, Crew.modFibres, CrewWindows.mk.injEq, true_and]
    apply List.ext_getElem?
    intro j
    simp only [modAt, List.getElem?_map, List.getElem?_mapIdx, Option.map_map]
    congr 1
    funext f
    simp only [Function.comp]
    split
    · exact hg f
    · rfl
  have hs : ∀ s : State, (s.modFibres c is fun _ f => g f).windows =
      s.windows.modify c fun w => { w with fibres := modAt is (fun _ f => gw f) w.fibres } := by
    intro s
    apply List.ext_getElem?
    intro j
    simp only [State.windows, State.modFibres, State.modCrew, List.getElem?_map, List.getElem?_modify, Option.map_eq_map,
      Option.map_map]
    congr 1
    funext k
    simp only [Function.comp]
    split
    · exact hk k
    · rfl
  rw [hs, hs, h]

theorem allotOne_windows {s t : State} (h : s.windows = t.windows) (c i : Nat) :
    (s.allotOne c i).windows = (t.allotOne c i).windows := by
  have hc := lookup_windows h c
  unfold State.allotOne
  cases hs : s.crews[c]? with
  | none =>
    cases ht : t.crews[c]? with
    | none => exact h
    | some k => rw [hs, ht] at hc; cases hc
  | some k =>
    cases ht : t.crews[c]? with
    | none => rw [hs, ht] at hc; cases hc
    | some k' =>
      rw [hs, ht] at hc
      have hw := Option.some.inj hc
      have hcore : k.core = k'.core := congrArg CrewWindows.core hw
      have hf : (k.fibre i).window = (k'.fibre i).window := by rw [window_fibre, window_fibre, hw]
      obtain ⟨hlive, hbound, hsize, hcols, hhome⟩ := window_eq_fields hf
      have hempty : ∀ cs, ∀ f : Fibre, ({ f with cols := cs } : Fibre).window = { f.window with cols := cs } := fun _ _ => rfl
      have h1 := windows_modFibres h c [i] (fun f => { f with cols := [] }) (fun f => { f with cols := [] }) (hempty [])
      simp only [hlive, hbound, hsize, hcols, hhome, hcore]
      split
      · exact h
      · rw [columns_windows h1]
        exact windows_modFibres h1 c [i] _ (fun f => { f with cols := _ }) (hempty _)

/-- Which runs are given depends on windows alone. -/
theorem allotLoose_windows (c : Nat) : ∀ (is : List Nat) {s t : State}, s.windows = t.windows →
    (s.allotLoose c is).windows = (t.allotLoose c is).windows
  | [], _, _, h => h
  | i :: is, _, _, h => by
    rw [allotLoose_cons, allotLoose_cons]
    exact allotLoose_windows c is (allotOne_windows h c i)

/-- `k'` is `k` with the runs of loose fibres at the named places as long as their windows. -/
structure Crew.Recolumned (is : List Nat) (k k' : Crew) : Prop where
  rest : { k' with fibres := k.fibres } = k
  length : k'.fibres.length = k.fibres.length
  fibre : ∀ p, k'.fibre p = { k.fibre p with cols := (k'.fibre p).cols }
  kept : ∀ p, p ∉ is ∨ (k.fibre p).bound = true → (k'.fibre p).cols = (k.fibre p).cols
  run : ∀ p ∈ is, p < k.fibres.length → (k.fibre p).live = true → (k.fibre p).bound = false →
    (k'.fibre p).cols.length = max (k.fibre p).size (k.fibre p).cols.length

theorem Crew.Recolumned.refl (k : Crew) : k.Recolumned [] k :=
  ⟨rfl, rfl, fun _ => rfl, fun _ _ => rfl, fun _ h => absurd h List.not_mem_nil⟩

theorem Crew.fibre_of_length_le {k : Crew} {p : Nat} (h : k.fibres.length ≤ p) : k.fibre p = Fibre.empty := by
  simp [Crew.fibre, List.getD, h]

theorem allotOne_spec {s : State} {c : Nat} {k : Crew} (hk : s.crews[c]? = some k) (i : Nat) :
    ∃ k', s.allotOne c i = { s with crews := s.crews.set c k' } ∧ k.Recolumned [i] k' := by
  unfold State.allotOne
  simp only [hk]
  split
  · rename_i hc
    refine ⟨k, ?_, rfl, rfl, fun _ => rfl, fun _ _ => rfl, fun p hp _ hl hb => ?_⟩
    · have hset : s.crews.set c k = s.crews := by
        apply List.ext_getElem?; intro j
        rw [List.getElem?_set]
        split
        · rename_i hj
          subst hj
          rw [if_pos (List.getElem?_eq_some_iff.1 hk).1, hk]
        · rfl
      rw [hset]
    · obtain rfl := List.mem_singleton.1 hp
      rcases hc with hc | hc | hc
      · rw [hb] at hc; cases hc
      · exact absurd hl hc
      · exact (Nat.max_eq_right hc).symm
  · rename_i hc
    rw [modFibres_modFibres, State.modFibres, modCrew_eq_set hk]
    have hfib : ∀ p, (k.modFibres [i] fun _ f => { f with
          cols := allot ((s.modFibres c [i] fun _ f => { f with cols := [] }).columns k.core) (k.fibre i).home (k.fibre i).size }).fibre p
        = if p = i ∧ p < k.fibres.length then { k.fibre p with
          cols := allot ((s.modFibres c [i] fun _ f => { f with cols := [] }).columns k.core) (k.fibre i).home (k.fibre i).size } else k.fibre p := by
      intro p
      by_cases hp : p < k.fibres.length
      · rw [Crew.fibre_modFibres _ _ _ _ hp]
        simp [hp]
      · rw [Crew.fibre_of_length_le (by simpa using hp), Crew.fibre_of_length_le (by omega)]
        simp [hp]
    refine ⟨_, rfl, rfl, by simp, fun p => ?_, fun p hp => ?_, fun p hp hlt _ _ => ?_⟩
    · rw [hfib]; split <;> rfl
    · rw [hfib]
      split
      · rename_i hpi
        obtain ⟨rfl, _⟩ := hpi
        rcases hp with hp | hp
        · exact absurd (List.mem_singleton.2 rfl) hp
        · exact absurd (.inl hp) hc
      · rfl
    · obtain rfl := List.mem_singleton.1 hp
      rw [hfib, if_pos ⟨rfl, hlt⟩]
      have hle : ¬ (k.fibre p).size ≤ (k.fibre p).cols.length := fun h => hc (.inr (.inr h))
      rw [length_allot]
      omega

theorem Crew.Recolumned.cons {i : Nat} {is : List Nat} {a b d : Crew} (h : a.Recolumned [i] b) (h' : b.Recolumned is d) :
    a.Recolumned (i :: is) d := by
  have hsame : ∀ p, (b.fibre p).live = (a.fibre p).live ∧ (b.fibre p).bound = (a.fibre p).bound ∧ (b.fibre p).size = (a.fibre p).size :=
    fun p => by rw [h.fibre p]; exact ⟨rfl, rfl, rfl⟩
  refine ⟨?_, h'.length.trans h.length, fun p => ?_, fun p hp => ?_, fun p hp hlt hl hb => ?_⟩
  · have e := congrArg (fun k : Crew => { k with fibres := a.fibres }) h'.rest
    exact e.trans h.rest
  · have e := h'.fibre p
    rw [h.fibre p] at e
    exact e
  · have h1 : (b.fibre p).cols = (a.fibre p).cols := h.kept p (hp.imp (fun hn => fun hm => hn (by simp_all)) id)
    have h2 : (d.fibre p).cols = (b.fibre p).cols := h'.kept p (hp.imp (fun hn => fun hm => hn (List.mem_cons_of_mem _ hm))
      fun hb => (hsame p).2.1.trans hb)
    exact h2.trans h1
  · obtain ⟨el, eb, es⟩ := hsame p
    have hb1 : p = i → (b.fibre p).cols.length = max (a.fibre p).size (a.fibre p).cols.length := fun hpi =>
      h.run p (List.mem_singleton.2 hpi) hlt hl hb
    by_cases hm : p ∈ is
    · rw [h'.run p hm (h.length ▸ hlt) (el ▸ hl) (eb ▸ hb), es]
      by_cases hpi : p = i
      · rw [hb1 hpi]; omega
      · rw [h.kept p (.inl (by simpa using hpi))]
    · rw [h'.kept p (.inl hm)]
      exact hb1 ((List.mem_cons.1 hp).resolve_right hm)

/-- Giving runs of blocks changes where windows lie, and nothing else. -/
theorem allotLoose_spec (c : Nat) : ∀ (is : List Nat) {s : State} {k : Crew}, s.crews[c]? = some k →
    ∃ k', s.allotLoose c is = { s with crews := s.crews.set c k' } ∧ k.Recolumned is k'
  | [], s, k, hk => by
    refine ⟨k, ?_, .refl k⟩
    have := modCrew_eq_set hk id
    rw [← id_eq k, ← this]
    simp [State.allotLoose, State.modCrew]
  | i :: is, s, k, hk => by
    obtain ⟨k1, e1, h1⟩ := allotOne_spec hk i
    have hlt : c < s.crews.length := (List.getElem?_eq_some_iff.1 hk).1
    have hk1 : (s.allotOne c i).crews[c]? = some k1 := by rw [e1]; simp [hlt]
    obtain ⟨k2, e2, h2⟩ := allotLoose_spec c is hk1
    refine ⟨k2, ?_, h1.cons h2⟩
    rw [allotLoose_cons, e2, e1]
    simp

end Sys2Proof.Machine
end

section
/-!
Tables and owners: walks depend on memory and the base registers alone; what an access meets, on the operations that own lines.
-/
namespace Sys2Proof.Machine

/-! ## Walks (R94 to R101) -/

/-- Two states whose tables read alike. -/
structure SameTables (s t : State) : Prop where
  word64 : ∀ a, s.word64 a = t.word64 a
  word32 : ∀ a, s.word32 a = t.word32 a
  aon : s.aon = t.aon
  spaces : s.spaces = t.spaces

section
variable {s t : State} (h : SameTables s t)
include h

theorem table?_same (k : Nat) : s.table? k = t.table? k := by unfold State.table?; rw [h.aon]

theorem spaceAt?_same (asid : Nat) : s.spaceAt? asid = t.spaceAt? asid := by unfold State.spaceAt?; rw [table?_same h]

theorem space?_same (asid : Nat) : s.space? asid = t.space? asid := by
  unfold State.space? State.readDesc
  rw [spaceAt?_same h, h.spaces]
  simp only [h.word64, h.word32]

theorem frameOk_same (pa : Nat) : s.frameOk pa = t.frameOk pa := by unfold State.frameOk; rw [h.aon]

theorem walk2_same (gpa : Nat) : ∀ fuel level table, s.walk2 gpa fuel level table = t.walk2 gpa fuel level table
  | 0, _, _ => rfl
  | fuel + 1, level, table => by simp only [State.walk2, h.word64, walk2_same gpa fuel]

theorem through2_same (gpa root : Nat) : s.through2 gpa root = t.through2 gpa root := by
  unfold State.through2; rw [walk2_same h]

theorem stage2_same (root gpa : Nat) : s.stage2 root gpa = t.stage2 root gpa := by
  unfold State.stage2; simp only [through2_same h, frameOk_same h]

theorem walk1_same (root2 : Option Nat) (va : Nat) :
    ∀ fuel level table used, s.walk1 root2 va fuel level table used = t.walk1 root2 va fuel level table used
  | 0, _, _, _ => rfl
  | fuel + 1, level, table, used => by
    simp only [State.walk1, h.word64, stage2_same h, walk1_same root2 va fuel]

/-- A walk reads the tables alone. -/
theorem walk_same (asid va : Nat) (need : Need) : s.walk asid va need = t.walk asid va need := by
  unfold State.walk
  simp only [space?_same h, walk1_same h, frameOk_same h, through2_same h]

theorem reads2_same (gpa : Nat) : ∀ fuel level table, s.reads2 gpa fuel level table = t.reads2 gpa fuel level table
  | 0, _, _ => rfl
  | fuel + 1, level, table => by simp only [State.reads2, h.word64, reads2_same gpa fuel]

theorem reads1_same (root2 : Option Nat) (va : Nat) :
    ∀ fuel level table, s.reads1 root2 va fuel level table = t.reads1 root2 va fuel level table
  | 0, _, _ => rfl
  | fuel + 1, level, table => by
    simp only [State.reads1, h.word64, stage2_same h, reads2_same h, reads1_same root2 va fuel]

theorem walkReads_same (asid va : Nat) : s.walkReads asid va = t.walkReads asid va := by
  unfold State.walkReads; simp only [space?_same h, reads1_same h]

theorem dirtyPlaces_same (asid leaf1 : Nat) (leaf2 : Option (Nat × Nat × Nat)) :
    s.dirtyPlaces asid leaf1 leaf2 = t.dirtyPlaces asid leaf1 leaf2 := by
  unfold State.dirtyPlaces State.leavesDirty State.logPlaces
  simp only [h.word64, h.word32, spaceAt?_same h, space?_same h]

theorem walkPlaces_same (asid va : Nat) (write : Bool) : s.walkPlaces asid va write = t.walkPlaces asid va write := by
  unfold State.walkPlaces; simp only [walkReads_same h, walk_same h, dirtyPlaces_same h]

end

/-- The crews hold no table. -/
theorem sameTables_crews (s : State) (cs : List Crew) : SameTables { s with crews := cs } s := ⟨fun _ => rfl, fun _ => rfl, rfl, rfl⟩

/-! ## Owners of lines (R113, R153) -/

/-- The operations of a crew that may own lines. -/
def Crew.owners (k : Crew) : List LaneCopy × List StoreJob := (k.copies, k.stores)

/-- Two states whose tables read alike and in which the same operations and parts own lines. -/
structure SameOwners (s t : State) : Prop extends SameTables s t where
  crews : s.crews.map Crew.owners = t.crews.map Crew.owners
  parts : s.parts = t.parts

section
variable {s t : State} (h : SameOwners s t)
include h

theorem any_owners (p : List LaneCopy × List StoreJob → Bool) : s.crews.any (fun k => p k.owners) = t.crews.any fun k => p k.owners := by
  have e : ∀ cs : List Crew, (cs.any fun k => p k.owners) = (cs.map Crew.owners).any p := fun cs => by rw [List.any_map]; rfl
  rw [e, e, h.crews]

theorem owned_same (line : Nat) : s.owned line = t.owned line := by
  have e := any_owners h fun o => o.1.any (fun j => j.line == some line && j.fault.isNone) || o.2.any fun j => j.lines.contains line
  unfold State.owned
  rw [h.parts]
  exact congrArg (· || _) e

theorem ownedIn_same (line n : Nat) : s.ownedIn line n = t.ownedIn line n := by
  have e := any_owners h fun o =>
    o.1.any (fun j => j.line.any (fun l : Nat => decide (line ≤ l) && decide (l < line + n)) && j.fault.isNone)
      || o.2.any fun j => j.lines.any (fun l : Nat => decide (line ≤ l) && decide (l < line + n))
  unfold State.ownedIn
  rw [h.parts]
  exact congrArg (· || _) e

theorem ownsSome_same : s.ownsSome = t.ownsSome := by
  have e := any_owners h fun o => !o.1.isEmpty || !o.2.isEmpty
  unfold State.ownsSome
  rw [h.parts]
  exact congrArg (· || _) e

/-- Whether the device's access is held depends on the tables and the owners alone. -/
theorem areaHeld_same (asid va n : Nat) (write : Bool) : s.areaHeld asid va n write = t.areaHeld asid va n write := by
  unfold State.areaHeld
  simp only [ownsSome_same h, walkPlaces_same h.toSameTables, owned_same h, walk_same h.toSameTables, ownedIn_same h]

end

/-- Fibres own no line. -/
theorem sameOwners_modCrew (s : State) (c : Nat) (f : Crew → Crew) (hf : ∀ k, (f k).owners = k.owners) :
    SameOwners (s.modCrew c f) s := by
  refine ⟨sameTables_crews s _, ?_, rfl⟩
  apply List.ext_getElem?
  intro j
  simp only [State.modCrew, List.getElem?_map, List.getElem?_modify]
  cases s.crews[j]? with
  | none => rfl
  | some k =>
    simp only [Option.map_eq_map, Option.map_some]
    split
    · rw [hf]
    · rfl

/-! ## Marks of an issuing unit -/

/-- A change of fibres to their marks alone: whether a token wait is over, the dovetail marker, when they last issued. -/
def Marks (h : Fibre → Fibre) : Prop := ∀ f, ∃ w ps di dc ia, h f = f.marked w ps di dc ia

section
variable {h : Fibre → Fibre} (hm : Marks h)
include hm

/-- A fibre whose marks may have changed. -/
theorem fibre_marks (k : Crew) (is : List Nat) (p : Nat) :
    ∃ w ps di dc ia, (k.modFibres is fun _ f => h f).fibre p = (k.fibre p).marked w ps di dc ia := by
  by_cases hp : p < k.fibres.length
  · rw [Crew.fibre_modFibres _ _ _ _ hp]
    split
    · exact hm _
    · exact ⟨(k.fibre p).waited, (k.fibre p).passed, (k.fibre p).didx, (k.fibre p).dcount, (k.fibre p).issuedAt, rfl⟩
  · rw [Crew.fibre_of_length_le (by simpa using hp), Crew.fibre_of_length_le (by omega)]
    exact ⟨_, _, _, _, _, rfl⟩

theorem windows_marks (k : Crew) (is : List Nat) : (k.modFibres is fun _ f => h f).windows = k.windows := by
  simp only [Crew.windows, Crew.modFibres, CrewWindows.mk.injEq, true_and]
  apply List.ext_getElem?
  intro j
  simp only [modAt, List.getElem?_map, List.getElem?_mapIdx, Option.map_map]
  congr 1
  funext f
  simp only [Function.comp]
  split
  · obtain ⟨w, ps, di, dc, ia, e⟩ := hm f
    rw [e]; rfl
  · rfl

theorem stillAsks_marks (s : State) (c : Nat) (is : List Nat) (r : Request) :
    (s.modFibres c is fun _ f => h f).stillAsks r = s.stillAsks r := by
  unfold State.stillAsks
  by_cases hc : r.crew = c
  · cases hk : s.crews[c]? with
    | none =>
      have hk' : (s.modFibres c is fun _ f => h f).crews[r.crew]? = none := by
        rw [hc]; simp [State.modFibres, hk]
      rw [hc] at *
      simp only [hk', hk]
    | some k =>
      have hk' : (s.modFibres c is fun _ f => h f).crews[c]? = some (k.modFibres is fun _ f => h f) := crews_modify hk _
      rw [hc]
      simp only [hk', hk]
      congr 1
      refine List.any_congr rfl fun i => ?_
      obtain ⟨w, ps, di, dc, ia, e⟩ := fibre_marks hm k is i
      rw [e]
      rfl
  · have hk' : (s.modFibres c is fun _ f => h f).crews[r.crew]? = s.crews[r.crew]? := crews_modify_ne s hc _
    rw [hk']

end

/-! ## The state in which an effect begins -/

theorem crews_windows_modFibres {h : Fibre → Fibre} (hm : Marks h) (s : State) (c : Nat) (is : List Nat) :
    (s.modFibres c is fun _ f => h f).windows = s.windows := by
  apply List.ext_getElem?
  intro j
  simp only [State.windows, State.modFibres, State.modCrew, List.getElem?_map, List.getElem?_modify]
  cases s.crews[j]? with
  | none => rfl
  | some k =>
    simp only [Option.map_eq_map, Option.map_some]
    split
    · exact congrArg some (windows_marks hm k is)
    · rfl

theorem windows_start (c : Ctx) (pf : Prefix) (s : State) : (c.start pf s).windows = s.windows := by
  obtain ⟨h, hm, e⟩ := start_spec c pf s
  rw [e]
  exact crews_windows_modFibres hm s _ _

theorem requestsOn_start (c : Ctx) (pf : Prefix) (s : State) (core : Nat) : (c.start pf s).requestsOn core = s.requestsOn core := by
  obtain ⟨h, hm, e⟩ := start_spec c pf s
  unfold State.requestsOn State.coreAt
  rw [Ctx.start_cores, e]
  congr 1
  funext r
  exact stillAsks_marks hm s _ _ r

theorem handlerWaits_start (c : Ctx) (pf : Prefix) (s : State) (core : Nat) :
    (c.start pf s).handlerWaits core = s.handlerWaits core := by
  have hr := residents_windows (windows_start c pf s) core
  obtain ⟨h, hm, e⟩ := start_spec c pf s
  have ho : SameOwners (c.start pf s) s := by rw [e]; exact sameOwners_modCrew s _ _ fun _ => rfl
  unfold State.handlerWaits
  rw [hr]
  congr 1
  refine List.any_congr rfl fun j => ?_
  have hj : (c.start pf s).crews[j]? = if c.u.crew = j then (s.crews[j]?).map (fun k => k.modFibres c.all fun _ f => h f) else s.crews[j]? := by
    rw [e]
    simp only [State.modFibres, State.modCrew, List.getElem?_modify]
    split <;> simp
  rw [hj]
  by_cases hc : c.u.crew = j
  · rw [if_pos hc]
    cases s.crews[j]? with
    | none => rfl
    | some k => simp only [Option.map_some, State.recordHeld, areaHeld_same ho]; rfl
  · rw [if_neg hc]
    cases s.crews[j]? with
    | none => rfl
    | some k => simp only [State.recordHeld, areaHeld_same ho]

end Sys2Proof.Machine
end

section
/-!
Completion: what an instruction leaves whose effect ends with one crew changed, be it complete or waiting.
-/
namespace Sys2Proof.Machine

/-- The place of a unit's member holds a live fibre of the unit. -/
theorem members_inUnit {k : Crew} {u : UnitKind} {p : Nat} (h : p ∈ k.members u) : (k.fibre p).inUnit u = true := by
  unfold Crew.members at h
  obtain ⟨l, -, hl⟩ := List.mem_filterMap.1 h
  obtain ⟨hlt, hp, -⟩ := List.findIdx?_eq_some_iff_getElem.1 hl
  simp only [Crew.fibre, List.getD, List.getElem?_eq_getElem hlt, Option.getD_some]
  exact (Bool.and_eq_true _ _ ▸ hp).1

theorem live_of_inUnit {f : Fibre} {u : UnitKind} (h : f.inUnit u = true) : f.live = true := by
  cases u <;> simp only [Fibre.inUnit, Bool.and_eq_true] at h
  · exact h.1.1.1
  · exact h.1.1

/-- A fibre at an active place is a live fibre of the crew. -/
theorem act_live {s : State} {u : UnitId} {pf : Prefix} {c : Ctx} (h : s.ctx? u pf = some c) {p : Nat} (hp : p ∈ c.act) :
    p ∈ c.all ∧ p < c.crew.fibres.length ∧ (c.fibre p).live = true := by
  obtain ⟨-, -, hall, hact⟩ := ctx_spec h
  have hpa : p ∈ c.all := by rw [hact] at hp; exact (List.mem_filter.1 hp).1
  exact ⟨hpa, ctx_all_lt h hpa, live_of_inUnit (members_inUnit (hall ▸ hpa))⟩

/-- What an instruction's own effect begins in. -/
theorem start_crews {s : State} {u : UnitId} {pf : Prefix} {c : Ctx} (h : s.ctx? u pf = some c) :
    ∃ m, Marks m ∧ c.start pf s = { s with crews := s.crews.set u.crew (c.crew.modFibres c.all fun _ f => m f) } := by
  obtain ⟨hu, hk, -, -⟩ := ctx_spec h
  obtain ⟨m, hm, e⟩ := start_spec c pf s
  exact ⟨m, hm, by rw [e, hu, State.modFibres, modCrew_eq_set hk]⟩

theorem fibreAt_of_crew {t : State} {c p : Nat} {k : Crew} (h : t.crews[c]? = some k) : t.fibreAt c p = k.fibre p := by
  simp only [State.fibreAt, h, Option.map_some, Option.getD_some]

/-- A crew's fibres but for those of their marks. -/
def Crew.Marked (k k' : Crew) : Prop :=
  { k' with fibres := k.fibres } = k ∧ k'.fibres.length = k.fibres.length
    ∧ ∀ p, ∃ w ps di dc ia, k'.fibre p = (k.fibre p).marked w ps di dc ia

theorem Marks.crew {m : Fibre → Fibre} (hm : Marks m) (k : Crew) (is : List Nat) : k.Marked (k.modFibres is fun _ f => m f) :=
  ⟨rfl, Crew.length_modFibres .., fibre_marks hm k is⟩

/-- The state in which an effect begins is `s` with the crew's fibres marked. -/
theorem start_marked {s : State} {u : UnitId} {pf : Prefix} {c : Ctx} (h : s.ctx? u pf = some c) :
    ∃ k0, c.crew.Marked k0 ∧ c.start pf s = { s with crews := s.crews.set u.crew k0 } ∧ (c.start pf s).crews[u.crew]? = some k0 := by
  obtain ⟨-, hk, -, -⟩ := ctx_spec h
  obtain ⟨m, hm, e⟩ := start_crews h
  refine ⟨_, hm.crew _ _, e, ?_⟩
  rw [e]
  exact List.getElem?_set_self (List.getElem?_eq_some_iff.1 hk).1

/-- A fibre that is not of the unit stands where it stood. -/
theorem pc_conclude_next {c : Ctx} {x : State} {kx : Crew} (hx : x.crews[c.u.crew]? = some kx) {p : Nat} (hp : p ∉ c.all)
    (hlt : p < kx.fibres.length) : ((c.conclude (.next x)).done.fibreAt c.u.crew p).pc = (kx.fibre p).pc := by
  have hy : (x.modFibres c.u.crew c.all fun _ f => f.advance c.kind).crews[c.u.crew]? = some (kx.modFibres c.all fun _ f => f.advance c.kind) :=
    crews_modify hx _
  obtain ⟨k', hk', -, -, hf⟩ := settle_spec (u := c.u) hy
  have e := (hf p (by simpa using hlt)).2
  rw [Crew.fibre_modFibres _ _ _ _ hlt, if_neg hp] at e
  exact (congrArg Fibre.pc (fibreAt_of_crew hk')).trans e

/-- Settling the loads that an instruction uses is a change of its crew's fibres' marks of those loads. -/
theorem useLate_spec (c : Ctx) (i : Instr) (s : State) :
    ∃ (js : List Nat) (l : Fibre → List Nat), c.useLate i s = s.modFibres c.u.crew js fun _ f => { f with late := l f } := by
  unfold Ctx.useLate Ctx.dropLate
  split
  · exact ⟨c.act, fun _ => [], rfl⟩
  · exact ⟨c.act, fun f => f.late.filter _, rfl⟩

section
variable {i : Instr} {s x : State} {u : UnitId} {pf : Prefix} {c : Ctx} {body : Ctx → State → Eff} {kx : Crew}
  (he : ∀ s, exec i s = issue i body s) (h : Ready i s u pf c)
include he h

/-- A ready instruction whose effect ends complete: the unit goes on, and beside what the effect left the marks of its crew change. -/
theorem completes_next {y : State} (hb : body c (c.start pf s) = .next y) (hy : y.crews[u.crew]? = some kx) :
    ∃ t, exec i s = .next t ∧ Only y t u.crew (fun _ f => f)
      ∧ (∀ p ∈ c.all, p < kx.fibres.length → (t.fibreAt u.crew p).pc = nextPcOf c.kind (kx.fibre p))
      ∧ ∀ p, p ∉ c.all → p < kx.fibres.length → (t.fibreAt u.crew p).pc = (kx.fibre p).pc := by
  obtain ⟨rfl, -, -, -⟩ := ctx_spec h.2.1
  obtain ⟨js, l, hl⟩ := used_next c i y
  let kz := kx.modFibres js fun _ f => { f with late := l f }
  have hz : (y.modFibres c.u.crew js fun _ f => { f with late := l f }).crews[c.u.crew]? = some kz := crews_modify hy _
  obtain ⟨ho, hpc⟩ := conclude_next (c := c) hz
  have hlate : ∀ p, p < kx.fibres.length → (kz.fibre p).face = (kx.fibre p).face
      ∧ nextPcOf c.kind (kz.fibre p) = nextPcOf c.kind (kx.fibre p) ∧ (kz.fibre p).pc = (kx.fibre p).pc := by
    intro p hp
    rw [Crew.fibre_modFibres _ _ _ _ hp]
    split <;> exact ⟨rfl, rfl, rfl⟩
  have hset : (y.modFibres c.u.crew js fun _ f => { f with late := l f }) = { y with crews := y.crews.set c.u.crew kz } :=
    modCrew_eq_set hy _
  refine ⟨_, (he s).trans (issue_ready h body), ?_, fun p hp hlt => ?_, fun p hp hlt => ?_⟩
  · rw [hb, hl]
    exact Only.after (kx := kz) hy hset rfl (by simp [kz]) (fun p hp => (hlate p hp).1) ho
  · rw [hb, hl]
    exact (hpc p hp (by simpa [kz] using hlt)).trans (hlate p hlt).2.1
  · rw [hb, hl]
    exact (pc_conclude_next hz hp (by simpa [kz] using hlt)).trans (hlate p hlt).2.2

section
variable {ka : Crew} (hx : x.crews[u.crew]? = some ka) (hk : { kx with fibres := ka.fibres, bins := ka.bins } = ka)
  (hl : kx.fibres.length = ka.fibres.length)
include hx hk hl

/-- The same where the effect changed nothing of a state but one crew's fibres and bins. -/
theorem completes_at (hb : body c (c.start pf s) = .next { x with crews := x.crews.set u.crew kx }) :
    ∃ t, exec i s = .next t ∧ t.cores = x.cores
      ∧ (∀ p ∈ c.all, p < ka.fibres.length → (t.fibreAt u.crew p).pc = nextPcOf c.kind (kx.fibre p))
      ∧ (∀ p, p < ka.fibres.length → (t.fibreAt u.crew p).face = (kx.fibre p).face)
      ∧ ∀ g : Nat → Fibre → Fibre, (∀ p, p < ka.fibres.length → (kx.fibre p).face = (g p (ka.fibre p)).face) → Only x t u.crew g := by
  have hlt : u.crew < x.crews.length := (List.getElem?_eq_some_iff.1 hx).1
  have hset : ({ x with crews := x.crews.set u.crew kx } : State).crews[u.crew]? = some kx := List.getElem?_set_self hlt
  obtain ⟨t, ht, ho, hp, -⟩ := completes_next he h hb hset
  have hafter : ∀ g : Nat → Fibre → Fibre, (∀ p, p < ka.fibres.length → (kx.fibre p).face = (g p (ka.fibre p)).face) →
      Only x t u.crew g := fun g hg => Only.after hx rfl hk hl hg ho
  refine ⟨t, ht, ?_, fun p hpa hpl => hp p hpa (hl ▸ hpl), fun p hpl => ?_, hafter⟩
  · obtain ⟨-, -, hrest, -⟩ := hafter (fun p _ => kx.fibre p) fun _ _ => rfl
    exact (congrArg State.cores hrest :)
  · obtain ⟨-, -, -, -, -, a, b, ha, hb', -, -, hf⟩ := ho
    obtain rfl := Option.some.inj (hset.symm.trans ha)
    rw [fibreAt_of_crew hb']
    exact hf p (hl ▸ hpl)

/-- The same where the unit stays where it is. -/
theorem stays_at (hb : body c (c.start pf s) = .stay { x with crews := x.crews.set u.crew kx }) :
    ∃ t, exec i s = .next t ∧ t.cores = x.cores
      ∧ (∀ p, p < ka.fibres.length → (t.fibreAt u.crew p).wait = (kx.fibre p).wait ∧ (t.fibreAt u.crew p).pc = (kx.fibre p).pc)
      ∧ ∀ g : Nat → Fibre → Fibre, (∀ p, p < ka.fibres.length → (kx.fibre p).face = (g p (ka.fibre p)).face) → Only x t u.crew g := by
  obtain ⟨hu, -, -, -⟩ := ctx_spec h.2.1
  have hlt : u.crew < x.crews.length := (List.getElem?_eq_some_iff.1 hx).1
  have hset : ({ x with crews := x.crews.set u.crew kx } : State).crews[u.crew]? = some kx := List.getElem?_set_self hlt
  obtain ⟨js, l, e⟩ : ∃ (js : List Nat) (l : Fibre → List Nat),
      (if Instr.isPlainLoad i then ({ x with crews := x.crews.set u.crew kx } : State)
        else c.useLate i { x with crews := x.crews.set u.crew kx })
      = ({ x with crews := x.crews.set u.crew kx } : State).modFibres u.crew js fun _ f => { f with late := l f } := by
    split
    · exact ⟨[], fun f => f.late, by rw [modFibres_nil]⟩
    · exact hu ▸ useLate_spec c i _
  let kt := kx.modFibres js fun _ f => { f with late := l f }
  have hkt : ∀ p, p < ka.fibres.length → (kt.fibre p).face = (kx.fibre p).face ∧ (kt.fibre p).wait = (kx.fibre p).wait
      ∧ (kt.fibre p).pc = (kx.fibre p).pc := by
    intro p hp
    rw [Crew.fibre_modFibres _ _ _ _ (hl ▸ hp)]
    split <;> exact ⟨rfl, rfl, rfl⟩
  have ht := ready_stay he h hb
  rw [e, State.modFibres, modCrew_eq_set hset] at ht
  have hcr : ((x.crews.set u.crew kx).set u.crew kt)[u.crew]? = some kt := by simp [hlt]
  refine ⟨_, ht, rfl, fun p hp => ?_, fun g hg => ?_⟩
  · rw [fibreAt_of_crew (k := kt) hcr]
    exact (hkt p hp).2
  · refine only_of_crew (k' := kt) hx rfl rfl rfl (by simp [State.done]) (fun j hj => ?_) hcr ?_ (by simp [kt, hl])
      fun p hp => ((hkt p hp).1).trans (hg p hp)
    · simp [State.done, Ne.symm hj]
    · exact hk

end

variable (hx : x.crews = s.crews) (hk : { kx with fibres := c.crew.fibres, bins := c.crew.bins } = c.crew)
  (hl : kx.fibres.length = c.crew.fibres.length)
include hx hk hl

/-- The same where the crew began as it stood before the step. -/
theorem completes_crew (hb : body c (c.start pf s) = .next { x with crews := x.crews.set u.crew kx })
    (hpc : ∀ p ∈ c.all, (kx.fibre p).pc = (c.fibre p).pc ∧ (kx.fibre p).rep = (c.fibre p).rep) :
    ∃ t, exec i s = .next t ∧ GoesOn t c ∧ t.cores = x.cores
      ∧ (∀ p, p < c.crew.fibres.length → (t.fibreAt u.crew p).face = (kx.fibre p).face)
      ∧ ∀ g : Nat → Fibre → Fibre, (∀ p, p < c.crew.fibres.length → (kx.fibre p).face = (g p (c.fibre p)).face) → Only x t u.crew g := by
  obtain ⟨hu, hcrew, -, -⟩ := ctx_spec h.2.1
  obtain ⟨t, ht, hcores, hp, hface, honly⟩ := completes_at he h (hx ▸ hcrew) hk hl hb
  refine ⟨t, ht, fun p hpa => ?_, hcores, hface, honly⟩
  have hn : nextPcOf c.kind (kx.fibre p) = nextPcOf c.kind (c.fibre p) := by simp only [nextPcOf, hpc p hpa]
  rw [hu, hp p hpa (ctx_all_lt h.2.1 hpa), hn]

theorem stays_crew (hb : body c (c.start pf s) = .stay { x with crews := x.crews.set u.crew kx }) :
    ∃ t, exec i s = .next t ∧ t.cores = x.cores
      ∧ (∀ p, p < c.crew.fibres.length → (t.fibreAt u.crew p).wait = (kx.fibre p).wait ∧ (t.fibreAt u.crew p).pc = (kx.fibre p).pc)
      ∧ ∀ g : Nat → Fibre → Fibre, (∀ p, p < c.crew.fibres.length → (kx.fibre p).face = (g p (c.fibre p)).face) → Only x t u.crew g :=
  stays_at he h (hx ▸ (ctx_spec h.2.1).2.1) hk hl hb

end

end Sys2Proof.Machine
end

section
/-!
Register blocks (R34, R35, R261, R262): when a core's blocks are granted, and what REGACQ and REGREL leave.
-/
namespace Sys2Proof.Machine

/-! ## Granting -/

/-- The result that a try form reports in its predicate. -/
def Fibre.reported (try_ : Option Nat) (v : Bool) (f : Fibre) : Fibre :=
  match try_ with
  | some q => f.setPred q v
  | none => f

theorem Fibre.reported_keeps (try_ : Option Nat) (v : Bool) (f : Fibre) :
    (f.reported try_ v).cols = f.cols ∧ (f.reported try_ v).pc = f.pc ∧ (f.reported try_ v).rep = f.rep := by
  cases try_ with
  | none => exact ⟨rfl, rfl, rfl⟩
  | some q => exact ⟨f.setPred_cols q v, f.setPred_pc q v, f.setPred_rep q v⟩

theorem face_reported (try_ : Option Nat) (v : Bool) (f : Fibre) (w ps : Bool) (di dc ia : Nat) (cs : List Nat) :
    (Fibre.reported try_ v { f.marked w ps di dc ia with cols := cs }).face = { (f.reported try_ v) with cols := cs }.face := by
  cases try_ with
  | none => rfl
  | some q =>
    simp only [Fibre.reported, Fibre.setPred]
    by_cases hq : q = 0
    · simp only [if_pos hq]; rfl
    · simp only [if_neg hq]; rfl

/-- A request may be granted as far as the others that wait on the core are concerned. -/
def Ctx.isNext (c : Ctx) (try_ : Option Nat) (s : State) : Prop :=
  s.handlerWaits c.core = false ∧ match try_ with
    | some _ => s.requestsOn c.core = []
    | none => s.requestsOn c.core = [] ∨ ∃ r rs, s.requestsOn c.core = r :: rs ∧ c.owns r = true

/-- The test by which the two forms are granted. -/
def Ctx.grants (c : Ctx) (try_ : Option Nat) (s grown : State) : Bool :=
  match try_ with
  | some _ => grantTry c s grown
  | none => grantWait c s grown

theorem grants_iff (c : Ctx) (try_ : Option Nat) (s grown : State) :
    c.grants try_ s grown = true ↔ grown.coreFits c.core = true ∧ c.isNext try_ s := by
  cases try_ with
  | some q =>
    simp only [Ctx.grants, grantTry, Ctx.isNext, Bool.and_eq_true, List.isEmpty_iff, Bool.not_eq_true']
    tauto
  | none =>
    simp only [Ctx.grants, grantWait, Ctx.isNext, Bool.and_eq_true, Bool.not_eq_true']
    cases hr : s.requestsOn c.core with
    | nil => simp; tauto
    | cons r rs =>
      simp only [List.cons_ne_nil, false_or, List.cons.injEq]
      constructor
      · rintro ⟨⟨h1, h2⟩, h3⟩
        exact ⟨h3, h2, r, rs, ⟨rfl, rfl⟩, h1⟩
      · rintro ⟨h3, h2, r', rs', ⟨rfl, rfl⟩, h1⟩
        exact ⟨⟨h1, h2⟩, h3⟩

theorem isNext_start (c : Ctx) (try_ : Option Nat) (pf : Prefix) (s : State) : c.isNext try_ (c.start pf s) ↔ c.isNext try_ s := by
  unfold Ctx.isNext
  rw [requestsOn_start, handlerWaits_start]

/-- Where no crew is mirrored, a grant revokes no mirror. -/
theorem revokeMirrors_unmirrored (s : State) {before : State} (h : ∀ k ∈ before.crews, k.mirror = false) (core : Nat) :
    s.revokeMirrors before core = s := by
  refine if_neg ?_
  rintro ⟨-, hne, -⟩
  refine hne (List.isEmpty_iff.2 (List.filter_eq_nil_iff.2 fun j _ hj => ?_))
  cases hk : before.crews[j]? with
  | none => simp [hk] at hj
  | some k => simp [hk, h k (List.mem_of_getElem? hk)] at hj

/-- What granting withdraws of a core's requests. -/
def Ctx.withdrawn (c : Ctx) (k : CoreSt) : CoreSt := { k with requests := k.requests.filter fun r => !c.owns r }

theorem granted_unmirrored (c : Ctx) {before : State} (h : ∀ k ∈ before.crews, k.mirror = false) (s : State) :
    c.granted before s = s.modCore c.core c.withdrawn := revokeMirrors_unmirrored _ h _

/-- A core changed reads as it was changed. -/
theorem coreAt_modCore {s : State} (h : s.Canonical) (n : Nat) (f : CoreSt → CoreSt) : (s.modCore n f).coreAt n = f (s.coreAt n) := by
  obtain ⟨-, hc, -⟩ := h
  have e := sget_sset CoreSt.reset n (f (s.coreAt n)) n hc
  rwa [if_pos rfl] at e

/-! ## Windows grown -/

/-- The state in which the active windows have grown and lie in blocks of the core. -/
def Ctx.grown (c : Ctx) (n : Nat) (s : State) : State := (c.onActive (Fibre.grow n) s).allotLoose c.u.crew c.act

theorem coreFits_grown_start (c : Ctx) (n : Nat) (pf : Prefix) (s : State) (core : Nat) :
    (c.grown n (c.start pf s)).coreFits core = (c.grown n s).coreFits core :=
  coreFits_windows (allotLoose_windows _ _ (windows_modFibres (windows_start c pf s) _ _ _ (fun w => { w with size := w.size + n })
    fun _ => rfl)) core

/-- Growing the active windows changes the crew's windows alone. -/
theorem grown_spec {s : State} {u : UnitId} {pf : Prefix} {c : Ctx} (hc : s.ctx? u pf = some c) (n : Nat) :
    ∃ k0 k', c.crew.Marked k0 ∧ (k0.modFibres c.act fun _ f => f.grow n).Recolumned c.act k'
      ∧ c.grown n (c.start pf s) = { s with crews := s.crews.set u.crew k' } := by
  obtain ⟨rfl, hk, -, -⟩ := ctx_spec hc
  have hlt : c.u.crew < s.crews.length := (List.getElem?_eq_some_iff.1 hk).1
  obtain ⟨m, hm, e⟩ := start_crews hc
  have hk0 : (c.start pf s).crews[c.u.crew]? = some (c.crew.modFibres c.all fun _ f => m f) := by rw [e]; simp [hlt]
  obtain ⟨k', e', hr⟩ := allotLoose_spec c.u.crew c.act (crews_modify hk0 fun k => k.modFibres c.act fun _ f => f.grow n)
  refine ⟨_, k', hm.crew _ _, hr, ?_⟩
  have hg : c.grown n (c.start pf s) = _ := e'
  rw [hg, modCrew_eq_set hk0, e]
  simp

theorem rest_grown {c : Ctx} {n : Nat} {k0 k' : Crew} (hm : c.crew.Marked k0)
    (hr : (k0.modFibres c.act fun _ f => f.grow n).Recolumned c.act k') : { k' with fibres := c.crew.fibres } = c.crew := by
  have e := congrArg (fun k : Crew => { k with fibres := c.crew.fibres }) hr.rest
  exact Eq.trans e hm.1

/-- A fibre of a crew whose active windows have grown. -/
theorem fibre_grown {c : Ctx} {n : Nat} {k0 k' : Crew} (hm : c.crew.Marked k0)
    (hr : (k0.modFibres c.act fun _ f => f.grow n).Recolumned c.act k') {p : Nat} (hp : p < c.crew.fibres.length) :
    ∃ w ps di dc ia, k'.fibre p =
      { (if p ∈ c.act then (c.fibre p).grow n else c.fibre p).marked w ps di dc ia with cols := (k'.fibre p).cols } := by
  obtain ⟨-, hl, hf⟩ := hm
  obtain ⟨w, ps, di, dc, ia, e⟩ := hf p
  refine ⟨w, ps, di, dc, ia, (hr.fibre p).trans ?_⟩
  rw [Crew.fibre_modFibres _ _ _ _ (hl ▸ hp), e]
  split <;> rfl

/-- Where the grown windows lie: a bound one in its columns, a loose one in as many blocks as it has. -/
theorem cols_grown {c : Ctx} {n : Nat} {k0 k' : Crew} (hm : c.crew.Marked k0)
    (hr : (k0.modFibres c.act fun _ f => f.grow n).Recolumned c.act k') {p : Nat} (hp : p < c.crew.fibres.length) :
    (p ∉ c.act ∨ (c.fibre p).bound = true → (k'.fibre p).cols = (c.fibre p).cols)
      ∧ (p ∈ c.act → (c.fibre p).live = true → (c.fibre p).bound = false → (c.fibre p).cols.length = (c.fibre p).size →
          (k'.fibre p).cols.length = (c.fibre p).size + n) := by
  obtain ⟨-, hl, hf⟩ := hm
  obtain ⟨w, ps, di, dc, ia, e⟩ := hf p
  have hg := Crew.fibre_modFibres k0 c.act (fun _ f => f.grow n) p (hl ▸ hp)
  rw [e] at hg
  constructor
  · intro hpb
    rw [hr.kept p (hpb.imp id fun hb => by rw [hg]; split <;> exact hb), hg]
    split <;> rfl
  · intro ha hlive hb hcols
    rw [if_pos ha] at hg
    rw [hr.run p ha (by simpa [hl] using hp) (by rw [hg]; exact hlive) (by rw [hg]; exact hb), hg]
    show max ((c.fibre p).size + n) (c.fibre p).cols.length = _
    omega

/-! ## REGACQ -/

/-- The active windows within the kind's limit after growing. -/
def Ctx.fitsGrown (c : Ctx) (n : Nat) : Prop := ∀ p ∈ c.act, (c.fibre p).size + n ≤ c.kind.maxWindow

theorem overgrown_nil {c : Ctx} {n : Nat} (h : c.fitsGrown n) :
    (c.act.filter fun i => decide (c.kind.maxWindow < (c.fibre i).size + n)) = [] := by
  rw [List.filter_eq_nil_iff]
  intro p hp
  have := h p hp
  simpa using this

section
variable {c : Ctx} {n : Nat} {try_ : Option Nat} {s : State} (hact : c.act ≠ []) (hfit : c.fitsGrown n)
include hact hfit

theorem bodyRegacq_granted (hg : c.grants try_ s (c.grown n s) = true) :
    bodyRegacq n try_ c s = .next (c.onActive (Fibre.reported try_ true) (c.granted s (c.grown n s))) := by
  have he : ¬ c.act.isEmpty = true := by simpa using hact
  unfold bodyRegacq
  rw [if_neg he, overgrown_nil hfit]
  cases try_ with
  | some q => exact if_pos hg
  | none => exact (if_pos hg).trans (congrArg Eff.next (modFibres_id _ _ _).symm)

theorem bodyRegacq_refused {q : Nat} (hg : ¬ c.grants (some q) s (c.grown n s) = true) :
    bodyRegacq n (some q) c s = .next (c.onActive (fun f => f.setPred q false) s) := by
  have he : ¬ c.act.isEmpty = true := by simpa using hact
  unfold bodyRegacq
  rw [if_neg he, overgrown_nil hfit]
  exact if_neg hg

theorem bodyRegacq_waits (hg : ¬ c.grants none s (c.grown n s) = true) :
    bodyRegacq n none c s = c.request c.act n [] ((c.grown n s).blocksUsed c.core - s.blocksUsed c.core) s := by
  have he : ¬ c.act.isEmpty = true := by simpa using hact
  unfold bodyRegacq
  rw [if_neg he, overgrown_nil hfit]
  exact if_neg hg

end

/-! ## What REGACQ leaves -/

section
variable {s : State} {u : UnitId} {pf : Prefix} {c : Ctx} (hc : s.ctx? u pf = some c)
include hc

theorem unmirrored_start (hm : ∀ k ∈ s.crews, k.mirror = false) : ∀ k ∈ (c.start pf s).crews, k.mirror = false := by
  obtain ⟨m, -, e⟩ := start_crews hc
  obtain ⟨-, hk, -, -⟩ := ctx_spec hc
  intro k hk'
  rw [e] at hk'
  rcases List.mem_or_eq_of_mem_set hk' with h | rfl
  · exact hm k h
  · exact hm c.crew (List.mem_of_getElem? hk)

/-- A request of the unit is its own. -/
theorem owns_of_members {r : Request} (hr : r.crew = c.u.crew) (hm : r.members = c.all) : c.owns r = true := by
  obtain ⟨p, ps, hp⟩ := List.exists_cons_of_ne_nil (ctx_all_ne_nil hc)
  simp [Ctx.owns, hr, hm, hp]

end

/-- The requests of a core once a unit's own stands among them. -/
def Ctx.asking (c : Ctx) (mine : Request) (rs : List Request) : List Request :=
  match rs.findIdx? c.owns with
  | none => rs ++ [mine]
  | some n => rs.take n ++ mine :: (rs.drop (n + 1)).filter fun r => !c.owns r

theorem mem_asking (c : Ctx) (mine : Request) (rs : List Request) : mine ∈ c.asking mine rs := by
  unfold Ctx.asking
  split <;> simp

section
variable {i : Instr} {s : State} {u : UnitId} {pf : Prefix} {c : Ctx} {n : Nat} {try_ : Option Nat}
  (he : ∀ s, exec i s = issue i (bodyRegacq n try_) s) (h : Ready i s u pf c) (hcan : s.Canonical) (hact : c.act ≠ [])
  (hfit : c.fitsGrown n)
include he h hact hfit

/-- REGACQ is granted. -/
theorem regacq_grants (hcan : s.Canonical) (hmir : ∀ k ∈ s.crews, k.mirror = false)
    (hroom : (c.grown n s).coreFits c.core = true) (hnext : c.isNext try_ s) :
    ∃ t, exec i s = .next t ∧ GoesOn t c ∧ (t.coreAt c.core).requests = (s.coreAt c.core).requests.filter (fun r => !c.owns r)
      ∧ (Only { s with cores := t.cores } t u.crew fun p f =>
          if p ∈ c.act then { (f.grow n).reported try_ true with cols := (t.fibreAt u.crew p).cols } else f)
      ∧ ∀ p ∈ c.act, ((c.fibre p).bound = true → (t.fibreAt u.crew p).cols = (c.fibre p).cols)
        ∧ ((c.fibre p).bound = false → (c.fibre p).cols.length = (c.fibre p).size →
            (t.fibreAt u.crew p).cols.length = (c.fibre p).size + n) := by
  have hctx := h.2.1
  obtain ⟨hu, hk, -, -⟩ := ctx_spec hctx
  have hlt : u.crew < s.crews.length := (List.getElem?_eq_some_iff.1 hk).1
  obtain ⟨k0, k', hm, hr, hgrown⟩ := grown_spec hctx n
  have hg : c.grants try_ (c.start pf s) (c.grown n (c.start pf s)) = true :=
    (grants_iff ..).2 ⟨by rw [coreFits_grown_start]; exact hroom, (isNext_start ..).2 hnext⟩
  have hbody := bodyRegacq_granted hact hfit hg
  let x := s.modCore c.core c.withdrawn
  let kx := k'.modFibres c.act fun _ f => f.reported try_ true
  have hl' : k'.fibres.length = c.crew.fibres.length := by rw [hr.length, Crew.length_modFibres, hm.2.1]
  have hstate : c.onActive (Fibre.reported try_ true) (c.granted (c.start pf s) (c.grown n (c.start pf s)))
      = { x with crews := x.crews.set u.crew kx } := by
    have hset : ((c.grown n (c.start pf s)).modCore c.core c.withdrawn).crews[u.crew]? = some k' := by
      rw [hgrown]; simp [hlt]
    rw [granted_unmirrored c (unmirrored_start hctx hmir), Ctx.onActive, State.modFibres, hu, modCrew_eq_set hset, hgrown]
    simp [x, kx, State.modCore, State.coreAt]
  have hfib : ∀ p, p < c.crew.fibres.length →
      kx.fibre p = if p ∈ c.act then (k'.fibre p).reported try_ true else k'.fibre p := fun p hp =>
    Crew.fibre_modFibres _ _ _ _ (hl' ▸ hp)
  have hcols : ∀ p, p < c.crew.fibres.length → (kx.fibre p).cols = (k'.fibre p).cols := by
    intro p hp
    rw [hfib p hp]
    split
    · exact (Fibre.reported_keeps ..).1
    · rfl
  obtain ⟨t, ht, hgo, hcores, hface, honly⟩ := completes_crew he h (x := x) (kx := kx) rfl
    (congrArg (fun k : Crew => { k with bins := c.crew.bins }) (rest_grown hm hr) :) (by simp [kx, hl']) (hbody.trans (congrArg Eff.next hstate)) fun p hp => by
      have hpl := ctx_all_lt hctx hp
      obtain ⟨w, ps, di, dc, ia, e⟩ := fibre_grown hm hr hpl
      have hk' : (k'.fibre p).pc = (c.fibre p).pc ∧ (k'.fibre p).rep = (c.fibre p).rep := by
        rw [e]; split <;> exact ⟨rfl, rfl⟩
      rw [hfib p hpl]
      split
      · exact ⟨(Fibre.reported_keeps ..).2.1.trans hk'.1, (Fibre.reported_keeps ..).2.2.trans hk'.2⟩
      · exact hk'
  have htc : ∀ p, p < c.crew.fibres.length → (t.fibreAt u.crew p).cols = (k'.fibre p).cols := fun p hp => by
    have e := congrArg Fibre.cols (hface p hp)
    exact Eq.trans e (hcols p hp)
  refine ⟨t, ht, hgo, ?_, ?_, fun p hp => ?_⟩
  · rw [State.coreAt, hcores]
    exact congrArg CoreSt.requests (coreAt_modCore hcan c.core c.withdrawn)
  · rw [hcores]
    refine honly _ fun p hp => ?_
    obtain ⟨w, ps, di, dc, ia, e⟩ := fibre_grown hm hr hp
    have hcol := (cols_grown hm hr hp).1
    rw [hfib p hp]
    by_cases ha : p ∈ c.act
    · rw [if_pos ha, if_pos ha, htc p hp, e, if_pos ha]
      exact face_reported ..
    · rw [if_neg ha, if_neg ha, e, if_neg ha, hcol (.inl ha)]
      rfl
  · obtain ⟨-, hpl, hlive⟩ := act_live hctx hp
    obtain ⟨h1, h2⟩ := cols_grown hm hr hpl
    rw [htc p hpl]
    exact ⟨fun hb => h1 (.inr hb), fun hb hc => h2 hp hlive hb hc⟩

end

section
variable {i : Instr} {s : State} {u : UnitId} {pf : Prefix} {c : Ctx} {n : Nat}
  (h : Ready i s u pf c) (hact : c.act ≠ []) (hfit : c.fitsGrown n)
include h hact hfit

/-- REGACQ.try is refused. -/
theorem regacqTry_refused {q : Nat} (he : ∀ s, exec i s = issue i (bodyRegacq n (some q)) s)
    (hno : ¬ ((c.grown n s).coreFits c.core = true ∧ c.isNext (some q) s)) :
    ∃ t, exec i s = .next t ∧ GoesOn t c ∧ Only s t u.crew fun p f => if p ∈ c.act then f.setPred q false else f := by
  obtain ⟨rfl, -, -, -⟩ := ctx_spec h.2.1
  obtain ⟨k0, hm, e, hk0⟩ := start_marked h.2.1
  have hg : ¬ c.grants (some q) (c.start pf s) (c.grown n (c.start pf s)) = true := by
    rw [grants_iff, coreFits_grown_start, isNext_start]
    exact hno
  let kx := k0.modFibres c.act fun _ f => f.setPred q false
  have hfib : ∀ p, p < c.crew.fibres.length → ∃ w ps di dc ia,
      kx.fibre p = (if p ∈ c.act then (c.fibre p).setPred q false else c.fibre p).marked w ps di dc ia := by
    intro p hp
    obtain ⟨w, ps, di, dc, ia, e⟩ := hm.2.2 p
    refine ⟨w, ps, di, dc, ia, (Crew.fibre_modFibres _ _ _ _ (hm.2.1 ▸ hp)).trans ?_⟩
    rw [e]
    split
    · exact Fibre.setPred_marked ..
    · rfl
  have hbody : bodyRegacq n (some q) c (c.start pf s) = .next { s with crews := s.crews.set c.u.crew kx } := by
    rw [bodyRegacq_refused hact hfit hg, Ctx.onActive, State.modFibres, modCrew_eq_set hk0, e]
    simp [kx]
  obtain ⟨t, ht, hgo, -, -, honly⟩ := completes_crew he h (x := s) (kx := kx) rfl
    (congrArg (fun k : Crew => { k with bins := c.crew.bins }) hm.1 :) (by simp [kx, hm.2.1]) hbody fun p hp => by
      obtain ⟨w, ps, di, dc, ia, e⟩ := hfib p (ctx_all_lt h.2.1 hp)
      rw [e]
      split
      · exact ⟨Fibre.setPred_pc .., Fibre.setPred_rep ..⟩
      · exact ⟨rfl, rfl⟩
  refine ⟨t, ht, hgo, honly _ fun p hp => ?_⟩
  obtain ⟨w, ps, di, dc, ia, e⟩ := hfib p hp
  rw [e, Fibre.face_marked]

/-- REGACQ.wait waits in the core's queue. -/
theorem regacqWait_waits (he : ∀ s, exec i s = issue i (bodyRegacq n none) s) (hcan : s.Canonical)
    (hno : ¬ ((c.grown n s).coreFits c.core = true ∧ c.isNext none s)) :
    ∃ t, exec i s = .next t ∧ WaitsFor t c .blocks ∧ Only { s with cores := t.cores } t u.crew (fun _ f => f)
      ∧ ∃ r ∈ (t.coreAt c.core).requests, c.owns r = true := by
  obtain ⟨rfl, -, -, -⟩ := ctx_spec h.2.1
  obtain ⟨k0, hm, e, hk0⟩ := start_marked h.2.1
  have hg : ¬ c.grants none (c.start pf s) (c.grown n (c.start pf s)) = true := by
    rw [grants_iff, coreFits_grown_start, isNext_start]
    exact hno
  obtain ⟨mine, hmine, hbody⟩ : ∃ mine, c.owns mine = true ∧ bodyRegacq n none c (c.start pf s)
      = .stay (((c.start pf s).modCore c.core fun k => { k with requests := c.asking mine k.requests }).modFibres c.u.crew c.all
          fun _ f => { f with wait := .blocks }) := by
    rw [bodyRegacq_waits hact hfit hg]
    exact ⟨_, owns_of_members h.2.1 rfl rfl, rfl⟩
  let x := s.modCore c.core fun k => { k with requests := c.asking mine k.requests }
  let kx := k0.modFibres c.all fun _ f => { f with wait := .blocks }
  have hfib : ∀ p, p < c.crew.fibres.length → ∃ w ps di dc ia,
      kx.fibre p = (if p ∈ c.all then { c.fibre p with wait := .blocks } else c.fibre p).marked w ps di dc ia := by
    intro p hp
    obtain ⟨w, ps, di, dc, ia, e⟩ := hm.2.2 p
    refine ⟨w, ps, di, dc, ia, (Crew.fibre_modFibres _ _ _ _ (hm.2.1 ▸ hp)).trans ?_⟩
    rw [e]
    split <;> rfl
  have hstate : ((c.start pf s).modCore c.core fun k => { k with requests := c.asking mine k.requests }).modFibres c.u.crew c.all
      (fun _ f => { f with wait := .blocks }) = { x with crews := x.crews.set c.u.crew kx } := by
    rw [State.modFibres, modCrew_eq_set (s := (c.start pf s).modCore _ _) hk0, e]
    simp [x, kx, State.modCore, State.coreAt]
  obtain ⟨t, ht, hcores, hwait, honly⟩ := stays_crew he h (x := x) (kx := kx) rfl
    (congrArg (fun k : Crew => { k with bins := c.crew.bins }) hm.1 :) (by simp [kx, hm.2.1]) (hbody.trans (congrArg Eff.stay hstate))
  refine ⟨t, ht, fun p hp => ?_, ?_, mine, ?_, hmine⟩
  · have hpl := ctx_all_lt h.2.1 hp
    obtain ⟨w, ps, di, dc, ia, e⟩ := hfib p hpl
    obtain ⟨h1, h2⟩ := hwait p hpl
    rw [h1, h2, e, if_pos hp]
    exact ⟨rfl, rfl⟩
  · rw [hcores]
    refine honly _ fun p hp => ?_
    obtain ⟨w, ps, di, dc, ia, e⟩ := hfib p hp
    rw [e]
    split <;> rfl
  · rw [State.coreAt, hcores]
    have e := congrArg CoreSt.requests (coreAt_modCore hcan c.core fun k => { k with requests := c.asking mine k.requests })
    exact e ▸ mem_asking ..

end

/-- A window that would pass the limit is a fault of the lanes that name it. -/
theorem regacq_raises {i : Instr} {s : State} {u : UnitId} {pf : Prefix} {c : Ctx} {n : Nat} {try_ : Option Nat}
    (he : ∀ s, exec i s = issue i (bodyRegacq n try_) s) (h : Ready i s u pf c) (hact : c.act ≠ [])
    (hbad : (c.act.filter fun p => decide (c.kind.maxWindow < (c.fibre p).size + n)) ≠ []) :
    exec i s = .next (c.conclude (.raise (c.start pf s) causeWindow 0 0
      ((c.act.filter fun p => decide (c.kind.maxWindow < (c.fibre p).size + n)).map c.lane) [])).done := by
  refine ready_raise he h ?_
  unfold bodyRegacq
  rw [if_neg (by simpa using hact)]
  exact if_pos (by simpa using hbad)

/-! ## REGREL -/

theorem regrel_raises {i : Instr} {s : State} {u : UnitId} {pf : Prefix} {c : Ctx} {n : Nat}
    (he : ∀ s, exec i s = issue i (bodyRegrel n) s) (h : Ready i s u pf c)
    (hbad : (c.act.filter fun p => decide ((c.fibre p).size < n + 1)) ≠ []) :
    exec i s = .next (c.conclude (.raise (c.start pf s) causeWindow 0 0
      ((c.act.filter fun p => decide ((c.fibre p).size < n + 1)).map c.lane) [])).done :=
  ready_raise he h (if_pos (by simpa using hbad))

theorem regrel_shrinks {i : Instr} {n : Nat} (he : ∀ s, exec i s = issue i (bodyRegrel n) s) :
    Answers i (fun c _ => ∀ p ∈ c.act, n < (c.fibre p).size) (fun _ s => s)
      fun c _ p f => if p ∈ c.act then f.shrink n else f := by
  refine answers_active (g := fun _ _ _ f => f.shrink n) he (fun c s pf hpre => if_neg ?_)
    (fun _ _ _ _ _ _ _ _ _ => rfl) fun _ _ _ _ => ⟨rfl, rfl⟩
  have hnil : (c.act.filter fun p => decide ((c.fibre p).size < n + 1)) = [] := by
    rw [List.filter_eq_nil_iff]
    intro p hp
    have := hpre p hp
    simp only [decide_eq_true_eq]
    omega
  rw [hnil]
  simp

end Sys2Proof.Machine
end

section
open Sys2Proof Sys2Proof.Machine

/-- Settles O26: each form of REGACQ and REGREL by the case that its own effect takes. -/
theorem registerBlocksGrowAndShrink : Obligations.RegisterBlocksGrowAndShrink := by
  unfold Obligations.RegisterBlocksGrowAndShrink
  refine ⟨fun n i pr hi s u pf c h hcan hact hmir => ?_, fun n i hi => ?_⟩
  · have hu := (ctx_spec h.2.1).1
    subst hu
    rcases hi with ⟨rfl, rfl⟩ | ⟨rfl, rfl⟩ | ⟨q, rfl, rfl⟩ | ⟨q, rfl, rfl⟩
    · exact ⟨fun hf hr => regacq_grants (try_ := none) (fun _ => rfl) h hact hf hcan hmir hr.1 hr.2,
        fun hf hr => regacqWait_waits h hact hf (fun _ => rfl) hcan hr, regacq_raises (fun _ => rfl) h hact⟩
    · exact ⟨fun hf hr => regacq_grants (try_ := none) (fun _ => rfl) h hact hf hcan hmir hr.1 hr.2,
        fun hf hr => regacqWait_waits h hact hf (fun _ => rfl) hcan hr, regacq_raises (fun _ => rfl) h hact⟩
    · exact ⟨fun hf hr => regacq_grants (try_ := some q.toNat) (fun _ => rfl) h hact hf hcan hmir hr.1 hr.2,
        fun hf hr => regacqTry_refused h hact hf (fun _ => rfl) hr, regacq_raises (fun _ => rfl) h hact⟩
    · exact ⟨fun hf hr => regacq_grants (try_ := some q.toNat) (fun _ => rfl) h hact hf hcan hmir hr.1 hr.2,
        fun hf hr => regacqTry_refused h hact hf (fun _ => rfl) hr, regacq_raises (fun _ => rfl) h hact⟩
  · have he : ∀ s, exec i s = issue i (bodyRegrel n.toNat) s := by
      simp only [List.mem_cons, List.not_mem_nil, or_false] at hi
      rcases hi with rfl | rfl <;> exact fun _ => rfl
    exact ⟨fun s u pf c h => regrel_raises he h, regrel_shrinks he⟩

end

section
/-!
Crew barriers (R174) in a crew with a stray fibre: one whose home slot is none of the 32 lanes belongs to a sub-gang, but to no unit that
issues. The statement does not shut it out.
-/
namespace Sys2Proof.Machine

/-- The only gang of the crew. -/
def strayUnit : UnitId := { crew := 0, kind := .gang 0 0 }

/-- A latency crew of one gang about to issue: a fibre without a lane, one in lane 0 of the same sub-gang, and one of another sub-gang. -/
def strayCrew (k : Crew) : Crew :=
  { k with fibres := k.fibres.flatMap fun f => [{ f with home := 32, ident := 1 }, f, { f with home := 5, ident := 2, sub := 5 }] }

/-- Its unit's turn to issue. -/
def strayState : State :=
  { (State.reset.placeWords .latency [0]).modCrew 0 strayCrew with turn := some (.issue strayUnit Prefix.plain) }

/-- The unit as its instruction sees it: the fibre in lane 0 alone. -/
def strayCtx : Ctx :=
  (strayState.ctx? strayUnit Prefix.plain).getD
    { u := strayUnit, crew := loneCrew .latency 0 [], all := [], act := [], kd := 0, ka := 0, kb := 0, kc := 0 }

theorem strayCtx_ready : Ready (.barL 0) strayState strayUnit Prefix.plain strayCtx := by decide +kernel

theorem strayCtx_act : strayCtx.all = [1] ∧ strayCtx.act = [1] ∧ strayCtx.crew.pair = none ∧ 0 < strayCtx.crew.barriers.length
    ∧ strayCtx.crew.fibres.length = 3 ∧ (strayCtx.fibre 1).pc = strayCtx.pc := by decide +kernel

theorem strayCtx_lanes : ∀ p < 3, ∀ q < 3, strayCtx.lane p = strayCtx.lane q → p = q := by decide +kernel

/-- The fibre without a lane has not arrived. -/
theorem strayCtx_waits : ¬ ∀ f ∈ strayCtx.crew.fibres, f.live = true → f.bound = true →
    f.ident ∈ (strayCtx.crew.barriers.getD 0 { phase := false, arrived := [] }).arrived ∨ ∃ p ∈ strayCtx.act, (strayCtx.fibre p).ident = f.ident := by
  decide +kernel

/-- The wait of the active fibre after a step. -/
def strayWait (o : Host.Outcome State Fault Refusal) : Option Wait :=
  match o with
  | .next t => (t.crews[0]?).map fun k => (k.fibre 1).wait
  | _ => none

/-- The fibre without a lane stands at the issue point and leads its sub-gang and the other one: they meet, and the fibre at the barrier
with them, which waits no more. -/
theorem strayWait_bar : strayWait (exec (.barL 0) strayState) = some .none := by decide +kernel

end Sys2Proof.Machine
end

section
open Sys2Proof Sys2Proof.Machine

/-- Refutes O35: a live bound fibre whose home slot is none of the 32 lanes is of the sub-gang and not of its unit, so BAR leaves it at its
issue point; another sub-gang meets it there, and the fibre that has just arrived is regrouped with them and waits no more. -/
theorem not_barriersAndBenchRegisters : ¬ Obligations.BarriersAndBenchRegisters := by
  unfold Obligations.BarriersAndBenchRegisters
  rintro ⟨hbar, -⟩
  obtain ⟨hall, hact, hpair, hbars, hlen, hpc⟩ := strayCtx_act
  have hlive : ∀ p, (strayCtx.fibre p).live = true → p < 3 := by
    intro p hp
    by_contra hge
    rw [Ctx.fibre, Crew.fibre_of_length_le (by omega)] at hp
    cases hp
  obtain ⟨t, k, ht, hk, -, -, hwait, -⟩ := hbar 0 (.barL 0) (by simp) strayState strayUnit Prefix.plain strayCtx strayCtx_ready
    (by simp [hact]) hpair hbars (fun p hp => by obtain rfl := List.mem_singleton.1 (hall ▸ hp); exact hpc)
    (fun p q hp hq _ _ _ hl => strayCtx_lanes p (hlive p hp) q (hlive q hq) hl)
  obtain ⟨-, hstill⟩ := hwait strayCtx_waits
  have h1 := (hstill 1 (by simp [hact])).1
  have h2 := strayWait_bar
  have hk0 : t.crews[0]? = some k := hk
  rw [ht] at h2
  simp only [strayWait, hk0, Option.map_some, Option.some.injEq] at h2
  rw [h2] at h1
  cases h1

end

section
/-!
The end of fibres (R71, R174, R183, R287): what barriers tested again, a crew's end and a launch's end leave, and so what END leaves.
-/
namespace Sys2Proof.Machine

/-! ## Barriers tested (R174) -/

theorem face_leaveBar (kind : Kind) (n : Nat) (f : Fibre) : (f.leaveBar kind n).face = f.face := by
  unfold Fibre.leaveBar
  split
  · split
    · exact face_advance kind f
    · rfl
  · rfl

theorem leaveBar_free (kind : Kind) (n : Nat) {f : Fibre} (h : ∀ m q, f.wait ≠ .bar m q) : f.leaveBar kind n = f := by
  unfold Fibre.leaveBar
  split
  · rename_i hw
    exact absurd hw (h _ _)
  · rfl

theorem advance_free (kind : Kind) (f : Fibre) (m : Nat) (q : Bool) : (f.advance kind).wait ≠ .bar m q := by
  have e : (f.advance kind).wait = .none := by
    unfold Fibre.advance
    dsimp only
    split
    · split
      · rfl
      · split <;> rfl
    · split <;> rfl
  rw [e]
  exact Wait.noConfusion

/-- Barriers tested: the crew's faces stand, and a fibre that waits at none stands as it was. -/
structure Crew.Tested (k k' : Crew) : Prop where
  length : k'.fibres.length = k.fibres.length
  face : ∀ p, (k'.fibre p).face = (k.fibre p).face
  free : ∀ p, (∀ m q, (k.fibre p).wait ≠ .bar m q) → k'.fibre p = k.fibre p

theorem Crew.Tested.refl (k : Crew) : k.Tested k := ⟨rfl, fun _ => rfl, fun _ _ => rfl⟩

theorem Crew.Tested.trans {a b d : Crew} (h : a.Tested b) (h' : b.Tested d) : a.Tested d :=
  ⟨h'.length.trans h.length, fun p => (h'.face p).trans (h.face p), fun p hp => by
    have e := h.free p hp
    rw [← e] at hp
    exact (h'.free p hp).trans e⟩

theorem tested_leaveBar {k k' : Crew} {kind : Kind} {n : Nat} (h : k'.fibres = k.fibres.map (Fibre.leaveBar kind n)) : k.Tested k' := by
  have hf : ∀ p, k'.fibre p = (k.fibre p).leaveBar kind n := by
    intro p
    simp only [Crew.fibre, List.getD, h, List.getElem?_map]
    cases k.fibres[p]? <;> rfl
  exact ⟨by simp [h], fun p => by rw [hf]; exact face_leaveBar _ _ _, fun p hp => by rw [hf]; exact leaveBar_free _ _ hp⟩

theorem tested_fibres {k k' : Crew} (h : k'.fibres = k.fibres) : k.Tested k' := by
  have hf : ∀ p, k'.fibre p = k.fibre p := fun p => by simp only [Crew.fibre, h]
  exact ⟨congrArg List.length h, fun p => congrArg Fibre.face (hf p), fun p _ => hf p⟩

theorem tested_testBarrier (k : Crew) (n : Nat) : k.Tested (k.testBarrier n) := by
  unfold Crew.testBarrier
  dsimp only
  split
  · exact .refl k
  · exact tested_leaveBar (kind := k.kind) (n := n) rfl

theorem tested_foldl : ∀ (ns : List Nat) (k : Crew), k.Tested (ns.foldl Crew.testBarrier k)
  | [], k => .refl k
  | n :: ns, k => (tested_testBarrier k n).trans (tested_foldl ns _)

theorem tested_testBarriers (k : Crew) : k.Tested k.testBarriers := by
  have h : k.Tested { k with barriers := k.barriers.map fun b => { b with arrived := b.arrived.filter k.liveBound.contains } } :=
    tested_fibres rfl
  exact h.trans (tested_foldl (List.range 16) _)

/-! ## Crews and launches end (R31, R288) -/

/-- `t` is `s` but for crew `c`, the cores, the queues, the launches and what orders and hides accesses. -/
structure Beside (c : Nat) (s t : State) : Prop where
  rest : { t with crews := s.crews, cores := s.cores, queues := s.queues, launches := s.launches, past := s.past, pastScr := s.pastScr,
                  sync := s.sync } = s
  others : ∀ j, j ≠ c → t.crews[j]? = s.crews[j]?

theorem Beside.trans {c : Nat} {s t r : State} (h : Beside c s t) (h' : Beside c t r) : Beside c s r := by
  have e := congrArg (fun x : State => { x with
    crews := s.crews, cores := s.cores, queues := s.queues, launches := s.launches, past := s.past, pastScr := s.pastScr, sync := s.sync }) h'.rest
  exact ⟨e.trans h.rest, fun j hj => (h'.others j hj).trans (h.others j hj)⟩

theorem beside_modCrew (c : Nat) (s : State) (f : Crew → Crew) : Beside c s (s.modCrew c f) := ⟨rfl, fun _ hj => crews_modify_ne s hj f⟩

theorem Beside.now {c : Nat} {s t : State} (h : Beside c s t) : t.now = s.now := by
  have e := congrArg State.now h.rest
  exact e

/-- The same where crew `c` keeps its fibres. -/
structure Releases (c : Nat) (s t : State) : Prop extends Beside c s t where
  fibres : (t.crews[c]?).map Crew.fibres = (s.crews[c]?).map Crew.fibres

theorem Releases.refl (c : Nat) (s : State) : Releases c s s := ⟨⟨rfl, fun _ _ => rfl⟩, rfl⟩

theorem Releases.trans {c : Nat} {s t r : State} (h : Releases c s t) (h' : Releases c t r) : Releases c s r :=
  ⟨h.toBeside.trans h'.toBeside, h'.fibres.trans h.fibres⟩

theorem releases_modCore (c : Nat) (s : State) (n : Nat) (f : CoreSt → CoreSt) : Releases c s (s.modCore n f) := ⟨⟨rfl, fun _ _ => rfl⟩, rfl⟩

theorem releases_modCrew (c : Nat) (s : State) (f : Crew → Crew) (hf : ∀ k, (f k).fibres = k.fibres) : Releases c s (s.modCrew c f) := by
  refine ⟨beside_modCrew c s f, ?_⟩
  cases hk : s.crews[c]? with
  | none => simp [hk]
  | some k => simp [hk, hf]

theorem releases_meet (c : Nat) (s : State) (old : Crew) : Releases c s (s.meet c old) := by
  unfold State.meet
  split
  · exact .refl c s
  · split
    · exact .refl c s
    · exact ⟨⟨rfl, fun _ _ => rfl⟩, rfl⟩

theorem releases_restoreMirrors (c : Nat) (s : State) (core : Nat) : Releases c s (s.restoreMirrors core) := releases_modCore ..

theorem releases_leaveCore (c : Nat) (s : State) : Releases c s (s.leaveCore c) := by
  unfold State.leaveCore
  split
  · exact .refl c s
  · exact (releases_modCore ..).trans (releases_restoreMirrors ..)

theorem releases_settleCrew (c : Nat) (s : State) : Releases c s (s.settleCrew c) := ⟨⟨rfl, fun _ _ => rfl⟩, rfl⟩

theorem releases_chargeBack (c : Nat) (s : State) (q est last cost : Nat) : Releases c s (s.chargeBack q est last cost) :=
  ⟨⟨rfl, fun _ _ => rfl⟩, rfl⟩

theorem releases_modLaunch (c : Nat) (s : State) (l : Nat) (f : Launch → Launch) : Releases c s (s.modLaunch l f) := ⟨⟨rfl, fun _ _ => rfl⟩, rfl⟩

theorem releases_endCrew (c : Nat) (s : State) : Releases c s (s.endCrew c) := by
  unfold State.endCrew
  split
  · exact .refl c s
  · refine Releases.trans ?_ (releases_modLaunch ..)
    refine Releases.trans ?_ (releases_chargeBack ..)
    refine Releases.trans ?_ (releases_modCore ..)
    refine Releases.trans ?_ (releases_settleCrew ..)
    refine Releases.trans ?_ (releases_leaveCore ..)
    exact releases_modCrew c s _ fun _ => rfl

theorem releases_checkCrewEnd (c : Nat) (s : State) : Releases c s (s.checkCrewEnd c) := by
  unfold State.checkCrewEnd
  split
  · exact .refl c s
  · split
    · exact releases_endCrew c s
    · exact .refl c s

/-- The causes of the launches. -/
def State.causes (s : State) : List (Option (BitVec 8)) := s.launches.map Launch.cause

theorem causes_of_launches {s t : State} (h : t.launches = s.launches) : t.causes = s.causes := congrArg (List.map Launch.cause) h

theorem causes_modLaunch (s : State) (l : Nat) (f : Launch → Launch) (hf : ∀ x, (f x).cause = x.cause) : (s.modLaunch l f).causes = s.causes := by
  apply List.ext_getElem?
  intro j
  simp only [State.causes, State.modLaunch, List.getElem?_map, List.getElem?_modify]
  cases s.launches[j]? with
  | none => rfl
  | some x =>
    simp only [Option.map_eq_map, Option.map_some]
    split
    · rw [hf]
    · rfl

theorem launches_leaveCore (s : State) (c : Nat) : (s.leaveCore c).launches = s.launches := by
  unfold State.leaveCore
  split <;> rfl

theorem launches_settleCrew (s : State) (c : Nat) : (s.settleCrew c).launches = s.launches := rfl

theorem launches_settleCarve (s : State) (n : Nat) : (s.settleCarve n).launches = s.launches := rfl

theorem launches_chargeBack (s : State) (q est last cost : Nat) : (s.chargeBack q est last cost).launches = s.launches := rfl

theorem causes_endCrew (s : State) (c : Nat) : (s.endCrew c).causes = s.causes := by
  unfold State.endCrew
  split
  · rfl
  · refine (causes_modLaunch _ _ _ fun _ => ?_).trans ?_
    · rfl
    refine causes_of_launches ?_
    rw [launches_chargeBack, launches_settleCarve, launches_settleCrew, launches_leaveCore]
    rfl

theorem causes_stopCrews (s : State) (l : Nat) : (s.stopCrews l).causes = s.causes := by
  have hfold : ∀ (cs : List Nat) (s : State), (cs.foldl (fun t c => match t.crews[c]? with
      | some k => if k.desc.launch == l && k.status != .ended then t.endCrew c else t
      | none => t) s).causes = s.causes := by
    intro cs
    induction cs with
    | nil => exact fun _ => rfl
    | cons c cs ih =>
      intro s
      refine (ih _).trans ?_
      dsimp only
      split
      · split
        · exact causes_endCrew s c
        · rfl
      · rfl
  exact hfold _ s

theorem cause_endLaunch (s : State) (l cause : Nat) : ((s.endLaunch l cause).launches[l]?).map Launch.cause =
    (s.launches[l]?).map fun x => x.cause.orElse fun _ => some (BitVec.ofNat 8 cause) := by
  have hget : ∀ t : State, (t.launches[l]?).map Launch.cause = t.causes[l]? := fun t => List.getElem?_map.symm
  unfold State.endLaunch
  rw [hget, causes_stopCrews, ← hget]
  rw [State.modLaunch, List.getElem?_modify_eq]
  cases s.launches[l]? <;> rfl

/-! ## END -/

/-- An instruction whose effect changes nothing completes and changes nothing. -/
theorem completes_nothing {i : Instr} {s : State} {u : UnitId} {pf : Prefix} {c : Ctx} {body : Ctx → State → Eff}
    (he : ∀ s, exec i s = issue i body s) (h : Ready i s u pf c) (hb : body c (c.start pf s) = .next (c.start pf s)) :
    ∃ t, exec i s = .next t ∧ Only s t u.crew (fun _ f => f) ∧ GoesOn t c := by
  obtain ⟨k0, ⟨hrest, hlen, hfib⟩, e, -⟩ := start_marked h.2.1
  obtain ⟨t, ht, hgo, -, -, honly⟩ := completes_crew he h (x := s) (kx := k0) rfl
    (congrArg (fun k : Crew => { k with bins := c.crew.bins }) hrest :) hlen (by rw [hb, e]) fun p _ => by
      obtain ⟨w, ps, di, dc, ia, e⟩ := hfib p
      rw [e]
      exact ⟨rfl, rfl⟩
  refine ⟨t, ht, honly _ fun p _ => ?_, hgo⟩
  obtain ⟨w, ps, di, dc, ia, e⟩ := hfib p
  rw [e]
  rfl

/-- The crew of a unit whose active fibres have ended: they are dead and hold no register; the unit's others stand at Next. -/
structure Ctx.Ended (c : Ctx) (k : Crew) : Prop where
  length : k.fibres.length = c.crew.fibres.length
  dead : ∀ p ∈ c.act, (k.fibre p).live = false ∧ (k.fibre p).regs = []
  others : ∀ p ∈ c.all, p ∉ c.act → (k.fibre p).live = true ∧ (k.fibre p).pc = nextPcOf c.kind (c.fibre p)

theorem Ctx.Ended.sameFace {c : Ctx} {k k' : Crew} (hall : ∀ p ∈ c.all, p < c.crew.fibres.length) (hact : ∀ p ∈ c.act, p ∈ c.all)
    (h : c.Ended k) (hf : k.SameFace k') : c.Ended k' := by
  obtain ⟨-, hl, hf⟩ := hf
  refine ⟨hl.trans h.length, fun p hp => ?_, fun p hp ha => ?_⟩
  · obtain ⟨h1, h2⟩ := h.dead p hp
    have e := (hf p (h.length ▸ hall p (hact p hp))).1
    exact ⟨(congrArg Fibre.live e).trans h1, (congrArg Fibre.regs e).trans h2⟩
  · obtain ⟨h1, h2⟩ := h.others p hp ha
    obtain ⟨e, e'⟩ := hf p (h.length ▸ hall p hp)
    exact ⟨(congrArg Fibre.live e).trans h1, e'.trans h2⟩

theorem Ctx.Ended.of_fibres {c : Ctx} {k k' : Crew} (h : c.Ended k) (hf : k'.fibres = k.fibres) : c.Ended k' := by
  have e : ∀ p, k'.fibre p = k.fibre p := fun p => by simp only [Crew.fibre, hf]
  exact ⟨(congrArg List.length hf).trans h.length, fun p hp => by rw [e]; exact h.dead p hp, fun p hp ha => by rw [e]; exact h.others p hp ha⟩

/-- The fibres of a unit that END leaves alive. -/
def Ctx.left (c : Ctx) : List Nat := c.all.filter fun i => !c.act.contains i

/-- The crew in which the active fibres have ended and the unit's others stand at Next. -/
def Ctx.gone (c : Ctx) (k : Crew) : Crew :=
  (k.modFibres c.act fun _ f => { f with live := false, regs := [], dirty := [], cols := [] }).modFibres c.left fun _ f => f.advance c.kind

/-- What END makes of its crew: fibres end, the barriers are tested and the sub-gangs and bins formed anew. -/
def Ctx.endFibres (c : Ctx) (now : Nat) (k : Crew) : Crew :=
  let k := (c.gone k).testBarriers.regroupAll
  match c.u.kind with
  | .bin b => k.rebin now b
  | .gang _ _ => k

theorem Ctx.Ended.tested {c : Ctx} {k k' : Crew} (h : c.Ended k) (hfree : ∀ p ∈ c.all, p ∉ c.act → ∀ m q, (k.fibre p).wait ≠ .bar m q)
    (ht : k.Tested k') : c.Ended k' := by
  refine ⟨ht.length.trans h.length, fun p hp => ?_, fun p hp ha => ?_⟩
  · obtain ⟨h1, h2⟩ := h.dead p hp
    have e := ht.face p
    exact ⟨(congrArg Fibre.live e).trans h1, (congrArg Fibre.regs e).trans h2⟩
  · rw [ht.free p (hfree p hp ha)]
    exact h.others p hp ha

theorem Crew.sameFace_regroupAll (k : Crew) : k.SameFace k.regroupAll := Crew.sameFace_foldl Crew.regroup Crew.sameFace_regroup _ k

section
variable {s : State} {u : UnitId} {pf : Prefix} {c : Ctx} (hc : s.ctx? u pf = some c) {k0 : Crew} (hm : c.crew.Marked k0)
include hc hm

theorem fibre_gone_act {p : Nat} (hp : p ∈ c.act) : ((c.gone k0).fibre p).live = false ∧ ((c.gone k0).fibre p).regs = [] := by
  have hlt := (act_live hc hp).2.1
  have hn : p ∉ c.left := fun h => by simp [Ctx.left, hp] at h
  unfold Ctx.gone
  rw [Crew.fibre_modFibres _ _ _ _ (by simpa [hm.2.1] using hlt), if_neg hn, Crew.fibre_modFibres _ _ _ _ (hm.2.1 ▸ hlt), if_pos hp]
  exact ⟨rfl, rfl⟩

theorem fibre_gone_left {p : Nat} (hp : p ∈ c.all) (ha : p ∉ c.act) :
    ∃ w ps di dc ia, (c.gone k0).fibre p = ((c.fibre p).marked w ps di dc ia).advance c.kind := by
  have hlt := ctx_all_lt hc hp
  have hn : p ∈ c.left := by simp [Ctx.left, hp, ha]
  obtain ⟨w, ps, di, dc, ia, e⟩ := hm.2.2 p
  refine ⟨w, ps, di, dc, ia, ?_⟩
  unfold Ctx.gone
  rw [Crew.fibre_modFibres _ _ _ _ (by simpa [hm.2.1] using hlt), if_pos hn, Crew.fibre_modFibres _ _ _ _ (hm.2.1 ▸ hlt), if_neg ha, e]
  rfl

theorem ended_gone : c.Ended (c.gone k0) := by
  obtain ⟨-, -, hall, -⟩ := ctx_spec hc
  refine ⟨by simp [Ctx.gone, hm.2.1], fun p hp => fibre_gone_act hc hm hp, fun p hp ha => ?_⟩
  obtain ⟨w, ps, di, dc, ia, e⟩ := fibre_gone_left hc hm hp ha
  have hface := face_advance c.kind ((c.fibre p).marked w ps di dc ia)
  have hl := congrArg Fibre.live hface
  rw [e]
  have hlive : (c.fibre p).live = true := live_of_inUnit (members_inUnit (hall ▸ hp))
  exact ⟨hl.trans hlive, pc_advance ..⟩

theorem ended_endFibres (now : Nat) : c.Ended (c.endFibres now k0) := by
  have hact : ∀ p ∈ c.act, p ∈ c.all := fun p hp => (act_live hc hp).1
  have hlt : ∀ p ∈ c.all, p < c.crew.fibres.length := fun p hp => ctx_all_lt hc hp
  have ht : c.Ended (c.gone k0).testBarriers := (ended_gone hc hm).tested (fun p hp ha m q => by
    obtain ⟨w, ps, di, dc, ia, e⟩ := fibre_gone_left hc hm hp ha
    rw [e]
    exact advance_free c.kind _ m q) (tested_testBarriers _)
  have hr : c.Ended (c.gone k0).testBarriers.regroupAll := ht.sameFace hlt hact (Crew.sameFace_regroupAll _)
  unfold Ctx.endFibres
  dsimp only
  split
  · exact hr.sameFace hlt hact (Crew.sameFace_rebin ..)
  · exact hr

end

theorem bodyEnd_ends {c : Ctx} {s : State} (hact : c.act ≠ []) (hh : ∀ p ∈ c.act, (c.fibre p).handler = false)
    (hd : (c.crew.tokens c.u.kind).deferred = []) :
    bodyEnd c s = .left ((((s.modCrew c.u.crew (c.endFibres s.now)).meet c.u.crew c.crew).restoreMirrors c.core).checkCrewEnd c.u.crew) := by
  have h1 : ¬ c.act.isEmpty = true := by simpa using hact
  have h2 : ¬ (c.act.any fun i => (c.fibre i).handler) = true := by
    simp only [List.any_eq_true, not_exists, not_and]
    intro p hp hc
    rw [hh p hp] at hc
    cases hc
  have h3 : (if c.lastOfGang then (c.crew.tokens c.u.kind).deferred.head? else none) = none := by
    rw [hd]
    split <;> rfl
  unfold bodyEnd
  rw [if_neg h1, if_neg h2, h3]
  rfl

/-- END ends its active fibres. -/
theorem end_ends {i : Instr} {s : State} {u : UnitId} {pf : Prefix} {c : Ctx} (he : ∀ s, exec i s = issue i bodyEnd s)
    (hi : Instr.isPlainLoad i = false) (h : Ready i s u pf c) (hact : c.act ≠ []) (hh : ∀ p ∈ c.act, (c.fibre p).handler = false)
    (hd : (c.crew.tokens u.kind).deferred = []) :
    ∃ t k, exec i s = .next t.done ∧ t.crews[u.crew]? = some k ∧ c.Ended k ∧ Beside u.crew s t := by
  obtain ⟨rfl, hk, -, -⟩ := ctx_spec h.2.1
  obtain ⟨k0, hm, e, hk0⟩ := start_marked h.2.1
  have hall : ∀ p ∈ c.all, p < c.crew.fibres.length := fun p hp => ctx_all_lt h.2.1 hp
  have hin : ∀ p ∈ c.act, p ∈ c.all := fun p hp => (act_live h.2.1 hp).1
  have hstart : Beside c.u.crew s (c.start pf s) := by
    obtain ⟨m, -, e⟩ := start_spec c pf s
    rw [e]
    exact beside_modCrew ..
  let y := (c.start pf s).modCrew c.u.crew (c.endFibres s.now)
  let z := ((y.meet c.u.crew c.crew).restoreMirrors c.core).checkCrewEnd c.u.crew
  have hyz : Releases c.u.crew y z := ((releases_meet ..).trans (releases_restoreMirrors ..)).trans (releases_checkCrewEnd ..)
  have hyc : y.crews[c.u.crew]? = some (c.endFibres s.now k0) := crews_modify hk0 _
  obtain ⟨kz, hkz, hfz⟩ : ∃ kz, z.crews[c.u.crew]? = some kz ∧ kz.fibres = (c.endFibres s.now k0).fibres :=
    Option.map_eq_some_iff.1 (hyz.fibres.trans (congrArg (Option.map Crew.fibres) hyc))
  have hez : c.Ended kz := (ended_endFibres h.2.1 hm s.now).of_fibres hfz
  obtain ⟨js, l, hl⟩ := useLate_spec c i z
  let z' := z.modFibres c.u.crew js fun _ f => { f with late := l f }
  have hz' : z'.crews[c.u.crew]? = some (kz.modFibres js fun _ f => { f with late := l f }) := crews_modify hkz _
  obtain ⟨kt, hkt, hft⟩ := settle_spec (u := c.u) hz'
  have hstep : exec i s = .next (z'.settle c.u).done := by
    rw [he, issue_ready h, bodyEnd_ends hact hh hd, Ctx.start_now]
    show Host.Outcome.next (c.conclude (Eff.used c i (.left z))).done = _
    unfold Eff.used
    rw [hi]
    exact congrArg (fun x : State => Host.Outcome.next (x.settle c.u).done) hl
  have hlate : kz.SameFace (kz.modFibres js fun _ f => { f with late := l f }) := Crew.sameFace_modFibres kz _ _ fun _ _ => ⟨rfl, rfl⟩
  exact ⟨z'.settle c.u, kt, hstep, hkt, (hez.sameFace hall hin hlate).sameFace hall hin hft,
    (((hstart.trans (beside_modCrew ..)).trans hyz.toBeside).trans (beside_modCrew ..)).trans (beside_modCrew ..)⟩

/-- END of a handler fibre ends its launch with the delivered cause. -/
theorem end_handler {i : Instr} {s : State} {u : UnitId} {pf : Prefix} {c : Ctx} (he : ∀ s, exec i s = issue i bodyEnd s)
    (h : Ready i s u pf c) {p : Nat} (hp : p ∈ c.act) (hh : (c.fibre p).handler = true) {d : Delivery} (hd : c.crew.delivery = some d) :
    ∃ t, exec i s = .next t ∧ (t.launches[c.crew.desc.launch]?).map Launch.cause =
      (s.launches[c.crew.desc.launch]?).map fun l => l.cause.orElse fun _ => some d.cause := by
  have hbody : bodyEnd c (c.start pf s) = .endLaunch (c.start pf s) d.cause.toNat := by
    have h1 : ¬ c.act.isEmpty = true := fun he => by rw [List.isEmpty_iff.1 he] at hp; cases hp
    have h2 : (c.act.any fun i => (c.fibre i).handler) = true := List.any_eq_true.2 ⟨p, hp, hh⟩
    unfold bodyEnd
    rw [if_neg h1, if_pos h2, hd]
    rfl
  have hstep : exec i s = .next ((c.start pf s).endLaunch c.crew.desc.launch d.cause.toNat).done := by
    rw [he, issue_ready h, hbody]
    unfold Eff.used
    split <;> rfl
  refine ⟨_, hstep, (cause_endLaunch (c.start pf s) c.crew.desc.launch d.cause.toNat).trans ?_⟩
  rw [Ctx.start_launches]
  simp

end Sys2Proof.Machine
end

section
open Sys2Proof Sys2Proof.Machine

/-- Settles O21: END by its three cases. -/
theorem fibresEnd : Obligations.FibresEnd := by
  unfold Obligations.FibresEnd
  intro i hi s u pf c h
  have hi' : (∀ s, exec i s = issue i bodyEnd s) ∧ Instr.isPlainLoad i = false := by
    simp only [List.mem_cons, List.not_mem_nil, or_false] at hi
    rcases hi with rfl | rfl <;> exact ⟨fun _ => rfl, rfl⟩
  obtain ⟨he, hload⟩ := hi'
  refine ⟨fun hact => completes_nothing he h (if_pos (by simp [hact])), fun hact hh hd => ?_,
    fun p hp hh d hd => end_handler he h hp hh hd⟩
  obtain ⟨t, k, ht, hk, hended, hb⟩ := end_ends he hload h hact hh hd
  have hf : ∀ p, t.done.fibreAt u.crew p = k.fibre p := fun p => fibreAt_of_crew hk
  refine ⟨t.done, ht, fun p hp => ?_, fun p hp ha => ?_, hb.others, ?_, congrArg (· + 1) hb.now, rfl⟩
  · rw [hf]
    exact hended.dead p hp
  · rw [hf]
    exact hended.others p hp ha
  · have e := congrArg (fun x : State => { x with now := s.now, turn := s.turn }) hb.rest
    exact e

end

section
/-!
The device's own reads (R100): with no error in storage and no partial pending they change bytes of the entries that they use alone.
-/
namespace Sys2Proof.Machine

/-- No error stands in storage, no partial is pending, and memory is in its canonical form. -/
structure State.Calm (s : State) : Prop where
  canonical : s.MemoryCanonical
  partials : s.partials = []
  poison : s.rel.poison = []
  correctable : s.rel.correctable = []

theorem partials_post (s : State) (q : Nat) : (s.post (.queue q)).partials = s.partials := by
  unfold State.post
  dsimp only
  split <;> rfl

theorem partials_tellSignals (s : State) (pa n : Nat) : (s.tellSignals pa n).partials = s.partials :=
  foldl_keeps (P := fun t : State => t.partials = s.partials) (fun t _ ht => (partials_post (t.modQueue _ _) _).trans ht) _ s rfl

/-- A write of the device's own where no partial is pending. -/
theorem State.Calm.put {s : State} (h : s.Calm) (pa : Nat) (bs : List Byte) :
    (s.put pa bs).Calm ∧ ∀ b, ¬ (pa ≤ b ∧ b < pa + bs.length) → (s.put pa bs).byte b = s.byte b := by
  have hm : s.mergeLines pa bs.length = s := by
    unfold State.mergeLines
    rw [if_pos (by simp [h.partials])]
  have hp : s.put pa bs = (s.store pa bs).tellSignals pa bs.length := by unfold State.put; rw [hm]
  have hrel : (s.put pa bs).rel = s.rel := (merges_put s pa bs).rel
  refine ⟨⟨canonical_put s pa bs h.canonical, ?_, hrel ▸ h.poison, hrel ▸ h.correctable⟩, fun b hb => ?_⟩
  · rw [hp, partials_tellSignals]
    exact h.partials
  · have hbyte : (s.put pa bs).byte b = (s.store pa bs).byte b := by
      have e : (s.put pa bs).mem = (s.store pa bs).mem := by rw [hp, mem_tellSignals]
      unfold State.byte State.masked State.blankAt
      rw [e, hrel]
      rfl
    rw [hbyte, State.byte_store _ _ _ _ h.canonical, if_neg hb]

theorem State.Calm.orBit {s : State} (h : s.Calm) (at_ n : Nat) :
    (s.orBit at_ n).Calm ∧ ∀ b, ¬ (at_ ≤ b ∧ b < at_ + 8) → (s.orBit at_ n).byte b = s.byte b := by
  unfold State.orBit
  dsimp only
  split
  · exact ⟨h, fun _ _ => rfl⟩
  · have e := h.put at_ (leBytes 8 (s.word64 at_ + 2 ^ n))
    rw [length_leBytes] at e
    exact e

theorem State.Calm.orBits : ∀ (es : List Nat) {s : State}, s.Calm → (es.foldl (fun t e => t.orBit e 9) s).Calm
    ∧ ∀ b, (∀ e ∈ es, ¬ (e ≤ b ∧ b < e + 8)) → (es.foldl (fun t e => t.orBit e 9) s).byte b = s.byte b
  | [], s, h => ⟨h, fun _ _ => rfl⟩
  | e :: es, s, h => by
    obtain ⟨h1, h2⟩ := h.orBit e 9
    obtain ⟨h3, h4⟩ := State.Calm.orBits es h1
    exact ⟨h3, fun b hb => (h4 b fun x hx => hb x (List.mem_cons_of_mem _ hx)).trans (h2 b (hb e List.mem_cons_self))⟩

theorem devReadMeets_calm {s : State} (h : s.Calm) (asid va n : Nat) : s.devReadMeets asid va n = s :=
  if_pos ⟨by simp [h.poison], by simp [h.correctable]⟩

theorem State.Calm.peeked {s : State} (h : s.Calm) (asid va : Nat) : (s.peeked asid va).Calm
    ∧ ∀ b, (∀ e ∈ s.stage2Used asid (va % 2 ^ 48) { priv := true }, ¬ (e ≤ b ∧ b < e + 8)) → (s.peeked asid va).byte b = s.byte b := by
  unfold State.peeked
  rw [devReadMeets_calm h]
  exact State.Calm.orBits _ h

/-- Reads of the device's own change bytes of the stage-2 entries that they use, and no other. -/
theorem byte_peekedAll (asid b : Nat) : ∀ (vas : List Nat) {s : State}, s.Calm →
    (∀ pre va post, vas = pre ++ va :: post → ∀ e ∈ (s.peekedAll asid pre).stage2Used asid (va % 2 ^ 48) { priv := true }, ¬ (e ≤ b ∧ b < e + 8)) →
    (s.peekedAll asid vas).byte b = s.byte b
  | [], _, _, _ => rfl
  | va :: vas, s, h, hb => by
    obtain ⟨h1, h2⟩ := h.peeked asid va
    have hrest := byte_peekedAll asid b vas h1 fun pre v post e => hb (va :: pre) v post (by rw [e]; rfl)
    exact hrest.trans (h2 b (hb [] va vas rfl))

end Sys2Proof.Machine
end

section
/-!
FORK (R73): the crew in which it has created its loose fibres, and whether that crew fits its core.
-/
namespace Sys2Proof.Machine

/-! ## The binner (R28) -/

/-- The crew's fibres sorted into bins: they change their bins and their waits alone. -/
structure Crew.Binned (k k' : Crew) : Prop where
  rest : { k' with fibres := k.fibres, bins := k.bins } = k
  length : k'.fibres.length = k.fibres.length
  fibre : ∀ p, ∃ b w d, k'.fibre p = { k.fibre p with bin := b, wait := w, waited := d }

theorem Crew.Binned.refl (k : Crew) : k.Binned k := ⟨rfl, rfl, fun p => ⟨(k.fibre p).bin, (k.fibre p).wait, (k.fibre p).waited, rfl⟩⟩

theorem Crew.Binned.trans {a b d : Crew} (h : a.Binned b) (h' : b.Binned d) : a.Binned d := by
  have e := congrArg (fun k : Crew => { k with fibres := a.fibres, bins := a.bins }) h'.rest
  refine ⟨e.trans h.rest, h'.length.trans h.length, fun p => ?_⟩
  obtain ⟨b1, w1, d1, e1⟩ := h.fibre p
  obtain ⟨b2, w2, d2, e2⟩ := h'.fibre p
  exact ⟨b2, w2, d2, e2.trans (by rw [e1])⟩

theorem binned_of_mapIdx {k : Crew} {g : Nat → Fibre → Fibre} (hg : ∀ j f, ∃ b w d, g j f = { f with bin := b, wait := w, waited := d })
    (bs : List Bin) : k.Binned { k with fibres := k.fibres.mapIdx g, bins := bs } := by
  refine ⟨rfl, by simp, fun p => ?_⟩
  simp only [Crew.fibre, List.getD, List.getElem?_mapIdx]
  cases k.fibres[p]? with
  | none => exact ⟨none, .none, false, rfl⟩
  | some f => exact hg p f

theorem binned_enterBin (k : Crew) (now i : Nat) : k.Binned (k.enterBin now i) := by
  unfold Crew.enterBin
  split
  · refine binned_of_mapIdx (fun j f => ?_) _
    dsimp only
    split <;> split
    · exact ⟨_, _, _, rfl⟩
    · exact ⟨_, f.wait, f.waited, rfl⟩
    · exact ⟨f.bin, _, _, rfl⟩
    · exact ⟨f.bin, f.wait, f.waited, rfl⟩
  · refine binned_of_mapIdx (g := fun p f => if [i].contains p then { f with bin := some k.bins.length } else f) (fun j f => ?_) _
    split
    · exact ⟨_, f.wait, f.waited, rfl⟩
    · exact ⟨f.bin, f.wait, f.waited, rfl⟩

theorem binned_foldl (now n : Nat) : ∀ (is : List Nat) (k : Crew), k.Binned (is.foldl (fun k i => k.enterBin now (n + i)) k)
  | [], k => .refl k
  | i :: is, k => (binned_enterBin k now (n + i)).trans (binned_foldl now n is _)

/-- Windows are those of the fibres at each place. -/
theorem windows_ext {k k' : Crew} (hs : k'.status = k.status) (hc : k'.core = k.core) (hg : k'.gangs = k.gangs)
    (hl : k'.fibres.length = k.fibres.length) (hf : ∀ p, (k'.fibre p).window = (k.fibre p).window) : k'.windows = k.windows := by
  simp only [Crew.windows, hs, hc, hg, CrewWindows.mk.injEq, true_and]
  apply List.ext_getElem?
  intro p
  have h := hf p
  simp only [Crew.fibre, List.getD] at h
  simp only [List.getElem?_map]
  by_cases hp : p < k.fibres.length
  · rw [List.getElem?_eq_getElem hp, List.getElem?_eq_getElem (hl ▸ hp)] at h ⊢
    exact congrArg some h
  · rw [List.getElem?_eq_none (by omega), List.getElem?_eq_none (by omega)]

theorem Crew.Binned.windows {k k' : Crew} (h : k.Binned k') : k'.windows = k.windows := by
  have e1 := congrArg Crew.status h.rest
  have e2 := congrArg Crew.core h.rest
  have e3 := congrArg Crew.gangs h.rest
  refine windows_ext e1 e2 e3 h.length fun p => ?_
  obtain ⟨b, w, d, e⟩ := h.fibre p
  rw [e]
  rfl

/-- Windows of a state one crew of which is changed. -/
theorem windows_modCrew {s : State} {c : Nat} {f g : Crew → Crew} (h : ∀ k, s.crews[c]? = some k → (f k).windows = (g k).windows) :
    (s.modCrew c f).windows = (s.modCrew c g).windows := by
  apply List.ext_getElem?
  intro j
  simp only [State.windows, State.modCrew, List.getElem?_map, List.getElem?_modify, Option.map_eq_map, Option.map_map]
  by_cases hj : c = j
  · subst hj
    cases hk : s.crews[c]? with
    | none => rfl
    | some k => simpa using h k hk
  · simp [hj]

/-! ## The created fibres (R20, R21) -/

/-- The fibres that a FORK creates, in lane order. -/
def Ctx.kids (c : Ctx) (n now : Nat) (pcs : List Nat) : List Fibre :=
  (c.act.zip pcs).map fun x => { childOf (c.fibre x.1) x.2 n with issuedAt := now }

/-- Their places in the crew. -/
def Ctx.kidPlaces (c : Ctx) (kids : List Fibre) : List Nat := (List.range kids.length).map (c.crew.fibres.length + ·)

/-- The created fibres added, each in its bin. -/
def Ctx.withKids (c : Ctx) (kids : List Fibre) (now : Nat) (k : Crew) : Crew :=
  (List.range kids.length).foldl (fun k i => k.enterBin now (c.crew.fibres.length + i)) { k with fibres := k.fibres ++ kids }

/-- What they are bound to see. -/
def Ctx.bindKids (c : Ctx) (s : State) : State :=
  c.act.zipIdx.foldl (fun t x => t.inherit (c.u.crew, x.1) (c.u.crew, c.crew.fibres.length + x.2)) s

theorem create_eq (c : Ctx) (n : Nat) (pcs : List Nat) (s : State) : c.create n pcs s =
    (c.bindKids (s.modCrew c.u.crew (c.withKids (c.kids n s.now pcs) s.now))).allotLoose c.u.crew (c.kidPlaces (c.kids n s.now pcs)) := rfl

/-- What fibres are bound to see is all that binding them changes. -/
def State.boundOf (t s : State) : State := { t with past := s.past, pastScr := s.pastScr }

theorem boundOf_bindKids (c : Ctx) (s : State) : (c.bindKids s).boundOf s = s :=
  foldl_keeps (P := fun t => t.boundOf s = s) (f := fun t (x : Nat × Nat) => t.inherit (c.u.crew, x.1) (c.u.crew, c.crew.fibres.length + x.2))
    (fun _ _ ht => ht) _ s rfl

theorem crews_bindKids (c : Ctx) (s : State) : (c.bindKids s).crews = s.crews := by
  have e := congrArg State.crews (boundOf_bindKids c s)
  exact e

theorem binned_withKids (c : Ctx) (kids : List Fibre) (now : Nat) (k : Crew) :
    ({ k with fibres := k.fibres ++ kids } : Crew).Binned (c.withKids kids now k) := binned_foldl now _ _ _

/-- A FORK changes the crew's fibres and bins, and what they are bound to see. -/
theorem create_spec {x : State} {c : Ctx} {k : Crew} (hk : x.crews[c.u.crew]? = some k) (n : Nat) (pcs : List Nat) :
    ∃ k' ps scr, c.create n pcs x = { x with crews := x.crews.set c.u.crew k', past := ps, pastScr := scr }
      ∧ (c.withKids (c.kids n x.now pcs) x.now k).Recolumned (c.kidPlaces (c.kids n x.now pcs)) k' := by
  let y := x.modCrew c.u.crew (c.withKids (c.kids n x.now pcs) x.now)
  have hb := boundOf_bindKids c y
  have hcrews := crews_bindKids c y
  have hky : (c.bindKids y).crews[c.u.crew]? = some (c.withKids (c.kids n x.now pcs) x.now k) := by
    rw [hcrews]
    exact crews_modify hk _
  obtain ⟨k', e, hr⟩ := allotLoose_spec c.u.crew (c.kidPlaces (c.kids n x.now pcs)) hky
  refine ⟨k', (c.bindKids y).past, (c.bindKids y).pastScr, ?_, hr⟩
  rw [create_eq, e, hcrews]
  have hset : y.crews.set c.u.crew k' = x.crews.set c.u.crew k' := by
    have hy : y = _ := modCrew_eq_set hk _
    rw [hy]
    simp
  rw [hset]
  have e' := congrArg (fun z : State => { z with crews := x.crews.set c.u.crew k', past := (c.bindKids y).past, pastScr := (c.bindKids y).pastScr }) hb
  exact e'

/-! ## Whether it fits -/

/-- The windows that a FORK asks for. -/
def Ctx.askedWindows (c : Ctx) (n : Nat) : List Fibre :=
  c.act.map fun p => { Fibre.empty with live := true, bound := false, home := c.lane p, size := n }

theorem length_kids (c : Ctx) (n now : Nat) {pcs : List Nat} (h : pcs.length = c.act.length) : (c.kids n now pcs).length = c.act.length := by
  simp [Ctx.kids, h]

theorem windows_kids (c : Ctx) (n now : Nat) {pcs : List Nat} (h : pcs.length = c.act.length) :
    (c.kids n now pcs).map Fibre.window = (c.askedWindows n).map Fibre.window := by
  apply List.ext_getElem
  · simp [length_kids c n now h, Ctx.askedWindows]
  · intro j h1 h2
    simp only [Ctx.kids, Ctx.askedWindows, List.getElem_map, List.getElem_zip]
    rfl

/-- Whether the core holds the created fibres depends on the windows asked for. -/
theorem coreFits_create {x : State} {c : Ctx} {n : Nat} {pcs : List Nat} (h : pcs.length = c.act.length) (core : Nat) :
    (c.create n pcs x).coreFits core = ((x.modCrew c.u.crew fun k => { k with fibres := k.fibres ++ c.askedWindows n }).allotLoose c.u.crew
      ((List.range c.act.length).map (c.crew.fibres.length + ·))).coreFits core := by
  refine coreFits_windows ?_ core
  rw [create_eq, Ctx.kidPlaces, length_kids c n _ h]
  refine allotLoose_windows _ _ ?_
  refine (congrArg (List.map Crew.windows) (crews_bindKids c _)).trans (windows_modCrew fun k _ => ?_)
  rw [(binned_withKids c _ _ k).windows]
  simp only [Crew.windows, List.map_append, windows_kids c n x.now h]

end Sys2Proof.Machine
end

section
/-!
What FORK leaves (R73, R35): the fault of an entry outside the table, the fibres created, the refusal, the wait.
-/
namespace Sys2Proof.Machine

/-- A key of sparse storage reads what was written to it, where that is no unlisted value. -/
theorem sget_sset_self {α : Type} [DecidableEq α] {d x : α} (hx : x ≠ d) (n : Nat) : ∀ l : List (Nat × α), sget d (sset d n x l) n = x
  | [] => by simp [sset, sget, hx]
  | (k, v) :: r => by
    unfold sset
    split
    · simp [sget]
    · split
      · rename_i hk hn
        subst hn
        simp [sget]
      · rename_i hk hn
        simp only [sget, if_neg hk, if_neg hn]
        exact sget_sset_self hx n r

/-! ## What the effect is -/

/-- The PCs of the entries that the active lanes name. -/
def Ctx.entryPcs (c : Ctx) (a : Nat) (x : State) : List Nat :=
  c.act.map fun i => match x.entry? c.asid (c.fibre (c.all.headD 0)).codeBase.toNat ((c.fibre i).val a).toNat with
    | some e => if c.kind.isL then e.lpc else e.dpc
    | none => 0xFFFFFFFF

theorem length_entryPcs (c : Ctx) (a : Nat) (x : State) : (c.entryPcs a x).length = c.act.length := by simp [Ctx.entryPcs]

/-- The active lanes whose entry index is outside the code object's entry table. -/
def Ctx.outsideEntries (c : Ctx) (a : Nat) (s : State) : List Nat :=
  c.act.filter fun i => decide (s.entryCount c.asid (c.fibre (c.all.headD 0)).codeBase.toNat ≤ ((c.fibre i).val a).toNat)

/-- What reading the entries leaves. -/
def Ctx.forkRead (c : Ctx) (a : Nat) (s : State) : State := s.peekedAll c.asid (c.forkReads a s)

section
variable {c : Ctx} {a n : Nat} {try_ : Option Nat} {s : State} (hact : c.act ≠ []) (hheld : s.readsHeld c.asid (c.forkReads a s) = false)
  (herr : c.forkErrors a s = [])
include hact hheld herr

theorem bodyFork_raises (hbad : c.outsideEntries a s ≠ []) : bodyFork a n try_ c s =
    c.indirect ((c.outsideEntries a s).map fun i => (i, (c.fibre i).val a)) (c.forkRead a s) := by
  have h1 : ¬ c.act.isEmpty = true := by simpa using hact
  have h2 : ¬ c.readsHeld (c.forkReads a s) s = true := by simp [Ctx.readsHeld, hheld]
  have h3 : eccFault s (c.forkErrors a s) = none := by rw [herr]; rfl
  have h4 : ¬ (c.outsideEntries a s).isEmpty = true := by simpa using hbad
  unfold bodyFork
  dsimp only
  rw [if_neg h1, if_neg h2, h3]
  exact if_pos h4

variable (hbad : c.outsideEntries a s = [])
include hbad

theorem bodyFork_forks : bodyFork a n try_ c s =
    let x := c.forkRead a s
    let grown := c.create n (c.entryPcs a x) x
    match try_ with
    | some p =>
      if grantTry c x grown then .next (c.onActive (fun f => f.setPred p true) (c.granted x grown))
      else writePreds c p (fun _ => false) x
    | none =>
      if grantWait c x grown then .next (c.granted x grown)
      else c.request [] 0 (c.act.map fun i => (c.lane i, n)) (c.act.length * n) x := by
  have h1 : ¬ c.act.isEmpty = true := by simpa using hact
  have h2 : ¬ c.readsHeld (c.forkReads a s) s = true := by simp [Ctx.readsHeld, hheld]
  have h3 : eccFault s (c.forkErrors a s) = none := by rw [herr]; rfl
  have h4 : ¬ ¬ (c.outsideEntries a s).isEmpty = true := by simp [hbad]
  unfold bodyFork
  dsimp only
  rw [if_neg h1, if_neg h2, h3]
  exact if_neg h4

theorem bodyFork_granted (hg : c.grants try_ (c.forkRead a s) (c.create n (c.entryPcs a (c.forkRead a s)) (c.forkRead a s)) = true) :
    bodyFork a n try_ c s = .next (c.onActive (Fibre.reported try_ true)
      (c.granted (c.forkRead a s) (c.create n (c.entryPcs a (c.forkRead a s)) (c.forkRead a s)))) := by
  rw [bodyFork_forks hact hheld herr hbad]
  cases try_ with
  | some q => exact if_pos hg
  | none => exact (if_pos hg).trans (congrArg Eff.next (modFibres_id _ _ _).symm)

theorem bodyFork_refused {q : Nat} (hg : ¬ c.grants (some q) (c.forkRead a s) (c.create n (c.entryPcs a (c.forkRead a s)) (c.forkRead a s)) = true) :
    bodyFork a n (some q) c s = .next (c.onActive (fun f => f.setPred q false) (c.forkRead a s)) := by
  rw [bodyFork_forks hact hheld herr hbad]
  exact if_neg hg

theorem bodyFork_waits (hg : ¬ c.grants none (c.forkRead a s) (c.create n (c.entryPcs a (c.forkRead a s)) (c.forkRead a s)) = true) :
    bodyFork a n none c s = c.request [] 0 (c.act.map fun i => (c.lane i, n)) (c.act.length * n) (c.forkRead a s) := by
  rw [bodyFork_forks hact hheld herr hbad]
  exact if_neg hg

end

/-! ## The crew after a FORK -/

/-- What reading the entries leaves of the crews. -/
theorem memorySide_forkRead (c : Ctx) (a : Nat) (s : State) : MemorySide s (c.forkRead a s) := memorySide_peekedAll ..

/-- A FORK's crew with its own fibres as they stood, up to bins, waits and marks, and the created ones behind them. -/
structure Ctx.Forked (c : Ctx) (kids : List Fibre) (k : Crew) : Prop where
  rest : { k with fibres := c.crew.fibres, bins := c.crew.bins } = c.crew
  length : k.fibres.length = c.crew.fibres.length + kids.length
  own : ∀ p, p < c.crew.fibres.length → ∃ b w d wd ps di dc ia,
    k.fibre p = { (c.fibre p).marked wd ps di dc ia with bin := b, wait := w, waited := d }
  kid : ∀ j f, kids[j]? = some f → ∃ b w d cs,
    k.fibre (c.crew.fibres.length + j) = { f with bin := b, wait := w, waited := d, cols := cs }

theorem forked_create {c : Ctx} {kids : List Fibre} {now : Nat} {k0 k' : Crew} (hm : c.crew.Marked k0)
    (hr : (c.withKids kids now k0).Recolumned (c.kidPlaces kids) k') : c.Forked kids k' := by
  obtain ⟨hrest, hlen, hfib⟩ := hm
  have hb := binned_withKids c kids now k0
  have hplace : ∀ p, p ∈ c.kidPlaces kids → c.crew.fibres.length ≤ p := by
    intro p hp
    obtain ⟨i, -, rfl⟩ := List.mem_map.1 hp
    omega
  refine ⟨?_, ?_, fun p hp => ?_, fun j f hj => ?_⟩
  · have e1 := congrArg (fun k : Crew => { k with fibres := c.crew.fibres, bins := c.crew.bins }) hr.rest
    have e2 := congrArg (fun k : Crew => { k with fibres := c.crew.fibres, bins := c.crew.bins }) hb.rest
    have e3 := congrArg (fun k : Crew => { k with bins := c.crew.bins }) hrest
    exact Eq.trans e1 (Eq.trans e2 e3)
  · rw [hr.length, hb.length, List.length_append, hlen]
  · obtain ⟨b, w, d, e⟩ := hb.fibre p
    obtain ⟨wd, ps, di, dc, ia, em⟩ := hfib p
    have happ : ({ k0 with fibres := k0.fibres ++ kids } : Crew).fibre p = k0.fibre p := by
      simp only [Crew.fibre, List.getD, List.getElem?_append_left (hlen ▸ hp)]
    have hc := hr.kept p (.inl fun hpl => absurd (hplace p hpl) (by omega))
    refine ⟨b, w, d, wd, ps, di, dc, ia, ?_⟩
    rw [hr.fibre p, hc, e, happ, em]
    rfl
  · obtain ⟨b, w, d, e⟩ := hb.fibre (c.crew.fibres.length + j)
    have happ : ({ k0 with fibres := k0.fibres ++ kids } : Crew).fibre (c.crew.fibres.length + j) = f := by
      simp only [Crew.fibre, List.getD]
      rw [← hlen, List.getElem?_append_right (by omega), Nat.add_sub_cancel_left, hj]
      rfl
    exact ⟨b, w, d, _, (hr.fibre _).trans (by rw [e, happ])⟩

theorem face_reported_binned (try_ : Option Nat) (v : Bool) (f : Fibre) (wd ps : Bool) (di dc ia : Nat) (b : Option Nat) (w : Wait) (d : Bool) :
    (Fibre.reported try_ v { f.marked wd ps di dc ia with bin := b, wait := w, waited := d }).face = (f.reported try_ v).face := by
  cases try_ with
  | none => rfl
  | some q =>
    simp only [Fibre.reported, Fibre.setPred]
    by_cases hq : q = 0
    · simp only [if_pos hq]; rfl
    · simp only [if_neg hq]; rfl

/-! ## What FORK leaves -/

section
variable {i : Instr} {s : State} {u : UnitId} {pf : Prefix} {c : Ctx} {a : Ctx → Nat} {n : Nat} {try_ : Option Nat}
  (he : ∀ s, exec i s = issue i (fun c => bodyFork (a c) n try_ c) s) (h : Ready i s u pf c) (hact : c.act ≠ [])
  (hheld : (c.start pf s).readsHeld c.asid (c.forkReads (a c) (c.start pf s)) = false) (herr : c.forkErrors (a c) (c.start pf s) = [])
include he h hact hheld herr

/-- An entry outside the table. -/
theorem fork_raises (hbad : c.outsideEntries (a c) (c.start pf s) ≠ []) :
    exec i s = .next (c.conclude (.raise (c.forkRead (a c) (c.start pf s)) causeIndirect 0 0 ((c.outsideEntries (a c) (c.start pf s)).map c.lane)
      ((c.outsideEntries (a c) (c.start pf s)).map fun p => (c.lane p, [((c.fibre p).val (a c)).toNat])))).done := by
  refine ready_raise he h ?_
  rw [bodyFork_raises hact hheld herr hbad, Ctx.indirect, List.map_map, List.map_map]
  rfl

variable (hbad : c.outsideEntries (a c) (c.start pf s) = [])
include hbad

/-- The fibres are created. -/
theorem fork_creates (hmir : ∀ k ∈ s.crews, k.mirror = false)
    (hg : c.grants try_ (c.forkRead (a c) (c.start pf s))
      (c.create n (c.entryPcs (a c) (c.forkRead (a c) (c.start pf s))) (c.forkRead (a c) (c.start pf s))) = true) :
    let x := c.forkRead (a c) (c.start pf s)
    ∃ t k ka, exec i s = .next t ∧ t.crews[u.crew]? = some k ∧ GoesOn t c ∧ c.Forked (c.kids n s.now (c.entryPcs (a c) x)) ka
      ∧ k.fibres.length = ka.fibres.length
      ∧ (∀ p, p < c.crew.fibres.length → (k.fibre p).face = (if p ∈ c.act then (c.fibre p).reported try_ true else c.fibre p).face)
      ∧ (∀ p, c.crew.fibres.length ≤ p → p < ka.fibres.length → (k.fibre p).face = (ka.fibre p).face ∧ (k.fibre p).pc = (ka.fibre p).pc)
      ∧ (∀ j, j ≠ u.crew → t.crews[j]? = s.crews[j]?)
      ∧ t.cores = (x.modCore c.core c.withdrawn).cores
      ∧ { t with crews := x.crews, now := x.now, turn := x.turn, cores := x.cores, past := x.past, pastScr := x.pastScr } = x := by
  intro x
  have hctx := h.2.1
  obtain ⟨rfl, hk, -, -⟩ := ctx_spec hctx
  have hlt : c.u.crew < s.crews.length := (List.getElem?_eq_some_iff.1 hk).1
  obtain ⟨k0, hm, e, hk0⟩ := start_marked hctx
  have hx : MemorySide (c.start pf s) x := memorySide_forkRead ..
  have hxk : x.crews[c.u.crew]? = some k0 := by rw [hx.crews]; exact hk0
  have hnow : x.now = s.now := hx.now.trans (Ctx.start_now ..)
  obtain ⟨k', ps, scr, hcreate, hr⟩ := create_spec hxk n (c.entryPcs (a c) x)
  rw [hnow] at hr
  have hforked := forked_create hm hr
  let ky := k'.modFibres c.act fun _ f => f.reported try_ true
  let y : State := { x with crews := x.crews.set c.u.crew ky, past := ps, pastScr := scr, cores := (x.modCore c.core c.withdrawn).cores }
  have hxlt : c.u.crew < x.crews.length := (List.getElem?_eq_some_iff.1 hxk).1
  have hmirx : ∀ k ∈ x.crews, k.mirror = false := by
    rw [hx.crews]
    exact unmirrored_start hctx hmir
  have hbody : bodyFork (a c) n try_ c (c.start pf s) = .next y := by
    rw [bodyFork_granted hact hheld herr hbad hg]
    congr 1
    have hset : ((c.create n (c.entryPcs (a c) x) x).modCore c.core c.withdrawn).crews[c.u.crew]? = some k' := by
      rw [hcreate]
      simp [hxlt]
    show c.onActive _ (c.granted x (c.create n (c.entryPcs (a c) x) x)) = y
    rw [granted_unmirrored c hmirx, Ctx.onActive, State.modFibres, modCrew_eq_set hset, hcreate]
    simp [y, ky, State.modCore, State.coreAt]
  have hyk : y.crews[c.u.crew]? = some ky := List.getElem?_set_self hxlt
  obtain ⟨t, ht, ho, hpc, hother⟩ := completes_next he h hbody hyk
  obtain ⟨-, -, hrest, -, hne, kb, k, hkb, hkt, -, hkl, hface⟩ := ho
  obtain rfl := Option.some.inj (hyk.symm.trans hkb)
  have hlen : ky.fibres.length = k'.fibres.length := by simp [ky]
  have hfib : ∀ p, p < k'.fibres.length → ky.fibre p = if p ∈ c.act then (k'.fibre p).reported try_ true else k'.fibre p := fun p hp =>
    Crew.fibre_modFibres _ _ _ _ hp
  have hown : ∀ p, p < c.crew.fibres.length → p < k'.fibres.length := fun p hp => by rw [hforked.length]; omega
  have hnact : ∀ p, c.crew.fibres.length ≤ p → p ∉ c.act ∧ p ∉ c.all := fun p hp =>
    ⟨fun hpa => absurd (act_live hctx hpa).2.1 (by omega), fun hpa => absurd (ctx_all_lt hctx hpa) (by omega)⟩
  refine ⟨t, k, k', ht, hkt, fun p hp => ?_, hforked, hkl.trans hlen, fun p hp => ?_, fun p hp hlt' => ?_, fun j hj => ?_, ?_, ?_⟩
  · have hpl := ctx_all_lt hctx hp
    obtain ⟨b, w, d, wd, ps, di, dc, ia, ek⟩ := hforked.own p hpl
    rw [hpc p hp (hlen ▸ hown p hpl)]
    have hsame : (ky.fibre p).pc = (c.fibre p).pc ∧ (ky.fibre p).rep = (c.fibre p).rep := by
      rw [hfib p (hown p hpl), ek]
      split
      · exact ⟨(Fibre.reported_keeps ..).2.1, (Fibre.reported_keeps ..).2.2⟩
      · exact ⟨rfl, rfl⟩
    simp only [nextPcOf, hsame]
  · obtain ⟨b, w, d, wd, ps, di, dc, ia, ek⟩ := hforked.own p hp
    rw [hface p (hlen ▸ hown p hp), hfib p (hown p hp), ek]
    split
    · exact face_reported_binned ..
    · rfl
  · have hk' : ky.fibre p = k'.fibre p := (hfib p hlt').trans (if_neg (hnact p hp).1)
    rw [hface p (hlen ▸ hlt'), hk', ← fibreAt_of_crew hkt, hother p (hnact p hp).2 (hlen ▸ hlt'), hk']
    exact ⟨rfl, rfl⟩
  · rw [hne j hj]
    show (x.crews.set c.u.crew ky)[j]? = _
    rw [List.getElem?_set_ne (Ne.symm hj), hx.crews, e]
    exact List.getElem?_set_ne (Ne.symm hj)
  · exact (congrArg State.cores hrest :)
  · have er := congrArg (fun z : State => { z with
      crews := x.crews, now := x.now, turn := x.turn, cores := x.cores, past := x.past, pastScr := x.pastScr }) hrest
    exact er

end

/-! ## The refusal and the wait -/

section
variable {i : Instr} {s : State} {u : UnitId} {pf : Prefix} {c : Ctx} {a : Ctx → Nat} {n : Nat}
  (h : Ready i s u pf c) (hact : c.act ≠ [])
  (hheld : (c.start pf s).readsHeld c.asid (c.forkReads (a c) (c.start pf s)) = false) (herr : c.forkErrors (a c) (c.start pf s) = [])
  (hbad : c.outsideEntries (a c) (c.start pf s) = [])
include h hact hheld herr hbad

/-- FORK.try is refused. -/
theorem forkTry_refused {q : Nat} (he : ∀ s, exec i s = issue i (fun c => bodyFork (a c) n (some q) c) s)
    (hg : ¬ c.grants (some q) (c.forkRead (a c) (c.start pf s))
      (c.create n (c.entryPcs (a c) (c.forkRead (a c) (c.start pf s))) (c.forkRead (a c) (c.start pf s))) = true) :
    ∃ t, exec i s = .next t ∧ Only (c.forkRead (a c) (c.start pf s)) t u.crew (fun p f => if p ∈ c.act then f.setPred q false else f)
      ∧ GoesOn t c := by
  obtain ⟨rfl, -, -, -⟩ := ctx_spec h.2.1
  obtain ⟨k0, hm, -, hk0⟩ := start_marked h.2.1
  let x := c.forkRead (a c) (c.start pf s)
  have hxk : x.crews[c.u.crew]? = some k0 := by rw [(memorySide_forkRead c (a c) (c.start pf s)).crews]; exact hk0
  let kx := k0.modFibres c.act fun _ f => f.setPred q false
  have hfib : ∀ p, p < k0.fibres.length → kx.fibre p = if p ∈ c.act then (k0.fibre p).setPred q false else k0.fibre p := fun p hp =>
    Crew.fibre_modFibres _ _ _ _ hp
  have hbody : bodyFork (a c) n (some q) c (c.start pf s) = .next { x with crews := x.crews.set c.u.crew kx } := by
    rw [bodyFork_refused hact hheld herr hbad hg, Ctx.onActive, State.modFibres, modCrew_eq_set hxk]
  obtain ⟨t, ht, -, hpc, -, honly⟩ := completes_at he h hxk (kx := kx) rfl (by simp [kx]) hbody
  refine ⟨t, ht, honly _ fun p hp => by rw [hfib p hp], fun p hp => ?_⟩
  have hpl : p < k0.fibres.length := hm.2.1 ▸ ctx_all_lt h.2.1 hp
  obtain ⟨w, ps, di, dc, ia, em⟩ := hm.2.2 p
  have hsame : (kx.fibre p).pc = (c.fibre p).pc ∧ (kx.fibre p).rep = (c.fibre p).rep := by
    rw [hfib p hpl, em]
    split
    · exact ⟨Fibre.setPred_pc .., Fibre.setPred_rep ..⟩
    · exact ⟨rfl, rfl⟩
  rw [hpc p hp hpl]
  simp only [nextPcOf, hsame]

/-- FORK waits in the core's queue. -/
theorem fork_waits (he : ∀ s, exec i s = issue i (fun c => bodyFork (a c) n none c) s)
    (hg : ¬ c.grants none (c.forkRead (a c) (c.start pf s))
      (c.create n (c.entryPcs (a c) (c.forkRead (a c) (c.start pf s))) (c.forkRead (a c) (c.start pf s))) = true) :
    ∃ t, exec i s = .next t ∧ Only { c.forkRead (a c) (c.start pf s) with cores := t.cores } t u.crew (fun _ f => f) ∧ WaitsFor t c .blocks
      ∧ ∃ r ∈ (t.coreAt c.core).requests, c.owns r = true := by
  obtain ⟨rfl, -, -, -⟩ := ctx_spec h.2.1
  obtain ⟨k0, hm, -, hk0⟩ := start_marked h.2.1
  let x := c.forkRead (a c) (c.start pf s)
  have hxk : x.crews[c.u.crew]? = some k0 := by rw [(memorySide_forkRead c (a c) (c.start pf s)).crews]; exact hk0
  obtain ⟨mine, hmine, hbody⟩ : ∃ mine, c.owns mine = true ∧ bodyFork (a c) n none c (c.start pf s)
      = .stay ((x.modCore c.core fun k => { k with requests := c.asking mine k.requests }).modFibres c.u.crew c.all
          fun _ f => { f with wait := .blocks }) := by
    rw [bodyFork_waits hact hheld herr hbad hg]
    exact ⟨_, owns_of_members h.2.1 rfl rfl, rfl⟩
  let w : CoreSt := { x.coreAt c.core with requests := c.asking mine (x.coreAt c.core).requests }
  let x' := x.modCore c.core fun k => { k with requests := c.asking mine k.requests }
  let kx := k0.modFibres c.all fun _ f => { f with wait := .blocks }
  have hfib : ∀ p, p < k0.fibres.length → kx.fibre p = if p ∈ c.all then { k0.fibre p with wait := .blocks } else k0.fibre p := fun p hp =>
    Crew.fibre_modFibres _ _ _ _ hp
  have hstate : (x.modCore c.core fun k => { k with requests := c.asking mine k.requests }).modFibres c.u.crew c.all
      (fun _ f => { f with wait := .blocks }) = { x' with crews := x'.crews.set c.u.crew kx } := modCrew_eq_set (s := x') hxk _
  obtain ⟨t, ht, hcores, hwait, honly⟩ := stays_at he h (x := x') hxk (kx := kx) rfl (by simp [kx]) (hbody.trans (congrArg Eff.stay hstate))
  refine ⟨t, ht, ?_, fun p hp => ?_, mine, ?_, hmine⟩
  · rw [hcores]
    refine honly _ fun p hp => ?_
    rw [hfib p hp]
    split <;> rfl
  · have hpl : p < k0.fibres.length := hm.2.1 ▸ ctx_all_lt h.2.1 hp
    obtain ⟨w, ps, di, dc, ia, em⟩ := hm.2.2 p
    obtain ⟨h1, h2⟩ := hwait p hpl
    rw [h1, h2, hfib p hpl, if_pos hp, em]
    exact ⟨rfl, rfl⟩
  · have hmem : mine ∈ w.requests := mem_asking ..
    have hne : w ≠ CoreSt.reset := fun hw => by rw [hw] at hmem; exact absurd hmem List.not_mem_nil
    have hat : t.coreAt c.core = w := by
      rw [State.coreAt, hcores]
      exact sget_sset_self hne _ _
    rw [hat]
    exact hmem

end

/-! ## The created fibres -/

/-- A created fibre's registers: its creator's v0 to v7, then zeros. -/
theorem regs_childOf {f : Fibre} {n : Nat} (hn : 0 < n) (hl : f.regs.length = 8 * f.size) (hs : 1 ≤ f.size) (pc : Nat) :
    (childOf f pc n).regs.length = 8 * n ∧ (∀ r, r < 8 → (childOf f pc n).reg r = f.reg r) ∧ ∀ r, 8 ≤ r → (childOf f pc n).reg r = Reg.zero := by
  have h8 : (f.regs.take 8).length = 8 := by rw [List.length_take]; omega
  have hz : (newRegs (n - 1)).length = 8 * (n - 1) := List.length_replicate
  refine ⟨?_, fun r hr => ?_, fun r hr => ?_⟩
  · show (f.regs.take 8 ++ newRegs (n - 1)).length = _
    rw [List.length_append, h8, hz]
    omega
  · show (f.regs.take 8 ++ newRegs (n - 1)).getD r Reg.zero = f.regs.getD r Reg.zero
    simp only [List.getD]
    rw [List.getElem?_append_left (by omega), List.getElem?_take_of_lt hr]
  · show (f.regs.take 8 ++ newRegs (n - 1)).getD r Reg.zero = _
    simp only [List.getD]
    rw [List.getElem?_append_right (by omega), newRegs, List.getElem?_replicate]
    split <;> rfl

theorem getElem?_kids {c : Ctx} {a n now : Nat} {x : State} {j p : Nat} {e : Entry} (hj : c.act[j]? = some p)
    (hentry : x.entry? c.asid (c.fibre (c.all.headD 0)).codeBase.toNat ((c.fibre p).val a).toNat = some e) :
    (c.kids n now (c.entryPcs a x))[j]? = some { childOf (c.fibre p) (if c.kind.isL then e.lpc else e.dpc) n with issuedAt := now } := by
  have hpc : (c.entryPcs a x)[j]? = some (if c.kind.isL then e.lpc else e.dpc) := by
    simp only [Ctx.entryPcs, List.getElem?_map, hj, Option.map_some, hentry]
  have hz : (c.act.zip (c.entryPcs a x))[j]? = some (p, if c.kind.isL then e.lpc else e.dpc) :=
    List.getElem?_zip_eq_some.2 ⟨hj, hpc⟩
  rw [Ctx.kids, List.getElem?_map, hz]
  rfl

/-- What a fibre's face tells of it. -/
theorem fields_of_face {f g : Fibre} (h : f.face = g.face) :
    (f.live = g.live ∧ f.bound = g.bound ∧ f.handler = g.handler ∧ f.priv = g.priv ∧ f.part = g.part ∧ f.gang = g.gang)
      ∧ (f.ident = g.ident ∧ f.home = g.home ∧ f.codeBase = g.codeBase ∧ f.size = g.size ∧ f.preds = g.preds ∧ f.regs = g.regs) := by
  have h1 := congrArg Fibre.live h
  have h2 := congrArg Fibre.bound h
  have h3 := congrArg Fibre.handler h
  have h4 := congrArg Fibre.priv h
  have h5 := congrArg Fibre.part h
  have h6 := congrArg Fibre.gang h
  have h7 := congrArg Fibre.ident h
  have h8 := congrArg Fibre.home h
  have h9 := congrArg Fibre.codeBase h
  have h10 := congrArg Fibre.size h
  have h11 := congrArg Fibre.preds h
  have h12 := congrArg Fibre.regs h
  exact ⟨⟨h1, h2, h3, h4, h5, h6⟩, h7, h8, h9, h10, h11, h12⟩

/-- A crew's fibre that shows a created one. -/
theorem fibre_of_kid {c : Ctx} {kids : List Fibre} {k ka : Crew} (hf : c.Forked kids ka) {j p now pc n : Nat} (hn : 0 < n)
    (hl : (c.fibre p).regs.length = 8 * (c.fibre p).size) (hs : 1 ≤ (c.fibre p).size)
    (hj : kids[j]? = some { childOf (c.fibre p) pc n with issuedAt := now })
    (hk : (k.fibre (c.crew.fibres.length + j)).face = (ka.fibre (c.crew.fibres.length + j)).face
      ∧ (k.fibre (c.crew.fibres.length + j)).pc = (ka.fibre (c.crew.fibres.length + j)).pc) :
    let h := k.fibre (c.crew.fibres.length + j)
    h.live = true ∧ h.bound = false ∧ h.handler = false ∧ h.priv = (c.fibre p).priv ∧ h.part = (c.fibre p).part
      ∧ h.gang = (c.fibre p).gang ∧ h.ident = (c.fibre p).ident ∧ h.home = c.lane p ∧ h.codeBase = (c.fibre p).codeBase
      ∧ h.pc = BitVec.ofNat 32 pc ∧ h.size = n ∧ h.preds = 0
      ∧ h.regs.length = 8 * n ∧ (∀ r, r < 8 → h.reg r = (c.fibre p).reg r) ∧ ∀ r, 8 ≤ r → h.reg r = regOf 0 false := by
  intro h
  obtain ⟨b, w, d, cs, e⟩ := hf.kid j _ hj
  obtain ⟨hface, hpc⟩ := hk
  rw [e] at hface hpc
  obtain ⟨⟨h1, h2, h3, h4, h5, h6⟩, h7, h8, h9, h10, h11, h12⟩ := fields_of_face hface
  have hregs : h.regs = (childOf (c.fibre p) pc n).regs := h12
  have hreg : ∀ r, h.reg r = (childOf (c.fibre p) pc n).reg r := fun r => by rw [Fibre.reg, hregs]; rfl
  obtain ⟨r1, r2, r3⟩ := regs_childOf hn hl hs pc
  exact ⟨h1, h2, h3, h4, h5, h6, h7, h8, h9, hpc, h10, h11, hregs ▸ r1, fun r hr => (hreg r).trans (r2 r hr),
    fun r hr => (hreg r).trans (r3 r hr)⟩

/-- The state in which an effect begins has the bytes of the state before. -/
theorem byte_start (c : Ctx) (pf : Prefix) (s : State) (b : Nat) : (c.start pf s).byte b = s.byte b := by
  unfold State.byte State.masked State.blankAt
  rw [Ctx.start_mem, Ctx.start_rel]

theorem calm_start {s : State} (c : Ctx) (pf : Prefix) (h : s.Calm) : (c.start pf s).Calm :=
  ⟨canonical_of_mem (Ctx.start_mem ..) h.canonical, (Ctx.start_partials ..).trans h.partials, (Ctx.start_rel c pf s).symm ▸ h.poison,
    (Ctx.start_rel c pf s).symm ▸ h.correctable⟩

end Sys2Proof.Machine
end

section
open Sys2Proof Sys2Proof.Machine

/-- Settles O25: the fault, what the reads leave, the creation, the refusal and the wait, each by the case that the effect takes. -/
theorem forksCreateLooseFibres : Obligations.ForksCreateLooseFibres := by
  unfold Obligations.ForksCreateLooseFibres
  intro i a n pr hi s u pf c e h hact hn base begun reads x hheld herr bad
  have he : ∀ s, exec i s = issue i (fun c => bodyFork (a c) n pr c) s := by
    rcases hi with ⟨r, m, rfl, rfl, rfl, rfl⟩ | ⟨r, m, rfl, rfl, rfl, rfl⟩ | ⟨q, r, m, rfl, rfl, rfl, rfl⟩ | ⟨q, r, m, rfl, rfl, rfl, rfl⟩ <;>
      exact fun _ => rfl
  clear hi
  obtain ⟨rfl, -, -, -⟩ := ctx_spec h.2.1
  refine ⟨fun hb => fork_raises he h hact hheld herr hb, fun hcan hpart hpoi hcor b hb => ?_, ?_⟩
  · exact (byte_peekedAll c.asid b reads (calm_start c pf ⟨hcan.1, hpart, hpoi, hcor⟩) hb).trans (byte_start c pf s b)
  · intro hents hmir room first kept
    have hnone : c.outsideEntries (a c) begun = [] := List.filter_eq_nil_iff.2 fun p hp hle =>
      absurd (of_decide_eq_true hle) (Nat.not_le.2 (hents p hp).1)
    have hfirst : first ↔ c.isNext pr x := by cases pr <;> exact Iff.rfl
    have hgrants : c.grants pr x (c.create n (c.entryPcs (a c) x) x) = true ↔ room ∧ first := by
      rw [grants_iff, coreFits_create (length_entryPcs ..), hfirst]
      exact Iff.rfl
    refine ⟨fun hrf => ?_, fun hrf => ?_⟩
    · obtain ⟨t, k, ka, ht, hk, hgo, hka, hlen, hown, hkid, hne, hcores, hrest⟩ :=
        fork_creates he h hact hheld herr hnone hmir (hgrants.2 hrf)
      have hkids : (c.kids n s.now (c.entryPcs (a c) x)).length = c.act.length := length_kids c n s.now (length_entryPcs ..)
      have hkal : ka.fibres.length = c.crew.fibres.length + c.act.length := hkids ▸ hka.length
      refine ⟨t, k, ht, hk, hgo, hlen.trans hkal, fun p hp => ?_, fun j p hj => ?_, hne, hcores, hrest⟩
      · rw [hown p hp]
        cases pr with
        | none => exact congrArg Fibre.face (ite_self _)
        | some q => rfl
      · obtain ⟨-, hentry, hl, hs⟩ := hents p (List.mem_of_getElem? hj)
        have hjl : j < c.act.length := (List.getElem?_eq_some_iff.1 hj).1
        exact fibre_of_kid hka hn hl hs (getElem?_kids hj hentry) (hkid _ (Nat.le_add_right ..) (by omega))
    · have hg : ¬ c.grants pr x (c.create n (c.entryPcs (a c) x) x) = true := fun hg => hrf (hgrants.1 hg)
      cases pr with
      | none => exact fork_waits h hact hheld herr hnone he hg
      | some q => exact forkTry_refused h hact hheld herr hnone he hg

end

section
/-!
Scheduling events (R28, R35, R36, R41, R185, R276).
-/
namespace Sys2Proof.Machine

/-! ## A step that changes one crew's fibres -/

/-- A crew's fibres changed in their marks of progress alone: nothing else of the state is. -/
theorem only_done {s x : State} {c : Nat} {k k' : Crew} (hk : s.crews[c]? = some k) (hx : x = { s with crews := s.crews.set c k' })
    (h : k.SameFace k') : Only s x.done c (fun _ f => f) ∧ ∀ p, x.done.fibreAt c p = k'.fibre p := by
  subst hx
  obtain ⟨h1, h2, h3⟩ := h
  have hlt : c < s.crews.length := (List.getElem?_eq_some_iff.1 hk).1
  have ht : ({ s with crews := s.crews.set c k' } : State).done.crews[c]? = some k' := List.getElem?_set_self hlt
  refine ⟨only_of_crew hk rfl rfl rfl (by simp [State.done]) (fun j hj => ?_) ht h1 h2 fun p hp => (h3 p hp).1, fun p => fibreAt_of_crew ht⟩
  exact List.getElem?_set_ne (Ne.symm hj)

/-- Fibres at the named places changed in their marks of progress, as a move ends. -/
theorem only_modFibres {s : State} {c : Nat} {k : Crew} (hk : s.crews[c]? = some k) (is : List Nat) (g : Fibre → Fibre)
    (hg : ∀ f, (g f).face = f.face) : Only s (s.modFibres c is fun _ f => g f).done c (fun _ f => f)
      ∧ ∀ p ∈ is, p < k.fibres.length → (s.modFibres c is fun _ f => g f).done.fibreAt c p = g (k.fibre p) := by
  have hlt : c < s.crews.length := (List.getElem?_eq_some_iff.1 hk).1
  have hx : s.modFibres c is (fun _ f => g f) = { s with crews := s.crews.set c (k.modFibres is fun _ f => g f) } := modCrew_eq_set hk _
  have ht : (s.modFibres c is fun _ f => g f).done.crews[c]? = some (k.modFibres is fun _ f => g f) := crews_modify hk _
  refine ⟨only_of_crew hk rfl rfl rfl (by simp [State.done, State.modFibres]) (fun j hj => crews_modify_ne s hj _) ht rfl (by simp)
    fun p hp => ?_, fun p hp hpl => ?_⟩
  · rw [Crew.fibre_modFibres _ _ _ _ hp]
    split
    · exact hg _
    · rfl
  · rw [fibreAt_of_crew ht, Crew.fibre_modFibres _ _ _ _ hpl, if_pos hp]

/-! ## CLAUSE_ENTRY (R41) -/

theorem hdrDove_of_clear {h : Word} (hb : h.getLsbD 12 = false) : hdrDove h = false := by
  have hn : ¬ h.toNat / 2 ^ 12 % 2 = 1 := by
    rw [BitVec.getLsbD, Nat.testBit_eq_decide_div_mod_eq] at hb
    exact of_decide_eq_false hb
  unfold hdrDove fld
  rw [beq_eq_false_iff_ne]
  intro he
  have := congrArg BitVec.toNat he
  rw [BitVec.toNat_ofNat] at this
  exact hn this

/-- A header without DOVE is no dovetail point, and is read as one by no reads. -/
theorem point_of_clear {h : Word} (hb : h.getLsbD 12 = false) (s : State) (asid base : Nat) (hdr : Word) :
    s.pointHdr asid base hdr h = h ∧ s.pointReads asid base h = [] := by
  have hd := hdrDove_of_clear hb
  unfold State.pointHdr State.pointReads
  simp [hd]

section
variable {a : EvArg} {s s1 : State} {c : Ctx} {h : Word} (hc : s.ctx? a.unit Prefix.plain = some c) (hkind : c.kind.isL = false)
  (hclause : (c.fibre (c.all.headD 0)).clause = []) (hpc : (c.fibre (c.all.headD 0)).pc = (c.fibre (c.all.headD 0)).hdr)
include hc hkind hclause hpc

theorem evClauseEntry_enters : evClauseEntry a s = c.enterClause s := by
  unfold evClauseEntry
  rw [hc]
  dsimp only
  rw [hclause, if_neg (by simp [hkind]), if_pos hpc]

variable (hwait : c.fetchWaits (c.fibre (c.all.headD 0)).hdr 1 s = false) (hcode : c.code (c.fibre (c.all.headD 0)).hdr 1 s = (s1, .ok [h]))
include hwait hcode

theorem evClauseEntry_bad (hbad : headerOk h = false) :
    evClauseEntry a s = c.atFetch 0x03 0 0 h [] (s1.modFibres a.unit.crew c.all fun _ f => { f with hdrWord := h }) := by
  obtain ⟨hu, -, -, -⟩ := ctx_spec hc
  rw [evClauseEntry_enters hc hkind hclause hpc, ← hu]
  unfold Ctx.enterClause
  simp only [hwait, hcode, Bool.false_eq_true, if_false]
  exact if_pos (by simp [hbad])

theorem evClauseEntry_latches {ws : List Word} {s2 : State} (hok : headerOk h = true) (hdove : h.getLsbD 12 = false)
    (hwait' : c.fetchWaits ((c.fibre (c.all.headD 0)).hdr + 4) (hdrCount h) s1 = false)
    (hcode' : c.code ((c.fibre (c.all.headD 0)).hdr + 4) (hdrCount h) s1 = (s2, .ok ws)) (hcl : clauseOk h ws = true) :
    evClauseEntry a s = c.latch h ws ((c.fibre (c.all.headD 0)).hdr + 4) s2 := by
  rw [evClauseEntry_enters hc hkind hclause hpc]
  unfold Ctx.enterClause
  obtain ⟨hpoint, hreads⟩ := point_of_clear hdove s2 c.asid (c.fibre (c.all.headD 0)).codeBase.toNat (c.fibre (c.all.headD 0)).hdr
  have hheld : c.readsHeld [] s2 = false := rfl
  have herr : s2.readsError c.asid [] = none := by unfold State.readsError; split <;> rfl
  simp only [hwait, hcode, Bool.false_eq_true, if_false, List.headD_cons, hok, hwait', hcode', hpoint, hreads, hcl, hheld, herr, not_true_eq_false,
    hdrDove_of_clear hdove, false_and]
  rfl

end

/-- What latching leaves of the unit's crew. -/
theorem latch_done {s : State} {u : UnitId} {pf : Prefix} {c : Ctx} (hc : s.ctx? u pf = some c) {s2 : State} (hs2 : s2.crews = s.crews)
    (h : Word) (ws : List Word) (pc : Word) : Only s2 (c.latch h ws pc s2).done u.crew (fun _ f => f)
      ∧ ∀ p ∈ c.all, ((c.latch h ws pc s2).done.fibreAt u.crew p).clause = ws ∧ ((c.latch h ws pc s2).done.fibreAt u.crew p).hdrWord = h
        ∧ ((c.latch h ws pc s2).done.fibreAt u.crew p).pc = pc := by
  obtain ⟨rfl, hk, -, -⟩ := ctx_spec hc
  obtain ⟨ho, hf⟩ := only_modFibres (hs2 ▸ hk) c.all (fun f => { f with hdrWord := h, clause := ws, pc := pc, wait := .none }) fun _ => rfl
  refine ⟨ho, fun p hp => ?_⟩
  have e : (c.latch h ws pc s2).done.fibreAt c.u.crew p = _ := hf p hp (ctx_all_lt hc hp)
  rw [e]
  exact ⟨rfl, rfl, rfl⟩

/-! ## TOKEN_WAIT_RESUME (R185) -/

/-- Every token of a mask is complete. -/
theorem complete_iff (t : Tokens) (m : BitVec 8) : t.complete m = true ↔ ∀ j, j < 8 → m.getLsbD j = true → t.counts.getD j 0 = 0 := by
  simp only [Tokens.complete, List.all_eq_true, List.mem_range, Bool.or_eq_true, Bool.not_eq_true', beq_iff_eq]
  exact forall₂_congr fun j _ => ⟨fun h hm => h.resolve_left (by simp [hm]), fun h => (Bool.eq_false_or_eq_true _).symm.imp id h⟩

theorem unitHas_iff {s : State} {u : UnitId} {k : Crew} (hk : s.crews[u.crew]? = some k) (p : Crew → UnitKind → Bool) :
    s.unitHas p u = true ↔ k.members u.kind ≠ [] ∧ p k u.kind = true := by
  unfold State.unitHas
  simp [hk]

theorem evTokenWaitResume_resumes {a : EvArg} {s : State} {k : Crew} {m : BitVec 8} (hk : s.crews[a.unit.crew]? = some k)
    (hm : k.members a.unit.kind ≠ []) (hw : (k.lead a.unit.kind).wait = .tokens m)
    (hdone : ∀ j, j < 8 → m.getLsbD j = true → (k.tokens a.unit.kind).counts.getD j 0 = 0) :
    evTokenWaitResume a s = s.modFibres a.unit.crew (k.members a.unit.kind) fun _ f => { f with wait := .none } := by
  have hhas : s.unitHas Crew.tokensDone a.unit = true := by
    rw [unitHas_iff hk]
    refine ⟨hm, ?_⟩
    unfold Crew.tokensDone
    rw [hw]
    exact (complete_iff ..).2 hdone
  unfold evTokenWaitResume
  rw [if_pos hhas, State.modFibres, modCrew_eq_set hk, modCrew_eq_set hk]

/-! ## REGISTER_GRANT (R35) -/

/-- A fibre that waits on nothing waits on nothing when the sub-gangs are formed anew. -/
theorem wait_regroup (k : Crew) (g p : Nat) (h : (k.fibre p).wait = .none) : ((k.regroup g).fibre p).wait = .none := by
  simp only [Crew.regroup, Crew.fibre, List.getD, List.getElem?_map] at h ⊢
  cases hk : k.fibres[p]? with
  | none => rfl
  | some f =>
    rw [hk] at h
    simp only [Option.map_some, Option.getD_some] at h ⊢
    split
    · split
      · rfl
      · exact h
    · exact h

theorem wait_regroupAll (k : Crew) (p : Nat) (h : (k.fibre p).wait = .none) : (k.regroupAll.fibre p).wait = .none := by
  have hfold : ∀ (gs : List Nat) (k : Crew), (k.fibre p).wait = .none → ((gs.foldl Crew.regroup k).fibre p).wait = .none := by
    intro gs
    induction gs with
    | nil => exact fun _ h => h
    | cons g gs ih => exact fun k h => ih _ (wait_regroup k g p h)
  exact hfold _ k h

theorem evRegisterGrant_grants {a : EvArg} {s : State} {r : Request} {rs : List Request} (hr : s.requestsOn a.n = r :: rs)
    (hw : s.waitersOf r ≠ []) (hh : s.handlerWaits a.n = false) (hf : s.requestFits a.n r = true) :
    evRegisterGrant a s = s.modCrew r.crew fun k => (k.modFibres (s.waitersOf r) fun _ f => { f with wait := .none }).regroupAll := by
  have hcan : s.canGrant a.n = true := by
    unfold State.canGrant
    simp [hr, hw, hh, hf]
  unfold evRegisterGrant
  rw [hr]
  exact if_pos hcan

/-- The waiters of a request are live fibres of its crew. -/
theorem waiters_live {s : State} {r : Request} (hw : s.waitersOf r ≠ []) :
    ∃ k, s.crews[r.crew]? = some k ∧ ∀ p ∈ s.waitersOf r, p < k.fibres.length := by
  unfold State.waitersOf at hw ⊢
  cases hk : s.crews[r.crew]? with
  | none => rw [hk] at hw; exact absurd rfl hw
  | some k =>
    refine ⟨k, rfl, fun p hp => ?_⟩
    have hlive := (List.mem_filter.1 hp).2
    by_contra hge
    rw [Crew.fibre_of_length_le (by omega)] at hlive
    simp [Fibre.empty] at hlive

/-! ## Bins (R28) -/

theorem evBinAgeExpiry_ages {a : EvArg} {s : State} {k : Crew} {b : Bin} (hk : s.crews[a.n]? = some k) (hb : k.bins[a.m]? = some b)
    (hi : b.issued = false) (ha : b.aged = false) (hm : k.members (.bin a.m) ≠ []) :
    evBinAgeExpiry a s = if 256 ≤ cyclesBetween k.core b.changed s.now then
      s.modCrew a.n fun k => { k with bins := k.bins.modify a.m fun b => { b with aged := true } } else s := by
  have hidle : k.idleBins.contains a.m = true := by
    obtain ⟨hlt, hget⟩ := List.getElem?_eq_some_iff.1 hb
    simp [Crew.idleBins, hlt, hm, hget, hi]
  have hstale : s.binStale a.n a.m = decide (256 ≤ cyclesBetween k.core b.changed s.now) := by
    unfold State.binStale
    simp only [hk, hb, hi, ha, hidle, Bool.not_false, Bool.true_and]
  unfold evBinAgeExpiry
  rw [hstale]
  by_cases h : 256 ≤ cyclesBetween k.core b.changed s.now <;> simp [h]

/-- A fold that keeps the better of two, by a transitive order in which `r v u` says that `u` is as good as `v`, ends with one of the list
as good as every other. -/
theorem foldl_best {α : Type} {f : Option α → α → Option α} {r : α → α → Prop} (hrefl : ∀ u, r u u) (htrans : ∀ u v w, r u v → r v w → r u w)
    (hnone : ∀ u, f none u = some u) (hsome : ∀ v u, (f (some v) u = some u ∧ r v u) ∨ (f (some v) u = some v ∧ r u v)) :
    ∀ (l : List α) (v : α), ∃ u, l.foldl f (some v) = some u ∧ (u = v ∨ u ∈ l) ∧ r v u ∧ ∀ x ∈ l, r x u
  | [], v => ⟨v, rfl, .inl rfl, hrefl v, fun _ h => absurd h List.not_mem_nil⟩
  | y :: l, v => by
    rcases hsome v y with ⟨e, h⟩ | ⟨e, h⟩
    · obtain ⟨u, hu, hmem, hyu, hall⟩ := foldl_best hrefl htrans hnone hsome l y
      refine ⟨u, by rw [List.foldl_cons, e, hu], ?_, htrans _ _ _ h hyu, fun x hx => ?_⟩
      · rcases hmem with rfl | hm
        · exact .inr List.mem_cons_self
        · exact .inr (List.mem_cons_of_mem _ hm)
      · rcases List.mem_cons.1 hx with rfl | hx
        · exact hyu
        · exact hall x hx
    · obtain ⟨u, hu, hmem, hvu, hall⟩ := foldl_best hrefl htrans hnone hsome l v
      refine ⟨u, by rw [List.foldl_cons, e, hu], hmem.imp id (List.mem_cons_of_mem _), hvu, fun x hx => ?_⟩
      rcases List.mem_cons.1 hx with rfl | hx
      · exact htrans _ _ _ h hvu
      · exact hall x hx

theorem foldl_best_none {α : Type} {f : Option α → α → Option α} {r : α → α → Prop} (hrefl : ∀ u, r u u) (htrans : ∀ u v w, r u v → r v w → r u w)
    (hnone : ∀ u, f none u = some u) (hsome : ∀ v u, (f (some v) u = some u ∧ r v u) ∨ (f (some v) u = some v ∧ r u v)) {l : List α} (hl : l ≠ []) :
    ∃ u ∈ l, l.foldl f none = some u ∧ ∀ x ∈ l, r x u := by
  obtain ⟨v, l, rfl⟩ := List.exists_cons_of_ne_nil hl
  obtain ⟨u, hu, hmem, hvu, hall⟩ := foldl_best hrefl htrans hnone hsome l v
  refine ⟨u, ?_, by rw [List.foldl_cons, hnone, hu], fun x hx => ?_⟩
  · rcases hmem with rfl | hm
    · exact List.mem_cons_self
    · exact List.mem_cons_of_mem _ hm
  · rcases List.mem_cons.1 hx with rfl | hx
    · exact hvu
    · exact hall x hx

/-- A bin of a core may issue: it is aged, the core is idle, or the bin is full. -/
def State.binEligible (s : State) (core : Nat) (x : Nat × Nat × Bin) : Bool :=
  x.2.2.aged || s.coreIdle core || (match s.crews[x.1]? with
    | some k => decide (32 ≤ (k.members (.bin x.2.1)).length)
    | none => false)

theorem binEligible_iff (s : State) (core : Nat) (x : Nat × Nat × Bin) : s.binEligible core x = true ↔
    x.2.2.aged = true ∨ s.coreIdle core = true ∨ ∃ k, s.crews[x.1]? = some k ∧ 32 ≤ (k.members (.bin x.2.1)).length := by
  unfold State.binEligible
  rw [Bool.or_eq_true, Bool.or_eq_true, or_assoc]
  refine or_congr Iff.rfl (or_congr Iff.rfl ?_)
  cases s.crews[x.1]? <;> simp

/-- The oldest eligible bin is the next. -/
theorem nextBin_oldest {s : State} {core : Nat} {x : Nat × Nat × Bin} (hx : x ∈ s.binsOn core) (he : s.binEligible core x = true)
    (hold : ∀ y ∈ s.binsOn core, s.binEligible core y = true → y ≠ x → x.2.2.born < y.2.2.born) : s.nextBin core = some x := by
  have hmem : x ∈ (s.binsOn core).filter (s.binEligible core) := List.mem_filter.2 ⟨hx, he⟩
  obtain ⟨y, hy, hfold, hbest⟩ := foldl_best_none (f := fun best x => match best with
      | none => some x
      | some y => if x.2.2.born < y.2.2.born then some x else some y) (r := fun v u : Nat × Nat × Bin => u.2.2.born ≤ v.2.2.born)
    (fun _ => le_rfl) (fun _ _ _ h h' => le_trans h' h) (fun _ => rfl) (fun v u => by
      by_cases h : u.2.2.born < v.2.2.born
      · exact .inl ⟨if_pos h, h.le⟩
      · exact .inr ⟨if_neg h, not_lt.1 h⟩) (List.ne_nil_of_mem hmem)
  obtain ⟨hyb, hye⟩ := List.mem_filter.1 hy
  have hyx : y = x := by
    by_contra hne
    exact absurd (hbest x hmem) (not_le.2 (hold y hyb hye hne))
  exact hyx ▸ hfold

theorem evBinIssue_issues {a : EvArg} {s : State} {x : Nat × Nat × Bin} (h : s.nextBin a.n = some x) :
    evBinIssue a s = s.modCrew x.1 fun k => { k with
      bins := k.bins.modify x.2.1 fun b => { b with issued := true, tokens := { counts := List.replicate 8 0, deferred := [] } } } := by
  unfold evBinIssue
  rw [h]
  rfl

/-! ## GANG_SLOT_SWAP (R276) -/

theorem nextForSlot_none {s : State} {core : Nat} (h : s.pendingUnits core = []) : s.nextForSlot core = none := by
  unfold State.nextForSlot
  rw [h]
  rfl

/-- A freed slot goes to a pending unit that has waited through the most swaps. -/
theorem nextForSlot_some {s : State} {core : Nat} (h : s.pendingUnits core ≠ []) : ∃ u ∈ s.pendingUnits core, s.nextForSlot core = some u
    ∧ ∀ v ∈ s.pendingUnits core, (s.coreAt core).waitedSwaps v ≤ (s.coreAt core).waitedSwaps u :=
  foldl_best_none (f := fun best u => match best with
      | none => some u
      | some v =>
        if (s.coreAt core).waitedSwaps v < (s.coreAt core).waitedSwaps u
          ∨ ((s.coreAt core).waitedSwaps u = (s.coreAt core).waitedSwaps v ∧ unitRank u < unitRank v) then some u
        else some v) (r := fun v u => (s.coreAt core).waitedSwaps v ≤ (s.coreAt core).waitedSwaps u)
    (fun _ => le_rfl) (fun _ _ _ => le_trans) (fun _ => rfl) (fun v u => by
      by_cases hc : (s.coreAt core).waitedSwaps v < (s.coreAt core).waitedSwaps u
          ∨ ((s.coreAt core).waitedSwaps u = (s.coreAt core).waitedSwaps v ∧ unitRank u < unitRank v)
      · exact .inl ⟨if_pos hc, hc.elim le_of_lt fun h => h.1.ge⟩
      · exact .inr ⟨if_neg hc, not_lt.1 fun h => hc (.inl h)⟩) h

/-- The units that keep their slots at a swap. -/
def State.stayAt (s : State) (a : EvArg) : List UnitId :=
  if a.m = 1 ∧ s.overdueOn a.n = true then (s.staying a.n).filter fun u => some u != s.givesWay (s.staying a.n) else s.staying a.n

theorem overdueOn_iff (s : State) (core : Nat) : s.overdueOn core = true ↔ (s.staying core).length = 8
    ∧ ((s.nextForSlot core).any fun u => (s.staying core).any (fun v => !s.unitHas Crew.foremost v)
      || (s.staying core).all fun v => decide (s.issuedLast u < s.issuedLast v)) = true := by
  unfold State.overdueOn
  rw [Bool.and_eq_true, beq_iff_eq]

/-- The unit that a swap gives a slot to. -/
def State.slotNext (s : State) (a : EvArg) : Option UnitId := if (s.stayAt a).length < 8 then s.nextForSlot a.n else none

/-- A core after a swap. -/
def CoreSt.swapped (x : CoreSt) (active : List UnitId) (units : List UnitId) (one : Nat) : CoreSt :=
  { x with active := active, swaps := (units.filter fun u => !active.contains u).map fun u => (u, x.waitedSwaps u + one) }

theorem evGangSlotSwap_eq (a : EvArg) (s : State) : evGangSlotSwap a s =
    (s.modCore a.n fun x => x.swapped (s.stayAt a ++ (s.slotNext a).toList) (s.unitsOn a.n) (if (s.slotNext a).isSome then 1 else 0)).woken
      (s.slotNext a).toList := rfl

theorem waitedSwaps_swapped {x : CoreSt} {active units : List UnitId} {one : Nat} {u : UnitId} (hu : u ∈ units) (ha : u ∉ active) :
    (x.swapped active units one).waitedSwaps u = x.waitedSwaps u + one := by
  have hmem : u ∈ units.filter fun u => !active.contains u := List.mem_filter.2 ⟨hu, by simpa using ha⟩
  have hfind : ∀ us : List UnitId, u ∈ us → (us.map fun u => (u, x.waitedSwaps u + one)).find? (fun y => y.1 == u) = some (u, x.waitedSwaps u + one) := by
    intro us
    induction us with
    | nil => exact fun h => absurd h List.not_mem_nil
    | cons v us ih =>
      intro h
      rw [List.map_cons, List.find?_cons]
      by_cases hv : v = u
      · subst hv
        simp
      · have hvu : (v == u) = false := by simpa using hv
        rw [hvu]
        exact ih ((List.mem_cons.1 h).resolve_left (Ne.symm hv))
  unfold CoreSt.waitedSwaps
  show (((((units.filter fun u => !active.contains u).map fun u => (u, x.waitedSwaps u + one)).find? fun y => y.1 == u).map Prod.snd).getD 0) = _
  rw [hfind _ hmem]
  rfl

/-- A core changed leaves the other cores. -/
theorem coreAt_modCore_ne {s : State} (h : s.Canonical) {n m : Nat} (hm : m ≠ n) (f : CoreSt → CoreSt) :
    (s.modCore n f).coreAt m = s.coreAt m := by
  obtain ⟨-, hc, -⟩ := h
  have e := sget_sset CoreSt.reset n (f (s.coreAt n)) m hc
  rwa [if_neg hm] at e

/-- Units woken: nothing but what their fibres wait for changes. -/
theorem woken_keeps (s : State) (us : List UnitId) : (s.woken us).crews.length = s.crews.length
    ∧ { s.woken us with crews := s.crews } = s
    ∧ ∀ (c : Nat) (k k' : Crew), s.crews[c]? = some k → (s.woken us).crews[c]? = some k' → { k' with fibres := k.fibres } = k
      ∧ k'.fibres.length = k.fibres.length ∧ ∀ p, (k'.fibre p).face = (k.fibre p).face := by
  induction us generalizing s with
  | nil =>
    refine ⟨rfl, rfl, fun c k k' hk hk' => ?_⟩
    obtain rfl := Option.some.inj (hk.symm.trans hk')
    exact ⟨rfl, rfl, fun _ => rfl⟩
  | cons u us ih =>
    let t := s.modCrew u.crew fun k => k.modFibres (k.members u.kind) fun _ f => { f with wait := .none }
    obtain ⟨h1, h2, h3⟩ := ih t
    have hone : ∀ k : Crew, { (k.modFibres (k.members u.kind) fun _ f => { f with wait := .none }) with fibres := k.fibres } = k
        ∧ ∀ p, ((k.modFibres (k.members u.kind) fun _ f => { f with wait := .none }).fibre p).face = (k.fibre p).face := by
      refine fun k => ⟨rfl, fun p => ?_⟩
      by_cases hp : p < k.fibres.length
      · rw [Crew.fibre_modFibres _ _ _ _ hp]
        split <;> rfl
      · rw [Crew.fibre_of_length_le (by simpa using hp), Crew.fibre_of_length_le (by omega)]
    refine ⟨h1.trans (by simp [t]), ?_, fun c k k' hk hk' => ?_⟩
    · have e := congrArg (fun x : State => { x with crews := s.crews }) h2
      exact e
    · by_cases hc : c = u.crew
      · subst hc
        obtain ⟨g1, g2, g3⟩ := h3 u.crew _ k' (crews_modify hk _) hk'
        have e := congrArg (fun x : Crew => { x with fibres := k.fibres }) g1
        exact ⟨Eq.trans e (hone k).1, g2.trans (by simp), fun p => (g3 p).trans ((hone k).2 p)⟩
      · exact h3 c k k' ((crews_modify_ne s hc _).trans hk) hk'

/-- A woken unit's fibres wait on nothing. -/
theorem wait_woken {s : State} {u : UnitId} {k : Crew} (hk : s.crews[u.crew]? = some k) {p : Nat} (hp : p ∈ k.members u.kind) :
    ((s.woken [u]).done.fibreAt u.crew p).wait = .none := by
  have ht : (s.woken [u]).crews[u.crew]? = some (k.modFibres (k.members u.kind) fun _ f => { f with wait := .none }) := crews_modify hk _
  have e := fibreAt_of_crew (p := p) ht
  rw [Crew.fibre_modFibres _ _ _ _ (members_lt hp), if_pos hp] at e
  exact congrArg Fibre.wait e

/-! ## REG_DEADLOCK (R36) -/

section
variable {a : EvArg} {s : State} {r : Request} {rs : List Request} {k : Crew} (hd : s.regDeadlocked a.n = true) (hr : s.requestsOn a.n = r :: rs)
  (hheld : ∀ c ∈ s.residents a.n, ∀ x, s.crews[c]? = some x → x.heldFault = none) (hk : s.crews[r.crew]? = some k) (hrec : s.recordHeld k = false)
include hd hr hheld hk hrec

theorem evRegDeadlock_eq : evRegDeadlock a s = if (s.residents a.n).length ≤ 1 then s.endLaunch k.desc.launch causeRegDeadlock
    else evPreemption { n := r.crew } ((s.recordDeadlock r).modCrew r.crew fun x => { x with reserve := s.blocksWith a.n r - s.blocksUsed a.n }) := by
  have hnone : (s.residents a.n).find? (fun c => ((s.crews[c]?).bind Crew.heldFault).isSome) = none := by
    rw [List.find?_eq_none]
    intro c hc
    cases hx : s.crews[c]? with
    | none => simp
    | some x => simp [hheld c hc x hx]
  unfold evRegDeadlock
  rw [if_neg (by simp [hd]), hnone, hr]
  dsimp only [List.head?_cons, Option.orElse, Option.map_some]
  rw [hk]
  dsimp only
  rw [if_neg (by simp [hrec])]

end

end Sys2Proof.Machine
end

section
open Sys2Proof Sys2Proof.Machine

/-- Settles O51: each event by what its move is where its turn has come. -/
theorem schedulingEvents : Obligations.SchedulingEvents := by
  unfold Obligations.SchedulingEvents
  refine ⟨fun a s c h s1 ht hc hkind hcl hpc hw hcode => ⟨fun hbad => ?_, fun ws s2 hok hdove hw' hcode' hclause => ?_⟩,
    fun a s k m ht hk hm hwait hdone => ?_, fun a s r rs ht hr hw hh hfits => ?_, fun a s k b ht hk hb hi ha hm => ?_, ?_, ?_, ?_⟩
  · rw [← evClauseEntry_bad hc hkind hcl hpc hw hcode hbad]
    exact onEvent_next evClauseEntry ht
  · have hs2 : s2.crews = s.crews := (memorySide_code hcode').crews.trans (memorySide_code hcode).crews
    obtain ⟨ho, hf⟩ := latch_done hc hs2 h ws ((c.fibre (c.all.headD 0)).hdr + 4)
    refine ⟨_, (onEvent_next evClauseEntry ht).trans ?_, ho, hf⟩
    rw [evClauseEntry_latches hc hkind hcl hpc hw hcode hok hdove hw' hcode' hclause]
  · obtain ⟨ho, hf⟩ := only_modFibres hk (k.members a.unit.kind) (fun f => { f with wait := .none }) fun _ => rfl
    refine ⟨_, (onEvent_next evTokenWaitResume ht).trans ?_, ho, fun p hp => ?_⟩
    · rw [evTokenWaitResume_resumes hk hm hwait hdone]
    · rw [hf p hp (members_lt hp)]
  · obtain ⟨k, hk, hlt⟩ := waiters_live hw
    let k1 := k.modFibres (s.waitersOf r) fun _ f => { f with wait := .none }
    have hwake : k.SameFace k1 := Crew.sameFace_modFibres k _ _ fun _ _ => ⟨rfl, rfl⟩
    have hsame : k.SameFace k1.regroupAll := hwake.trans (Crew.sameFace_regroupAll k1)
    obtain ⟨ho, hf⟩ := only_done hk (modCrew_eq_set hk fun k => (k.modFibres (s.waitersOf r) fun _ f => { f with wait := .none }).regroupAll) hsame
    refine ⟨_, (onEvent_next evRegisterGrant ht).trans ?_, ho, fun p hp => ?_⟩
    · rw [evRegisterGrant_grants hr hw hh hfits]
    · rw [hf p]
      refine wait_regroupAll k1 p ?_
      rw [Crew.fibre_modFibres _ _ _ _ (hlt p hp), if_pos hp]
  · rw [← evBinAgeExpiry_ages hk hb hi ha hm]
    exact onEvent_next evBinAgeExpiry ht
  · intro eligible a s x ht hx he hold
    have helig : ∀ y, s.binEligible a.n y = true ↔ eligible s a.n y := binEligible_iff s a.n
    have hnext := nextBin_oldest hx ((helig x).2 he) fun y hy hye => hold y hy ((helig y).1 hye)
    rw [← evBinIssue_issues hnext]
    exact onEvent_next evBinIssue ht
  · intro a s ht hcan kept waiting behind overdue gone stay
    have hstay : stay = s.stayAt a := if_congr (and_congr Iff.rfl (overdueOn_iff s a.n).symm) rfl rfl
    let x := (s.coreAt a.n).swapped (s.stayAt a ++ (s.slotNext a).toList) (s.unitsOn a.n) (if (s.slotNext a).isSome then 1 else 0)
    let s1 := s.modCore a.n fun _ => x
    let t := s1.woken (s.slotNext a).toList
    obtain ⟨hlen, hrest, hcrews⟩ := woken_keeps s1 (s.slotNext a).toList
    have hcores : t.cores = s1.cores := by
      have e := congrArg State.cores hrest
      exact e
    have hat : ∀ n, t.done.coreAt n = s1.coreAt n := fun n => congrArg (fun cs => sget CoreSt.reset cs n) hcores
    have hself : t.done.coreAt a.n = x := (hat a.n).trans (coreAt_modCore hcan a.n fun _ => x)
    refine ⟨t.done, (s.slotNext a).toList,
      (onEvent_next evGangSlotSwap ht).trans (congrArg (fun z : State => Host.Outcome.next z.done) (evGangSlotSwap_eq a s)), ?_, fun h => ?_, fun hlt hne => ?_, fun u hu hna => ?_, ?_,
      fun n hn => (hat n).trans (coreAt_modCore_ne hcan hn _), hlen, hcrews, ?_⟩
    · rw [hself, hstay]
      rfl
    · have hnone : s.slotNext a = none := by
        unfold State.slotNext
        rcases h with h | h
        · rw [if_neg (by rw [← hstay]; omega)]
        · rw [nextForSlot_none h, ite_self]
      rw [hnone]
      rfl
    · obtain ⟨u, hu, hnext, hbest⟩ := nextForSlot_some hne
      have hsome : s.slotNext a = some u := (if_pos (hstay ▸ hlt)).trans hnext
      refine ⟨u, hu, by rw [hsome]; rfl, hbest, fun k hk p hp => ?_⟩
      have e : t = s1.woken [u] := by rw [show t = s1.woken (s.slotNext a).toList from rfl, hsome]; rfl
      rw [e]
      exact wait_woken (s := s1) hk hp
    · have hw := waitedSwaps_swapped (x := s.coreAt a.n) (one := if (s.slotNext a).isSome then 1 else 0) hu (hstay ▸ hna)
      rw [hself]
      refine hw.trans ?_
      cases s.slotNext a <;> rfl
    · rw [hself]
      rfl
    · have e := congrArg (fun z : State => { z with cores := s.cores, now := s.now, turn := s.turn }) hrest
      exact e
  · intro a s r rs k ht hd hr hheld hk hrec
    have hstep : exec .regDeadlock s = .next (evRegDeadlock a s).done := onEvent_next evRegDeadlock ht
    rw [evRegDeadlock_eq hd hr hheld hk hrec] at hstep
    refine ⟨fun hres => hstep.trans ?_, fun hres => hstep.trans ?_⟩
    · rw [if_pos (by rw [hres]; exact le_rfl)]
      rfl
    · rw [if_neg (by omega)]

end

section
/-!
Reading back the fields of an encoded word (O48): a packed word holds the bits of its fields, which stand apart, so that each
of them, the major opcode and every gap read as they were put (R39, R46, R50, R57).
-/
namespace Sys2Proof

/-! ## Fields at their places -/

/-- A field's bits at their place in a word. -/
def placed {w : Nat} (v : BitVec w) (lo : Nat) : Word := v.setWidth 32 <<< lo

/-- The bits of a word that a field of width `w` takes. -/
abbrev span (w lo : Nat) : Word := placed (BitVec.allOnes w) lo

theorem ofNat_put {w : Nat} (v : BitVec w) (lo : Nat) : BitVec.ofNat 32 (put v lo) = placed v lo := by
  apply BitVec.eq_of_toNat_eq
  simp [put, placed, Nat.shiftLeft_eq]

theorem put_zero (w lo : Nat) : put (0#w) lo = 0 := Nat.zero_mul _

theorem placed_zero (w lo : Nat) : placed (0#w) lo = 0 := by simp [placed]

theorem getLsbD_placed {w : Nat} (v : BitVec w) (lo i : Nat) :
    (placed v lo).getLsbD i = (decide (i < 32) && decide (lo ≤ i) && v.getLsbD (i - lo)) := by
  rw [placed, BitVec.getLsbD_shiftLeft, BitVec.getLsbD_setWidth]
  by_cases hi : i < 32
  · rw [decide_eq_true (show i - lo < 32 by omega), Bool.true_and, ← decide_not, decide_eq_decide.mpr Nat.not_lt]
  · simp [hi]

theorem placed_and_span {w : Nat} (v : BitVec w) (lo : Nat) : placed v lo &&& span w lo = placed v lo := by
  rw [span, placed, placed, ← BitVec.shiftLeft_and_distrib, ← BitVec.setWidth_and, BitVec.and_allOnes]

theorem fld_eq_extractLsb' (w : Word) (lo len : Nat) : fld w lo len = w.extractLsb' lo len := by
  rw [fld, BitVec.extractLsb', Nat.shiftRight_eq_div_pow]

theorem fld_or (x y : Word) (lo len : Nat) : fld (x ||| y) lo len = fld x lo len ||| fld y lo len := by
  simp only [fld_eq_extractLsb', BitVec.extractLsb'_or]

theorem fld_ofNat (m : Nat) {lo len : Nat} (h : lo + len ≤ 32) : fld (BitVec.ofNat 32 m) lo len = BitVec.ofNat len (m / 2 ^ lo) := by
  apply BitVec.eq_of_toNat_eq
  obtain ⟨k, hk⟩ := Nat.exists_eq_add_of_le h
  simp only [fld, BitVec.toNat_ofNat]
  rw [hk, Nat.add_assoc, Nat.pow_add, Nat.mod_mul_right_div_self, Nat.pow_add, Nat.mod_mul_right_mod]

/-- A field reads 0 from a word that has none of its bits. -/
theorem fld_of_and_span {x : Word} {lo len : Nat} (h : x &&& span len lo = 0) : fld x lo len = 0 := by
  rw [fld_eq_extractLsb']
  apply BitVec.eq_of_getLsbD_eq
  intro i hi
  have hb := congrArg (BitVec.getLsbD · (lo + i)) h
  simp only [BitVec.getLsbD_and, getLsbD_placed, BitVec.getLsbD_allOnes, Nat.add_sub_cancel_left, hi, Nat.le_add_right] at hb
  rw [BitVec.getLsbD_extractLsb']
  by_cases h32 : lo + i < 32
  · simpa [hi, h32] using hb
  · simp [BitVec.getLsbD_of_ge x (lo + i) (by omega)]

theorem fld_placed_same {len : Nat} (v : BitVec len) {lo : Nat} (h : lo + len ≤ 32) : fld (placed v lo) lo len = v := by
  rw [fld_eq_extractLsb']
  apply BitVec.eq_of_getLsbD_eq
  intro i hi
  simp only [BitVec.getLsbD_extractLsb', getLsbD_placed, hi, Nat.le_add_right, Nat.add_sub_cancel_left, decide_true, Bool.true_and,
    show lo + i < 32 by omega]

theorem fld_placed_above {w : Nat} (v : BitVec w) {l lo len : Nat} (h : lo + len ≤ l) : fld (placed v l) lo len = 0 := by
  rw [fld_eq_extractLsb']
  apply BitVec.eq_of_getLsbD_eq
  intro i hi
  simp [getLsbD_placed, show ¬ l ≤ lo + i by omega]

theorem fld_placed_below {w : Nat} (v : BitVec w) {l lo len : Nat} (h : l + w ≤ lo) : fld (placed v l) lo len = 0 := by
  rw [fld_eq_extractLsb']
  apply BitVec.eq_of_getLsbD_eq
  intro i hi
  simp [getLsbD_placed, BitVec.getLsbD_of_ge v (lo + i - l) (by omega)]

/-! ## Words within others -/

theorem within_or {x occ : Word} (h : x &&& occ = x) (y : Word) : x &&& (occ ||| y) = x := by
  rw [BitVec.and_or_distrib_left, h]
  apply BitVec.eq_of_getLsbD_eq
  intro i _
  rw [BitVec.getLsbD_or, BitVec.getLsbD_and]
  cases x.getLsbD i <;> simp

theorem within_or_left (x y : Word) : x &&& (x ||| y) = x := within_or BitVec.and_self y

theorem within_or_right (x y : Word) : x &&& (y ||| x) = x := by rw [BitVec.or_comm]; exact within_or_left x y

/-- A word within another shares no bit with what the other shares none with. -/
theorem and_eq_zero_of_within {x occ y : Word} (hx : x &&& occ = x) (h : occ &&& y = 0) : x &&& y = 0 := by
  rw [← hx, BitVec.and_assoc, h]; exact BitVec.and_zero

/-- A field apart from `occ` shares no bit with what lies within `occ`. -/
theorem and_placed_eq_zero {x occ : Word} {w lo : Nat} (v : BitVec w) (hx : x &&& occ = x) (h : occ &&& span w lo = 0) :
    x &&& placed v lo = 0 := by
  refine and_eq_zero_of_within hx ?_
  rw [← placed_and_span v lo, BitVec.and_comm (placed v lo), ← BitVec.and_assoc, h]; exact BitVec.zero_and

theorem or_placed_within {x occ : Word} {w lo : Nat} (v : BitVec w) (hx : x &&& occ = x) :
    (x ||| placed v lo) &&& (occ ||| span w lo) = x ||| placed v lo := by
  have hv : placed v lo &&& (occ ||| span w lo) = placed v lo := by
    rw [BitVec.or_comm]; exact within_or (placed_and_span v lo) occ
  rw [BitVec.and_comm, BitVec.and_or_distrib_left, BitVec.and_comm, within_or hx, BitVec.and_comm, hv]

/-! ## Packed words -/

/-- Fields that stand apart from one another and from the bits `occ`. -/
inductive Apart : Word → List Nat → Prop where
  | nil {occ : Word} : Apart occ []
  | put {occ : Word} {w lo : Nat} {v : BitVec w} {fs : List Nat} : occ &&& span w lo = 0 → Apart (occ ||| span w lo) fs →
      Apart occ (put v lo :: fs)

/-- A word with the bits of more fields. -/
def joined (x : Word) (fs : List Nat) : Word := fs.foldl (fun x n => x ||| BitVec.ofNat 32 n) x

@[simp] theorem joined_nil (x : Word) : joined x [] = x := rfl
@[simp] theorem joined_cons (x : Word) (n : Nat) (fs : List Nat) : joined x (n :: fs) = joined (x ||| BitVec.ofNat 32 n) fs := rfl

theorem pack_cons (m n : Nat) (fs : List Nat) : pack m (n :: fs) = pack (m + n) fs := by rw [pack, List.foldl_cons, ← pack]

/-- A packed word holds the bits of its fields, which do not carry into one another. -/
theorem pack_eq_joined {occ : Word} {fs : List Nat} (h : Apart occ fs) {m : Nat} (hm : BitVec.ofNat 32 m &&& occ = BitVec.ofNat 32 m) :
    pack m fs = joined (BitVec.ofNat 32 m) fs := by
  induction h generalizing m with
  | nil => rfl
  | @put occ w lo v fs h0 _ ih =>
    have hs : BitVec.ofNat 32 (m + put v lo) = BitVec.ofNat 32 m ||| placed v lo := by
      rw [BitVec.ofNat_add, ofNat_put, BitVec.add_eq_or_of_and_eq_zero _ _ (and_placed_eq_zero v hm h0)]
    rw [pack_cons, joined_cons, ofNat_put, ← hs]
    exact ih (by rw [hs]; exact or_placed_within v hm)

/-- Fields that stand apart from the bits of a field do not change what it reads. -/
theorem fld_joined {occ : Word} {fs : List Nat} (h : Apart occ fs) {lo len : Nat} (ho : span len lo &&& occ = span len lo) (x : Word) :
    fld (joined x fs) lo len = fld x lo len := by
  induction h generalizing x with
  | nil => rfl
  | @put occ w l v fs h0 _ ih =>
    have hv : placed v l &&& span len lo = 0 := by rw [BitVec.and_comm]; exact and_placed_eq_zero v ho h0
    rw [joined_cons, ih (within_or ho _), fld_or, ofNat_put, fld_of_and_span hv]
    exact BitVec.or_zero

/-- The fields of a word stand apart from one another, from its fixed bits and from its major opcode. -/
abbrev Fits (m : Nat) (fs : List Nat) : Prop := Apart (BitVec.ofNat 32 m ||| span 7 25) fs

theorem Fits.pack_eq {m : Nat} {fs : List Nat} (h : Fits m fs) : pack m fs = joined (BitVec.ofNat 32 m) fs :=
  pack_eq_joined h (within_or_left _ _)

/-- The major opcode of a packed word is that of its fixed bits. -/
theorem Fits.major {m : Nat} {fs : List Nat} (h : Fits m fs) (hm : m < 2 ^ 32) : (fld (pack m fs) 25 7).toNat = m / 2 ^ 25 := by
  rw [h.pack_eq, fld_joined h (within_or_right _ _), fld_ofNat m (by decide), BitVec.toNat_ofNat]
  omega

/-- The first field of a packed word reads as it was put. -/
theorem fld_pack_head {m lo len : Nat} {v : BitVec len} {fs : List Nat} (hl : lo + len ≤ 32)
    (h0 : (BitVec.ofNat 32 m ||| span 7 25) &&& span len lo = 0)
    (h : Apart (BitVec.ofNat 32 m ||| span 7 25 ||| span len lo) fs) : fld (pack m (put v lo :: fs)) lo len = v := by
  have hz : BitVec.ofNat 32 m &&& span len lo = 0 := and_eq_zero_of_within (within_or_left _ _) h0
  rw [Fits.pack_eq (.put h0 h), joined_cons, fld_joined h (within_or_right _ _), fld_or, ofNat_put, fld_placed_same v hl,
    fld_of_and_span hz]
  exact BitVec.zero_or

end Sys2Proof
end

section
/-!
The parts of a `Prefix` in the words of an encoding (O48): the guard field of a base word, and the extension word (R46, R47, R51).
-/
namespace Sys2Proof

/-! ## What a well-formed `Prefix` has -/

/-- A form without a guard field has the plain guard. -/
theorem prefixFits_bare {pf : Prefix} {i : Instr} (h : prefixFits pf i = true) (hb : i.info.bare = true) :
    pf.guard = 0 ∧ pf.neg = false := by
  simp only [prefixFits, hb, Bool.and_eq_true, Bool.not_true, Bool.false_or, beq_iff_eq, Bool.not_eq_true'] at h
  exact h.1.2

theorem prefixFits_dvt {pf : Prefix} {k : BitVec 11} (h : prefixFits pf (.dvtL k) = true) : pf.wait = 0 := by
  simp only [prefixFits, Bool.and_eq_true, beq_iff_eq] at h
  exact h.2

/-- A D word has no WMASK and no LAND of its own, and guards with p0 to p7. -/
theorem prefixFits_d {pf : Prefix} {i : Instr} (h : prefixFits pf i = true) (ht : i.info.text = .d) :
    pf.wait = 0 ∧ pf.land = false ∧ pf.guard.toNat < 8 := by
  simp only [prefixFits, ht, Bool.and_eq_true, Bool.or_eq_true, Bool.not_eq_true', beq_iff_eq, decide_eq_true_eq, reduceCtorEq,
    false_or] at h
  obtain ⟨⟨⟨⟨hw, hl⟩, hg⟩, -⟩, -⟩ := h
  exact ⟨hw, hl, hg⟩

/-! ## The guard field of a base word (R51) -/

theorem ofBool_beq_one (v : Bool) : (BitVec.ofBool v == 1#1) = v := by cases v <;> rfl

/-- The guard field is its negation bit over three bits of predicate number. -/
theorem toNat_guard4 (q : Prefix) : (guard4 q).toNat = 8 * (BitVec.ofBool q.neg).toNat + q.guard.toNat % 8 := by
  have h : q.neg.toNat ≤ 1 := Bool.toNat_le q.neg
  simp only [guard4, BitVec.toNat_ofNat, BitVec.toNat_ofBool]
  omega

/-- The two parts of a guard field. -/
theorem fld_guard (w : Word) : (fld w 21 3).toNat = (fld w 21 4).toNat % 8 ∧ (fld w 24 1).toNat = (fld w 21 4).toNat / 8 := by
  simp only [fld, BitVec.toNat_ofNat]
  omega

/-- A word with a guard field has the `Prefix` that the field was made of. -/
theorem prefixD_of_guard {pf : Prefix} {w : Word} {n : Nat} (hm : (fld w 25 7).toNat = n) (hj : ¬ (n = 2 ∨ n = 3 ∨ n = 7))
    (hg : fld w 21 4 = guard4 pf) (hf : pf.wait = 0 ∧ pf.land = false ∧ pf.guard.toNat < 8) : prefixD w = pf := by
  obtain ⟨wait, guard, neg, land⟩ := pf
  obtain ⟨rfl, rfl, (hp : guard.toNat < 8)⟩ := hf
  obtain ⟨h3, h1⟩ := fld_guard w
  have hv : (fld w 21 4).toNat = 8 * (BitVec.ofBool neg).toNat + guard.toNat % 8 := by rw [hg]; exact toNat_guard4 _
  have hb : (BitVec.ofBool neg).toNat < 2 := (BitVec.ofBool neg).isLt
  have hn : fld w 24 1 = BitVec.ofBool neg := BitVec.eq_of_toNat_eq (by omega)
  have hq : BitVec.ofNat 7 (fld w 21 3).toNat = guard := BitVec.eq_of_toNat_eq (by rw [BitVec.toNat_ofNat]; omega)
  rw [prefixD, hm, if_neg hj, hq, hn]
  exact congrArg (Prefix.mk 0 guard · false) (ofBool_beq_one neg)

/-! ## The extension word (R46) -/

/-- The extension word with a `Prefix` and every field of register bits. -/
def extWordOf (q : Prefix) (d a b c : BitVec 2) (c6 : BitVec 6) : Word :=
  pack 0 [extBits q, put d 22, put a 20, put b 18, put c 16, put c6 10]

theorem pack_extBits (m : Nat) (q : Prefix) (fs : List Nat) : pack m (extBits q :: fs) =
    pack m (put q.wait 24 :: put q.guard 3 :: put (BitVec.ofBool q.neg) 2 :: put (BitVec.ofBool q.land) 1 :: fs) := by
  simp only [pack, List.foldl_cons, extBits, Nat.add_assoc]

section
variable (q : Prefix) (d a b c : BitVec 2) (c6 : BitVec 6)

theorem extWordOf_eq : extWordOf q d a b c c6 =
    0#32 ||| placed q.wait 24 ||| placed q.guard 3 ||| placed (BitVec.ofBool q.neg) 2 ||| placed (BitVec.ofBool q.land) 1
      ||| placed d 22 ||| placed a 20 ||| placed b 18 ||| placed c 16 ||| placed c6 10 := by
  rw [extWordOf, pack_extBits, pack_eq_joined (occ := 0#32) ?_ BitVec.and_self]
  · simp only [joined_cons, joined_nil, ofNat_put]
  · repeat constructor

theorem fld_extWordOf_mbz : fld (extWordOf q d a b c c6) 0 1 = 0#1 := by
  simp [extWordOf_eq, fld_or, fld_placed_above]
theorem fld_extWordOf_d : fld (extWordOf q d a b c c6) 22 2 = d := by
  simp [extWordOf_eq, fld_or, fld_placed_above, fld_placed_below, fld_placed_same]
theorem fld_extWordOf_a : fld (extWordOf q d a b c c6) 20 2 = a := by
  simp [extWordOf_eq, fld_or, fld_placed_above, fld_placed_below, fld_placed_same]
theorem fld_extWordOf_b : fld (extWordOf q d a b c c6) 18 2 = b := by
  simp [extWordOf_eq, fld_or, fld_placed_above, fld_placed_below, fld_placed_same]
theorem fld_extWordOf_c : fld (extWordOf q d a b c c6) 16 2 = c := by
  simp [extWordOf_eq, fld_or, fld_placed_above, fld_placed_below, fld_placed_same]
theorem fld_extWordOf_c6 : fld (extWordOf q d a b c c6) 10 6 = c6 := by
  simp [extWordOf_eq, fld_or, fld_placed_above, fld_placed_below, fld_placed_same]
theorem fld_extWordOf_c8 : fld (extWordOf q d a b 0#2 0#6) 10 8 = 0#8 := by
  simp [extWordOf_eq, placed_zero, fld_or, fld_placed_above, fld_placed_below]

/-- An extension word has the `Prefix` that it was made of. -/
theorem prefixL_extWordOf : prefixL (extWordOf q d a b c c6) = q := by
  simp [prefixL, extWordOf_eq, fld_or, fld_placed_above, fld_placed_below, fld_placed_same, ofBool_beq_one]

theorem fld_extWordOf_guard {q : Prefix} (hg : q.guard = 0) (hn : q.neg = false) : fld (extWordOf q d a b c c6) 2 8 = 0#8 := by
  simp [extWordOf_eq, placed_zero, fld_or, fld_placed_above, fld_placed_below, hg, hn]

/-! Extension words of instructions that name fewer registers. -/

theorem pack_ext : pack 0 [extBits q] = extWordOf q 0 0 0 0 0 := by
  simp only [extWordOf, BitVec.ofNat_eq_ofNat, put_zero, pack_cons, add_zero]
theorem pack_ext_d : pack 0 [extBits q, put d 22] = extWordOf q d 0 0 0 0 := by
  simp only [extWordOf, BitVec.ofNat_eq_ofNat, put_zero, pack_cons, add_zero]
theorem pack_ext_a : pack 0 [extBits q, put a 20] = extWordOf q 0 a 0 0 0 := by
  simp only [extWordOf, BitVec.ofNat_eq_ofNat, put_zero, pack_cons, add_zero]
theorem pack_ext_da : pack 0 [extBits q, put d 22, put a 20] = extWordOf q d a 0 0 0 := by
  simp only [extWordOf, BitVec.ofNat_eq_ofNat, put_zero, pack_cons, add_zero]
theorem pack_ext_ab : pack 0 [extBits q, put a 20, put b 18] = extWordOf q 0 a b 0 0 := by
  simp only [extWordOf, BitVec.ofNat_eq_ofNat, put_zero, pack_cons, add_zero]
theorem pack_ext_dab : pack 0 [extBits q, put d 22, put a 20, put b 18] = extWordOf q d a b 0 0 := by
  simp only [extWordOf, BitVec.ofNat_eq_ofNat, put_zero, pack_cons, add_zero]
theorem pack_ext_dabc : pack 0 [extBits q, put d 22, put a 20, put b 18, put c 16, put c6 10] = extWordOf q d a b c c6 := rfl

/-- Where the guard is plain, the extension word without one is the same. -/
theorem pack_bare {q : Prefix} (hg : q.guard = 0) (hn : q.neg = false) (fs : List Nat) :
    pack 0 (put q.wait 24 :: put (BitVec.ofBool q.land) 1 :: fs) = pack 0 (extBits q :: fs) := by
  have he : extBits q = put q.wait 24 + put (BitVec.ofBool q.land) 1 := by
    simp only [extBits, hg, hn, BitVec.ofBool_false, BitVec.ofNat_eq_ofNat, put_zero, add_zero]
  simp only [pack_cons, he, add_assoc]

/-- DVT's extension word (R47). -/
theorem pack_land {q : Prefix} (hw : q.wait = 0) (hg : q.guard = 0) (hn : q.neg = false) :
    pack 0 [put (BitVec.ofBool q.land) 1] = extWordOf q 0 0 0 0 0 := by
  rw [← pack_ext, ← pack_bare hg hn, hw]
  simp only [pack_cons, BitVec.ofNat_eq_ofNat, put_zero, add_zero]

end

theorem pack_one {w : Nat} (v : BitVec w) (lo : Nat) : pack 0 [put v lo] = placed v lo := by
  rw [pack_cons, zero_add, ← ofNat_put]; rfl

theorem fld_land_mbz (v : BitVec 1) : fld (pack 0 [put v 1]) 0 1 = 0#1 := by rw [pack_one, fld_placed_above v (by decide)]; rfl
theorem fld_land_rest (v : BitVec 1) : fld (pack 0 [put v 1]) 2 30 = 0#30 := by rw [pack_one, fld_placed_below v (by decide)]; rfl

end Sys2Proof
end

section
/-!
Decoding an encoding gives back the instruction and its `Prefix` (O48; R46 to R51, R57): the major opcode selects the row of
the decoder, and the row's fields and gaps are those of the instruction's format.
-/
namespace Sys2Proof

/-! ## The row of a major opcode (R57) -/

/-- The row of a base word's decoder for a major. -/
def decodeBaseAt (w : Word) (n : Nat) : Except EncFault Instr :=
  match n / 16 with
  | 0 => decodeD0 w n
  | 1 => decodeD1 w n
  | 2 => decodeD2 w n
  | 3 => decodeD3 w n
  | 4 => decodeD4 w n
  | 5 => decodeD5 w n
  | 6 => decodeD6 w n
  | 7 => decodeD7 w n
  | _ => .error .illegalOp

/-- The row of a doubleword's decoder for a major. -/
def decodePairAt (x w : Word) (n : Nat) : Except EncFault Instr :=
  match n / 16 with
  | 0 => decodeL0 x w n
  | 1 => decodeL1 x w n
  | 2 => decodeL2 x w n
  | 3 => decodeL3 x w n
  | 4 => decodeL4 x w n
  | 5 => decodeL5 x w n
  | 6 => decodeL6 x w n
  | 7 => decodeL7 x w n
  | _ => .error .illegalOp

theorem decodeBase_eq {w : Word} {n : Nat} (h : (fld w 25 7).toNat = n) : decodeBase w = decodeBaseAt w n := by
  subst h; rfl

theorem decodePair_eq {x w : Word} {n : Nat} (h : (fld w 25 7).toNat = n) : decodePair x w = decodePairAt x w n := by
  subst h; rfl

theorem decodeBase_pack {m : Nat} {fs : List Nat} (h : Fits m fs) (hm : m < 2 ^ 32) :
    decodeBase (pack m fs) = decodeBaseAt (joined (BitVec.ofNat 32 m) fs) (m / 2 ^ 25) := by
  rw [decodeBase_eq (h.major hm), h.pack_eq]

theorem decodePair_pack (x : Word) {m : Nat} {fs : List Nat} (h : Fits m fs) (hm : m < 2 ^ 32) :
    decodePair x (pack m fs) = decodePairAt x (joined (BitVec.ofNat 32 m) fs) (m / 2 ^ 25) := by
  rw [decodePair_eq (h.major hm), h.pack_eq]

theorem accept_true (i : Instr) : accept i true true = .ok i := rfl

theorem zero_beq (n : Nat) : (0#n == 0#n) = true := beq_self_eq_true _

theorem reg8_high2_low6 (r : BitVec 8) : reg8 (high2 r) (low6 r) = r := by
  apply BitVec.eq_of_toNat_eq
  have := r.isLt
  simp only [reg8, high2, low6, BitVec.toNat_ofNat]
  omega

/-! ## Plimus-D -/

/-- The base word of a D instruction decodes to it. -/
theorem decodeBase_baseWord {pf : Prefix} {i : Instr} {w : Word} (ht : i.info.text = .d) (hw : i.baseWord pf = some w) :
    decodeBase w = .ok i := by
  cases i with
  | nopD | moviD | movhiD | movD | sreadD | swriteD | repD | braD | callD | brxD | retD | forkD | forkTryD | endD |
  trapD | syscD | iaddD | isubD | imulD | imadD | idivD | iremD | iminD | imaxD | andD | orD | xorD | andnD | shlD |
  shrD | rotlD | bfxD | iaddiD | andiD | oriD | xoriD | shliD | shriD | imuliD | leaD | bfiD | popcD | clzD | brevD |
  iabsD | selD | icmpD | icmpuD | faddD | fsubD | fmulD | ffmaD | fminD | fmaxD | fcmpD | fcmpxD | fspfD | fsgnD |
  hadd2D | hmul2D | hfma2D | hmnx2D | cvtD | pkbD | shflD | vanyD | vallD | vbalD | redlD | setpartD | pandD | porD |
  pxorD | pandnD | prdD | pwrD | stkrdD | stksetD | ldD | stD | ldsD | stsD | ldaqD | strlD | atomD | atomsD | fenceD
  | ifenceD | prefD | iprefD | xlqD | stxD | ldxD | stcD | cpaD | waittD | tokqD | mmaf8aD | mmaf8bD | mmak8D |
  mmab16D | mmah16D | mmai8D | accrdD | accwrD | acczD | accstD | pliD | plfD | plredD | regacqWaitD | regacqTryD |
  regrelD | migrD | barD | arvD | awtD | brdD | bwrD | batomD | featqD | genbumpD | ckptD | haltD | chunkD =>
    cases hw
    rw [decodeBase_pack]
    · simp only [decodeBaseAt, decodeD0, decodeD1, decodeD2, decodeD3, decodeD4, decodeD5, decodeD6, decodeD7, BitVec.reduceBEq, Bool.false_eq_true, if_true, if_false, joined_cons,
        joined_nil, ofNat_put, fld_or, fld_placed_same, fld_placed_above, fld_placed_below, fld_ofNat, accept_true, zero_beq,
        BitVec.zero_or, BitVec.or_zero, BitVec.ofNat_eq_ofNat, BitVec.reduceOfNat, Nat.reduceAdd, Nat.reduceDiv, Nat.reducePow,
        Nat.reduceLeDiff, Bool.and_self]
    · repeat constructor
    · decide
  | _ => cases ht

/-- The base word of a D instruction has its `Prefix`. -/
theorem prefixD_baseWord {pf : Prefix} {i : Instr} {w : Word} (ht : i.info.text = .d) (hf : prefixFits pf i = true)
    (hw : i.baseWord pf = some w) : prefixD w = pf := by
  have hd := prefixFits_d hf ht
  cases i with
  | moviD | movhiD | repD =>
    cases hw
    obtain ⟨hg, hn⟩ := prefixFits_bare hf rfl
    obtain ⟨wait, guard, neg, land⟩ := pf
    obtain ⟨rfl, rfl, -⟩ := hd
    cases hg
    cases hn
    rw [prefixD, Fits.major]
    · rfl
    · repeat constructor
    · decide
  | nopD | movD | sreadD | swriteD | braD | callD | brxD | retD | forkD | forkTryD | endD | trapD | syscD | iaddD |
  isubD | imulD | imadD | idivD | iremD | iminD | imaxD | andD | orD | xorD | andnD | shlD | shrD | rotlD | bfxD |
  iaddiD | andiD | oriD | xoriD | shliD | shriD | imuliD | leaD | bfiD | popcD | clzD | brevD | iabsD | selD | icmpD |
  icmpuD | faddD | fsubD | fmulD | ffmaD | fminD | fmaxD | fcmpD | fcmpxD | fspfD | fsgnD | hadd2D | hmul2D | hfma2D |
  hmnx2D | cvtD | pkbD | shflD | vanyD | vallD | vbalD | redlD | setpartD | pandD | porD | pxorD | pandnD | prdD |
  pwrD | stkrdD | stksetD | ldD | stD | ldsD | stsD | ldaqD | strlD | atomD | atomsD | fenceD | ifenceD | prefD |
  iprefD | xlqD | stxD | ldxD | stcD | cpaD | waittD | tokqD | mmaf8aD | mmaf8bD | mmak8D | mmab16D | mmah16D | mmai8D
  | accrdD | accwrD | acczD | accstD | pliD | plfD | plredD | regacqWaitD | regacqTryD | regrelD | migrD | barD | arvD
  | awtD | brdD | bwrD | batomD | featqD | genbumpD | ckptD | haltD | chunkD =>
    cases hw
    refine prefixD_of_guard (Fits.major ?_ (by decide)) (by decide) (fld_pack_head (by decide) ?_ ?_) hd
    · repeat constructor
    · rfl
    · repeat constructor
  | _ => cases ht

/-! ## Plimus-L -/

/-- The extension word of an L instruction has its `Prefix`. -/
theorem prefixL_extWord {pf : Prefix} {i : Instr} {x : Word} (ht : i.info.text = .l) (hf : prefixFits pf i = true)
    (hx : i.extWord pf = some x) : prefixL x = pf := by
  cases i with
  | nopL | movL | sreadL | swriteL | braL | callL | brxL | retL | forkL | forkTryL | endL | trapL | syscL | iaddL |
  isubL | imulL | imadL | idivL | iremL | iminL | imaxL | andL | orL | xorL | andnL | shlL | shrL | rotlL | bfxL |
  iaddiL | andiL | oriL | xoriL | shliL | shriL | imuliL | leaL | bfiL | popcL | clzL | brevL | iabsL | selL | icmpL |
  icmpuL | faddL | fsubL | fmulL | ffmaL | fminL | fmaxL | fcmpL | fcmpxL | fspfL | fsgnL | hadd2L | hmul2L | hfma2L |
  hmnx2L | cvtL | pkbL | shflL | vanyL | vallL | vbalL | redlL | setpartL | pandL | porL | pxorL | pandnL | prdL |
  pwrL | stkrdL | stksetL | ldL | stL | ldsL | stsL | ldaqL | strlL | atomL | atomsL | fenceL | ifenceL | prefL |
  iprefL | xlqL | stxL | ldxL | stcL | cpaL | waittL | tokqL | mmaf8aL | mmaf8bL | mmak8L | mmab16L | mmah16L | mmai8L
  | accrdL | accwrL | acczL | accstL | pliL | plfL | plredL | regacqWaitL | regacqTryL | regrelL | migrL | barL | arvL
  | awtL | brdL | bwrL | batomL | featqL | genbumpL | ckptL | haltL | chunkL =>
    cases hx
    simp only [pack_ext, pack_ext_d, pack_ext_a, pack_ext_da, pack_ext_ab, pack_ext_dab, pack_ext_dabc, prefixL_extWordOf]
  | moviL | movhiL | repL =>
    cases hx
    obtain ⟨hg, hn⟩ := prefixFits_bare hf rfl
    simp only [pack_bare hg hn, pack_ext, pack_ext_d, prefixL_extWordOf]
  | dvtL =>
    cases hx
    obtain ⟨hg, hn⟩ := prefixFits_bare hf rfl
    rw [pack_land (prefixFits_dvt hf) hg hn, prefixL_extWordOf]
  | _ => cases ht

/-- The row of an instruction without fields. -/
theorem accept_noFields {i : Instr} {w : Word} (pf : Prefix) (h0 : fld w 0 21 = 0) (h4 : fld w 21 4 = 0) :
    accept i true (fld w 0 21 == 0 && fld w 21 4 == 0 && fld (extWordOf pf 0 0 0 0 0) 0 1 == 0
      && fld (extWordOf pf 0 0 0 0 0) 22 2 == 0 && fld (extWordOf pf 0 0 0 0 0) 20 2 == 0
      && fld (extWordOf pf 0 0 0 0 0) 18 2 == 0 && fld (extWordOf pf 0 0 0 0 0) 10 8 == 0) = .ok i := by
  simp only [h0, h4, fld_extWordOf_mbz, fld_extWordOf_d, fld_extWordOf_a, fld_extWordOf_b, BitVec.ofNat_eq_ofNat, fld_extWordOf_c8,
    zero_beq, Bool.and_self, accept_true]

/-- The words of an L instruction decode to it. -/
theorem decodePair_words {pf : Prefix} {i : Instr} {x w : Word} (ht : i.info.text = .l) (hf : prefixFits pf i = true)
    (hx : i.extWord pf = some x) (hw : i.baseWord pf = some w) : decodePair x w = .ok i := by
  cases i with
  | nopL | endL | ifenceL | genbumpL | ckptL | haltL =>
    cases hx
    cases hw
    rw [decodePair_eq rfl, pack_ext]
    simp only [fld, BitVec.reduceToNat, Nat.reducePow, Nat.reduceDiv]
    simp only [decodePairAt, decodeL0, decodeL5, decodeL7, Nat.reduceDiv]
    exact accept_noFields pf rfl rfl
  | movL | sreadL | swriteL | braL | callL | brxL | retL | forkL | forkTryL | trapL | syscL | iaddL | isubL | imulL |
  imadL | idivL | iremL | iminL | imaxL | andL | orL | xorL | andnL | shlL | shrL | rotlL | bfxL | iaddiL | andiL |
  oriL | xoriL | shliL | shriL | imuliL | leaL | bfiL | popcL | clzL | brevL | iabsL | selL | icmpL | icmpuL | faddL |
  fsubL | fmulL | ffmaL | fminL | fmaxL | fcmpL | fcmpxL | fspfL | fsgnL | hadd2L | hmul2L | hfma2L | hmnx2L | cvtL |
  pkbL | shflL | vanyL | vallL | vbalL | redlL | setpartL | pandL | porL | pxorL | pandnL | prdL | pwrL | stkrdL |
  stksetL | ldL | stL | ldsL | stsL | ldaqL | strlL | atomL | atomsL | fenceL | prefL | iprefL | xlqL | stxL | ldxL |
  stcL | cpaL | waittL | tokqL | mmaf8aL | mmaf8bL | mmak8L | mmab16L | mmah16L | mmai8L | accrdL | accwrL | acczL |
  accstL | pliL | plfL | plredL | regacqWaitL | regacqTryL | regrelL | migrL | barL | arvL | awtL | brdL | bwrL |
  batomL | featqL | chunkL =>
    cases hx
    cases hw
    rw [decodePair_pack]
    · simp only [pack_ext, pack_ext_d, pack_ext_a, pack_ext_da, pack_ext_ab, pack_ext_dab, pack_ext_dabc, fld_extWordOf_mbz,
        fld_extWordOf_d, fld_extWordOf_a, fld_extWordOf_b, fld_extWordOf_c, fld_extWordOf_c6, fld_extWordOf_c8, reg8_high2_low6,
        decodePairAt, decodeL0, decodeL1, decodeL2, decodeL3, decodeL4, decodeL5, decodeL6, decodeL7, BitVec.reduceBEq, Bool.false_eq_true, if_true, if_false, joined_cons,
        joined_nil, ofNat_put, fld_or, fld_placed_same, fld_placed_above, fld_placed_below, fld_ofNat, accept_true, zero_beq,
        BitVec.zero_or, BitVec.or_zero, BitVec.ofNat_eq_ofNat, BitVec.reduceOfNat, Nat.reduceAdd, Nat.reduceDiv, Nat.reducePow,
        Nat.reduceLeDiff, Bool.and_self]
    · repeat constructor
    · decide
  | moviL | movhiL | repL =>
    cases hx
    cases hw
    obtain ⟨hg, hn⟩ := prefixFits_bare hf rfl
    rw [decodePair_pack]
    · simp only [pack_bare hg hn, pack_ext, pack_ext_d, fld_extWordOf_guard, hg, hn, fld_extWordOf_mbz, fld_extWordOf_d,
        fld_extWordOf_a, fld_extWordOf_b, fld_extWordOf_c8, reg8_high2_low6, decodePairAt, decodeL0, joined_cons,
        joined_nil, ofNat_put, fld_or, fld_placed_same, fld_placed_above, fld_placed_below, fld_ofNat, accept_true, zero_beq,
        BitVec.zero_or, BitVec.or_zero, BitVec.ofNat_eq_ofNat, BitVec.reduceOfNat, Nat.reduceAdd, Nat.reduceDiv, Nat.reducePow,
        Nat.reduceLeDiff, Bool.and_self]
    · repeat constructor
    · decide
  | dvtL =>
    cases hx
    cases hw
    rw [decodePair_pack]
    · simp only [fld_land_mbz, fld_land_rest, decodePairAt, decodeL7, joined_cons,
        joined_nil, ofNat_put, fld_or, fld_placed_same, fld_placed_below, fld_ofNat, accept_true, zero_beq,
        BitVec.zero_or, BitVec.or_zero, BitVec.ofNat_eq_ofNat, BitVec.reduceOfNat, Nat.reduceAdd, Nat.reduceDiv, Nat.reducePow,
        Nat.reduceLeDiff, Bool.and_self]
    · repeat constructor
    · decide
  | _ => cases ht

/-! ## How many words (R46, R50) -/

theorem words_d (pf : Prefix) {i : Instr} (ht : i.info.text = .d) : i.extWord pf = none ∧ ∃ w, i.baseWord pf = some w := by
  cases i with
  | nopD | moviD | movhiD | movD | sreadD | swriteD | repD | braD | callD | brxD | retD | forkD | forkTryD | endD |
  trapD | syscD | iaddD | isubD | imulD | imadD | idivD | iremD | iminD | imaxD | andD | orD | xorD | andnD | shlD |
  shrD | rotlD | bfxD | iaddiD | andiD | oriD | xoriD | shliD | shriD | imuliD | leaD | bfiD | popcD | clzD | brevD |
  iabsD | selD | icmpD | icmpuD | faddD | fsubD | fmulD | ffmaD | fminD | fmaxD | fcmpD | fcmpxD | fspfD | fsgnD |
  hadd2D | hmul2D | hfma2D | hmnx2D | cvtD | pkbD | shflD | vanyD | vallD | vbalD | redlD | setpartD | pandD | porD |
  pxorD | pandnD | prdD | pwrD | stkrdD | stksetD | ldD | stD | ldsD | stsD | ldaqD | strlD | atomD | atomsD | fenceD
  | ifenceD | prefD | iprefD | xlqD | stxD | ldxD | stcD | cpaD | waittD | tokqD | mmaf8aD | mmaf8bD | mmak8D |
  mmab16D | mmah16D | mmai8D | accrdD | accwrD | acczD | accstD | pliD | plfD | plredD | regacqWaitD | regacqTryD |
  regrelD | migrD | barD | arvD | awtD | brdD | bwrD | batomD | featqD | genbumpD | ckptD | haltD | chunkD => exact ⟨rfl, _, rfl⟩
  | _ => cases ht

theorem words_l (pf : Prefix) {i : Instr} (ht : i.info.text = .l) : (∃ x, i.extWord pf = some x) ∧ ∃ w, i.baseWord pf = some w := by
  cases i with
  | nopL | moviL | movhiL | movL | sreadL | swriteL | repL | braL | callL | brxL | retL | forkL | forkTryL | endL |
  trapL | syscL | iaddL | isubL | imulL | imadL | idivL | iremL | iminL | imaxL | andL | orL | xorL | andnL | shlL |
  shrL | rotlL | bfxL | iaddiL | andiL | oriL | xoriL | shliL | shriL | imuliL | leaL | bfiL | popcL | clzL | brevL |
  iabsL | selL | icmpL | icmpuL | faddL | fsubL | fmulL | ffmaL | fminL | fmaxL | fcmpL | fcmpxL | fspfL | fsgnL |
  hadd2L | hmul2L | hfma2L | hmnx2L | cvtL | pkbL | shflL | vanyL | vallL | vbalL | redlL | setpartL | pandL | porL |
  pxorL | pandnL | prdL | pwrL | stkrdL | stksetL | ldL | stL | ldsL | stsL | ldaqL | strlL | atomL | atomsL | fenceL
  | ifenceL | prefL | iprefL | xlqL | stxL | ldxL | stcL | cpaL | waittL | tokqL | mmaf8aL | mmaf8bL | mmak8L |
  mmab16L | mmah16L | mmai8L | accrdL | accwrL | acczL | accstL | pliL | plfL | plredL | regacqWaitL | regacqTryL |
  regrelL | migrL | dvtL | barL | arvL | awtL | brdL | bwrL | batomL | featqL | genbumpL | ckptL | haltL | chunkL => exact ⟨⟨_, rfl⟩, _, rfl⟩
  | _ => cases ht

theorem words_event (pf : Prefix) {i : Instr} (ht : i.info.text = .event) : i.baseWord pf = none := by
  cases i with
  | clauseEntry | tokenWaitResume | registerGrant | regDeadlock | binAgeExpiry | binIssue | gangSlotSwap |
  engineLineWrite | scratchGranuleLanding | copyComplete | deferredCopyFault | mmaBlockAdd | accstRowWrite |
  homeAccessArrival | placedPartExecute | reduceStateMerge | genbumpComplete | portWriteArrival | portReadArrival |
  peerAtomArrival | faultDelivery | launchEndWithCause | preemption | crewRestore | firmwareCheckpoint | migration |
  returnTrap | crewPlacement | carveOutChange | notify | packetTake | launch | cmdblock | copy | fill | signal |
  waitsig | waitsigReevaluate | nopPacket | launchCompletionSignal | thaw | abandon | graphKick | graphNodeCompletion
  | pairComparison | protectedRollback | unitSelfTest | islandClockChange | powerCapSet | thermalLimit |
  attestationReport | asidKeyInit | baseRegisterWrite | registerWrite | moduleReset | bringUp | dieCooled |
  hostAcknowledgement | graphRegistration => rfl
  | _ => cases ht

theorem decodeD_encode {pf : Prefix} {i : Instr} (h : WellFormed pf i) (ht : i.info.text = .d) :
    ∃ w, encode pf i = some [w] ∧ decodeD w = .ok (pf, i) := by
  obtain ⟨-, hf, -⟩ := h
  obtain ⟨hx, w, hw⟩ := words_d pf ht
  exact ⟨w, by rw [encode, hx, hw], by rw [decodeD, decodeBase_baseWord ht hw, prefixD_baseWord ht hf hw]⟩

theorem decodeL_encode {pf : Prefix} {i : Instr} (h : WellFormed pf i) (ht : i.info.text = .l) :
    ∃ x w, encode pf i = some [x, w] ∧ decodeL x w = .ok (pf, i) := by
  obtain ⟨-, hf, -⟩ := h
  obtain ⟨⟨x, hx⟩, w, hw⟩ := words_l pf ht
  exact ⟨x, w, by rw [encode, hx, hw], by rw [decodeL, decodePair_words ht hf hx hw, prefixL_extWord ht hf hx]⟩

theorem encode_event (pf : Prefix) {i : Instr} (ht : i.info.text = .event) : encode pf i = none := by
  rw [encode, words_event pf ht]; cases i.extWord pf <;> rfl

end Sys2Proof
end

section
open Sys2Proof Sys2Proof.Machine

/-- Settles O48: the fields of an encoded word stand apart, so that each row of the decoder reads them back. -/
theorem decodingAnEncodingGivesTheInstruction : Obligations.DecodingAnEncodingGivesTheInstruction := by
  unfold Obligations.DecodingAnEncodingGivesTheInstruction
  exact ⟨fun _ _ => decodeD_encode, fun _ _ => decodeL_encode, fun pf _ => encode_event pf⟩

/-- Settles O50, by running the decoder on each word. -/
theorem wordsOfTheSpecDecode : Obligations.WordsOfTheSpecDecode := by
  unfold Obligations.WordsOfTheSpecDecode
  and_intros <;> rfl

end

section
/-!
Branches (R68 to R70): what an instruction leaves whose effect sends its active lanes to their targets, and when BRX and RET do.
-/
namespace Sys2Proof.Machine

/-! ## Fibres sent to their targets -/

/-- A fibre of the unit after a branch: at its target, or past the instruction. -/
def Fibre.branched (kind : Kind) (now : Nat) (ts : List (Nat × Word)) (p : Nat) (f : Fibre) : Fibre :=
  match ts.find? fun t => t.1 == p with
  | some t => f.goto now t.2
  | none => f.advance kind

theorem Fibre.face_branched (kind : Kind) (now : Nat) (ts : List (Nat × Word)) (p : Nat) (f : Fibre) :
    (f.branched kind now ts p).face = f.face := by
  unfold Fibre.branched
  split
  · rfl
  · exact face_advance kind f

theorem Fibre.pc_branched (kind : Kind) (now : Nat) (is : List Nat) (target : Nat → Word) (p : Nat) (f : Fibre) :
    (f.branched kind now (is.map fun q => (q, target q)) p).pc = if p ∈ is then target p else nextPcOf kind f := by
  have hfind : (is.map fun q => (q, target q)).find? (fun t => t.1 == p) = if p ∈ is then some (p, target p) else none := by
    induction is with
    | nil => rfl
    | cons q is ih =>
      by_cases hq : q = p
      · simp [hq]
      · simp [hq, Ne.symm hq, ih]
  unfold Fibre.branched
  rw [hfind]
  by_cases hp : p ∈ is
  · simp only [if_pos hp]; rfl
  · simp only [if_neg hp]; exact pc_advance kind f

/-- Fibres of a unit changed but for their faces and the unit formed anew, as a step ends: the crew keeps its faces. -/
theorem settle_done {y : State} {u : UnitId} {k : Crew} (hy : y.crews[u.crew]? = some k) (is : List Nat) (g : Nat → Fibre → Fibre)
    (hg : ∀ p f, (g p f).face = f.face) : Only y ((y.modFibres u.crew is g).settle u).done u.crew (fun _ f => f)
      ∧ ∀ p ∈ is, p < k.fibres.length → (((y.modFibres u.crew is g).settle u).done.fibreAt u.crew p).pc = (g p (k.fibre p)).pc := by
  have hz : (y.modFibres u.crew is g).crews[u.crew]? = some (k.modFibres is g) := crews_modify hy _
  obtain ⟨k', hk', h1, h2, h3⟩ := settle_spec (u := u) hz
  have hlen : k'.fibres.length = k.fibres.length := h2.trans (Crew.length_modFibres ..)
  refine ⟨only_of_crew hy rfl rfl rfl ?_ (fun j hj => (settle_ne _ u hj).trans (crews_modify_ne y hj _)) hk'
    (congrArg (fun x : Crew => { x with fibres := k.fibres, bins := k.bins }) h1 :) hlen fun p hp => ?_, fun p hp hlt => ?_⟩
  · exact (length_settle _ u).trans (by simp [State.modFibres])
  · rw [(h3 p (by simpa using hp)).1, Crew.fibre_modFibres k is g p hp]
    split
    · exact hg p _
    · rfl
  · refine (congrArg Fibre.pc (fibreAt_of_crew hk')).trans ?_
    rw [(h3 p (by simpa using hlt)).2, Crew.fibre_modFibres k is g p hlt, if_pos hp]

/-- What a branch's instruction settles of its fibres' loads is a mark of progress alone. -/
theorem used_jump (c : Ctx) (i : Instr) (s : State) (ts : List (Nat × Word)) : ∃ (js : List Nat) (l : Fibre → List Nat),
    Eff.used c i (.jump s ts) = .jump (s.modFibres c.u.crew js fun _ f => { f with late := l f }) ts := by
  unfold Eff.used
  split
  · exact ⟨[], fun f => f.late, by rw [modFibres_nil]⟩
  · obtain ⟨js, l, e⟩ := useLate_spec c i s
    exact ⟨js, l, congrArg (Eff.jump · ts) e⟩

/-! ## Links -/

/-- A fibre that a branch takes: with the link in v7, where it calls. -/
def Ctx.linked (c : Ctx) (call : Bool) (f : Fibre) : Fibre :=
  if call then f.setReg 7 (regOf (c.pc + (if c.kind.isL then 8 else 4)) false) else f

theorem nextPc_eq (c : Ctx) : nextPc c = c.pc + (if c.kind.isL then 8 else 4) := by
  unfold nextPc Kind.step
  split <;> rfl

theorem link_eq (c : Ctx) (call : Bool) (s : State) :
    (if call then c.link s else s) = s.modFibres c.u.crew c.act fun _ f => c.linked call f := by
  cases call with
  | false => exact (modFibres_id s c.u.crew c.act).symm
  | true =>
    unfold Ctx.link
    rw [nextPc_eq]
    rfl

/-! ## A branch completes -/

section
variable {i : Instr} {s x : State} {u : UnitId} {pf : Prefix} {c : Ctx} {body : Ctx → State → Eff}
  (he : ∀ s, exec i s = issue i body s) (h : Ready i s u pf c)
include he h

/-- A ready instruction whose effect is a branch: the active fibres stand at their targets, the unit's others at Next. -/
theorem completes_jump {y : State} {ky : Crew} {target : Nat → Word} (hy : y.crews[u.crew]? = some ky)
    (hb : body c (c.start pf s) = .jump y (c.act.map fun p => (p, target p))) :
    ∃ t, exec i s = .next t ∧ Only y t u.crew (fun _ f => f)
      ∧ ∀ p ∈ c.all, p < ky.fibres.length → (t.fibreAt u.crew p).pc = if p ∈ c.act then target p else nextPcOf c.kind (ky.fibre p) := by
  obtain ⟨rfl, -, -, -⟩ := ctx_spec h.2.1
  obtain ⟨js, l, hl⟩ := used_jump c i y (c.act.map fun p => (p, target p))
  let kz := ky.modFibres js fun _ f => { f with late := l f }
  let z := y.modFibres c.u.crew js fun _ f => { f with late := l f }
  have hz : z.crews[c.u.crew]? = some kz := crews_modify hy _
  have hlate : ∀ p, p < ky.fibres.length → (kz.fibre p).face = (ky.fibre p).face
      ∧ nextPcOf c.kind (kz.fibre p) = nextPcOf c.kind (ky.fibre p) := by
    intro p hp
    rw [Crew.fibre_modFibres _ _ _ _ hp]
    split <;> exact ⟨rfl, rfl⟩
  obtain ⟨ho, hpc⟩ := settle_done hz c.all (Fibre.branched c.kind z.now (c.act.map fun p => (p, target p)))
    fun p f => f.face_branched ..
  have hstep : exec i s = .next (c.conclude (.jump z (c.act.map fun p => (p, target p)))).done := by
    rw [he, issue_ready h, hb, hl]
  refine ⟨_, hstep, Only.after hy (modCrew_eq_set hy _) rfl (Crew.length_modFibres ..) (fun p hp => (hlate p hp).1) ho, fun p hp hlt => ?_⟩
  exact (hpc p hp (by simpa [kz] using hlt)).trans (by rw [Fibre.pc_branched, (hlate p hlt).2])

/-- The same where the effect begins from a state with the crews that stood before it, and may write the link. -/
theorem branches {call : Bool} {target : Nat → Word} (hx : x.crews = (c.start pf s).crews)
    (hb : body c (c.start pf s) = .jump (if call then c.link x else x) (c.act.map fun p => (p, target p))) :
    ∃ t, exec i s = .next t ∧ GoesTo t c target ∧ Only x t u.crew fun p f => if p ∈ c.act then c.linked call f else f := by
  obtain ⟨rfl, -, -, -⟩ := ctx_spec h.2.1
  obtain ⟨k0, ⟨-, hlen, hmark⟩, -, hk0⟩ := start_marked h.2.1
  rw [← hx] at hk0
  have hy : (x.modFibres c.u.crew c.act fun _ f => c.linked call f).crews[c.u.crew]? =
    some (k0.modFibres c.act fun _ f => c.linked call f) := crews_modify hk0 _
  rw [link_eq] at hb
  obtain ⟨t, ht, honly, hpc⟩ := completes_jump he h hy hb
  refine ⟨t, ht, fun p hp => ?_, Only.after hk0 (modCrew_eq_set hk0 _) rfl (Crew.length_modFibres ..) (fun p hp => ?_) honly⟩
  · have hlt : p < k0.fibres.length := hlen ▸ ctx_all_lt h.2.1 hp
    obtain ⟨w, ps, di, dc, ia, e⟩ := hmark p
    rw [hpc p hp (by simpa using hlt)]
    split
    · rfl
    · rename_i ha
      rw [Crew.fibre_modFibres _ _ _ _ hlt, if_neg ha, e]
      rfl
  · exact congrArg Fibre.face (Crew.fibre_modFibres _ _ _ _ hp)

/-- The same where nothing but the branch takes place. -/
theorem branches_only {target : Nat → Word} (hb : body c (c.start pf s) = .jump (c.start pf s) (c.act.map fun p => (p, target p))) :
    ∃ t, exec i s = .next t ∧ Only s t u.crew (fun _ f => f) ∧ GoesTo t c target := by
  obtain ⟨-, hk, -, -⟩ := ctx_spec h.2.1
  obtain ⟨k0, ⟨hrest, hlen, hmark⟩, e, hk0⟩ := start_marked h.2.1
  obtain ⟨t, ht, hgo, honly⟩ := branches he h (call := false) rfl hb
  have hsame : (fun p f => if p ∈ c.act then c.linked false f else f) = fun (_ : Nat) (f : Fibre) => f := by
    funext p f
    exact ite_self f
  rw [hsame] at honly
  refine ⟨t, ht, Only.after hk e (congrArg (fun k : Crew => { k with bins := c.crew.bins }) hrest :) hlen (fun p _ => ?_) honly, hgo⟩
  obtain ⟨w, ps, di, dc, ia, e⟩ := hmark p
  rw [e]
  rfl

end

/-! ## The targets of BRX and RET -/

/-- The register targets of the active lanes. -/
abbrev Ctx.targetsOf (c : Ctx) (a : Nat) : List (Nat × Word) := c.act.map fun p => (p, (c.fibre p).val a)

theorem targetAligned_iff (c : Ctx) (w : Word) : targetAligned c w = true ↔ w.toNat % (if c.kind.isL then 8 else 4) = 0 := beq_iff_eq

theorem misaligned_nil {c : Ctx} {ts : List (Nat × Word)} (h : ∀ x ∈ ts, x.2.toNat % (if c.kind.isL then 8 else 4) = 0) :
    ts.filter (fun t => !targetAligned c t.2) = [] :=
  List.filter_eq_nil_iff.2 fun x hx => by simp [(targetAligned_iff c x.2).2 (h x hx)]

theorem landed_iff (c : Ctx) (w : Word) : landed c w = true ↔ if c.kind.isL then w.getLsbD 1 = true else hdrLand w = true := by
  unfold landed
  split <;> rfl

/-- Fetching the first word at every target changes the memory side alone. -/
theorem memorySide_fetchTargets (c : Ctx) : ∀ (ts : List (Nat × Word)) (s : State), MemorySide s (fetchTargets c ts s).1
  | [], s => .refl s
  | (i, t) :: ts, s => (memorySide_fetch s c.core c.asid c.priv c.u.crew c.crew.pair ((c.fibre i).codeVa t)).trans
      (memorySide_fetchTargets c ts _)

theorem stopsOf_nil (cause : Nat) {ws : List (Nat × Word × Except FetchStop Word)} (h : ∀ x ∈ ws, ∃ w, x.2.2 = .ok w) :
    stopsOf cause ws = [] :=
  List.filterMap_eq_nil_iff.2 fun x hx => by
    obtain ⟨w, e⟩ := h x hx
    rw [e]

section
variable {c : Ctx} {a : Nat} {call : Bool} {s : State}

theorem bodyBrx_jumps {s' : State} {ws : List (Nat × Word × Except FetchStop Word)}
    (halign : ∀ x ∈ c.targetsOf a, x.2.toNat % (if c.kind.isL then 8 else 4) = 0)
    (hheld : ∀ x ∈ c.targetsOf a, s.fetchHeld c.core c.asid c.priv ((c.fibre x.1).codeVa x.2) = false)
    (hfetch : fetchTargets c (c.targetsOf a) s = (s', ws)) (hland : ∀ x ∈ ws, ∃ w, x.2.2 = .ok w ∧ landed c w = true) :
    bodyBrx a call c s = .jump (if call then c.link s' else s') (c.targetsOf a) := by
  have hany : (c.targetsOf a).any (fun t => s.fetchHeld c.core c.asid c.priv ((c.fibre t.1).codeVa t.2)) = false := by
    rw [List.any_eq_false]
    exact fun x hx => by rw [hheld x hx]; exact Bool.false_ne_true
  have hstop : ∀ cause, stopsOf cause ws = [] := fun cause => stopsOf_nil cause fun x hx => (hland x hx).imp fun _ h => h.1
  unfold bodyBrx
  simp only [misaligned_nil halign, hany, hfetch, hstop]
  rw [List.filterMap_eq_nil_iff.2 fun x hx => ?_]
  · rfl
  · obtain ⟨w, e, hl⟩ := hland x hx
    simp only [e, hl, if_true]

theorem bodyBrx_raises (h : (c.targetsOf a).filter (fun t => !targetAligned c t.2) ≠ []) :
    bodyBrx a call c s = c.indirect ((c.targetsOf a).filter fun t => !targetAligned c t.2) s :=
  if_pos (by simpa only [List.isEmpty_iff] using h)

theorem bodyRet_jumps
    (htrap : ∀ p ∈ c.act, ¬ (((c.fibre p).val a).getLsbD 0 = true ∧ (c.fibre p).handler = true ∧ (c.fibre p).priv = true))
    (halign : ∀ p ∈ c.act, ((c.fibre p).val a).toNat % (if c.kind.isL then 8 else 4) = 0) :
    bodyRet a c s = .jump s (c.targetsOf a) := by
  have hfind : (c.targetsOf a).find? (fun t => t.2.getLsbD 0 && (c.fibre t.1).handler && (c.fibre t.1).priv) = none := by
    rw [List.find?_eq_none]
    intro x hx hc
    obtain ⟨p, hp, rfl⟩ := List.mem_map.1 hx
    simp only [Bool.and_eq_true] at hc
    exact htrap p hp ⟨hc.1.1, hc.1.2, hc.2⟩
  have hbad : (c.targetsOf a).filter (fun t => !targetAligned c t.2) = [] := misaligned_nil fun x hx => by
    obtain ⟨p, hp, rfl⟩ := List.mem_map.1 hx
    exact halign p hp
  unfold bodyRet
  simp only [hfind, hbad]
  rfl

end

end Sys2Proof.Machine
end

section
open Sys2Proof Sys2Proof.Machine

/-- Settles O20: BRX and RET by what their own effects find, each a branch of the active lanes. -/
theorem indirectBranches : Obligations.IndirectBranches := by
  unfold Obligations.IndirectBranches
  refine ⟨fun i call a hi s u pf c h => ?_, fun i a hi s u pf c h htrap halign => ?_⟩
  · have he : ∀ s, exec i s = issue i (fun c => bodyBrx (a c) call c) s := by
      rcases hi with ⟨r, x, rfl, rfl, rfl⟩ | ⟨r, x, rfl, rfl, rfl⟩ <;> exact fun _ => rfl
    refine ⟨fun htargets s' ws hfetch hland => ?_, fun hbad => ready_raise he h (bodyBrx_raises hbad)⟩
    have hmem : MemorySide (c.start pf s) s' := by
      have := memorySide_fetchTargets c (c.targetsOf (a c)) (c.start pf s)
      rwa [hfetch] at this
    have hb := bodyBrx_jumps (call := call) (fun x hx => (htargets x hx).1) (fun x hx => (htargets x hx).2) hfetch fun x hx => by
      obtain ⟨w, e, hl⟩ := hland x hx
      exact ⟨w, e, (landed_iff c w).2 hl⟩
    obtain ⟨t, ht, hgo, honly⟩ := branches he h hmem.crews hb
    refine ⟨t, ht, hgo, ?_⟩
    simpa only [Ctx.linked, ← ite_and] using honly
  · have he : ∀ s, exec i s = issue i (fun c => bodyRet (a c) c) s := by
      rcases hi with ⟨r, rfl, rfl⟩ | ⟨r, rfl, rfl⟩ <;> exact fun _ => rfl
    exact branches_only he h (bodyRet_jumps htrap halign)

end

section
/-!
The privileged instructions (O43): what their shared checks find.
-/
namespace Sys2Proof.Machine

theorem mustStop_of_point {c : Ctx} (h : c.atDovetail = false) : c.mustStop = false := by simp [Ctx.mustStop, h]

theorem stalled_of_arms {c : Ctx} {i : Instr} (h : Instr.arms i = none) : c.stalled i = false := by simp [Ctx.stalled, h]

/-- No operand of it is a register pair or group. -/
def SingleOperands (i : Info) : Prop := ∀ o ∈ i.operands, o.align = 1

theorem SingleOperands.aligned {i : Info} (h : SingleOperands i) : i.aligned = true :=
  List.all_eq_true.2 fun o ho => by rw [Operand.aligned, h o ho, Nat.mod_one]; rfl

theorem SingleOperands.none {i : Info} (h : i.operands = []) : SingleOperands i := by rw [SingleOperands, h]; exact fun _ ho => nomatch ho

theorem SingleOperands.one {i : Info} {n : Nat} (h : i.operands = [⟨n, 1, 1⟩]) : SingleOperands i := by
  rw [SingleOperands, h]; exact fun _ ho => by rw [List.mem_singleton.1 ho]

theorem mem_operands {c : Ctx} {i : Info} {o : Operand × Nat} (ho : o ∈ c.operands i) : o.1 ∈ i.operands := by
  simp only [Ctx.operands, List.mem_append, List.mem_map] at ho
  simp only [Info.operands, List.mem_append]
  obtain ((⟨x, hx, rfl⟩ | ⟨x, hx, rfl⟩) | ⟨x, hx, rfl⟩) | ⟨x, hx, rfl⟩ := ho
  exacts [.inl (.inl (.inl hx)), .inl (.inl (.inr hx)), .inl (.inr hx), .inr hx]

theorem encFault_none {pf : Prefix} {i : Instr} (hs : i.subFault = none) (ho : SingleOperands i.info) (hg : pf.guard.toNat < 96) :
    i.encFault pf = none := by
  have hn : ¬ 95 < pf.guard.toNat := by omega
  simp [Instr.encFault, hs, ho.aligned, hn, orElse, fieldIf]

/-- What an instruction has whose one check that can fail is that of privilege. -/
structure PrivilegeAlone (i : Instr) : Prop where
  issues : ∃ body, ∀ s, exec i s = issue i body s
  priv : i.info.priv = true
  loose : i.info.loose = false
  sub : i.subFault = none
  arms : Instr.arms i = none
  single : SingleOperands i.info

theorem raises_privilege {i : Instr} (h : PrivilegeAlone i) {s : State} {u : UnitId} {pf : Prefix} {c : Ctx} (hturn : s.turn = some (.issue u pf))
    (hctx : s.ctx? u pf = some c) (hloose : c.loosePending = [])
    (htok : c.tokenWait pf (c.fibre (c.all.headD 0)).hdrWord s = none) (hpoint : c.atDovetail = false)
    (hrep : (c.fibre (c.all.headD 0)).rep = none) (hguard : pf.guard.toNat < 96) (hpriv : ∃ p ∈ c.all, (c.fibre p).priv = false) :
    exec i s = .next (c.conclude (.raise (c.start pf s) causePrivilege 0 0 (c.act.map c.lane) [])).done := by
  obtain ⟨body, he⟩ := h.issues
  have henc := encFault_none h.sub h.single hguard
  have hfield : ¬ fieldFault c pf i (c.fibre (c.all.headD 0)).rep := by
    rintro (hf | hf | ⟨o, ho, hn⟩)
    · rw [henc] at hf; cases hf
    · rw [hrep] at hf; cases hf
    · rw [h.single _ (mem_operands ho), Nat.mod_one] at hn; exact hn rfl
  have hl : ¬ looseFault c i := fun hl => absurd (h.loose ▸ hl.1) Bool.false_ne_true
  rw [he, issue_checks body hturn hctx hloose htok (mustStop_of_point hpoint) (stalled_of_arms h.arms),
    check_privilege (by simp [henc]) hfield hl ⟨h.priv, hpriv⟩]
  rfl

theorem privilegeAlone_of_noOperand {i : Instr} (h : i ∈ [Instr.genbumpD, .genbumpL, .ckptD, .ckptL, .haltD, .haltL]) :
    PrivilegeAlone i := by
  simp only [List.mem_cons, List.not_mem_nil, or_false] at h
  rcases h with rfl | rfl | rfl | rfl | rfl | rfl <;> exact ⟨⟨_, fun _ => rfl⟩, rfl, rfl, rfl, rfl, .none rfl⟩

theorem privilegeAlone_of_swrite {i : Instr}
    (h : (∃ (a : BitVec 6) (x : BitVec 9), (x = 19 ∨ x = 20) ∧ i = .swriteD a x)
      ∨ ∃ (a : BitVec 8) (x : BitVec 9), (x = 19 ∨ x = 20) ∧ i = .swriteL a x) : PrivilegeAlone i := by
  rcases h with ⟨a, x, rfl | rfl, rfl⟩ | ⟨a, x, rfl | rfl, rfl⟩ <;>
    exact ⟨⟨_, fun _ => rfl⟩, rfl, rfl, rfl, rfl, .one rfl⟩

theorem privileged_cases : ∀ i : Instr, i.info.priv = true →
    i ∈ [Instr.genbumpD, .genbumpL, .ckptD, .ckptL, .haltD, .haltL] ∨ (∃ a x, i = .swriteD a x) ∨ ∃ a x, i = .swriteL a x := by
  intro i h
  cases i with
  | genbumpD | genbumpL | ckptD | ckptL | haltD | haltL => exact .inl (by simp)
  | swriteD a x => exact .inr (.inl ⟨a, x, rfl⟩)
  | swriteL a x => exact .inr (.inr ⟨a, x, rfl⟩)
  | _ => exact absurd h Bool.false_ne_true

end Sys2Proof.Machine
end

section
open Sys2Proof Sys2Proof.Machine

/-- Settles O43: of the shared checks only that of privilege finds a fault, and the case split over the instructions. -/
theorem privilegedInstructions : Obligations.PrivilegedInstructions := by
  unfold Obligations.PrivilegedInstructions
  refine ⟨fun i hi s u pf c hturn hctx hloose htok hpoint hrep hguard _ hpriv => ?_,
    fun i hi s u pf c hturn hctx hloose htok hpoint hrep hguard _ hpriv => ?_, privileged_cases⟩
  · exact raises_privilege (privilegeAlone_of_noOperand hi) hturn hctx hloose htok hpoint hrep hguard hpriv
  · exact raises_privilege (privilegeAlone_of_swrite hi) hturn hctx hloose htok hpoint hrep hguard hpriv
end

section
/-!
REP in a sub-gang that meets another one (R24, R56). In L every doubleword is an issue point, so a sub-gang of which nothing has been
issued at the doubleword after the REP merges with the one that has just issued it, and the merged one goes on as its lowest lane did:
under no repeat, where the other's lane is the lower. The statement does not shut it out.
-/
namespace Sys2Proof.Machine

/-- The sub-gang of lane 1 of the only gang. -/
def repUnit : UnitId := { crew := 0, kind := .gang 0 1 }

/-- Lane 0 stands at the second doubleword, lane 1 at the first, each a sub-gang of its own. -/
def repCrew (k : Crew) : Crew :=
  { k with fibres := k.fibres.flatMap fun f => [{ f with pc := 8, hdr := 8, clause := [] }, { f with home := 1, ident := 1, sub := 1 }] }

/-- Address space 0 maps its first GiB onto memory as it lies, so that code can be fetched. -/
def repMemory : State :=
  [(0x10000, 0x20000), (0x20000, 0xF0000000030001), (0x30000, 0x20000000000307)].foldl
    (fun s (x : Nat × Nat) => { s.store64 x.1 x.2 with past := [] })
    { State.reset with aon := { State.reset.aon with bases := [0x10001, 0x11001, 0x12001, 0x13001, 0x14001, 0x15001], bringUp := 6 } }

/-- That sub-gang is about to issue. -/
def repState : State :=
  { (repMemory.placeWords .latency [0]).modCrew 0 repCrew with turn := some (.issue repUnit Prefix.plain) }

/-- The unit as its instruction sees it. -/
def repCtx : Ctx :=
  (repState.ctx? repUnit Prefix.plain).getD
    { u := repUnit, crew := loneCrew .latency 0 [], all := [], act := [], kd := 0, ka := 0, kb := 0, kc := 0 }

theorem repCtx_ready : Ready (.repL 3 1 1 1 0) repState repUnit Prefix.plain repCtx := by decide +kernel

theorem repCtx_lane : repCtx.all = [1] ∧ repCtx.kind.isL = true := by decide +kernel

/-- The word after is a NOP's, fetched from a line that no engine owns. -/
theorem repCtx_fetches :
    (repCtx.start Prefix.plain repState).fetchHeld repCtx.core repCtx.asid repCtx.priv ((repCtx.fibre 1).codeVa (repCtx.pc + 12)) = false
      ∧ ((repCtx.start Prefix.plain repState).fetch repCtx.core repCtx.asid repCtx.priv repCtx.u.crew repCtx.crew.pair
          ((repCtx.fibre 1).codeVa (repCtx.pc + 12))).2.toOption = some 0 := by decide +kernel

/-- The repeat that lane 1 stands under after a step. -/
def repAfter (o : Host.Outcome State Fault Refusal) : Option (Option Rep) :=
  match o with
  | .next t => some (t.fibreAt 0 1).rep
  | _ => none

/-- Lane 1 goes on as lane 0 does. -/
theorem repAfter_repL : repAfter (exec (.repL 3 1 1 1 0) repState) = some none := by decide +kernel

end Sys2Proof.Machine
end

section
open Sys2Proof Sys2Proof.Machine

/-- Refutes O19: a sub-gang that issues REP in L meets, at the next doubleword, another sub-gang of its gang with a lower lane; merged, it
goes on as that lane did, so its fibre stands under no repeat. -/
theorem not_repeatAndBranch : ¬ Obligations.RepeatAndBranch := by
  unfold Obligations.RepeatAndBranch
  rintro ⟨hrep, -⟩
  obtain ⟨hall, hL⟩ := repCtx_lane
  obtain ⟨hheld, hword⟩ := repCtx_fetches
  obtain ⟨-, hl⟩ := hrep 3 1 1 1 0 (.repL 3 1 1 1 0) (by simp) repState repUnit Prefix.plain repCtx repCtx_ready
  have hlead : repCtx.all.headD 0 = 1 := by rw [hall]; rfl
  rw [hlead] at hl
  cases hf : (repCtx.start Prefix.plain repState).fetch repCtx.core repCtx.asid repCtx.priv repCtx.u.crew repCtx.crew.pair
      ((repCtx.fibre 1).codeVa (repCtx.pc + 12)) with
  | mk s' r =>
    rw [hf] at hword
    cases r with
    | error e => cases hword
    | ok w =>
      obtain rfl : w = 0 := Option.some.inj hword
      obtain ⟨t, ht, -, hgo⟩ := hl hL s' 0 hheld hf (eq_false (by decide))
      have h1 := (hgo 1 (by simp [hall])).1
      have h2 := repAfter_repL
      rw [ht] at h2
      have h3 : (t.fibreAt 0 1).rep = none := Option.some.inj h2
      rw [show t.fibreAt repUnit.crew 1 = t.fibreAt 0 1 from rfl, h3] at h1
      cases h1
end

section
/-!
The state right after reset (O45).
-/
namespace Sys2Proof.Machine

/-- Every sparse part of the state is empty right after reset. -/
theorem reset_canonical : State.reset.Canonical :=
  ⟨rfl, rfl, rfl, rfl, rfl, rfl, rfl, rfl, rfl, rfl, fun _ hk => nomatch hk⟩

/-- No base register is locked, so no table is walked (R356). -/
theorem reset_table? (k : Nat) : State.reset.table? k = none := by
  unfold State.table?
  split
  · rename_i r hr
    have h0 : r = 0 := List.eq_of_mem_replicate (List.mem_of_getElem? hr)
    rw [h0]; rfl
  · rfl

/-- The islands' nominal clocks (R352). -/
theorem getD_nominalIslands {i : Nat} (h : i < 32) : nominalIslands.getD i 0 = if i < 24 ∧ i % 3 = 2 then 2800 else 1400 := by
  simp [nominalIslands, List.getD, h]

end Sys2Proof.Machine

end

section
open Sys2Proof Sys2Proof.Machine

/-- Settles O45: each part of the reset state is read off its definition. -/
theorem resetLeavesAsSaid : Obligations.ResetLeavesAsSaid := by
  refine ⟨rfl, rfl, rfl, rfl, rfl, rfl, rfl, rfl, rfl, rfl, rfl, rfl, rfl, rfl, rfl, rfl, rfl, rfl, fun _ _ => rfl,
    fun n => ⟨rfl, rfl, rfl, rfl⟩, rfl, fun r hr => ?_, reset_table?, rfl, rfl, fun i hi => ?_, fun i hl hi => ?_, reset_canonical⟩
  · rw [List.eq_of_mem_replicate hr]; rfl
  · exact (getD_nominalIslands (by omega)).trans (by simp [hi])
  · exact (getD_nominalIslands hi).trans (by simp [show ¬ i < 24 by omega])
end

section
/-!
What every operation of the machine keeps (O46, O47): the canonical form of physical memory, and that of the other sparse parts.
-/
namespace Sys2Proof.Machine

-- One proof after another: so many short ones, elaborated at once, ask for more threads than the memory limit has room for.
set_option Elab.async false

/-- From one state to another the canonical form of physical memory is kept, and so is that of the other sparse parts. -/
structure Keeps (o t : State) : Prop where
  mem : o.MemoryCanonical → t.MemoryCanonical
  lists : o.ListsCanonical → t.ListsCanonical

/-- A crew's scratchpad and tiles are in canonical form. -/
abbrev Crew.Canonical (k : Crew) : Prop := Memory.wf k.scr = true ∧ swf Reg.zero k.tiles = true

/-- From one crew to another the canonical form of the scratchpad is kept, and so is that of the tiles. -/
structure KeepsCrew (k k' : Crew) : Prop where
  scr : Memory.wf k.scr = true → Memory.wf k'.scr = true
  tiles : swf Reg.zero k.tiles = true → swf Reg.zero k'.tiles = true

theorem KeepsCrew.refl (k : Crew) : KeepsCrew k k := ⟨id, id⟩

theorem KeepsCrew.canonical {k k' : Crew} (h : KeepsCrew k k') (hk : k.Canonical) : k'.Canonical := ⟨h.scr hk.1, h.tiles hk.2⟩

section
variable {o k : Crew} (h : KeepsCrew o k)
include h

/-- Neither scratchpad nor tiles change. -/
theorem KeepsCrew.same {k' : Crew} (e : k'.scr = k.scr := by rfl) (e' : k'.tiles = k.tiles := by rfl) : KeepsCrew o k' :=
  ⟨fun hs => by rw [e]; exact h.scr hs, fun ht => by rw [e']; exact h.tiles ht⟩

theorem KeepsCrew.foldl {α : Type} {g : Crew → α → Crew} {l : List α} (hg : ∀ k x, KeepsCrew o k → KeepsCrew o (g k x)) :
    KeepsCrew o (l.foldl g k) := by
  induction l generalizing k with
  | nil => exact h
  | cons x l ih => exact ih (hg k x h)

/-- Either of two crews. -/
theorem KeepsCrew.ite {p : Prop} [Decidable p] {k' : Crew} (h' : KeepsCrew o k') : KeepsCrew o (if p then k else k') := by
  split <;> assumption

end

/-- The state in which an effect leaves the machine. -/
def Eff.state : Eff → State
  | .next s => s
  | .jump s _ => s
  | .stay s => s
  | .left s => s
  | .raise s _ _ _ _ _ => s
  | .deferred s _ => s
  | .endLaunch s _ => s

/-- The state of an effect that some check answers; `d` where it answers none. -/
def effOr (d : State) : Option Eff → State
  | some e => e.state
  | none => d

/-- The state in which a check leaves the machine, whether it passes or ends in an effect. -/
def checkState {α : Type} : Except Eff (State × α) → State
  | .ok r => r.1
  | .error e => e.state

theorem Keeps.refl (s : State) : Keeps s s := ⟨id, id⟩

theorem Keeps.trans {r s t : State} (h : Keeps r s) (h' : Keeps s t) : Keeps r t := ⟨h'.mem ∘ h.mem, h'.lists ∘ h.lists⟩

/-- The sparse parts of a state, and the crews. -/
def State.sparse (s : State) :=
  (s.mem, s.cores, s.queues, s.graphs, s.gens, s.spaces, s.traps, s.l2, s.encOwner, s.aon.other, s.crews)

/-- The state that a pair holds. -/
theorem Keeps.of_fst {α : Type} {a : α} {o t : State} {p : State × α} (h : Keeps o p.1) (e : p = (t, a)) : Keeps o t := by rwa [e] at h

/-- The state that an option holds. -/
theorem Keeps.of_some {o d t : State} {p : Option State} (h : Keeps o (p.getD d)) (e : p = some t) : Keeps o t := by rwa [e] at h

/-- The state of the effect that a check answers. -/
theorem Keeps.of_eff {o d : State} {x : Eff} {p : Option Eff} (h : Keeps o (effOr d p)) (e : p = some x) : Keeps o x.state := by
  rwa [e] at h

/-- The state that a check that passes leaves. -/
theorem Keeps.of_ok {α : Type} {a : α} {o t : State} {p : Except Eff (State × α)} (h : Keeps o (checkState p)) (e : p = .ok (t, a)) :
    Keeps o t := by rwa [e] at h

/-- The state of the effect in which a check that fails ends. -/
theorem Keeps.of_error {α : Type} {o : State} {x : Eff} {p : Except Eff (State × α)} (h : Keeps o (checkState p)) (e : p = .error x) :
    Keeps o x.state := by rwa [e] at h

theorem mem_modify {α : Type} {f : α → α} {x : α} : ∀ {l : List α} {n : Nat}, x ∈ l.modify n f → x ∈ l ∨ ∃ y ∈ l, x = f y := by
  intro l n hx
  obtain ⟨i, hi⟩ := List.mem_iff_getElem?.1 hx
  rw [List.getElem?_modify] at hi
  cases hl : l[i]? with
  | none => simp [hl] at hi
  | some y =>
    rw [hl] at hi
    split at hi
    · exact .inr ⟨y, List.mem_of_getElem? hl, (Option.some.inj hi).symm⟩
    · exact .inl (Option.some.inj hi ▸ List.mem_of_getElem? hl)

theorem Keeps.someEff {o d : State} {e : Eff} (h : Keeps o e.state) : Keeps o (effOr d (some e)) := h
theorem Keeps.error {α : Type} {o : State} {e : Eff} (h : Keeps o e.state) : Keeps o (checkState (α := α) (.error e)) := h

/-- What a check answers, or another effect. -/
theorem Keeps.getEff {o d : State} {p : Option Eff} {e : Eff} (h : Keeps o (effOr d p)) (h' : Keeps o e.state) : Keeps o (p.getD e).state := by
  cases p
  · exact h'
  · exact h

theorem Keeps.iteFst {α : Type} {o : State} {p : Prop} [Decidable p] {a b : State × α} (h : Keeps o a.1) (h' : Keeps o b.1) :
    Keeps o (if p then a else b).1 := by split <;> assumption

theorem Keeps.iteEff {o : State} {p : Prop} [Decidable p] {a b : Eff} (h : Keeps o a.state) (h' : Keeps o b.state) :
    Keeps o (if p then a else b).state := by split <;> assumption

section
variable {o s : State} (h : Keeps o s)
include h

/-- Nothing sparse changes. -/
theorem Keeps.same {t : State} (e : t.sparse = s.sparse := by rfl) : Keeps o t := by
  simp only [State.sparse, Prod.mk.injEq] at e
  obtain ⟨e1, e2, e3, e4, e5, e6, e7, e8, e9, e10, e11⟩ := e
  exact ⟨fun hm => by unfold State.MemoryCanonical; rw [e1]; exact h.mem hm,
    fun hl => by unfold State.ListsCanonical; rw [e2, e3, e4, e5, e6, e7, e8, e9, e10, e11]; exact h.lists hl⟩

theorem Keeps.foldl {α : Type} {g : State → α → State} {l : List α} (hg : ∀ t x, Keeps o t → Keeps o (g t x)) :
    Keeps o (l.foldl g s) := by
  induction l generalizing s with
  | nil => exact h
  | cons x l ih => exact ih (hg s x h)

/-- Either of two states. -/
theorem Keeps.ite {p : Prop} [Decidable p] {t : State} (h' : Keeps o t) : Keeps o (if p then s else t) := by split <;> assumption

theorem Keeps.pair {α : Type} {a : α} : Keeps o (s, a).1 := h
theorem Keeps.nextEff : Keeps o (Eff.next s).state := h
theorem Keeps.jumpEff {ts} : Keeps o (Eff.jump s ts).state := h
theorem Keeps.stayEff : Keeps o (Eff.stay s).state := h
theorem Keeps.leftEff : Keeps o (Eff.left s).state := h
theorem Keeps.raiseEff {cause sub info lanes entries} : Keeps o (Eff.raise s cause sub info lanes entries).state := h
theorem Keeps.deferredEff {d} : Keeps o (Eff.deferred s d).state := h
theorem Keeps.endEff {cause} : Keeps o (Eff.endLaunch s cause).state := h
theorem Keeps.someState {d : State} : Keeps o ((some s).getD d) := h
theorem Keeps.ok {α : Type} {a : α} : Keeps o (checkState (.ok (s, a))) := h

/-- Crews among which each is canonical where those of the state are. -/
theorem Keeps.crews {t : State} {ks : List Crew} (hk : (∀ k ∈ s.crews, k.Canonical) → ∀ k ∈ ks, k.Canonical)
    (e : t.sparse = { s with crews := ks }.sparse := by rfl) : Keeps o t :=
  Keeps.same (s := { s with crews := ks }) ⟨h.mem, fun hl => by
    obtain ⟨h1, h2, h3, h4, h5, h6, h7, h8, h9, hc⟩ := h.lists hl
    exact ⟨h1, h2, h3, h4, h5, h6, h7, h8, h9, hk hc⟩⟩ e

/-- A line taken under a key (R130). -/
theorem Keeps.setKey {t : State} {n x} (e : t.sparse = { s with encOwner := sset 0 n x s.encOwner }.sparse := by rfl) : Keeps o t :=
  Keeps.same (s := { s with encOwner := sset 0 n x s.encOwner }) ⟨h.mem, fun hl => by
    obtain ⟨h1, h2, h3, h4, h5, h6, h7, h8, hr⟩ := h.lists hl
    exact ⟨h1, h2, h3, h4, h5, h6, h7, swf_sset _ _ _ h8, hr⟩⟩ e

/-- A sector allocated, made dirty or given up (R129). -/
theorem Keeps.setL2 {t : State} {n x} (e : t.sparse = { s with l2 := sset none n x s.l2 }.sparse := by rfl) : Keeps o t :=
  Keeps.same (s := { s with l2 := sset none n x s.l2 }) ⟨h.mem, fun hl => by
    obtain ⟨h1, h2, h3, h4, h5, h6, h7, hr⟩ := h.lists hl
    exact ⟨h1, h2, h3, h4, h5, h6, swf_sset _ _ _ h7, hr⟩⟩ e

/-- A generation at a die (R105). -/
theorem Keeps.setGen {t : State} {n x} (e : t.sparse = { s with gens := sset 0 n x s.gens }.sparse := by rfl) : Keeps o t :=
  Keeps.same (s := { s with gens := sset 0 n x s.gens }) ⟨h.mem, fun hl => by
    obtain ⟨h1, h2, h3, h4, hr⟩ := h.lists hl
    exact ⟨h1, h2, h3, swf_sset _ _ _ h4, hr⟩⟩ e

theorem Keeps.modCore {n f} : Keeps o (s.modCore n f) :=
  ⟨h.mem, fun hl => ⟨swf_sset _ _ _ (h.lists hl).1, (h.lists hl).2⟩⟩

theorem Keeps.modQueue {n f} : Keeps o (s.modQueue n f) := ⟨h.mem, fun hl => by
  obtain ⟨h1, h2, hr⟩ := h.lists hl; exact ⟨h1, swf_sset _ _ _ h2, hr⟩⟩

theorem Keeps.modGraph {n f} : Keeps o (s.modGraph n f) := ⟨h.mem, fun hl => by
  obtain ⟨h1, h2, h3, hr⟩ := h.lists hl; exact ⟨h1, h2, swf_sset _ _ _ h3, hr⟩⟩

/-- A crew changed so that it stays canonical. -/
theorem Keeps.modCrew {n f} (hf : ∀ k, KeepsCrew k (f k) := by exact fun _ => ⟨id, id⟩) : Keeps o (s.modCrew n f) :=
  h.crews fun hc k hk => by
    rcases mem_modify hk with hk | ⟨y, hy, rfl⟩
    · exact hc k hk
    · exact (hf y).canonical (hc y hy)

/-- One crew put in the place of another. -/
theorem Keeps.setCrew {t : State} {c : Nat} {k k' : Crew} (hk : s.crews[c]? = some k)
    (e : t.sparse = { s with crews := s.crews.set c k' }.sparse := by rfl) (hk' : KeepsCrew k k' := by exact ⟨id, id⟩) : Keeps o t :=
  h.crews (fun hc x hx => by
    rcases List.mem_or_eq_of_mem_set hx with hx | rfl
    · exact hc x hx
    · exact hk'.canonical (hc k (List.mem_of_getElem? hk))) e

/-- Every crew changed so that it stays canonical. -/
theorem Keeps.mapCrews {t : State} {f : Crew → Crew} (e : t.sparse = { s with crews := s.crews.map f }.sparse := by rfl)
    (hf : ∀ k, KeepsCrew k (f k) := by exact fun _ => ⟨id, id⟩) : Keeps o t :=
  h.crews (fun hc x hx => by
    obtain ⟨k, hk, rfl⟩ := List.mem_map.1 hx
    exact (hf k).canonical (hc k hk)) e

theorem Keeps.modFibres {c is g} : Keeps o (s.modFibres c is g) := h.modCrew

theorem Keeps.modLaunch {n f} : Keeps o (s.modLaunch n f) := h.same

theorem Keeps.store {pa bs} : Keeps o (s.store pa bs) := ⟨fun hm => State.canonical_store _ _ _ (h.mem hm), h.lists⟩

end

end Sys2Proof.Machine
end

section
/-!
What the operations of memory, of translation, of crews and of faults keep (O46, O47).
-/
namespace Sys2Proof.Machine

-- One proof after another: so many short ones, elaborated at once, ask for more threads than the memory limit has room for.
set_option Elab.async false

section
variable {o s : State} (h : Keeps o s)
include h

theorem Keeps.store64 {pa v} : Keeps o (s.store64 pa v) := h.store

theorem Keeps.store32 {pa v} : Keeps o (s.store32 pa v) := h.store

theorem Keeps.draw : Keeps o s.draw := h.same

theorem Keeps.post {w} : Keeps o (s.post w) := by
  unfold State.post
  split
  · split
    · exact h.modQueue
    · exact h.same
  · split
    · exact h.modGraph
    · exact h.same

theorem Keeps.release {scope q} : Keeps o (s.release scope q).1 := h.same

theorem Keeps.releasing {m} : Keeps o (s.releasing m).1 := by
  unfold State.releasing
  split
  · split
    exact (h.release.of_fst ‹_›).pair
  · exact h

theorem Keeps.passUnder {m crew pa bs} : Keeps o (s.passUnder m crew pa bs).1 := by
  unfold State.passUnder
  split
  · exact h
  · split
    · dsimp only
      split <;> exact h.same
    · exact h.draw.pair

theorem Keeps.storeOne {m pa bs} : Keeps o (s.storeOne m pa bs) := by
  unfold State.storeOne
  split
  · exact h.passUnder.of_fst ‹_›
  · exact (h.passUnder.of_fst ‹_›).store.same

theorem Keeps.storeAs {m pa bs} : Keeps o (s.storeAs m pa bs) := by
  unfold State.storeAs
  split
  split
  · exact (h.releasing.of_fst ‹_›).storeOne.storeOne
  · exact (h.releasing.of_fst ‹_›).storeOne

theorem Keeps.noteScr {m crew off old} : Keeps o (s.noteScr m crew off old) := by
  unfold State.noteScr
  split
  split <;> exact (h.releasing.of_fst ‹_›).same

theorem Keeps.noteIssue {q order} : Keeps o (s.noteIssue q order) := h.same

theorem Keeps.renote {c old new} : Keeps o (s.renote c old new) := h.same

theorem Keeps.settleScr {c off n} : Keeps o (s.settleScr c off n) := h.same

theorem Keeps.landScr {c off ts old} : Keeps o (s.landScr c off ts old) := h.same

theorem Keeps.issueTags {scratch order l} : Keeps o (s.issueTags scratch order l).1 := by
  induction l generalizing s with
  | nil => exact h
  | cons q qs ih =>
    unfold State.issueTags
    cases scratch
    · exact ih h.noteIssue
    · exact ih h.release

theorem Keeps.takeKey {asid enc pa} : Keeps o (s.takeKey asid enc pa) := by
  unfold State.takeKey
  split
  · exact (h.ite h.store).setKey
  · exact h

theorem Keeps.tellSignals {pa n} : Keeps o (s.tellSignals pa n) := h.foldl fun _ _ h => h.modQueue.post

theorem Keeps.mergeElement {p} : Keeps o (s.mergeElement p) := h.takeKey.storeAs.tellSignals

theorem Keeps.mergeLine {line} : Keeps o (s.mergeLine line) := h.foldl fun _ _ h => h.same.mergeElement

theorem Keeps.evictSector {line} : Keeps o (s.evictSector line) := by
  unfold State.evictSector
  dsimp only
  split
  · exact h.mergeLine
  · exact h.mergeLine.setL2

theorem Keeps.touchSector {mtype line write whole} : Keeps o (s.touchSector mtype line write whole) := by
  unfold State.touchSector
  split
  · exact h
  · split
    · split
      · exact h.setL2
      · exact h
    · exact (h.foldl fun _ _ h => h.evictSector).setL2

theorem Keeps.contribute {p} : Keeps o (s.contribute p) := by
  unfold State.contribute
  dsimp only
  split
  · exact (h.touchSector.mergeLine.ite h.touchSector).same
  · split
    · split <;> exact h.touchSector.mergeLine.same
    · split <;> exact h.touchSector.same

theorem Keeps.shrinkL2 {die n} : Keeps o (s.shrinkL2 die n) := by
  induction n generalizing s with
  | zero => exact h
  | succ m ih =>
    unfold State.shrinkL2
    split
    · exact h
    · exact ih (h.foldl fun _ _ h => h.evictSector)

theorem Keeps.cleanSectors {pa n} : Keeps o (s.cleanSectors pa n) := h.same.ite h

theorem Keeps.homeRead {asid tr pa n} : Keeps o (s.homeRead asid tr pa n).1 := h.mergeLine.touchSector

theorem Keeps.mergeLines {pa n} : Keeps o (s.mergeLines pa n) := by
  unfold State.mergeLines
  split
  · exact h
  · exact h.foldl fun _ _ h => h.mergeLine

theorem Keeps.put {pa bs} : Keeps o (s.put pa bs) := h.mergeLines.store.tellSignals

theorem Keeps.put64 {pa v} : Keeps o (s.put64 pa v) := h.put

theorem Keeps.put32 {pa v} : Keeps o (s.put32 pa v) := h.put

theorem Keeps.putWhole {pa bs} : Keeps o (s.putWhole pa bs) := h.put.same

theorem Keeps.ringEntry {bs} : Keeps o (s.ringEntry bs) := by
  unfold State.ringEntry
  split
  · exact h
  · exact h.put

theorem Keeps.logEntry {kind unit loc asid queue tag addr} : Keeps o (s.logEntry kind unit loc asid queue tag addr) :=
  h.ringEntry.same

theorem Keeps.latchSpace {asid} : Keeps o (s.latchSpace asid) :=
  ⟨h.mem, fun hl => by
    obtain ⟨h1, h2, h3, h4, h5, h6, hr⟩ := h.lists hl
    refine ⟨h1, h2, h3, h4, ?_, ?_, hr⟩
    · change swf none (match s.spaceAt? asid with
        | none => s.spaces
        | some d => sset none asid (some (s.readDesc d)) s.spaces) = true
      split
      · exact h5
      · exact swf_sset _ _ _ h5
    · change swf none (match s.readTraps asid with
        | none => s.traps
        | some b => sset none asid (some b) s.traps) = true
      split
      · exact h6
      · exact swf_sset _ _ _ h6⟩

theorem Keeps.orBit {at_ b} : Keeps o (s.orBit at_ b) := by
  unfold State.orBit
  dsimp only
  split
  · exact h
  · exact h.put64

theorem Keeps.stage2A {asid va need} : Keeps o (s.stage2A asid va need) := h.foldl fun _ _ h => h.orBit

theorem Keeps.logDirty {asid stage addr size} : Keeps o (s.logDirty asid stage addr size) := by
  unfold State.logDirty
  split
  · dsimp only
    split
    · exact h
    · split
      · exact h.put32
      · exact h.put64.put32
  · exact h

theorem Keeps.setDirty {asid stage at_ addr size} : Keeps o (s.setDirty asid stage at_ addr size) := by
  unfold State.setDirty
  split
  · exact h
  · exact h.logDirty.orBit

theorem Keeps.setLeaves {asid va leaf1 size1 leaf2} : Keeps o (s.setLeaves asid va leaf1 size1 leaf2) := by
  unfold State.setLeaves
  dsimp only
  split
  · exact h.setDirty.setDirty
  · exact h.setDirty

theorem Keeps.applyWalk {asid va write w} : Keeps o (s.applyWalk asid va write w) := by
  unfold State.applyWalk
  dsimp only
  split
  · exact (h.foldl fun _ _ h => h.orBit).setLeaves
  · exact h.foldl fun _ _ h => h.orBit

theorem Keeps.mendWalk {core asid va} : Keeps o (s.mendWalk core asid va) := by
  unfold State.mendWalk
  split
  · exact h
  · dsimp only
    exact h.same.foldl fun _ _ h => by
      split
      · exact h.logEntry
      · exact h.logEntry
      · exact h

theorem Keeps.fillTlb {core asid va need} : Keeps o (s.fillTlb core asid va need).1 := by
  unfold State.fillTlb
  dsimp only
  split
  · exact h.mendWalk.stage2A.pair
  · exact h.mendWalk.applyWalk.modCore.pair

theorem Keeps.dirtyThrough {core asid va need e} : Keeps o (s.dirtyThrough core asid va need e).1 := by
  unfold State.dirtyThrough
  split
  · exact h.setLeaves.modCore.pair
  · exact h.fillTlb

theorem Keeps.translate {core asid va need} : Keeps o (s.translate core asid va need).1 := by
  unfold State.translate
  split
  · exact h.fillTlb
  · dsimp only
    split
    · split
      · exact h
      · split
        · exact h.dirtyThrough
        · exact h
    · split
      · exact h.draw.fillTlb
      · split
        · exact h.draw.pair
        · split
          · exact h.draw.dirtyThrough
          · exact h.draw.pair

theorem Keeps.orderTest {kind unit loc addr} : Keeps o (s.orderTest kind unit loc addr) := by
  unfold State.orderTest
  split
  · exact h.same
  · exact h

theorem Keeps.logError {kind unit loc asid queue tag addr} : Keeps o (s.logError kind unit loc asid queue tag addr) :=
  h.orderTest.logEntry

theorem Keeps.logAgent {unit asid queue tag pa} : Keeps o (s.logAgent unit asid queue tag pa) := h.orderTest.draw.logEntry

theorem Keeps.devMeets {asid pa n} : Keeps o (s.devMeets asid pa n) := by
  unfold State.devMeets
  dsimp only
  split
  · exact (h.same.logEntry.ite h).logAgent
  · exact h.same.logEntry.ite h

theorem Keeps.devReadMeets {asid va n} : Keeps o (s.devReadMeets asid va n) := by
  unfold State.devReadMeets
  split
  · exact h
  · exact h.foldl fun _ _ h => h.devMeets

theorem Keeps.snapshotGranule {asid pa} : Keeps o (s.snapshotGranule asid pa).1 := by
  unfold State.snapshotGranule
  split
  · exact h
  · dsimp only
    split
    · exact h
    · split
      · exact h
      · exact h.putWhole.put.put32.pair

theorem Keeps.onActive {c : Ctx} {g} : Keeps o (c.onActive g s) := h.modFibres

theorem Keeps.peeked {asid va} : Keeps o (s.peeked asid va) := h.devReadMeets.stage2A

theorem Keeps.peekedAll {asid vas} : Keeps o (s.peekedAll asid vas) := h.foldl fun _ _ h => h.peeked

theorem Keeps.dropL1 {core line} : Keeps o (s.dropL1 core line) := h.modCore

theorem Keeps.deviceStore {core asid tr pa bs} : Keeps o (s.deviceStore core asid tr pa bs) := by
  unfold State.deviceStore
  exact ((h.foldl fun _ _ h => h.mergeLine.takeKey).foldl fun _ _ h => h.touchSector).store.cleanSectors.tellSignals.modCore

theorem Keeps.poke {core asid va n l} : Keeps o (s.poke core asid va n l) := by
  induction n generalizing s va l with
  | zero => exact h
  | succ m ih =>
    unfold State.poke
    split
    · exact h
    · dsimp only
      split
      · exact ih h.peeked
      · exact ih h.applyWalk.deviceStore

theorem Keeps.logCrew {kind unit c addr} : Keeps o (s.logCrew kind unit c addr) := by
  unfold State.logCrew
  split
  · exact h
  · exact h.logError

theorem Keeps.logSilent {unit c addr} : Keeps o (s.logSilent unit c addr) := by
  unfold State.logSilent
  split
  · exact h
  · exact h.orderTest.draw.logEntry

theorem Keeps.correctAt {c pa n} : Keeps o (s.correctAt c pa n) := h.ite (h.same.foldl fun _ _ h => h.logCrew)

theorem Keeps.fetch {core asid priv c pair va} : Keeps o (s.fetch core asid priv c pair va).1 := by
  unfold State.fetch
  split
  · exact h
  · exact (h.translate.of_fst ‹_›).pair
  · split
    · exact (h.translate.of_fst ‹_›).pair
    · exact (h.translate.of_fst ‹_›).pair
    · split
      dsimp only
      split
      · exact ((h.translate.of_fst ‹_›).correctAt.homeRead.of_fst ‹_›).modCore.pair
      · exact ((h.translate.of_fst ‹_›).correctAt.homeRead.of_fst ‹_›).draw.modCore.pair

theorem Keeps.fetchWords {core asid priv c pair va n} : Keeps o (s.fetchWords core asid priv c pair va n).1 := by
  induction n generalizing s va with
  | zero => exact h
  | succ m ih =>
    unfold State.fetchWords
    split
    · exact (h.fetch.of_fst ‹_›).pair
    · split <;> exact ((ih (h.fetch.of_fst ‹_›)).of_fst ‹_›).pair

theorem Keeps.revokeMirrors {before core} : Keeps o (s.revokeMirrors before core) :=
  (h.modCore.foldl fun _ _ h => h.logCrew).ite h

theorem Keeps.restoreMirrors {core} : Keeps o (s.restoreMirrors core) := h.modCore

theorem Keeps.allotLoose {c is} : Keeps o (s.allotLoose c is) := by
  unfold State.allotLoose
  exact h.foldl fun _ _ h => by
    split
    · exact h
    · dsimp only
      split
      · exact h
      · exact h.modFibres.modFibres

theorem Keeps.charge {q d} : Keeps o (s.charge q d) := by
  unfold State.charge
  exact h.modQueue

theorem Keeps.done : Keeps o s.done := h.same

theorem Keeps.leaveCore {c} : Keeps o (s.leaveCore c) := by
  unfold State.leaveCore
  split
  · exact h
  · exact h.modCore.restoreMirrors

theorem Keeps.settleCrew {c} : Keeps o (s.settleCrew c) := h.same

theorem Keeps.settleCarve {core} : Keeps o (s.settleCarve core) := h.modCore

theorem Keeps.chargeBack {q est last cost} : Keeps o (s.chargeBack q est last cost) := h.charge.modQueue

theorem Keeps.endCrew {c} : Keeps o (s.endCrew c) := by
  unfold State.endCrew
  split
  · exact h
  · exact h.modCrew.leaveCore.settleCrew.settleCarve.chargeBack.modLaunch

theorem Keeps.checkCrewEnd {c} : Keeps o (s.checkCrewEnd c) := by
  unfold State.checkCrewEnd
  split
  · exact h
  · split
    · exact h.endCrew
    · exact h

theorem Keeps.stopCrews {l} : Keeps o (s.stopCrews l) := by
  unfold State.stopCrews
  dsimp only
  refine Keeps.same (s := List.foldl _ s (List.range s.crews.length)) (h.foldl fun t c h => ?_)
  split
  · split
    · exact h.endCrew
    · exact h
  · exact h

theorem Keeps.endLaunch {l cause} : Keeps o (s.endLaunch l cause) := h.modLaunch.stopCrews

end

section
variable {o k : Crew} (h : KeepsCrew o k)
include h

theorem KeepsCrew.modTokens {u g} : KeepsCrew o (k.modTokens u g) := by
  unfold Crew.modTokens
  split <;> exact h.same

theorem KeepsCrew.modFibres {is g} : KeepsCrew o (k.modFibres is g) := h.same

theorem KeepsCrew.regroup {g} : KeepsCrew o (k.regroup g) := h.same

theorem KeepsCrew.enterBin {now i} : KeepsCrew o (k.enterBin now i) := by
  unfold Crew.enterBin
  split <;> exact h.same

theorem KeepsCrew.rebin {now b} : KeepsCrew o (k.rebin now b) := by
  unfold Crew.rebin
  dsimp only
  exact h.same.foldl fun _ _ h => by
    split
    · exact h
    · exact h.enterBin

theorem KeepsCrew.regroupAll : KeepsCrew o k.regroupAll := h.foldl fun _ _ h => h.regroup

theorem KeepsCrew.withHandler {h' now base pc blocks} : KeepsCrew o (k.withHandler h' now base pc blocks) := h.same

end

section
variable {o s : State} (h : Keeps o s)
include h

theorem Keeps.settle {u} : Keeps o (s.settle u) := by
  unfold State.settle
  exact h.modCrew fun k => by
    split
    · exact (KeepsCrew.refl k).regroup
    · split
      · exact KeepsCrew.refl k
      · exact (KeepsCrew.refl k).rebin

theorem Keeps.deliver {c h'} : Keeps o (s.deliver c h') := by
  unfold State.deliver
  split
  · exact h
  · split
    · exact h.endLaunch
    · dsimp only
      split
      · exact (h.setCrew ‹_›).allotLoose.revokeMirrors.peekedAll.poke
      · exact h.modCrew

theorem Keeps.discardPairs {l} : Keeps o (s.discardPairs l) :=
  h.mapCrews (hf := by exact fun k => (KeepsCrew.refl k).same.ite (KeepsCrew.refl k))

theorem Keeps.stopProtected {l cause} : Keeps o (s.stopProtected l cause) := by
  unfold State.stopProtected
  split
  · exact h
  · split
    · exact h.stopCrews.discardPairs.modLaunch
    · exact h.endLaunch

theorem Keeps.noteError {k x} : Keeps o (s.noteError k x) := by
  unfold State.noteError
  split
  · exact h.modLaunch
  · exact h

theorem Keeps.takeFault {u x token} : Keeps o (s.takeFault u x token) := by
  unfold State.takeFault
  split
  · exact h
  · exact h.noteError.stopProtected.ite (h.noteError.endLaunch.ite (h.noteError.modFibres.ite (h.noteError.modCrew.ite h.noteError.deliver)))

end

end Sys2Proof.Machine
end

section
/-!
What the issue of an instruction, the ordering of accesses and the accesses of a core keep (O46, O47).
-/
namespace Sys2Proof.Machine

-- One proof after another: so many short ones, elaborated at once, ask for more threads than the memory limit has room for.
set_option Elab.async false

section
variable {o s : State} (h : Keeps o s)
include h

omit h in
theorem KeepsCrew.answerDeferred {k k' : Crew} (h : KeepsCrew k k') {s' : State} {u token skip} :
    KeepsCrew k (s'.answerDeferred k' u token skip) := by
  unfold State.answerDeferred
  split
  · exact h
  · dsimp only
    split <;> exact h.modTokens.same

theorem Keeps.trapReturn {u link} : Keeps o ((s.trapReturn u link).getD o) := by
  unfold State.trapReturn
  split
  · exact Keeps.refl o
  · split
    · exact Keeps.refl o
    · dsimp only
      refine iteInduction (motive := fun x : Option State => Keeps o (x.getD o)) (fun _ => Keeps.refl o) fun _ => ?_
      refine Keeps.someState (Keeps.settle (Keeps.foldl (Keeps.foldl (h.setCrew ‹_› (hk' := KeepsCrew.regroupAll ?_))
        fun _ _ h => h.renote) fun _ _ h => h.dropL1))
      split
      · exact (KeepsCrew.refl _).same.answerDeferred
      · exact (KeepsCrew.refl _).same

theorem Keeps.serveRegs {c i} : Keeps o (s.serveRegs c i) := by
  unfold State.serveRegs
  dsimp only
  split
  · exact h.foldl fun _ _ h => h.logCrew
  · exact (h.foldl fun _ _ h => h.logCrew).same.foldl fun _ _ h => by
      split
      · exact h.logCrew
      · exact h

theorem Keeps.without {ps} : Keeps o (s.without ps) := h.same

omit h in
theorem Keeps.fresh {e : Eff} (h : Keeps o e.state) {ps} : Keeps o (e.fresh ps).state := by
  unfold Eff.fresh
  split
  · exact h
  · split
    · exact Keeps.without (s := Eff.state (.next _)) h
    · exact Keeps.without (s := Eff.state (.jump _ _)) h
    · exact h

theorem Keeps.raiseAll {c : Ctx} {cause info} : Keeps o (c.raiseAll s cause info).state := h

theorem Keeps.eccFault {l} : Keeps o (effOr o (eccFault s l)) := by
  unfold Sys2Proof.Machine.eccFault
  split
  · exact Keeps.refl o
  · exact h

theorem Keeps.check {c : Ctx} {pf i rep} : Keeps o (effOr o (c.check pf i rep s)) := by
  unfold Ctx.check
  dsimp only
  split
  · exact h.raiseAll.someEff
  · split
    · exact h.raiseAll.someEff
    · split
      · exact h.raiseAll.someEff
      · split
        · exact h.raiseAll.someEff
        · split
          · exact h
          · split
            · exact h.modCrew.stayEff.someEff
            · split
              · exact Keeps.refl o
              · exact h

theorem Keeps.observe {c : Ctx} {mask} : Keeps o (effOr o (c.observe mask s)) := by
  unfold Ctx.observe
  dsimp only
  split
  · cases (c.crew.tokens c.u.kind).deferred.find? fun d => mask.getLsbD d.token with
    | none => exact Keeps.refl o
    | some d => exact h
  · exact h.modFibres.stayEff.someEff

theorem Keeps.tokenWait {c : Ctx} {pf hdr} : Keeps o (effOr o (c.tokenWait pf hdr s)) := by
  unfold Ctx.tokenWait
  dsimp only
  split
  · exact Keeps.refl o
  · exact h.observe

theorem Keeps.stopAtDovetail {c : Ctx} : Keeps o (c.stopAtDovetail s) := h.modCore.modFibres

theorem Keeps.begin {c : Ctx} {pf} : Keeps o (c.begin pf s) := by
  unfold Ctx.begin
  dsimp only
  split
  · exact (h.ite h.modFibres).modFibres
  · split
    · exact h
    · exact h.modFibres

theorem Keeps.stamped {c : Ctx} : Keeps o (c.stamped s) := h.modFibres

theorem Keeps.start {c : Ctx} {pf} : Keeps o (c.start pf s) := h.stamped.begin

theorem Keeps.raiseLoose {c : Ctx} {ps} : Keeps o (c.raiseLoose ps s) := by
  unfold Ctx.raiseLoose
  split
  · exact h.modFibres
  · split
    · exact h
    · exact h.modFibres.takeFault

theorem Keeps.dropLate {c : Ctx} {regs} : Keeps o (c.dropLate regs s) := h.modFibres

theorem Keeps.useLate {c : Ctx} {i} : Keeps o (c.useLate i s) := by
  unfold Ctx.useLate
  split
  · exact h.modFibres
  · exact h.dropLate

theorem Keeps.keepDraws {t} : Keeps o (s.keepDraws t) := h.same

theorem Keeps.keepWalks {t asid vas} : Keeps o (s.keepWalks t asid vas) := h.keepDraws.foldl fun _ _ h => h.orBit

theorem Keeps.waitFor {c : Ctx} {w} : Keeps o (c.waitFor w s).state := h.modFibres.stayEff

theorem Keeps.writeLanes {c d g} : Keeps o (writeLanes c d g s).state := h.onActive.nextEff

theorem Keeps.writePairs {c d g} : Keeps o (writePairs c d g s).state := h.onActive.nextEff

theorem Keeps.writePreds {c p g} : Keeps o (writePreds c p g s).state := h.onActive.nextEff

theorem Keeps.writeEach {c d g} : Keeps o (writeEach c d g s).state := h.modFibres.nextEff

theorem Keeps.takeTags {scope q ts} : Keeps o (s.takeTags scope q ts) := by
  unfold State.takeTags
  split
  · exact h
  · exact h.same

theorem Keeps.hear {q ts} : Keeps o (s.hear q ts) := by
  unfold State.hear
  split
  · exact h
  · exact h.same

theorem Keeps.acquireAs {scope since q} : Keeps o (s.acquireAs scope since q) := h.takeTags

theorem Keeps.acquireNow {scope qs} : Keeps o (s.acquireNow scope qs) := h.foldl fun _ _ h => h.acquireAs

theorem Keeps.releaseFence {scope q} : Keeps o (s.releaseFence scope q) := by
  unfold State.releaseFence
  split
  exact (h.release.of_fst ‹_›).same

theorem Keeps.fullFence {scope q} : Keeps o (s.fullFence scope q) := (h.takeTags.acquireAs.releaseFence (scope := scope) (q := q)).same

theorem Keeps.fenceAll {kind scope qs} : Keeps o (s.fenceAll kind scope qs) := by
  unfold State.fenceAll
  exact h.foldl fun _ _ h => by
    split
    · exact h.fullFence
    · exact h.acquireAs
    · exact h.releaseFence

theorem Keeps.joinAll {qs} : Keeps o (s.joinAll qs) := h.same

theorem Keeps.inherit {parent child} : Keeps o (s.inherit parent child) := h.same

theorem Keeps.sawAll {q pa n} : Keeps o (s.sawAll q pa n) := by
  unfold State.sawAll
  split
  · exact h.same.hear
  · exact h

theorem Keeps.sawWhole? {q asid enc pa bs d} (hd : Keeps o d) : Keeps o ((s.sawWhole? q asid enc pa bs).getD d) := by
  unfold State.sawWhole?
  dsimp only
  cases (List.range _).find? _ with
  | none => exact hd
  | some n => exact Keeps.hear h.same

theorem Keeps.sawOlder {q asid enc pa bs} : Keeps o (s.sawOlder q asid enc pa bs) := by
  unfold State.sawOlder
  split
  · exact (h.sawWhole? (Keeps.refl o)).of_some ‹_›
  · exact h.foldl fun _ _ h => h.sawWhole? h

theorem Keeps.readOne {q past asid enc pa bs} : Keeps o (s.readOne q past asid enc pa bs).1 := by
  unfold State.readOne
  dsimp only
  split
  · exact h
  · exact (h.draw.ite h).same.hear.pair

theorem Keeps.readAs {q past asid enc pa bs} : Keeps o (s.readAs q past asid enc pa bs).1 := by
  unfold State.readAs
  split
  · exact h.readOne
  · split
    split
    exact ((h.readOne.of_fst ‹_›).readOne.of_fst ‹_›).pair

theorem Keeps.readScrOne {q off bs} : Keeps o (s.readScrOne q off bs).1 := by
  unfold State.readScrOne
  dsimp only
  split
  · exact h
  · exact (h.draw.ite h).same.hear.pair

theorem Keeps.readScrAs {q off bs} : Keeps o (s.readScrAs q off bs).1 := by
  unfold State.readScrAs
  split
  · exact h.readScrOne
  · split
    split
    exact ((h.readScrOne.of_fst ‹_›).readScrOne.of_fst ‹_›).pair

theorem Keeps.sawScr {q off n} : Keeps o (s.sawScr q off n) := h.same.hear

theorem Keeps.addFills {c g ts} : Keeps o (s.addFills c g ts) := by
  unfold State.addFills
  split
  · exact h
  · exact h.same

theorem Keeps.clearFills {c g} : Keeps o (s.clearFills c g) := h.same

theorem Keeps.writeBench {q n rmw} : Keeps o (s.writeBench q n rmw) := by
  unfold State.writeBench
  dsimp only
  split
  · split
    · exact h
    · exact h.same
  · split
    · exact h
    · exact h.same

theorem Keeps.settleEarly {q scratch place n} : Keeps o (s.settleEarly q scratch place n) := by
  unfold State.settleEarly
  split
  · exact h
  · exact h.same

theorem Keeps.addEarly {e} : Keeps o (s.addEarly e) := h.same.modFibres

theorem Keeps.reach {who crew pa n now} : Keeps o (s.reach who crew pa n now) := by
  unfold State.reach
  dsimp only
  split
  · exact h
  · exact h.same.foldl fun _ _ h => by
      split
      · exact h.draw
      · split
        · exact h.draw.modFibres.sawScr
        · exact h.draw.modFibres.dropL1.sawAll

theorem Keeps.mmioRead {pa n} : Keeps o (s.mmioRead pa n).1 := h.draw.pair

theorem Keeps.sendOut {c pa data atom} : Keeps o (s.sendOut c pa data atom) := h.same

theorem Keeps.registerStore {pa bs} : Keeps o (s.registerStore pa bs) := by
  unfold State.registerStore
  dsimp only
  split
  · exact h.same
  · split
    · split
      · exact h.same
      · split
        · split <;> split <;> exact h.same
        · exact h
    · split <;> exact h.same

theorem Keeps.mmioWrite {c pa bs} : Keeps o (s.mmioWrite c pa bs) := by
  unfold State.mmioWrite
  split
  · exact h.sendOut
  · exact h.foldl fun _ _ h => h.registerStore

theorem Keeps.clearL1 {core} : Keeps o (s.clearL1 core) := h.modCore

theorem Keeps.mayReplace {core asid tr va n mode} : Keeps o (s.mayReplace core asid tr va n mode) := by
  unfold State.mayReplace
  dsimp only
  split
  · exact h
  · split
    · exact h
    · split
      · exact h.draw.dropL1
      · exact h.draw

theorem Keeps.gread {core asid tr va n mode} : Keeps o (s.gread core asid tr va n mode).1 := by
  unfold State.gread
  dsimp only
  split
  · exact h.mmioRead
  · split
    · exact h.dropL1.homeRead
    · split
      · exact h.homeRead
      · split
        · exact h
        · split
          · exact h.homeRead.pair
          · exact h.homeRead.draw.modCore.pair

theorem Keeps.engineError {k e} : Keeps o (s.engineError k e) := h.modLaunch.stopProtected

theorem Keeps.mergeGranule {pa} : Keeps o (s.mergeGranule pa) := h.foldl fun _ _ h => h.mergeLine

theorem Keeps.snapshotFirst {c asid tr pa} : Keeps o (s.snapshotFirst c asid tr pa) := by
  unfold State.snapshotFirst
  split
  · split
    · exact h.mergeGranule.snapshotGranule.of_fst ‹_›
    · exact (h.mergeGranule.snapshotGranule.of_fst ‹_›).logCrew.modLaunch
  · exact h

theorem Keeps.writeL1 {core asid tr pa mode bs} : Keeps o (s.writeL1 core asid tr pa mode bs) := h.modCore

theorem Keeps.markNext {mode line} : Keeps o (s.markNext mode line) := by
  unfold State.markNext
  split
  · exact h.same
  · exact h

theorem Keeps.homeWrite {c core asid m tr pa mode bs} : Keeps o (s.homeWrite c core asid m tr pa mode bs) :=
  (h.snapshotFirst.mergeLine.takeKey.touchSector.markNext.storeAs.cleanSectors.writeL1.ite h.snapshotFirst.mergeLine.takeKey.touchSector.markNext.storeAs.cleanSectors.dropL1).reach.tellSignals

theorem Keeps.gwrite {c m tr va mode bs} : Keeps o (s.gwrite c m tr va mode bs) := by
  unfold State.gwrite
  split
  · exact h
  · dsimp only
    split
    · split
      · exact h.settleEarly.modCrew
      · exact h.modCrew
    · split
      · exact h.mmioWrite
      · exact h.homeWrite

theorem Keeps.drainBytes {c core asid w pa bs} : Keeps o (s.drainBytes c core asid w pa bs) := by
  unfold State.drainBytes
  dsimp only
  split
  · exact h.mmioWrite
  · exact h.homeWrite

theorem Keeps.drainWord {c core asid w} : Keeps o (s.drainWord c core asid w) := by
  unfold State.drainWord
  split
  · exact h.snapshotFirst.contribute.dropL1
  · exact h.drainBytes

end

end Sys2Proof.Machine
end

section
/-!
What instructions of control, and those that write registers alone, keep (O46, O47).
-/
namespace Sys2Proof.Machine

-- One proof after another: so many short ones, elaborated at once, ask for more threads than the memory limit has room for.
set_option Elab.async false

section
variable {o s : State} (h : Keeps o s)
include h

theorem Keeps.drainWords {c core asid l} : Keeps o (s.drainWords c core asid l) := by
  induction s, l using State.drainWords.induct (c := c) (core := core) (asid := asid) with
  | case1 s => exact h
  | case2 s w => exact h.drainWord
  | case3 s w x r hw ih => simpa only [State.drainWords, if_pos hw] using ih h.drainBytes
  | case4 s w x r hw ih => simpa only [State.drainWords, if_neg hw] using ih h.drainWord

theorem Keeps.renewWords {asid ws} : Keeps o (s.renewWords asid ws).1 := by
  unfold State.renewWords
  exact (h.foldl fun _ _ h => by
    split
    · exact h.applyWalk
    · exact h.stage2A).pair

theorem Keeps.dropLines {core lines} : Keeps o (s.dropLines core lines) := h.modCore

end

section
variable {o k : Crew} (h : KeepsCrew o k)
include h

theorem KeepsCrew.passComparison {us} : KeepsCrew o (k.passComparison us) := h.same

theorem KeepsCrew.setFull {g b} : KeepsCrew o (k.setFull g b) := h.same

theorem KeepsCrew.testBarrier {n} : KeepsCrew o (k.testBarrier n) := by
  unfold Crew.testBarrier
  dsimp only
  split
  · exact h
  · exact h.same

theorem KeepsCrew.testBarriers : KeepsCrew o k.testBarriers := h.same.foldl fun _ _ h => h.testBarrier

theorem KeepsCrew.landed {j} : KeepsCrew o (k.landed j) := h.same

theorem KeepsCrew.completeToken {u t} : KeepsCrew o (k.completeToken u t) := h.modTokens

theorem KeepsCrew.withLooseFaults : KeepsCrew o k.withLooseFaults := h.same

theorem KeepsCrew.rebinAll {now} : KeepsCrew o (k.rebinAll now) := by
  unfold Crew.rebinAll
  dsimp only
  exact ((h.same.ite h.same).foldl fun _ _ h => by
    split
    · exact h
    · exact h.same).foldl fun _ _ h => h.enterBin

theorem KeepsCrew.scrWrite {a bs} : KeepsCrew o (k.scrWrite a bs) := ⟨fun hs => wf_putBytes _ _ _ (h.scr hs), h.tiles⟩

theorem KeepsCrew.setElem {e v} : KeepsCrew o (k.setElem e v) := ⟨h.scr, fun ht => swf_sset _ _ _ (h.tiles ht)⟩

end

section
variable {o s : State} (h : Keeps o s)
include h

theorem Keeps.drainPair {c} : Keeps o (s.drainPair c) := by
  unfold State.drainPair
  split
  · exact h
  · split
    · exact h
    · split
      · exact h
      · exact h.renewWords.drainWords.dropLines.modCrew.modCrew

theorem Keeps.arrive {c : Ctx} : Keeps o (c.arrive s) := h.modCrew.modFibres

theorem Keeps.compare {c : Ctx} : Keeps o (effOr o (c.compare s)) := by
  unfold Ctx.compare
  split
  · exact Keeps.refl o
  · split
    · exact Keeps.refl o
    · exact h.arrive.stayEff.someEff

theorem Keeps.compared {c : Ctx} : Keeps o (c.compared s) := by
  unfold Ctx.compared
  split
  · exact h.modCrew
  · exact h

theorem Keeps.translateLanes {core asid need l} : Keeps o (translateLanes core asid need l s).1 := by
  induction l generalizing s with
  | nil => exact h
  | cons x l ih =>
    unfold Sys2Proof.Machine.translateLanes
    split
    split
    exact ((ih (h.translate.of_fst ‹_›)).of_fst ‹_›).pair

theorem Keeps.translationFault {c : Ctx} {write gs s' x xs} : Keeps o (c.translationFault write gs s s' x xs).state :=
  h.keepWalks.raiseEff

theorem Keeps.tableFault {c : Ctx} {post need gs es} : Keeps o (c.tableFault post need gs es s).state := by
  unfold Ctx.tableFault
  dsimp only
  split
  · exact h.translationFault
  · exact h.keepWalks.eccFault.getEff h.waitFor

theorem Keeps.checkWith {c : Ctx} {post need n gs} : Keeps o (checkState (c.checkWith post need n gs s)) := by
  unfold Ctx.checkWith
  dsimp only
  split
  · exact h
  · split
    · exact h.waitFor.error
    · split
      · exact h.tableFault.error
      · split
        · exact h.translateLanes.ok
        · exact h.translationFault.error

theorem Keeps.checkGlobal {c : Ctx} {need n gs} : Keeps o (checkState (c.checkGlobal need n gs s)) := h.checkWith

theorem Keeps.eccLanes {c : Ctx} {n gs} : Keeps o (effOr o (c.eccLanes n gs s)) := h.eccFault

theorem Keeps.correctScr {c off n} : Keeps o (s.correctScr c off n) := by
  unfold State.correctScr
  dsimp only
  split
  · exact h.same.logCrew
  · exact h

theorem Keeps.cleanScr {c off n} : Keeps o (s.cleanScr c off n) := h.same

theorem Keeps.bodyNop {x} : Keeps o (bodyNop x s).state := h

theorem Keeps.readGen {asid} : Keeps o (s.readGen asid).1 := by
  unfold State.readGen
  dsimp only
  split
  · exact h.draw.pair
  · exact h

theorem Keeps.bodySread {d x c} : Keeps o (bodySread d x c s).state := by
  unfold Sys2Proof.Machine.bodySread
  split
  · exact h.onActive.nextEff
  · split
    · exact h
    · exact h.readGen.writeLanes
  · exact h.writeLanes

theorem Keeps.bodySwrite {a x c} : Keeps o (bodySwrite a x c s).state := by
  unfold Sys2Proof.Machine.bodySwrite
  split
  · exact h
  · exact h.modCore.nextEff

theorem Keeps.bodyRep {n sd sa sb sc c} : Keeps o (bodyRep n sd sa sb sc c s).state := by
  unfold Sys2Proof.Machine.bodyRep
  dsimp only
  split
  · split
    · exact h.waitFor
    · split
      · exact (h.fetch.of_fst ‹_›).modFibres.leftEff
      · split
        · exact (h.fetch.of_fst ‹_›).raiseEff
        · exact (h.fetch.of_fst ‹_›).modFibres.leftEff
  · exact h.modFibres.leftEff

theorem Keeps.link {c : Ctx} : Keeps o (c.link s) := h.onActive

theorem Keeps.bodyBra {call o' c} : Keeps o (bodyBra call o' c s).state := by
  unfold Sys2Proof.Machine.bodyBra
  dsimp only
  split
  · exact h.link.jumpEff
  · exact h

theorem Keeps.indirect {c : Ctx} {bad} : Keeps o (c.indirect bad s).state := h

theorem Keeps.fetchTargets {c l} : Keeps o (fetchTargets c l s).1 := by
  induction l generalizing s with
  | nil => exact h
  | cons x l ih =>
    unfold Sys2Proof.Machine.fetchTargets
    split
    split
    exact ((ih (h.fetch.of_fst ‹_›)).of_fst ‹_›).pair

theorem Keeps.bodyBrx {a call c} : Keeps o (bodyBrx a call c s).state := by
  unfold Sys2Proof.Machine.bodyBrx
  dsimp only
  split
  · exact h.indirect
  · split
    · exact h.waitFor
    · split
      · exact h.fetchTargets.raiseEff
      · exact h.fetchTargets.raiseEff
      · exact h.fetchTargets.indirect.iteEff (h.fetchTargets.link.ite h.fetchTargets).jumpEff

theorem Keeps.bodyRet {a c} : Keeps o (bodyRet a c s).state := by
  unfold Sys2Proof.Machine.bodyRet
  dsimp only
  split
  · split
    · exact (h.trapReturn.of_some ‹_›).leftEff
    · exact h.indirect
  · split
    · exact h.indirect
    · exact h

theorem Keeps.meet {c old} : Keeps o (s.meet c old) := by
  unfold State.meet
  split
  · exact h
  · split
    · exact h
    · exact h.joinAll

theorem Keeps.bodyEnd {c} : Keeps o (bodyEnd c s).state := by
  unfold Sys2Proof.Machine.bodyEnd
  split
  · exact h
  · split
    · exact h
    · split
      · exact h
      · dsimp only
        exact (h.modCrew fun k => by
          split
          · exact (KeepsCrew.refl k).modFibres.modFibres.testBarriers.regroupAll.rebin
          · exact (KeepsCrew.refl k).modFibres.modFibres.testBarriers.regroupAll).meet.restoreMirrors.checkCrewEnd.leftEff

theorem Keeps.bodyTrap {cause code c} : Keeps o (bodyTrap cause code c s).state := by
  unfold Sys2Proof.Machine.bodyTrap
  split
  · exact h
  · exact h.raiseAll

theorem Keeps.granted {c : Ctx} {before} : Keeps o (c.granted before s) := h.modCore.revokeMirrors

theorem Keeps.request {c : Ctx} {places grow forks asked} : Keeps o (c.request places grow forks asked s).state :=
  h.modCore.modFibres.stayEff

theorem Keeps.create {c : Ctx} {blocks pcs} : Keeps o (c.create blocks pcs s) :=
  ((h.modCrew fun k => (KeepsCrew.refl k).same.foldl fun _ _ h => h.enterBin).foldl fun _ _ h => h.inherit).allotLoose

theorem Keeps.bodyFork {a blocks try_ c} : Keeps o (bodyFork a blocks try_ c s).state := by
  unfold Sys2Proof.Machine.bodyFork
  dsimp only
  split
  · exact h
  · split
    · exact h.waitFor
    · split
      · exact h.eccFault.of_eff ‹_›
      · split
        · exact h.peekedAll.indirect
        · split
          · exact h.peekedAll.create.granted.onActive.nextEff.iteEff h.peekedAll.writePreds
          · exact h.peekedAll.create.granted.nextEff.iteEff h.peekedAll.request

theorem Keeps.bodyRegacq {n try_ c} : Keeps o (bodyRegacq n try_ c s).state := by
  unfold Sys2Proof.Machine.bodyRegacq
  dsimp only
  split
  · exact h
  · split
    · exact h
    · split
      · split
        · exact h.onActive.allotLoose.granted.onActive.nextEff
        · exact h.writePreds
      · split
        · exact h.onActive.allotLoose.granted.nextEff
        · exact h.request

theorem Keeps.bodyRegrel {n c} : Keeps o (bodyRegrel n c s).state := by
  unfold Sys2Proof.Machine.bodyRegrel
  dsimp only
  split
  · exact h
  · exact h.onActive.nextEff

theorem Keeps.bodyMigr {x c} : Keeps o (bodyMigr x c s).state := by
  unfold Sys2Proof.Machine.bodyMigr
  dsimp only
  split
  · split
    · exact h
    · split
      · exact h.waitFor
      · split
        · exact h
        · split
          · exact h.peekedAll.modCrew.nextEff
          · exact h.peekedAll.nextEff
  · split
    · exact h
    · split
      · exact h.waitFor
      · split
        · exact h
        · split
          · exact h.peekedAll.modCrew.nextEff
          · exact h.peekedAll.nextEff

theorem Keeps.bodyDvt {idx c} : Keeps o (bodyDvt idx c s).state := by
  unfold Sys2Proof.Machine.bodyDvt
  split
  · exact h.modFibres.stayEff
  · exact h.modFibres.leftEff

theorem Keeps.atFetch {c : Ctx} {cause sub info word entry} : Keeps o (c.atFetch cause sub info word entry s) :=
  h.takeFault

theorem Keeps.fetchFault {c : Ctx} {e word} : Keeps o (c.fetchFault e word s) := by
  unfold Ctx.fetchFault
  split <;> exact h.atFetch

theorem Keeps.latch {c : Ctx} {h' ws pc} : Keeps o (c.latch h' ws pc s) := h.modFibres

theorem Keeps.holdFetch {c : Ctx} : Keeps o (c.holdFetch s) := h.modFibres

theorem Keeps.code {c : Ctx} {off n} : Keeps o (c.code off n s).1 := h.fetchWords

theorem Keeps.enterClause {c : Ctx} : Keeps o (c.enterClause s) := by
  unfold Ctx.enterClause
  dsimp only
  split
  · exact h.holdFetch
  · split
    · exact (h.code.of_fst ‹_›).fetchFault
    · split
      · exact (h.code.of_fst ‹_›).modFibres.atFetch
      · split
        · exact (h.code.of_fst ‹_›).holdFetch
        · split
          · exact ((h.code.of_fst ‹_›).code.of_fst ‹_›).fetchFault
          · split
            · exact ((h.code.of_fst ‹_›).code.of_fst ‹_›).modFibres.atFetch
            · split
              · exact ((h.code.of_fst ‹_›).code.of_fst ‹_›).holdFetch
              · split
                · exact ((h.code.of_fst ‹_›).code.of_fst ‹_›).fetchFault
                · split
                  · exact ((h.code.of_fst ‹_›).code.of_fst ‹_›).peekedAll.modFibres
                  · exact ((h.code.of_fst ‹_›).code.of_fst ‹_›).peekedAll.latch

theorem Keeps.resumeClause {c : Ctx} : Keeps o (c.resumeClause s) := by
  unfold Ctx.resumeClause
  dsimp only
  split
  · exact h.holdFetch
  · split
    · exact (h.code.of_fst ‹_›).fetchFault
    · split
      · exact (h.code.of_fst ‹_›).holdFetch
      · split
        · exact ((h.code.of_fst ‹_›).code.of_fst ‹_›).fetchFault
        · split
          · exact ((h.code.of_fst ‹_›).code.of_fst ‹_›).holdFetch
          · split
            · exact ((h.code.of_fst ‹_›).code.of_fst ‹_›).fetchFault
            · exact ((h.code.of_fst ‹_›).code.of_fst ‹_›).peekedAll.latch.modFibres

theorem Keeps.evClauseEntry {a} : Keeps o (evClauseEntry a s) := by
  unfold Sys2Proof.Machine.evClauseEntry
  split
  · exact h
  · dsimp only
    split
    · exact h
    · split
      · exact h.enterClause
      · exact h.resumeClause

theorem Keeps.fetchL {c : Ctx} : Keeps o (c.fetchL s) := by
  unfold Ctx.fetchL
  dsimp only
  split
  · exact h.holdFetch
  · split
    · exact (h.code.of_fst ‹_›).fetchFault
    · split
      · exact (((h.code.of_fst ‹_›).code.iteFst (h.code.of_fst ‹_›).pair).of_fst ‹_›).fetchFault
      · exact (((h.code.of_fst ‹_›).code.iteFst (h.code.of_fst ‹_›).pair).of_fst ‹_›).modFibres

theorem Keeps.bodyFloat {op d a b s' c} : Keeps o (bodyFloat op d a b s' c s).state := h.writeLanes

theorem Keeps.bodyFfma {d a b cc s' c} : Keeps o (bodyFfma d a b cc s' c s).state := h.writeLanes

theorem Keeps.bodyFminmax {isMax d a b s' c} : Keeps o (bodyFminmax isMax d a b s' c s).state := h.writeLanes

theorem Keeps.bodyFcmp {p a b cond c} : Keeps o (bodyFcmp p a b cond c s).state := h.writePreds

theorem Keeps.bodyFcmpx {p a b cond c} : Keeps o (bodyFcmpx p a b cond c s).state := h.onActive.nextEff

theorem Keeps.bodyFspf {d a s' c} : Keeps o (bodyFspf d a s' c s).state := h.writeLanes

theorem Keeps.bodyFsgn {d a b s' c} : Keeps o (bodyFsgn d a b s' c s).state := h.writeLanes

theorem Keeps.bodyPacked {op d a b s' cc c} : Keeps o (bodyPacked op d a b s' cc c s).state := h.writeLanes

theorem Keeps.bodyHmnx {d a b isMax f16 c} : Keeps o (bodyHmnx d a b isMax f16 c s).state := h.writeLanes

theorem Keeps.bodyCvt {d a src dst mode c} : Keeps o (bodyCvt d a src dst mode c s).state := h.writeLanes

theorem Keeps.bodyPkb {d a isHalf n c} : Keeps o (bodyPkb d a isHalf n c s).state := h.writeLanes

theorem Keeps.bodyAdd {d a b s' c} : Keeps o (bodyAdd d a b s' c s).state := by
  unfold Sys2Proof.Machine.bodyAdd
  split
  · exact h.writePairs
  · exact h.writeLanes
  · exact h.writeLanes
  · exact h.writeLanes

theorem Keeps.bodySub {d a b s' c} : Keeps o (bodySub d a b s' c s).state := by
  unfold Sys2Proof.Machine.bodySub
  split
  · exact h.writePairs
  · exact h.writeLanes
  · exact h.writeLanes
  · exact h.writeLanes

theorem Keeps.bodyMul {d a b s' c} : Keeps o (bodyMul d a b s' c s).state := by
  unfold Sys2Proof.Machine.bodyMul
  split
  · exact h.writeLanes
  · exact h.writeLanes
  · exact h.writePairs
  · exact h.writeLanes

theorem Keeps.bodyMad {d a b cc c} : Keeps o (bodyMad d a b cc c s).state := h.writeLanes

theorem Keeps.bodyBin {g d a b c} : Keeps o (bodyBin g d a b c s).state := h.writeLanes

theorem Keeps.bodyImm {g d a c} : Keeps o (bodyImm g d a c s).state := h.writeLanes

theorem Keeps.bodyShiftWide {g d a b c} : Keeps o (bodyShiftWide g d a b c s).state := h.writePairs

theorem Keeps.bodyShl {d a b s' c} : Keeps o (bodyShl d a b s' c s).state := by
  unfold Sys2Proof.Machine.bodyShl
  split
  · exact h.bodyShiftWide
  · exact h.bodyBin

theorem Keeps.bodyShr {d a b s' c} : Keeps o (bodyShr d a b s' c s).state := by
  unfold Sys2Proof.Machine.bodyShr
  split
  · exact h.bodyBin
  · exact h.bodyShiftWide
  · exact h.bodyShiftWide
  · exact h.bodyBin

theorem Keeps.bodyBfi {d a b c} : Keeps o (bodyBfi d a b c s).state := h.writeLanes

theorem Keeps.bodyUn {g d a c} : Keeps o (bodyUn g d a c s).state := h.bodyImm

theorem Keeps.bodySel {d a b k c} : Keeps o (bodySel d a b k c s).state := h.writeLanes

theorem Keeps.bodyLea {d a b s' c} : Keeps o (bodyLea d a b s' c s).state := h.bodyBin

theorem Keeps.bodyMovi {d i c} : Keeps o (bodyMovi d i c s).state := h.modFibres.nextEff

theorem Keeps.bodyMovhi {d i c} : Keeps o (bodyMovhi d i c s).state := h.modFibres.nextEff

theorem Keeps.bodyMov {d a s' c} : Keeps o (bodyMov d a s' c s).state := h.writeLanes

theorem Keeps.bodyCmp {g p a b c} : Keeps o (bodyCmp g p a b c s).state := h.writePreds

end

end Sys2Proof.Machine
end

section
/-!
What loads, stores, atomics, barriers and copies keep (O46, O47).
-/
namespace Sys2Proof.Machine

-- One proof after another: so many short ones, elaborated at once, ask for more threads than the memory limit has room for.
set_option Elab.async false

section
variable {o s : State} (h : Keeps o s)
include h

theorem Keeps.readLane {c n mode kept g t} : Keeps o (readLane c n mode kept g t s).1 := by
  unfold Sys2Proof.Machine.readLane
  dsimp only
  split
  · split
    · exact h
    · exact h.correctAt.gread.pair
  · split
    · split
      · exact h.settleEarly.sawAll.pair
      · exact h.correctAt.gread.settleEarly.sawAll.pair
    · split
      · split
        · exact h.settleEarly.readAs
        · exact h.settleEarly.sawOlder.pair
      · split
        · exact h.correctAt.gread.settleEarly.readAs
        · exact h.correctAt.gread.settleEarly.sawOlder.pair

theorem Keeps.readLanes {c n mode kept l} : Keeps o (readLanes c n mode kept l s).1 := by
  induction l generalizing s with
  | nil => exact h
  | cons x l ih =>
    unfold Sys2Proof.Machine.readLanes
    split
    split
    exact ((ih (h.readLane.of_fst ‹_›)).of_fst ‹_›).pair

theorem Keeps.writeGlobal {c mode release data gs} : Keeps o (writeGlobal c mode release data gs s) :=
  h.foldl fun _ _ h => h.gwrite

theorem Keeps.leaveSlot {c : Ctx} : Keeps o (c.leaveSlot s) := h.modCore

theorem Keeps.replacing {c : Ctx} {n mode gs} : Keeps o (c.replacing n mode gs s) := h.foldl fun _ _ h => h.mayReplace

theorem Keeps.loadWith {c a off n mode put after} (ha : ∀ ts t, Keeps o t → Keeps o (after ts t)) :
    Keeps o (loadWith c a off n mode put after s).state := by
  unfold Sys2Proof.Machine.loadWith
  split
  · exact h.checkGlobal.of_error ‹_›
  · rename_i s' ts e
    have hs : Keeps o (c.replacing n mode ts s') := (h.checkGlobal.of_ok e).replacing
    dsimp only
    split
    · exact h.keepDraws.waitFor
    · split
      · exact hs.eccLanes.of_eff ‹_›
      · exact (ha _ _ ((hs.readLanes.ite hs.readLanes.leaveSlot).foldl fun _ _ h => h.modFibres)).nextEff

theorem Keeps.storeGlobal {c a off n mode data} : Keeps o (storeGlobal c a off n mode data s).state := by
  unfold Sys2Proof.Machine.storeGlobal
  split
  · exact h.checkGlobal.of_error ‹_›
  · split
    · exact h.keepDraws.waitFor
    · split
      · split
        · exact h.keepDraws.compare.of_eff ‹_›
        · exact (h.checkGlobal.of_ok ‹_›).writeGlobal.compared.nextEff
      · exact (h.checkGlobal.of_ok ‹_›).writeGlobal.nextEff

theorem Keeps.mayAnswerLate {c : Ctx} {d a sz image gs} : Keeps o (c.mayAnswerLate d a sz image gs s) := by
  unfold Ctx.mayAnswerLate
  exact h.dropLate.foldl fun _ _ h => by
    dsimp only
    split
    · exact h
    · exact h.addEarly

theorem Keeps.bodyLd {d a sz mode off c} : Keeps o (bodyLd d a sz mode off c s).state :=
  h.loadWith fun _ _ h => h.mayAnswerLate

theorem Keeps.bodyLdx {d a mode off c} : Keeps o (bodyLdx d a mode off c s).state :=
  h.loadWith fun _ _ h => h.mayAnswerLate

theorem Keeps.bodySt {d a sz mode off c} : Keeps o (bodySt d a sz mode off c s).state := h.storeGlobal

theorem Keeps.bodyStx {d a mode off c} : Keeps o (bodyStx d a mode off c s).state := h.storeGlobal

theorem Keeps.bodyStc {d a fmt mode off c} : Keeps o (bodyStc d a fmt mode off c s).state := h.storeGlobal

theorem Keeps.prefLane {c mode g} : Keeps o (prefLane c mode s g) := by
  unfold Sys2Proof.Machine.prefLane
  split
  · exact h
  · split
    · exact h.logSilent
    · split
      · exact h.keepDraws
      · dsimp only
        split
        · exact h.translate.of_fst ‹_›
        · split
          · exact (h.translate.of_fst ‹_›).touchSector
          · exact (h.translate.of_fst ‹_›).gread

theorem Keeps.bodyPref {a mode off c} : Keeps o (bodyPref a mode off c s).state :=
  (h.foldl fun _ _ h => h.prefLane).nextEff

theorem Keeps.bodyIpref {o' c} : Keeps o (bodyIpref o' c s).state := by
  unfold Sys2Proof.Machine.bodyIpref
  split
  · exact h
  · dsimp only
    split
    · exact h
    · split
      · exact h.keepDraws.nextEff
      · split
        · exact (h.fetchWords.of_fst ‹_›).nextEff
        · exact h.keepDraws.nextEff

theorem Keeps.acquired {core scope} : Keeps o (s.acquired core scope) := by
  unfold State.acquired
  split
  · exact h.clearL1
  · exact h

theorem Keeps.bodyLdaq {d a sz scope off c} : Keeps o (bodyLdaq d a sz scope off c s).state := by
  unfold Sys2Proof.Machine.bodyLdaq
  split
  · exact h.nextEff
  · have hl := h.acquired (core := c.core) (scope := scope)
    split
    · exact h.keepWalks.raiseEff
    · rename_i s' e
      exact e ▸ hl.loadWith (c := c) fun _ _ h => h.acquireNow
    · exact hl.loadWith fun _ _ h => h.acquireNow

theorem Keeps.setPushed {c : Ctx} {b} : Keeps o (c.setPushed b s) := h.modCrew

theorem Keeps.pairedRelease {c : Ctx} {scope data ts n s'} (h' : Keeps o s') :
    Keeps o (c.pairedRelease scope data ts n s s').state := by
  unfold Ctx.pairedRelease
  split
  · split
    · exact h.compare.of_eff ‹_›
    · exact h.compared.setPushed.nextEff
  · split
    · rename_i e
      split at e
      · exact h.compare.of_eff e
      · cases e
    · exact h'.writeGlobal.compared.setPushed.arrive.stayEff

theorem Keeps.bodyStrl {d a sz scope off c} : Keeps o (bodyStrl d a sz scope off c s).state := by
  unfold Sys2Proof.Machine.bodyStrl
  split
  · exact h.nextEff
  · split
    · exact h.checkGlobal.of_error ‹_›
    · have hc := h.checkGlobal.of_ok ‹_›
      split
      · exact h.keepDraws.waitFor
      · split
        · exact h.keepDraws.pairedRelease hc
        · exact hc.writeGlobal.nextEff

theorem Keeps.bodyFence {engines kind scope c} : Keeps o (bodyFence engines kind scope c s).state := by
  unfold Sys2Proof.Machine.bodyFence
  split
  · exact h.nextEff
  · split
    · rename_i e
      split at e
      · exact h.observe.of_eff e
      · cases e
    · split
      · exact h.waitFor
      · split
        · exact h.compare.of_eff ‹_›
        · exact (h.compared.ite h.compared.acquired).fenceAll.nextEff

theorem Keeps.bodyIfence {c} : Keeps o (bodyIfence c s).state := by
  unfold Sys2Proof.Machine.bodyIfence
  split
  · exact h
  · split
    · exact h.observe.of_eff ‹_›
    · split
      · exact h.waitFor
      · split
        · exact h.compare.of_eff ‹_›
        · exact h.compared.modCore.nextEff

theorem Keeps.marked {c : Ctx} {va} : Keeps o (c.marked va s) := by
  unfold Ctx.marked
  split <;> exact h.translate.of_fst ‹_›

theorem Keeps.atomLane {c op d b g t} : Keeps o (atomLane c op d b g t s).1 := by
  unfold Sys2Proof.Machine.atomLane
  dsimp only
  split
  · exact (h.mmioRead.marked.ite h.mmioRead).sendOut.pair
  · split
    · exact (h.correctAt.dropL1.homeRead.foldl fun _ _ h => h.settleEarly.sawAll).marked.homeWrite.pair
    · exact (h.correctAt.dropL1.homeRead.foldl fun _ _ h => h.settleEarly.sawAll).pair

theorem Keeps.atomLanes {c op d b l} : Keeps o (atomLanes c op d b l s).1 := by
  induction l generalizing s with
  | nil => exact h
  | cons x l ih =>
    unfold Sys2Proof.Machine.atomLanes
    split
    split
    exact ((ih (h.atomLane.of_fst ‹_›)).of_fst ‹_›).pair

theorem Keeps.delivered {c : Ctx} {lines rs} : Keeps o (c.delivered lines rs s) := by
  unfold Ctx.delivered
  split
  · exact h.dropLines.modCrew
  · exact h

theorem Keeps.second {c : Ctx} {put} : Keeps o (effOr o (c.second put s)) := by
  unfold Ctx.second
  split
  · exact Keeps.refl o
  · split
    · exact Keeps.refl o
    · split
      · exact h.waitFor.someEff
      · exact h.modCrew.modFibres.compared.nextEff.someEff

theorem Keeps.bodyAtom {d a b op c} : Keeps o (bodyAtom d a b op c s).state := by
  unfold Sys2Proof.Machine.bodyAtom
  dsimp only
  split
  · exact h
  · split
    · exact h.checkWith.of_error ‹_›
    · split
      · exact h.keepDraws.waitFor
      · split
        · exact h.keepDraws.translateLanes.eccLanes.of_eff ‹_›
        · split
          · exact h.keepDraws.compare.of_eff ‹_›
          · split
            · exact h.keepDraws.second.of_eff ‹_›
            · exact (h.keepDraws.translateLanes.atomLanes.compared.delivered.foldl fun _ _ h => h.modFibres).nextEff

theorem Keeps.badScratch {c : Ctx} {n xs} : Keeps o (effOr o (c.badScratch n xs s)) := by
  unfold Ctx.badScratch
  split
  · exact Keeps.refl o
  · exact h

theorem Keeps.eccScratch {c : Ctx} {n xs} : Keeps o (effOr o (c.eccScratch n xs s)) := by
  unfold Ctx.eccScratch
  split
  · exact Keeps.refl o
  · exact h

theorem Keeps.waitLane {c : Ctx} {w lane} : Keeps o (c.waitLane w lane s).state := h.modFibres.stayEff

theorem Keeps.mayAnswerLateScr {c : Ctx} {d sz i off} : Keeps o (c.mayAnswerLateScr d sz i off s) := h.addEarly

theorem Keeps.ldsRead {q mode g off now} : Keeps o (s.ldsRead q mode g off now).1 := by
  unfold State.ldsRead
  dsimp only
  split
  · exact h.settleEarly.readScrAs
  · exact h.settleEarly.sawScr.takeTags.pair

theorem Keeps.ldsLanes {c d sz mode l} : Keeps o (ldsLanes c d sz mode l s).state := by
  induction l generalizing s with
  | nil => exact h
  | cons x l ih =>
    unfold Sys2Proof.Machine.ldsLanes
    dsimp only
    split
    · exact h.waitLane
    · exact ih ((h.correctScr.ldsRead.modCrew fun k => (KeepsCrew.refl k).modFibres.setFull.ite (KeepsCrew.refl k).modFibres).mayAnswerLateScr.ite ((h.correctScr.ldsRead.modCrew fun k => (KeepsCrew.refl k).modFibres.setFull.ite (KeepsCrew.refl k).modFibres).clearFills.ite (h.correctScr.ldsRead.modCrew fun k => (KeepsCrew.refl k).modFibres.setFull.ite (KeepsCrew.refl k).modFibres)))

theorem Keeps.bodyLds {d a sz mode off c} : Keeps o (bodyLds d a sz mode off c s).state := by
  unfold Sys2Proof.Machine.bodyLds
  dsimp only
  split
  · exact h.badScratch.of_eff ‹_›
  · split
    · exact h.eccScratch.of_eff ‹_›
    · exact (h.dropLate.ite h).ldsLanes

theorem Keeps.scrStore {m c ea bs full} (hf : ∀ k, KeepsCrew k (full k)) : Keeps o (s.scrStore m c ea bs full) := by
  unfold State.scrStore
  split
  · exact h
  · dsimp only
    have hp : ∀ {off}, Keeps o (if m.release.isNone ∧ bs.length ≤ 8 then s.passUnder m (some c) off bs else (s, false)).1 :=
      h.passUnder.iteFst h
    split
    · exact (hp.of_fst ‹_›).reach
    · exact ((hp.of_fst ‹_›).noteScr.modCrew fun k =>
        have hk := (KeepsCrew.refl k).scrWrite
        ⟨(hf _).scr ∘ hk.scr, (hf _).tiles ∘ hk.tiles⟩).reach

theorem Keeps.stsLanes {c d sz mode l} : Keeps o (stsLanes c d sz mode l s).state := by
  induction l generalizing s with
  | nil => exact h
  | cons x l ih =>
    unfold Sys2Proof.Machine.stsLanes
    exact h.waitLane.iteEff (ih (h.cleanScr.scrStore fun k => (KeepsCrew.refl k).ite (KeepsCrew.refl k).setFull))

theorem Keeps.ctxReleasing {c : Ctx} {body : State → Eff} (hb : Keeps o (body s).state) : Keeps o (c.releasing body s).state := by
  unfold Ctx.releasing
  split
  · exact h.waitFor
  · split
    · exact h.compare.of_eff ‹_›
    · split
      · rename_i e
        rw [e] at hb
        exact hb.compared.nextEff
      · exact hb

theorem Keeps.bodySts {d a sz mode off c} : Keeps o (bodySts d a sz mode off c s).state := by
  unfold Sys2Proof.Machine.bodySts
  dsimp only
  split
  · exact h.badScratch.of_eff ‹_›
  · split
    · exact h.stsLanes
    · exact h.ctxReleasing h.stsLanes

theorem Keeps.atomsLanes {c d b op l} : Keeps o (atomsLanes c d b op l s) := by
  induction l generalizing s with
  | nil => exact h
  | cons x l ih =>
    unfold Sys2Proof.Machine.atomsLanes
    have hr : ∀ {off n}, Keeps o (((s.correctScr c.u.crew off n).settleEarly (c.u.crew, x.1) true off n).sawScr (c.u.crew, x.1) off n) :=
      h.correctScr.settleEarly.sawScr
    exact ih ((hr.scrStore KeepsCrew.refl).ite hr).modFibres

theorem Keeps.bodyAtoms {d a b op c} : Keeps o (bodyAtoms d a b op c s).state := by
  unfold Sys2Proof.Machine.bodyAtoms
  dsimp only
  split
  · exact h.badScratch.of_eff ‹_›
  · split
    · exact h.eccScratch.of_eff ‹_›
    · exact h.atomsLanes.nextEff

theorem Keeps.bodyBar {n c} : Keeps o (bodyBar n c s).state := by
  unfold Sys2Proof.Machine.bodyBar
  split
  · exact h
  · split
    · exact h.compare.of_eff ‹_›
    · exact (h.compared.modCrew fun k => (KeepsCrew.refl k).same.modFibres.modFibres.testBarrier.regroupAll).meet.leftEff

theorem Keeps.arvLanes {c d b l} : Keeps o (arvLanes c d b l s) := by
  induction l generalizing s with
  | nil => exact h
  | cons x l ih =>
    unfold Sys2Proof.Machine.arvLanes
    exact ih (h.correctScr.sawScr.scrStore KeepsCrew.refl).modFibres

theorem Keeps.bodyArv {d a b c} : Keeps o (bodyArv d a b c s).state := by
  unfold Sys2Proof.Machine.bodyArv
  dsimp only
  split
  · exact h.badScratch.of_eff ‹_›
  · split
    · exact h.eccScratch.of_eff ‹_›
    · exact h.nextEff.iteEff (h.ctxReleasing h.arvLanes.nextEff)

theorem Keeps.awtLanes {c d b l} : Keeps o (awtLanes c d b l s).state := by
  induction l generalizing s with
  | nil => exact h
  | cons x l ih =>
    unfold Sys2Proof.Machine.awtLanes
    dsimp only
    split
    · exact h.correctScr.waitLane
    · exact ih h.correctScr.sawScr.acquireNow.modFibres

theorem Keeps.bodyAwt {d a b c} : Keeps o (bodyAwt d a b c s).state := by
  unfold Sys2Proof.Machine.bodyAwt
  dsimp only
  split
  · exact h.badScratch.of_eff ‹_›
  · split
    · exact h.eccScratch.of_eff ‹_›
    · exact h.awtLanes

theorem Keeps.hearBench {c : Ctx} {n} : Keeps o (c.hearBench n s) := h.foldl fun _ _ h => h.hear

theorem Keeps.bodyBrd {d n c} : Keeps o (bodyBrd d n c s).state := h.hearBench.writeLanes

theorem Keeps.bodyBwr {a n c} : Keeps o (bodyBwr a n c s).state := by
  unfold Sys2Proof.Machine.bodyBwr
  split
  · exact h
  · exact h.writeBench.modCrew.nextEff

theorem Keeps.batomLanes {c d a n op l} : Keeps o (batomLanes c d a n op l s) := by
  induction l generalizing s with
  | nil => exact h
  | cons x l ih => exact ih (h.hear.writeBench.modCrew.ite h.hear).modFibres

theorem Keeps.bodyBatom {d a n op c} : Keeps o (bodyBatom d a n op c s).state := h.batomLanes.nextEff

theorem Keeps.bodyWaitt {mask c} : Keeps o (bodyWaitt mask c s).state := by
  unfold Sys2Proof.Machine.bodyWaitt
  split
  · exact h
  · split
    · exact h.observe.of_eff ‹_›
    · exact h

theorem Keeps.bodyTokq {p tok pending c} : Keeps o (bodyTokq p tok pending c s).state := by
  unfold Sys2Proof.Machine.bodyTokq
  dsimp only
  split
  · exact h
  · split
    · exact h
    · exact h.writePreds

theorem Keeps.cpaFailures {c isGlobal write r} : Keeps o (cpaFailures c isGlobal write r s).1 := by
  unfold Sys2Proof.Machine.cpaFailures
  split
  · exact h
  · split
    exact (h.translateLanes.of_fst ‹_›).pair

theorem Keeps.cpaFailed {c : Ctx} {a b form} : Keeps o (c.cpaFailed a b form s).1 := by
  unfold Ctx.cpaFailed
  split
  split
  exact ((h.cpaFailures.of_fst ‹_›).cpaFailures.of_fst ‹_›).pair

theorem Keeps.cpaChecked {c : Ctx} {a b form} : Keeps o (c.cpaChecked a b form s) := h.keepDraws.cpaFailures.cpaFailures

theorem Keeps.cpaFault {c : Ctx} {a b form s' x xs} : Keeps o (c.cpaFault a b form s s' x xs).state := h.keepWalks.raiseEff

theorem Keeps.cpaTableFault {c : Ctx} {a b form es} : Keeps o (c.cpaTableFault a b form es s).state := by
  unfold Ctx.cpaTableFault
  dsimp only
  split
  · exact h.cpaFault
  · exact h.keepDraws.eccFault.getEff h.waitFor

theorem Keeps.bodyCpa {a b bsel tok form c} : Keeps o (bodyCpa a b bsel tok form c s).state := by
  unfold Sys2Proof.Machine.bodyCpa
  dsimp only
  split
  · exact h
  · split
    · exact h
    · split
      · exact h.waitFor
      · split
        · exact h.cpaTableFault
        · split
          · exact h.cpaFault
          · exact ((h.cpaChecked.foldl fun _ _ h => by
              split
              · exact h.dropL1
              · exact h).issueTags.modCrew fun k => (KeepsCrew.refl k).same.modTokens).nextEff

theorem Keeps.copyRead {c k j} : Keeps o (s.copyRead c k j).1 := by
  unfold State.copyRead
  split
  · split
    · exact h
    · exact h.correctScr.pair
  · split
    · exact h
    · split
      · exact h
      · exact (h.translate.of_fst ‹_›).pair
      · dsimp only
        split
        · exact (h.translate.of_fst ‹_›).mayReplace.pair
        · split
          · exact (h.translate.of_fst ‹_›).mayReplace.pair
          · exact (h.translate.of_fst ‹_›).mayReplace.correctAt.gread.pair

theorem Keeps.readGroup {c g l} : Keeps o (readGroup c g l s).1 := by
  induction l generalizing s with
  | nil => exact h
  | cons x l ih =>
    unfold Sys2Proof.Machine.readGroup
    split
    · split <;> exact ((ih h).of_fst ‹_›).pair
    · split
      · exact h
      · split
        · exact (h.copyRead.of_fst ‹_›).pair
        · split <;> exact ((ih (h.copyRead.of_fst ‹_›)).of_fst ‹_›).pair

theorem Keeps.landLine {c l} : Keeps o (landLine c l s).1 := by
  induction l generalizing s with
  | nil => exact h
  | cons x l ih =>
    unfold Sys2Proof.Machine.landLine
    split
    · exact h
    · split
      · exact h
      · split
        · exact h
        · exact (h.translate.of_fst ‹_›).pair
        · dsimp only
          split
          · exact (h.translate.of_fst ‹_›).pair
          · split
            · exact (h.translate.of_fst ‹_›).pair
            · exact ih (h.translate.of_fst ‹_›).gwrite

theorem Keeps.scrFilled {c off tags bs} : Keeps o (s.scrFilled c off tags bs) :=
  ((h.cleanScr.landScr.foldl fun _ _ h => h.addFills).modCrew fun k =>
    KeepsCrew.foldl (k := { k with scr := putBytes k.scr off bs }) ⟨fun hs => wf_putBytes _ _ _ hs, id⟩ fun _ _ h => h.setFull).reach

theorem Keeps.copyStep {c i} : Keeps o (s.copyStep c i).1 := by
  unfold State.copyStep
  split
  · exact h
  · split
    · exact h
    · split
      · exact h
      · split
        · exact (h.readGroup.of_fst ‹_›).pair
        · rename_i e
          have hg := h.readGroup.of_fst e
          dsimp only
          split
          · split
            · exact hg.modCrew.keepWalks.modCrew.pair
            · exact hg.modCrew.keepWalks.pair
            · rename_i e
              exact (hg.modCrew.landLine.of_fst e).modCrew.pair
          · exact (hg.modCrew.foldl fun _ _ h => h.scrFilled).modCrew.pair

theorem Keeps.evEngineLineWrite {a} : Keeps o (evEngineLineWrite a s) := by
  unfold Sys2Proof.Machine.evEngineLineWrite
  split
  · exact h
  · split
    · split
      · exact h.copyStep.of_fst ‹_›
      · exact h
    · exact h

theorem Keeps.evScratchGranuleLanding {a} : Keeps o (evScratchGranuleLanding a s) := by
  unfold Sys2Proof.Machine.evScratchGranuleLanding
  split
  · exact h
  · split
    · exact h
    · split
      · exact h.copyStep.of_fst ‹_›
      · exact h

theorem Keeps.evCopyComplete {a} : Keeps o (evCopyComplete a s) := by
  unfold Sys2Proof.Machine.evCopyComplete
  split
  · exact h
  · dsimp only
    split
    · exact h
    · split
      · exact (h.modCrew fun k => (KeepsCrew.refl k).same.completeToken).checkCrewEnd
      · exact h

theorem Keeps.evDeferredCopyFault {a} : Keeps o (evDeferredCopyFault a s) := by
  unfold Sys2Proof.Machine.evDeferredCopyFault
  split
  · exact h
  · split
    · exact h
    · split
      · exact h
      · exact h
      · exact h
      · dsimp only
        split
        · split
          · exact (h.copyStep.of_fst ‹_›).modCrew.logSilent
          · exact (h.copyStep.of_fst ‹_›).modCrew
        · split
          · exact (h.copyStep.of_fst ‹_›).modCrew.engineError
          · exact ((h.copyStep.of_fst ‹_›).modCrew fun k => (KeepsCrew.refl k).same.completeToken.modTokens).checkCrewEnd

end

end Sys2Proof.Machine
end

section
/-!
A tile replaced leaves the tiles of a crew in canonical form (R228, R229).
-/
namespace Sys2Proof.Machine

/-- A sparse list in canonical form: its keys rise, and none holds the default. -/
theorem swfFrom_iff {α : Type} [DecidableEq α] (d : α) {n : Nat} {l : List (Nat × α)} :
    swfFrom d n l = true ↔ (∀ x ∈ l, n ≤ x.1 ∧ x.2 ≠ d) ∧ l.Pairwise fun x y => x.1 < y.1 := by
  induction l generalizing n with
  | nil => simp [swfFrom]
  | cons x l ih =>
    simp only [swfFrom, Bool.and_eq_true, decide_eq_true_eq, ih, List.mem_cons, List.pairwise_cons, forall_eq_or_imp]
    constructor
    · rintro ⟨⟨hn, hd⟩, hl, hp⟩
      exact ⟨⟨⟨hn, hd⟩, fun y hy => ⟨by have := (hl y hy).1; omega, (hl y hy).2⟩⟩, fun y hy => (hl y hy).1, hp⟩
    · rintro ⟨⟨⟨hn, hd⟩, hl⟩, hx, hp⟩
      exact ⟨⟨hn, hd⟩, fun y hy => ⟨hx y hy, (hl y hy).2⟩, hp⟩

/-- The cells of a tile's row of elements rise, within the tile. -/
theorem swfFrom_zipIdx {α : Type} [DecidableEq α] (d : α) (l : List α) (n : Nat) :
    swfFrom d n ((l.zipIdx n).filterMap fun x => if x.1 = d then none else some (x.2, x.1)) = true := by
  induction l generalizing n with
  | nil => rfl
  | cons x l ih =>
    rw [List.zipIdx_cons, List.filterMap_cons]
    by_cases hx : x = d
    · simp only [hx, if_true]
      exact swfFrom_mono d (Nat.le_succ n) (ih (n + 1))
    · simp [hx, swfFrom, ih (n + 1)]

/-- A tile replaced keeps the tiles in canonical form. -/
theorem swf_setTile (k : Crew) (t : Nat) (l : List AccElem) (h : swf Reg.zero k.tiles = true) :
    swf Reg.zero (k.setTile t l).tiles = true := by
  have hk := (swfFrom_iff _).1 h
  have hz := (swfFrom_iff _).1 (swfFrom_zipIdx Reg.zero (l.take tileElems) (t * tileElems))
  have hlt : ∀ x ∈ ((l.take tileElems).zipIdx (t * tileElems)).filterMap
      (fun x => if x.1 = Reg.zero then none else some (x.2, x.1)), t * tileElems ≤ x.1 ∧ x.1 < (t + 1) * tileElems := by
    intro x hx
    refine ⟨(hz.1 x hx).1, ?_⟩
    obtain ⟨y, hy, e⟩ := List.mem_filterMap.1 hx
    split at e
    · cases e
    · cases e
      have := List.mem_zipIdx hy
      have hl : (l.take tileElems).length ≤ tileElems := List.length_take_le _ _
      simp only
      rw [Nat.add_mul]; omega
  have ht : ∀ {n : Nat}, n / tileElems < t ↔ n < t * tileElems := Nat.div_lt_iff_lt_mul (by decide)
  have ht' : ∀ {n : Nat}, t < n / tileElems ↔ (t + 1) * tileElems ≤ n := Nat.le_div_iff_mul_le (by decide)
  refine (swfFrom_iff _).2 ⟨fun x hx => ⟨Nat.zero_le _, ?_⟩, ?_⟩
  · simp only [Crew.setTile, List.mem_append, List.mem_filter] at hx
    rcases hx with (hx | hx) | hx
    · exact (hk.1 x hx.1).2
    · exact (hz.1 x hx).2
    · exact (hk.1 x hx.1).2
  · simp only [Crew.setTile, List.pairwise_append, List.mem_append, List.mem_filter, decide_eq_true_eq, ht, ht']
    refine ⟨⟨hk.2.filter _, hz.2, fun x hx y hy => ?_⟩, hk.2.filter _, fun x hx y hy => ?_⟩
    · have := (hlt y hy).1; omega
    · rcases hx with hx | hx
      · have : t * tileElems ≤ (t + 1) * tileElems := Nat.mul_le_mul_right _ (Nat.le_succ t)
        omega
      · have := (hlt x hx).2; omega

end Sys2Proof.Machine
end

section
/-!
What the matrix engine, placed operations and GENBUMP keep (O46, O47).
-/
namespace Sys2Proof.Machine

-- One proof after another: so many short ones, elaborated at once, ask for more threads than the memory limit has room for.
set_option Elab.async false

section
variable {o s : State} (h : Keeps o s)
include h

/-! ## The matrix engine and placed operations -/

end

section
variable {o k : Crew} (h : KeepsCrew o k)
include h

theorem KeepsCrew.setTile {t l} : KeepsCrew o (k.setTile t l) := ⟨h.scr, fun ht => swf_setTile k t l (h.tiles ht)⟩

end

section
variable {o s : State} (h : Keeps o s)
include h

/-- A crew put in the place of one of an earlier state. -/
theorem Keeps.putCrew {t : State} {n : Nat} {k k' : Crew} (ht : Keeps o t) (hk : s.crews[n]? = some k) (hk' : KeepsCrew k k') :
    Keeps o (t.modCrew n fun _ => k') :=
  ⟨ht.mem, fun hl => by
    obtain ⟨-, -, -, -, -, -, -, -, -, hc⟩ := h.lists hl
    obtain ⟨h1, h2, h3, h4, h5, h6, h7, h8, h9, hd⟩ := ht.lists hl
    refine ⟨h1, h2, h3, h4, h5, h6, h7, h8, h9, fun x hx => ?_⟩
    rcases mem_modify hx with hx | ⟨y, -, rfl⟩
    · exact hd x hx
    · exact hk'.canonical (hc k (List.mem_of_getElem? hk))⟩

theorem Keeps.elected {c : Ctx} {i cause info entry} : Keeps o (c.elected i s cause info entry).state := h

theorem Keeps.paramBlock {c : Ctx} {i a n e} (he : c.paramBlock i a n s = .error e) : Keeps o e.state := by
  unfold Ctx.paramBlock at he
  dsimp only at he
  split at he
  · cases he; exact h
  · split at he
    · cases he; exact h
    · cases he

theorem Keeps.blockRead {c : Ctx} {i a n} : Keeps o (c.blockRead i a n s) := h.correctScr.settleEarly

theorem Keeps.bodyMma {major a scales tok c} : Keeps o (bodyMma major a scales tok c s).state := by
  unfold Sys2Proof.Machine.bodyMma
  split
  · exact h.nextEff
  · split
    · exact h.paramBlock ‹_›
    · split
      · exact h.elected
      · refine h.blockRead.elected.iteEff ?_
        split
        · exact h.blockRead.elected
        · exact (h.blockRead.modCrew fun k => (KeepsCrew.refl k).same.modTokens).nextEff

theorem Keeps.cleanAcc {hit} : Keeps o (s.cleanAcc hit) := h.same

theorem Keeps.correctBlock {c j} : Keeps o (s.correctBlock c j) := by
  unfold State.correctBlock
  dsimp only
  split
  · exact h
  · exact h.same.foldl fun _ _ h => h.logCrew

theorem Keeps.deferMat {c m j e} : Keeps o (s.deferMat c m j e) :=
  (h.modCrew fun k => (KeepsCrew.refl k).same.completeToken.modTokens).checkCrewEnd

theorem Keeps.evMmaBlockAdd {a} : Keeps o (evMmaBlockAdd a s) := by
  unfold Sys2Proof.Machine.evMmaBlockAdd
  split
  · exact h
  · rename_i k hk
    split
    · exact h
    · refine h.ite ?_
      dsimp only
      split
      · exact h.correctBlock.engineError.ite h.correctBlock.deferMat
      · have hk' := fun {t l} => (KeepsCrew.refl k).setTile (t := t) (l := l)
        exact (h.putCrew h.correctBlock.cleanAcc hk hk'.same).ite
          (h.putCrew h.correctBlock.cleanAcc hk hk'.same.completeToken).checkCrewEnd

theorem Keeps.tileCheck {c : Ctx} {a} : Keeps o (effOr o (c.tileCheck a s)) := by
  unfold Ctx.tileCheck
  dsimp only
  split
  · exact h
  · split
    · exact h.waitFor.someEff
    · exact Keeps.refl o

theorem Keeps.correctAcc {c e} : Keeps o (s.correctAcc c e) := by
  unfold State.correctAcc
  split
  · exact h.same.logCrew
  · exact h

theorem Keeps.bodyAccrd {d a fmt mode c} : Keeps o (bodyAccrd d a fmt mode c s).state := by
  unfold Sys2Proof.Machine.bodyAccrd
  split
  · exact h.tileCheck.of_eff ‹_›
  · dsimp only
    split
    · exact h
    · exact (h.foldl fun _ _ h => h.correctAcc).writeLanes

theorem Keeps.bodyAccwr {d a c} : Keeps o (bodyAccwr d a c s).state := by
  unfold Sys2Proof.Machine.bodyAccwr
  split
  · exact h.tileCheck.of_eff ‹_›
  · exact (h.cleanAcc.modCrew fun k => (KeepsCrew.refl k).foldl fun _ _ h => h.setElem).nextEff

theorem Keeps.bodyAccz {t c} : Keeps o (bodyAccz t c s).state := by
  unfold Sys2Proof.Machine.bodyAccz
  split
  · exact h
  · split
    · exact h.raiseAll
    · split
      · exact h.waitFor
      · exact (h.cleanAcc.modCrew fun k => (KeepsCrew.refl k).setTile).nextEff

theorem Keeps.bodyAccst {a tok c} : Keeps o (bodyAccst a tok c s).state := by
  unfold Sys2Proof.Machine.bodyAccst
  split
  · exact h
  · split
    · exact h.paramBlock ‹_›
    · split
      · exact h.elected
      · split
        · exact h.elected
        · have hb := fun i => h.blockRead (c := c) (i := i) (a := a) (n := 4)
          refine (hb _).waitFor.iteEff ?_
          split
          · exact (hb _).elected
          · split
            split
            · exact (hb _).keepWalks.raiseEff
            · dsimp only
              exact (((hb _).keepDraws.translateLanes.foldl fun _ _ h => h.dropL1).issueTags.modCrew fun k =>
                (KeepsCrew.refl k).same.modTokens).nextEff

theorem Keeps.engineWrite {c j n x l} : Keeps o (engineWrite c j n x l s).1 := by
  induction n generalizing s x l with
  | zero => exact h
  | succ m ih =>
    unfold Sys2Proof.Machine.engineWrite
    split
    · exact h
    · dsimp only
      split
      · exact h
      · split
        · exact h
        · split
          · exact h
          · exact (h.translate.of_fst ‹_›).pair
          · split
            · exact (h.translate.of_fst ‹_›).pair
            · split
              · exact (h.translate.of_fst ‹_›).pair
              · exact ih (h.translate.of_fst ‹_›).gwrite

theorem Keeps.correctRow {c j} : Keeps o (s.correctRow c j) := by
  unfold State.correctRow
  exact h.foldl fun _ _ h => by
    split
    · split
      · exact h.correctAcc
      · exact h
    · exact h

theorem Keeps.storeStep {c i} : Keeps o (s.storeStep c i).1 := by
  unfold State.storeStep
  split
  · exact h
  · split
    · exact h
    · split
      · exact h
      · split
        · exact h
        · dsimp only
          split
          · exact h.correctRow.scrFilled.modCrew.pair
          · split
            · exact h.correctRow.keepWalks.modCrew.pair
            · exact h.correctRow.keepWalks.pair
            · exact (h.correctRow.engineWrite.of_fst ‹_›).modCrew.pair

theorem Keeps.finishStore {c i} : Keeps o (s.finishStore c i) := by
  unfold State.finishStore
  split
  · exact h
  · split
    · exact h
    · dsimp only
      split
      · exact h
      · exact (h.modCrew fun k => (KeepsCrew.refl k).same.completeToken).checkCrewEnd

theorem Keeps.evAccstRowWrite {a} : Keeps o (evAccstRowWrite a s) := by
  unfold Sys2Proof.Machine.evAccstRowWrite
  split
  · exact h.finishStore
  · exact (h.storeStep.of_fst ‹_›).finishStore

theorem Keeps.deferStore {a} : Keeps o (deferStore a s) := by
  unfold Sys2Proof.Machine.deferStore
  split
  · exact h
  · split
    · exact h
    · split
      · exact h
      · exact h
      · exact h
      · split
        · exact (h.storeStep.of_fst ‹_›).engineError
        · exact ((h.storeStep.of_fst ‹_›).modCrew fun k => (KeepsCrew.refl k).same.completeToken.modTokens).checkCrewEnd

theorem Keeps.evDeferredFault {a} : Keeps o (evDeferredFault a s) := by
  unfold Sys2Proof.Machine.evDeferredFault
  split
  · exact h.deferStore
  · exact h.evDeferredCopyFault

theorem Keeps.query {core asid va priv} : Keeps o (s.query core asid va priv).1 := by
  unfold State.query
  dsimp only
  split
  · exact h
  · split
    · exact h
    · split
      · exact h
      · split <;> exact h.draw.pair

theorem Keeps.xlqLanes {c d a l} : Keeps o (xlqLanes c d a l s) := by
  induction l generalizing s with
  | nil => exact h
  | cons x l ih => exact ih (h.query.iteFst h).modFibres

theorem Keeps.bodyXlq {d a c} : Keeps o (bodyXlq d a c s).state := by
  unfold Sys2Proof.Machine.bodyXlq
  split
  · exact h.waitFor
  · split
    · exact h.eccFault.of_eff ‹_›
    · exact h.xlqLanes.nextEff

theorem Keeps.lineTr {core asid priv major sv l} : Keeps o (s.lineTr core asid priv major sv l).1 := by
  unfold State.lineTr
  split
  · exact (h.translate.of_fst ‹_›).pair
  · split
    · exact (((h.translate.of_fst ‹_›).translate.iteFst (h.translate.of_fst ‹_›).pair).of_fst ‹_›).pair
    · split <;> exact (((((h.translate.of_fst ‹_›).translate.iteFst (h.translate.of_fst ‹_›).pair).of_fst ‹_›).translate.iteFst (((h.translate.of_fst ‹_›).translate.iteFst (h.translate.of_fst ‹_›).pair).of_fst ‹_›).pair).of_fst ‹_›).pair

theorem Keeps.lineTrs {core asid priv major sv l} : Keeps o (lineTrs core asid priv major sv l s).1 := by
  induction l generalizing s with
  | nil => exact h
  | cons x l ih =>
    unfold Sys2Proof.Machine.lineTrs
    split
    split
    exact ((ih (h.lineTr.of_fst ‹_›)).of_fst ‹_›).pair

theorem Keeps.checkLines {c : Ctx} {major sv ls} : Keeps o (checkState (c.checkLines major sv ls s)) := by
  unfold Ctx.checkLines
  split
  · exact h
  · dsimp only
    split
    · exact h.waitFor.error
    · split
      · exact h.keepWalks.raiseEff.error
      · split
        · exact h.keepWalks.raiseEff.error
        · split
          · exact (h.keepWalks.eccFault.of_eff ‹_›).error
          · exact h.lineTrs.ok

theorem Keeps.bodyPlaced {major sv d a b c} : Keeps o (bodyPlaced major sv d a b c s).state := by
  unfold Sys2Proof.Machine.bodyPlaced
  dsimp only
  split
  · exact h
  · split
    · exact h.checkLines.of_error ‹_›
    · split
      · split
        · split
          · exact h.keepDraws.compare.of_eff ‹_›
          · exact h.keepDraws.compared.stayEff
        · exact (h.checkLines.of_ok ‹_›).same.waitFor
      · split
        · split
          · exact h.keepDraws.compare.of_eff ‹_›
          · exact h.keepDraws.compared.stayEff
        · exact (h.checkLines.of_ok ‹_›).same.waitFor

theorem Keeps.bodyPl {major sv d a b c} : Keeps o (bodyPl major sv d a b c s).state := h.bodyPlaced

theorem Keeps.bodyPlred {sv d a c} : Keeps o (bodyPlred sv d a c s).state := h.bodyPlaced

theorem Keeps.retirePlaced {p} : Keeps o (s.retirePlaced p) := by
  unfold State.retirePlaced
  split
  · exact h
  · split
    · exact h
    · exact h.modFibres.settle

theorem Keeps.markAccepted {p} : Keeps o (s.markAccepted p) := h.modFibres

theorem Keeps.retranslate {core p} : Keeps o (s.retranslate core p).1 := by
  unfold State.retranslate
  dsimp only
  split
  · exact h
  · exact (h.lineTr.of_fst ‹_›).pair
  · split <;> exact (h.lineTr.of_fst ‹_›).pair

theorem Keeps.replayFault {bad p k} : Keeps o (s.replayFault bad p k) := h.same.takeFault

theorem Keeps.replayPart {n p k} : Keeps o (s.replayPart n p k) := by
  unfold State.replayPart
  split
  · exact (h.retranslate.of_fst ‹_›).same
  · dsimp only
    split
    · exact h.keepWalks.same
    · exact h.keepWalks.replayFault

theorem Keeps.evHomeAccessArrival {a} : Keeps o (evHomeAccessArrival a s) := by
  unfold Sys2Proof.Machine.evHomeAccessArrival
  split
  · exact h
  · split
    · exact h
    · split
      · exact h
      · split
        · exact h.replayPart
        · split
          · split
            · exact h.same
            · exact h.replayFault
          · split
            · exact (h.same.dropL1.markAccepted.modCrew.ite h.same.dropL1.markAccepted.snapshotFirst.contribute).retirePlaced
            · exact h.same.dropL1.markAccepted.retirePlaced

theorem Keeps.partLine {p k tr pa} : Keeps o (s.partLine p k tr pa).1 := by
  unfold State.partLine
  split
  exact h.correctAt.homeRead.of_fst ‹_›

theorem Keeps.computePart {n p k} : Keeps o (s.computePart n p k) := by
  unfold State.computePart
  split
  split
  split
  dsimp only
  split
  · exact (((((h.partLine.of_fst ‹_›).partLine.iteFst (h.partLine.of_fst ‹_›).pair).of_fst ‹_›).partLine.iteFst (((h.partLine.of_fst ‹_›).partLine.iteFst (h.partLine.of_fst ‹_›).pair).of_fst ‹_›).pair).of_fst ‹_›).same.modCrew
  · exact (((((h.partLine.of_fst ‹_›).partLine.iteFst (h.partLine.of_fst ‹_›).pair).of_fst ‹_›).partLine.iteFst (((h.partLine.of_fst ‹_›).partLine.iteFst (h.partLine.of_fst ‹_›).pair).of_fst ‹_›).pair).of_fst ‹_›).same.gwrite

theorem Keeps.evPlacedPartExecute {a} : Keeps o (evPlacedPartExecute a s) := by
  unfold Sys2Proof.Machine.evPlacedPartExecute
  split
  · exact h
  · split
    · exact h
    · split
      · exact h
      · split
        · split
          · exact h.engineError
          · exact (h.foldl fun _ _ h => h.logSilent).computePart
        · exact h.computePart

theorem Keeps.evReduceStateMerge {a} : Keeps o (evReduceStateMerge a s) := by
  unfold Sys2Proof.Machine.evReduceStateMerge
  split
  · exact h
  · dsimp only
    split
    · split
      · exact h
      · exact h.same
    · exact h.same.mergeElement

theorem Keeps.chunkLanes {c l} : Keeps o (chunkLanes c l s).1 := by
  induction l generalizing s with
  | nil => exact h
  | cons x l ih =>
    unfold Sys2Proof.Machine.chunkLanes
    dsimp only
    exact ih (h.correctAt.dropL1.homeRead.foldl fun _ _ h => h.settleEarly.sawAll).homeWrite

theorem Keeps.bodyChunk {d a c} : Keeps o (bodyChunk d a c s).state := by
  unfold Sys2Proof.Machine.bodyChunk
  dsimp only
  split
  · exact h
  · split
    · exact h
    · split
      · exact h.checkLines.of_error ‹_›
      · split
        · exact h.keepDraws.waitFor
        · split
          · exact h.keepDraws.eccFault.of_eff ‹_›
          · split
            · exact h.keepDraws.compare.of_eff ‹_›
            · split
              · exact h.keepDraws.second.of_eff ‹_›
              · exact ((h.checkLines.of_ok ‹_›).chunkLanes.compared.delivered.foldl fun _ _ h => h.modFibres).nextEff

theorem Keeps.retakeLines {asid} : Keeps o (s.retakeLines asid) := by
  unfold State.retakeLines
  exact h.foldl fun _ _ h => by
    split
    · exact h
    · exact h.dropLines.modCrew

theorem Keeps.bumpGen {asid} : Keeps o (s.bumpGen asid) := by
  unfold State.bumpGen
  dsimp only
  split
  · exact ((h.foldl fun _ _ h => h.setGen).put32.latchSpace.foldl fun _ _ h => h.modCore).retakeLines
  · exact ((h.foldl fun _ _ h => h.setGen).latchSpace.foldl fun _ _ h => h.modCore).retakeLines

theorem Keeps.bodyGenbump {c} : Keeps o (bodyGenbump c s).state := by
  unfold Sys2Proof.Machine.bodyGenbump
  split
  · exact h
  · split
    · exact h.waitFor
    · exact h.bumpGen.same.waitFor

theorem Keeps.evGenbumpComplete {a} : Keeps o (evGenbumpComplete a s) := by
  unfold Sys2Proof.Machine.evGenbumpComplete
  split
  · exact h
  · split
    · exact h
    · dsimp only
      split
      · exact h.same
      · exact h.same.modFibres.settle

end

end Sys2Proof.Machine
end

section
/-!
What a restore reads of a context area makes a scratchpad and tiles in canonical form (R290, R295).
-/
namespace Sys2Proof.Machine

/-- Cells of consecutive blocks of numbers, each within its own block and rising there, rise. -/
theorem swfFrom_flatMap {α : Type} [DecidableEq α] (d : α) (m : Nat) (g : Nat → List (Nat × α))
    (hg : ∀ t, swfFrom d (t * m) (g t) = true ∧ ∀ x ∈ g t, x.1 < (t + 1) * m) (n : Nat) :
    swfFrom d 0 ((List.range n).flatMap g) = true := by
  simp only [swfFrom_iff] at hg
  refine (swfFrom_iff d).2 ⟨fun x hx => ?_, ?_⟩
  · obtain ⟨t, -, ht⟩ := List.mem_flatMap.1 hx
    exact ⟨Nat.zero_le _, ((hg t).1.1 x ht).2⟩
  · refine List.pairwise_flatMap.2 ⟨fun t _ => (hg t).1.2, List.pairwise_lt_range.imp fun {t u} htu x hx y hy => ?_⟩
    have hx' := (hg t).2 x hx
    have hy' := ((hg u).1.1 y hy).1
    have : (t + 1) * m ≤ u * m := Nat.mul_le_mul_right m htu
    omega

/-- The cells of a range of numbers that do not hold the default, from a base. -/
theorem swfFrom_filterMap_range {α : Type} [DecidableEq α] (d : α) (base n : Nat) (v : Nat → α) :
    swfFrom d base ((List.range n).filterMap fun e => if v e = d then none else some (base + e, v e)) = true
      ∧ ∀ x ∈ (List.range n).filterMap (fun e => if v e = d then none else some (base + e, v e)), x.1 < base + n := by
  have hm : ∀ x ∈ (List.range n).filterMap (fun e => if v e = d then none else some (base + e, v e)),
      base ≤ x.1 ∧ x.1 < base + n ∧ x.2 ≠ d := by
    intro x hx
    obtain ⟨e, he, hx⟩ := List.mem_filterMap.1 hx
    have := List.mem_range.1 he
    split at hx
    · cases hx
    · cases hx
      exact ⟨Nat.le_add_right _ _, by simp only; omega, ‹_›⟩
  refine ⟨(swfFrom_iff d).2 ⟨fun x hx => ⟨(hm x hx).1, (hm x hx).2.2⟩, ?_⟩, fun x hx => (hm x hx).2.1⟩
  refine List.pairwise_filterMap.2 (List.pairwise_lt_range.imp fun {a b} hab x hx y hy => ?_)
  split at hx
  · cases hx
  · split at hy
    · cases hy
    · cases hx; cases hy
      simp only; omega

/-- Tiles read from the tile slots are in canonical form. -/
theorem swf_ctxTiles (s : State) (k : Crew) (tileAt n : Nat) : swf Reg.zero (s.ctxTiles k tileAt n) = true := by
  refine swfFrom_flatMap Reg.zero tileElems _ (fun t => ?_) n
  obtain ⟨h, hlt⟩ := swfFrom_filterMap_range Reg.zero (t * tileElems) tileElems fun e =>
    ({ val := leWord ((List.range 4).map fun i => (s.readCtx k (tileAt + 67584 * t) 67584).toArray.getD (4 * e + i) 0)
       s := ((s.readCtx k (tileAt + 67584 * t) 67584).toArray.getD (65536 + e / 8) 0).getLsbD (e % 8) } : AccElem)
  exact ⟨h, fun x hx => by rw [Nat.add_mul, Nat.one_mul]; exact hlt x hx⟩

/-- A crew as its area tells it is in canonical form. -/
theorem canonical_rebuilt (s : State) (k : Crew) (dest : Kind) : (s.rebuilt k dest).Canonical := by
  unfold State.rebuilt
  exact ((KeepsCrew.refl _).rebinAll.regroupAll.same).canonical ⟨wf_putBytes _ _ _ rfl, swf_ctxTiles _ _ _ _⟩

end Sys2Proof.Machine
end

section
/-!
What scheduling, saves and restores keep (O46, O47).
-/
namespace Sys2Proof.Machine

-- One proof after another: so many short ones, elaborated at once, ask for more threads than the memory limit has room for.
set_option Elab.async false

section
variable {o s : State} (h : Keeps o s)
include h

/-! ## Scheduling, saves and restores -/

theorem Keeps.woken {us} : Keeps o (s.woken us) := h.foldl fun _ _ h => h.modCrew

theorem Keeps.evGangSlotSwap {a} : Keeps o (evGangSlotSwap a s) := h.modCore.woken

theorem Keeps.evTokenWaitResume {a} : Keeps o (evTokenWaitResume a s) := by
  unfold Sys2Proof.Machine.evTokenWaitResume
  split
  · exact h.modCrew
  · exact h

theorem Keeps.evBinAgeExpiry {a} : Keeps o (evBinAgeExpiry a s) := by
  unfold Sys2Proof.Machine.evBinAgeExpiry
  split
  · exact h.modCrew
  · exact h

theorem Keeps.evBinIssue {a} : Keeps o (evBinIssue a s) := by
  unfold Sys2Proof.Machine.evBinIssue
  split
  · exact h
  · exact h.modCrew

theorem Keeps.withRequest {r} : Keeps o (s.withRequest r) := h.modCrew.allotLoose

theorem Keeps.evRegisterGrant {a} : Keeps o (evRegisterGrant a s) := by
  unfold Sys2Proof.Machine.evRegisterGrant
  split
  · exact h
  · split
    · exact h.modCrew fun k => (KeepsCrew.refl k).modFibres.regroupAll
    · exact h

theorem Keeps.setCarve {core n} : Keeps o (s.setCarve core n) := h.modCore

theorem Keeps.evCarveOutChange {a} : Keeps o (evCarveOutChange a s) := by
  unfold Sys2Proof.Machine.evCarveOutChange
  dsimp only
  split
  · exact h
  · split
    · split
      · exact h.setCarve
      · exact h.modCore
    · split
      · exact h.setCarve
      · exact h

theorem Keeps.setDraws {n} : Keeps o { s with draws := n } := h.same

theorem Keeps.setRel {r} : Keeps o { s with rel := r } := h.same

theorem Keeps.setCarveIf {p : Prop} [Decidable p] {core n} : Keeps o (if p then s.setCarve core n else s) := h.setCarve.ite h

theorem Keeps.install {c core} : Keeps o (s.install c core) := by
  unfold State.install
  split
  · exact h
  · exact h.modCrew.setDraws.allotLoose.setCarveIf.modCore.settleCarve.revokeMirrors

theorem Keeps.pairError {c} : Keeps o (s.pairError c) := by
  unfold State.pairError
  split
  · exact h
  · dsimp only
    split
    · exact h.logCrew.modLaunch.stopProtected
    · exact h.logCrew.modLaunch.endLaunch

theorem Keeps.evPairComparison {a} : Keeps o (evPairComparison a s) := by
  unfold Sys2Proof.Machine.evPairComparison
  split
  · split
    · exact h
    · dsimp only
      split
      · exact h.drainPair.endCrew.endCrew
      · exact h.drainPair
  · split
    · exact h.pairError
    · exact h

theorem Keeps.writeCtx {k off bs} : Keeps o (s.writeCtx k off bs) := h.poke

theorem Keeps.readAll {c k} : Keeps o (s.readAll c k) := by
  unfold State.readAll
  dsimp only
  exact ((h.ite h.same).foldl fun _ _ h => h.logCrew).foldl fun _ _ h => by
    split
    · split
      · exact h.logCrew
      · exact h.logSilent
    · split
      · exact h.logCrew
      · exact h.logSilent

theorem Keeps.saveCrew {c low} : Keeps o (s.saveCrew c low) := by
  unfold State.saveCrew
  split
  · exact h
  · dsimp only
    exact ((h.readAll.peekedAll.writeCtx.writeCtx.writeCtx.writeCtx.writeCtx.writeCtx.writeCtx.writeCtx.writeCtx.foldl fun _ _ h => by
      split
      · exact h.writeCtx
      · exact h).writeCtx.writeCtx.foldl fun _ _ h => by
      split
      · exact h.writeCtx
      · exact h).modCrew fun k => ((KeepsCrew.refl k).withLooseFaults.ite (KeepsCrew.refl k)).same

theorem Keeps.fenceCrew {c} : Keeps o (s.fenceCrew c) := by
  unfold State.fenceCrew
  split
  · exact h
  · exact h.fenceAll

theorem Keeps.leave {c dest} : Keeps o (s.leave c dest) := by
  unfold State.leave
  split
  · exact h
  · exact h.fenceCrew.modCrew.setRel.charge.leaveCore.settleCrew

theorem Keeps.takeOff {c dest} : Keeps o (s.takeOff c dest) := h.drainPair.foldl fun _ _ h => h.saveCrew.leave

theorem Keeps.checkpoint {c} : Keeps o (s.checkpoint c) := by
  unfold State.checkpoint
  split
  · exact h
  · exact h.saveCrew.fenceCrew.clearL1

theorem Keeps.bodyCkpt {c} : Keeps o (bodyCkpt c s).state := by
  unfold Sys2Proof.Machine.bodyCkpt
  split
  · exact h
  · split
    · exact h.waitFor
    · split
      · exact h.compare.of_eff ‹_›
      · exact h.compared.checkpoint.nextEff

theorem Keeps.bodyHalt {c} : Keeps o (bodyHalt c s).state := by
  unfold Sys2Proof.Machine.bodyHalt
  split
  · exact h
  · split
    · exact h.compare.of_eff ‹_›
    · exact h

theorem Keeps.evPreemption {a} : Keeps o (evPreemption a s) := by
  unfold Sys2Proof.Machine.evPreemption
  split
  · exact h
  · split
    · exact h
    · dsimp only
      split
      · exact (h.foldl fun _ _ h => h.modCrew).takeOff
      · exact h.foldl fun _ _ h => h.modCrew

theorem Keeps.evFirmwareCheckpoint {a} : Keeps o (evFirmwareCheckpoint a s) := by
  unfold Sys2Proof.Machine.evFirmwareCheckpoint
  split
  · exact h
  · exact h.drainPair.foldl fun _ _ h => h.checkpoint

theorem Keeps.evMigration {a} : Keeps o (evMigration a s) := by
  unfold Sys2Proof.Machine.evMigration
  split
  · exact h
  · split
    · exact h.takeOff
    · exact h

theorem Keeps.evReturnTrap {a} : Keeps o (evReturnTrap a s) := by
  unfold Sys2Proof.Machine.evReturnTrap
  split
  · exact h.takeOff
  · exact h

theorem Keeps.evFaultDelivery {a} : Keeps o (evFaultDelivery a s) := by
  unfold Sys2Proof.Machine.evFaultDelivery
  split
  · split
    · exact h.deliver
    · exact h
  · exact h

theorem Keeps.recordDeadlock {r} : Keeps o (s.recordDeadlock r) := by
  unfold State.recordDeadlock
  split
  · split
    · exact h
    · exact h.modCrew.writeCtx
  · exact h

theorem Keeps.evRegDeadlock {a} : Keeps o (evRegDeadlock a s) := by
  unfold Sys2Proof.Machine.evRegDeadlock
  split
  · exact h
  · dsimp only
    split
    · exact h
    · split
      · exact h
      · split
        · exact h
        · split
          · exact h.endLaunch
          · split
            · exact h.recordDeadlock.modCrew.evPreemption
            · exact h.evPreemption

theorem Keeps.refuseCtx {k off} : Keeps o (s.refuseCtx k off) := h.writeCtx.endLaunch

theorem Keeps.withoutCrew {c} : Keeps o (s.withoutCrew c) := h.same

theorem Keeps.peekedArea {k} : Keeps o (s.peekedArea k) := h.peekedAll

/-- A crew that is canonical put in the place of another. -/
theorem Keeps.putCanonical {n : Nat} {k : Crew} (hk : k.Canonical) : Keeps o (s.modCrew n fun _ => k) :=
  h.modCrew fun _ => ⟨fun _ => hk.1, fun _ => hk.2⟩

theorem Keeps.restoreOn {c core} : Keeps o (s.restoreOn c core) := by
  unfold State.restoreOn
  split
  · exact h
  · dsimp only
    split
    · exact h.peekedArea.refuseCtx
    · exact (h.peekedArea.withoutCrew.putCanonical (canonical_rebuilt s _ _)).install.fenceCrew.modCrew.foldl fun _ _ h => h.renote

theorem Keeps.devTr {asid va need} : Keeps o (s.devTr asid va need).1 := by
  unfold State.devTr
  dsimp only
  split
  · exact (h.ite (h.foldl fun _ _ h => h.devMeets)).stage2A.pair
  · exact (h.ite (h.foldl fun _ _ h => h.devMeets)).applyWalk.pair

theorem Keeps.devRead {asid priv va n} : Keeps o (s.devRead asid priv va n).1 := by
  unfold State.devRead
  split
  · exact (h.devTr.of_fst ‹_›).pair
  · split
    exact (((h.devTr.of_fst ‹_›).mmioRead.iteFst (h.devTr.of_fst ‹_›).devMeets.homeRead).of_fst ‹_›).pair

theorem Keeps.devWrite {asid priv va bs} : Keeps o (s.devWrite asid priv va bs).1 := by
  unfold State.devWrite
  split
  · exact (h.devTr.of_fst ‹_›).pair
  · dsimp only
    split
    · exact (h.devTr.of_fst ‹_›).mmioWrite
    · exact (h.devTr.of_fst ‹_›).homeWrite

theorem Keeps.signalSet {asid priv va v} : Keeps o (s.signalSet asid priv va v) := by
  unfold State.signalSet
  dsimp only
  split
  · exact h.devWrite
  · exact h.foldl fun _ _ h => h.devWrite

theorem Keeps.signalAdd {asid priv va v} : Keeps o (s.signalAdd asid priv va v) := by
  unfold State.signalAdd
  split
  · exact h.devTr.of_fst ‹_›
  · split
    · exact (h.devTr.of_fst ‹_›).sendOut
    · split
      · exact h.devRead.of_fst ‹_›
      · exact (h.devRead.of_fst ‹_›).signalSet

end

end Sys2Proof.Machine
end

section
/-!
What command cores, the placer, graphs, rollbacks and the system keep (O46, O47).
-/
namespace Sys2Proof.Machine

-- One proof after another: so many short ones, elaborated at once, ask for more threads than the memory limit has room for.
set_option Elab.async false

section
variable {o s : State} (h : Keeps o s)
include h

/-! ## Command cores -/

theorem Keeps.setStatus {q lo len v} : Keeps o (s.setStatus q lo len v) := by
  unfold State.setStatus
  split
  · exact h.put64
  · exact h

theorem Keeps.refresh {q} : Keeps o (s.refresh q) := by
  unfold State.refresh
  dsimp only
  split
  · split
    · exact h.setStatus.setStatus.put64.setStatus
    · exact h.setStatus.setStatus.put64.setStatus.setStatus.setStatus
  · split
    · exact h.setStatus.setStatus.setStatus
    · exact h.setStatus.setStatus.setStatus.setStatus.setStatus

theorem Keeps.latchQueue {q} : Keeps o (s.latchQueue q) := by
  unfold State.latchQueue
  exact h.modQueue

theorem Keeps.serving {q} : Keeps o ((s.serving q).getD o) := by
  unfold State.serving
  split
  · exact h
  · split
    · split
      · exact h.same.latchQueue.modQueue.someState
      · exact Keeps.refl o
    · exact Keeps.refl o

theorem Keeps.failSignal {d ws v} : Keeps o (s.failSignal d ws v) := by
  unfold State.failSignal
  split
  · exact h.signalSet
  · exact h

theorem Keeps.freeze {q ws cause} : Keeps o (s.freeze q ws cause) :=
  h.setStatus.setStatus.setStatus.setStatus.failSignal.refresh

theorem Keeps.evNotify {a} : Keeps o (evNotify a s) := by
  unfold Sys2Proof.Machine.evNotify
  split
  · exact h
  · exact h.setStatus.modQueue.refresh.post

theorem Keeps.stallRing {q sub va} : Keeps o (s.stallRing q sub va) := h.modQueue.refresh

theorem Keeps.modPacket {q m g} : Keeps o (s.modPacket q m g) := h.modQueue

theorem Keeps.wakeKept : Keeps o s.wakeKept := by
  unfold State.wakeKept
  split
  · exact h.foldl fun _ _ h => h.post
  · exact h

theorem Keeps.dropPacket {q m} : Keeps o (s.dropPacket q m) := h.modQueue.refresh.post.wakeKept

theorem Keeps.completePacket {q m} : Keeps o (s.completePacket q m) := by
  unfold State.completePacket
  split
  · exact h
  · exact (h.signalAdd.ite h).dropPacket

theorem Keeps.evLaunch {a} : Keeps o (evLaunch a s) := by
  unfold Sys2Proof.Machine.evLaunch
  split
  · exact h
  · split
    · exact h
    · dsimp only
      split
      · exact h
      · exact h.peekedAll.same.modPacket

theorem Keeps.evNopPacket {a} : Keeps o (evNopPacket a s) := by
  unfold Sys2Proof.Machine.evNopPacket
  split
  · exact h
  · split
    · exact h
    · exact h.completePacket

theorem Keeps.evSignal {a} : Keeps o (evSignal a s) := by
  unfold Sys2Proof.Machine.evSignal
  split
  · exact h
  · dsimp only
    split
    · exact h
    · split
      · exact h.completePacket
      · split
        · exact h
        · split
          · split
            · exact h.signalSet.modPacket
            · exact h.signalSet.completePacket
          · split
            · exact h.signalAdd.modPacket
            · exact h.signalAdd.completePacket

theorem Keeps.keepWaiting {q m w} : Keeps o (s.keepWaiting q m w) := h.modPacket.refresh

theorem Keeps.readSignal {q m p} : Keeps o (s.readSignal q m p) := by
  unfold State.readSignal
  dsimp only
  split
  · exact (h.devTr.of_fst ‹_›).keepWaiting
  · split
    · exact (h.devRead.of_fst ‹_›).keepWaiting
    · split
      · exact (h.devRead.of_fst ‹_›).completePacket
      · exact (h.devRead.of_fst ‹_›).keepWaiting

theorem Keeps.evWaitsig {a} : Keeps o (evWaitsig a s) := by
  unfold Sys2Proof.Machine.evWaitsig
  split
  · exact h
  · split
    · exact h
    · exact h.readSignal

theorem Keeps.evWaitsigReevaluate {a} : Keeps o (evWaitsigReevaluate a s) := by
  unfold Sys2Proof.Machine.evWaitsigReevaluate
  split
  · exact h
  · split
    · exact h
    · split
      · exact h.readSignal
      · split
        · split
          · exact (h.serving.of_some ‹_›).completePacket
          · exact h
        · exact h

theorem Keeps.evCmdblock {a} : Keeps o (evCmdblock a s) := by
  unfold Sys2Proof.Machine.evCmdblock
  split
  · exact h
  · split
    · exact h
    · exact h.modPacket

theorem Keeps.runWords {asid priv copy word n dst src} : Keeps o (runWords asid priv copy word n dst src s).1 := by
  induction n generalizing s dst src with
  | zero => exact h
  | succ m ih =>
    unfold Sys2Proof.Machine.runWords
    split
    · exact h
    · have hr : ∀ {src}, Keeps o (if copy then s.devRead asid priv src 4 else (s, .ok word)).1 := h.devRead.iteFst h
      split
      · exact (hr.of_fst ‹_›).pair
      · split
        · exact ((hr.of_fst ‹_›).devWrite.of_fst ‹_›).pair
        · exact ih ((hr.of_fst ‹_›).devWrite.of_fst ‹_›)

theorem Keeps.stallBlock {q m sub va} : Keeps o (s.stallBlock q m sub va) := h.modPacket.refresh

theorem Keeps.runCommand {q m fill} : Keeps o (s.runCommand q m fill) := by
  unfold State.runCommand
  split
  · exact h
  · dsimp only
    split
    · exact h
    · split
      · split
        · exact h
        · exact h.completePacket
      · split
        · exact h
        · split
          · split
            · exact h
            · exact (h.devRead.of_fst ‹_›).stallBlock
          · split
            · exact h
            · split
              · split
                · exact h
                · exact (h.devRead.of_fst ‹_›).dropPacket.freeze
              · split
                · exact h
                · exact ((h.devRead.of_fst ‹_›).runWords.of_fst ‹_›).stallBlock
                · split
                  · exact ((h.devRead.of_fst ‹_›).runWords.of_fst ‹_›).modPacket
                  · exact ((h.devRead.of_fst ‹_›).runWords.of_fst ‹_›).completePacket

theorem Keeps.evCopy {a} : Keeps o (evCopy a s) := h.runCommand

theorem Keeps.evFill {a} : Keeps o (evFill a s) := h.runCommand

theorem Keeps.emptyLog {asid} : Keeps o (s.emptyLog asid) := by
  unfold State.emptyLog
  split
  · exact h.put32
  · exact h

theorem Keeps.closeLog {x} : Keeps o (s.closeLog x) := by
  unfold State.closeLog
  split
  · exact h.emptyLog
  · exact h

theorem Keeps.logEnd {x} : Keeps o (s.logEnd x) := by
  unfold State.logEnd
  split
  · exact h.logError
  · exact h

theorem Keeps.drainMatched {l} : Keeps o (s.drainMatched l) := by
  unfold State.drainMatched
  exact h.foldl fun _ _ h => by
    split
    · exact h
    · split
      · exact h
      · split
        · split
          · exact h.drainPair
          · exact h
        · exact h

theorem Keeps.drainFirst {l} : Keeps o ((s.drainFirst l).getD o) := by
  unfold State.drainFirst
  split
  · exact Keeps.refl o
  · split
    · exact h
    · exact h.drainMatched.someState

theorem Keeps.overLaunch {l x} : Keeps o (s.overLaunch l x) := h.closeLog.logEnd.modLaunch.wakeKept

theorem Keeps.evLaunchCompletionSignal {a} : Keeps o (evLaunchCompletionSignal a s) := by
  unfold Sys2Proof.Machine.evLaunchCompletionSignal
  split
  · exact h
  · split
    · exact h
    · split
      · exact h
      · split
        · exact (h.serving.of_some ‹_›).drainFirst.of_some ‹_›
        · split
          · exact (h.serving.of_some ‹_›).overLaunch
          · split
            · exact h
            · split
              · exact h
              · exact (h.serving.of_some ‹_›).overLaunch.completePacket

theorem Keeps.evLaunchEndWithCause {a} : Keeps o (evLaunchEndWithCause a s) := by
  unfold Sys2Proof.Machine.evLaunchEndWithCause
  split
  · split
    · split
      · exact h
      · split
        · exact (h.serving.of_some ‹_›).drainFirst.of_some ‹_›
        · split
          · exact h
          · exact ((h.serving.of_some ‹_›).overLaunch.signalSet.ite (h.serving.of_some ‹_›).overLaunch).dropPacket
    · exact h
  · exact h

theorem Keeps.tellOver : Keeps o s.tellOver := by
  unfold State.tellOver
  exact h.foldl fun _ _ h => by
    split
    · exact h
    · exact h.modLaunch.post

theorem Keeps.rest {q} : Keeps o (s.rest q) := by
  unfold State.rest
  split
  · exact h
  · split <;> exact h.modQueue

theorem Keeps.readRing {q at_} : Keeps o (s.readRing q at_) := by
  unfold State.readRing
  dsimp only
  split
  · exact h
  · split
    · exact (h.devRead.of_fst ‹_›).stallRing.rest
    · split
      · exact (h.devRead.of_fst ‹_›).rest
      · split
        · exact h
        · split
          · exact h
          · split
            · exact ((h.devRead.of_fst ‹_›).devWrite.of_fst ‹_›).stallRing.rest
            · split
              · split
                · exact ((h.devRead.of_fst ‹_›).devWrite.of_fst ‹_›).put64.peekedAll.modQueue
                · split
                  · exact h
                  · exact ((h.devRead.of_fst ‹_›).devWrite.of_fst ‹_›).put64.peekedAll.freeze
              · exact ((h.devRead.of_fst ‹_›).devWrite.of_fst ‹_›).put64.peekedAll.modQueue

theorem Keeps.rejectPacket {q m} : Keeps o (s.rejectPacket q m) := by
  unfold State.rejectPacket
  split
  · exact h
  · split
    · exact h
    · split
      · exact h
      · exact h.dropPacket.freeze

theorem Keeps.evPacketTake {a} : Keeps o (evPacketTake a s) := by
  unfold Sys2Proof.Machine.evPacketTake
  split
  · exact h
  · split
    · exact h.serving.of_some ‹_›
    · split
      · exact (h.serving.of_some ‹_›).rejectPacket
      · split
        · exact (h.serving.of_some ‹_›).rest
        · exact (h.serving.of_some ‹_›).readRing

theorem Keeps.handBack {l} : Keeps o (s.handBack l) := by
  unfold State.handBack
  split
  · exact h
  · split
    · exact h
    · split
      · exact h.modLaunch.freeze
      · exact h.modLaunch.dropPacket.freeze
      · exact h

theorem Keeps.thawGraph {g} : Keeps o (s.thawGraph g) := by
  unfold State.thawGraph
  dsimp only
  split
  · split
    · exact h.put32.modGraph
    · exact h.put32.modGraph.post
  · split
    · exact h.modGraph
    · exact h.modGraph.post

theorem Keeps.evThaw {a} : Keeps o (evThaw a s) := by
  unfold Sys2Proof.Machine.evThaw
  split
  · exact h
  · dsimp only
    split
    · exact (h.foldl fun _ _ h => by
        split
        · exact h.thawGraph
        · exact h).setStatus.refresh.modQueue.post
    · exact h.foldl fun _ _ h => by
        split
        · exact h.thawGraph
        · exact h

theorem Keeps.evAbandon {a} : Keeps o (evAbandon a s) := by
  unfold Sys2Proof.Machine.evAbandon
  split
  · exact h
  · split
    · exact h
    · split
      · exact h
      · exact (h.signalSet.ite h).dropPacket

/-! ## The placer -/

theorem Keeps.logArgument {x e} : Keeps o (s.logArgument x e) := by
  unfold State.logArgument
  split
  · exact h
  · exact h.stage2A.foldl fun _ _ h => h.logAgent

theorem Keeps.placerRead {x e} : Keeps o (s.placerRead x e) := h.peekedAll.logArgument

theorem Keeps.startOn {mk : Kind → Crew} {core} (hm : ∀ k, (mk k).Canonical) : Keeps o (s.startOn mk core) :=
  (h.crews (ks := s.crews ++ [mk (kindOfCore core)]) fun hc k hk => by
    rcases List.mem_append.1 hk with hk | hk
    · exact hc k hk
    · exact List.mem_singleton.1 hk ▸ hm _).install

omit h in
theorem canonical_newCrew {l : Nat} {x : Launch} {e : Entry} {i ctx : Nat} {est} {pair : Option (Nat × Bool)} (k : Kind) :
    (newCrew l x e i ctx est pair k).Canonical := ⟨rfl, rfl⟩

omit h in
/-- What the first answer of a search keeps. -/
theorem Keeps.of_findSome? {α : Type} {l : List α} {f : α → Option State} {t : State} (e : l.findSome? f = some t)
    (hf : ∀ x t, f x = some t → Keeps o t) : Keeps o t := by
  obtain ⟨x, -, hx⟩ := List.exists_of_findSome?_eq_some e
  exact hf x t hx

theorem Keeps.placeCrew {l t} (e : s.placeCrew l = some t) : Keeps o t := by
  unfold State.placeCrew at e
  split at e
  · cases e
  · split at e
    · cases e
    · dsimp only at e
      split at e
      · cases e
      · split at e
        · obtain ⟨core, -, rfl⟩ := Option.map_eq_some_iff.1 e
          exact (h.startOn canonical_newCrew).placerRead
        · refine Keeps.of_findSome? e fun x t e => ?_
          split at e
          · cases e
          · split at e
            · cases e
            · obtain ⟨core, -, rfl⟩ := Option.map_eq_some_iff.1 e
              exact ((h.startOn canonical_newCrew).startOn canonical_newCrew).placerRead

theorem Keeps.placeAgain {c t} (e : s.placeAgain c = some t) : Keeps o t := by
  unfold State.placeAgain at e
  split at e
  · cases e
  · split at e
    · refine Keeps.of_findSome? e fun x t e => ?_
      split at e
      · cases e
      · obtain ⟨core, -, rfl⟩ := Option.map_eq_some_iff.1 e
        exact h.draw.restoreOn.draw.restoreOn
    · obtain ⟨core, -, rfl⟩ := Option.map_eq_some_iff.1 e
      exact h.draw.restoreOn

theorem Keeps.objRead {g} : Keeps o (s.objRead g) := h.peekedAll

theorem Keeps.claimNode {x} : Keeps o (State.claimNode x s) := by
  unfold State.claimNode
  split
  · exact h
  · exact h.objRead.modGraph

theorem Keeps.accountFor {l claim} (hc : ∀ t, Keeps o t → Keeps o (claim t)) : Keeps o (s.accountFor l claim) := by
  unfold State.accountFor
  split
  · exact h
  · exact ((hc s h).ite h).charge.modLaunch

theorem Keeps.place {n t} (e : s.place n = some t) : Keeps o t := by
  unfold State.place at e
  split at e
  · exact h.placeAgain e
  · obtain ⟨u, hu, rfl⟩ := Option.map_eq_some_iff.1 e
    exact (h.placeCrew hu).accountFor fun _ h => h.claimNode

theorem Keeps.passOver {q} : Keeps o (s.passOver q) := by
  unfold State.passOver
  split
  · exact h.modCrew
  · exact h.modQueue
  · exact h

theorem Keeps.forgetPasses {ns} : Keeps o (s.forgetPasses ns) := by
  unfold State.forgetPasses
  refine (h.crews fun hc k hk => ?_).foldl fun _ _ h => h.modQueue
  obtain ⟨x, hx, rfl⟩ := List.mem_map.1 hk
  have hx' := hc x.1 (List.fst_mem_of_mem_zipIdx hx)
  split <;> exact hx'

theorem Keeps.dropIdle : Keeps o s.dropIdle := by
  unfold State.dropIdle
  exact h.foldl fun _ _ h => by
    split
    · exact h
    · exact h.modQueue

theorem Keeps.round {v} : Keeps o (s.round v) := by
  unfold State.round
  exact h.foldl fun _ _ h => by
    dsimp only
    split
    · exact h.modQueue.charge
    · exact h.modQueue

theorem Keeps.setPointers {v} : Keeps o { s with pointers := v } := h.same

theorem Keeps.serve {v q n passed} : Keeps o (s.serve v q n passed) := by
  unfold State.serve
  split
  · exact h
  · have hp : ∀ {ns}, Keeps o ((passed.foldl State.passOver _).forgetPasses ns) :=
      ((h.place ‹_›).foldl fun _ _ h => h.passOver).forgetPasses
    cases n
    · exact hp.setPointers
    · exact hp.modQueue.setPointers

theorem Keeps.readBack {l} : Keeps o (s.readBack l) := by
  unfold State.readBack
  split
  · exact h
  · split
    · exact h
    · exact h.placerRead

theorem Keeps.evCrewPlacement {x} : Keeps o (evCrewPlacement x s) := by
  unfold Sys2Proof.Machine.evCrewPlacement
  split
  · exact h.round
  · exact h.serve
  · exact h.readBack.handBack
  · exact h

theorem Keeps.evCrewRestore {x} : Keeps o (evCrewRestore x s) := by
  unfold Sys2Proof.Machine.evCrewRestore
  split
  · exact h.serve
  · exact h

/-! ## Graphs, rollbacks and the system -/

theorem Keeps.evGraphRegistration {a} : Keeps o (evGraphRegistration a s) := by
  unfold Sys2Proof.Machine.evGraphRegistration
  split
  · exact h
  · split
    · exact h
    · dsimp only
      split
      · exact h
      · exact h.objRead.modGraph

theorem Keeps.graphSignal {g v} : Keeps o (s.graphSignal g v) := h.signalSet

theorem Keeps.freezeGraph {slot cause} : Keeps o (s.freezeGraph slot cause) := by
  unfold State.freezeGraph
  dsimp only
  split
  · exact h.put32.graphSignal.modGraph
  · exact h.graphSignal.modGraph

theorem Keeps.setLaunches {ls} : Keeps o { s with launches := ls } := h.same

theorem Keeps.startReplay {slot v} : Keeps o (s.startReplay slot v) := by
  unfold State.startReplay
  have hr := fun {asid vas g} => ((h.latchQueue (q := (s.graphAt slot).queue)).ite
    (p := (s.queueAt (s.graphAt slot).queue).desc.isEmpty = true) h).objRead (g := g) |>.peekedAll (asid := asid) (vas := vas)
  dsimp only
  split
  · exact hr.freezeGraph
  · split
    · exact hr.freezeGraph
    · exact hr.modGraph.setLaunches

theorem Keeps.servingGraph {slot} : Keeps o ((s.servingGraph slot).getD o) := by
  unfold State.servingGraph
  split
  · exact h
  · split
    · split
      · exact h.same.modGraph.someState
      · exact Keeps.refl o
    · exact Keeps.refl o

theorem Keeps.serveGraph {slot} : Keeps o (s.serveGraph slot) := by
  unfold State.serveGraph
  split
  · exact h
  · dsimp only
    split
    · exact h
    · split
      · split
        · exact h
        · exact (h.servingGraph.of_some ‹_›).modGraph.startReplay
      · split <;> exact (h.servingGraph.of_some ‹_›).modGraph

theorem Keeps.evGraphKick {a} : Keeps o (evGraphKick a s) := by
  unfold Sys2Proof.Machine.evGraphKick
  dsimp only
  split
  · exact h.serveGraph
  · split
    · exact h
    · exact h.modGraph.post

theorem Keeps.dropUnstarted {slot} : Keeps o (s.dropUnstarted slot) := h.same

theorem Keeps.endReplay {slot} : Keeps o (s.endReplay slot) := by
  unfold State.endReplay
  dsimp only
  split
  · exact h
  · split
    · exact h.dropUnstarted.freezeGraph
    · split
      · split
        · exact h.dropUnstarted.graphSignal.modGraph
        · exact h.signalAdd.modGraph
      · split
        · exact h.dropUnstarted.graphSignal.modGraph.post
        · exact h.signalAdd.modGraph.post

theorem Keeps.evGraphNodeCompletion {a} : Keeps o (evGraphNodeCompletion a s) := by
  unfold Sys2Proof.Machine.evGraphNodeCompletion
  split
  · exact h
  · split
    · exact h
    · split
      · exact h
      · split
        · exact h
        · split
          · exact (h.servingGraph.of_some ‹_›).drainFirst.of_some ‹_›
          · split
            · exact h
            · dsimp only
              split
              · exact (h.servingGraph.of_some ‹_›).overLaunch.objRead
              · exact (h.servingGraph.of_some ‹_›).overLaunch.objRead.modGraph.endReplay

theorem Keeps.putGranule {pa bs} : Keeps o (s.putGranule pa bs) := h.same.putWhole

theorem Keeps.copyBack {pool log n} : Keeps o (s.copyBack pool log n) := by
  induction n with
  | zero => exact h
  | succ n ih => exact ih.putGranule

theorem Keeps.rollBack {l x} : Keeps o (s.rollBack l x) := by
  unfold State.rollBack
  dsimp only
  split
  · exact h.logError.copyBack.emptyLog.discardPairs.bumpGen.modLaunch
  · exact h.logError.discardPairs.bumpGen.modLaunch

theorem Keeps.evProtectedRollback {a} : Keeps o (evProtectedRollback a s) := by
  unfold Sys2Proof.Machine.evProtectedRollback
  split
  · exact h
  · split
    · exact h
    · split
      · exact h.logAgent
      · exact h.rollBack

theorem Keeps.bodyFeatq {d k c} : Keeps o (bodyFeatq d k c s).state := h.writeLanes

theorem Keeps.answer {port pa bs} : Keeps o (s.answer port pa bs) := h.same

theorem Keeps.refuseAt {port pa} : Keeps o (s.refuseAt port pa) := h.same

theorem Keeps.evPortWriteArrival {a} : Keeps o (evPortWriteArrival a s) := by
  unfold Sys2Proof.Machine.evPortWriteArrival
  dsimp only
  split
  · exact h.refuseAt
  · split
    · exact h
    · split
      · exact h.mmioWrite
      · exact h.homeWrite

theorem Keeps.evPortReadArrival {a} : Keeps o (evPortReadArrival a s) := by
  unfold Sys2Proof.Machine.evPortReadArrival
  dsimp only
  split
  · exact h.refuseAt
  · split
    · exact h
    · exact (h.mmioRead.iteFst h.devMeets.homeRead).answer

theorem Keeps.evPeerAtomArrival {a} : Keeps o (evPeerAtomArrival a s) := by
  unfold Sys2Proof.Machine.evPeerAtomArrival
  dsimp only
  split
  · exact h.refuseAt
  · split
    · exact h
    · split
      · exact h.devMeets.mergeLine.answer.homeWrite
      · exact h.devMeets.mergeLine.answer

theorem Keeps.evHostAcknowledgement {a} : Keeps o (evHostAcknowledgement a s) := h.same

theorem Keeps.takeOut {u} : Keeps o (s.takeOut u) := by
  unfold State.takeOut
  dsimp only
  split
  · exact h.same.shrinkL2
  · exact h.same

theorem Keeps.evUnitSelfTest {a} : Keeps o (evUnitSelfTest a s) := by
  unfold Sys2Proof.Machine.evUnitSelfTest
  split
  · exact h
  · dsimp only
    split
    · exact h.takeOut
    · split
      · exact h.takeOut.foldl fun _ _ h => h.foldl fun _ _ h => h.modCrew
      · exact h.takeOut.same.logError

theorem Keeps.evIslandClockChange {a} : Keeps o (evIslandClockChange a s) := by
  unfold Sys2Proof.Machine.evIslandClockChange
  split
  · exact h.same
  · exact h

theorem Keeps.evPowerCapSet {a} : Keeps o (evPowerCapSet a s) := by
  unfold Sys2Proof.Machine.evPowerCapSet
  split
  · exact h.same
  · exact h

theorem Keeps.evThermalLimit {a} : Keeps o (evThermalLimit a s) := by
  unfold Sys2Proof.Machine.evThermalLimit
  split
  · exact h
  · exact h.mapCrews (hf := by exact fun k => (KeepsCrew.refl k).same.ite (KeepsCrew.refl k))

theorem Keeps.evDieCooled {a} : Keeps o (evDieCooled a s) := h.same

theorem Keeps.evAttestationReport {a} : Keeps o (evAttestationReport a s) := by
  unfold Sys2Proof.Machine.evAttestationReport
  split
  · exact h
  · exact h.same

theorem Keeps.dropKey {asid} : Keeps o (s.dropKey asid) := ⟨h.mem, fun hl => by
  obtain ⟨h1, h2, h3, h4, h5, h6, h7, h8, hr⟩ := h.lists hl
  obtain ⟨hd, hp⟩ := (swfFrom_iff 0).1 h8
  refine ⟨h1, h2, h3, h4, h5, h6, h7, (swfFrom_iff 0).2 ⟨fun y hy => ?_, List.pairwise_map.2 (hp.imp fun {x y} hxy => ?_)⟩, hr⟩
  · obtain ⟨x, hx, rfl⟩ := List.mem_map.1 hy
    split
    · exact ⟨Nat.zero_le _, by simp only; omega⟩
    · exact hd x hx
  · simp only [apply_ite Prod.fst, ite_self]; exact hxy⟩

/-- A register of the always-on domain (R356). -/
theorem Keeps.setOther {n x} : Keeps o { s with aon := { s.aon with other := sset 0 n x s.aon.other } } := ⟨h.mem, fun hl => by
  obtain ⟨h1, h2, h3, h4, h5, h6, h7, h8, h9, hr⟩ := h.lists hl
  exact ⟨h1, h2, h3, h4, h5, h6, h7, h8, swf_sset _ _ _ h9, hr⟩⟩

theorem Keeps.evAsidKeyInit {a} : Keeps o (evAsidKeyInit a s) := by
  unfold Sys2Proof.Machine.evAsidKeyInit
  split
  · exact h
  · dsimp only
    split
    · split
      · exact h.dropKey
      · exact h
    · exact (h.dropKey.ite h).same.latchSpace

theorem Keeps.evBaseRegisterWrite {a} : Keeps o (evBaseRegisterWrite a s) := by
  unfold Sys2Proof.Machine.evBaseRegisterWrite
  split
  · exact h
  · exact h.same

theorem Keeps.evRegisterWrite {a} : Keeps o (evRegisterWrite a s) := by
  unfold Sys2Proof.Machine.evRegisterWrite
  exact h.ite (h.evBaseRegisterWrite.ite (h.same.ite (h.ite h.setOther)))

omit h in
theorem Keeps.evModuleReset (_ : Keeps o s) {a} : Keeps o (evModuleReset a s) :=
  Keeps.same (s := State.reset) ⟨fun _ => reset_canonical.1, fun _ => reset_canonical.2⟩

theorem Keeps.setBringUp {n} : Keeps o { s with aon := { s.aon with bringUp := n } } := h.same

theorem Keeps.evBringUp {a} : Keeps o (evBringUp a s) := by
  unfold Sys2Proof.Machine.evBringUp
  dsimp only
  split
  · exact h.setBringUp.ite h
  · generalize testedUnits = us
    exact h.same
  · exact h.ite h.same
  · exact h.setBringUp.ite h
  · exact h.setBringUp
  · exact h.setBringUp
  · exact h

end

end Sys2Proof.Machine
end

section
/-!
What lane instructions, the choice of a move and an issue keep (O46, O47).
-/
namespace Sys2Proof.Machine

-- One proof after another: so many short ones, elaborated at once, ask for more threads than the memory limit has room for.
set_option Elab.async false

section
variable {o s : State} (h : Keeps o s)
include h

/-! ## Lanes, and the choice of a move -/

theorem Keeps.bodyPred {g p q r c} : Keeps o (bodyPred g p q r c s).state := h.writePreds

theorem Keeps.bodyPrd {d k c} : Keeps o (bodyPrd d k c s).state := h.writeLanes

theorem Keeps.bodyPwr {a k c} : Keeps o (bodyPwr a k c s).state := h.onActive.nextEff

theorem Keeps.bodyStkrd {p a c} : Keeps o (bodyStkrd p a c s).state := h.writePreds

theorem Keeps.bodyStkset {d a x c} : Keeps o (bodyStkset d a x c s).state := h.writeLanes

theorem Keeps.bodySetpart {x c} : Keeps o (bodySetpart x c s).state := h.onActive.nextEff

theorem Keeps.bodyShfl {d a b s' c} : Keeps o (bodyShfl d a b s' c s).state := h.writeEach

theorem Keeps.bodyVote {isAll pd pa pb c} : Keeps o (bodyVote isAll pd pa pb c s).state := h.modFibres.nextEff

theorem Keeps.bodyVbal {d p c} : Keeps o (bodyVbal d p c s).state := h.writeEach

theorem Keeps.bodyRedl {d a s' c} : Keeps o (bodyRedl d a s' c s).state := h.writeEach

theorem Keeps.pick : Keeps o s.pick := by
  unfold State.pick
  dsimp only
  split
  · exact h.dropIdle.tellOver
  · exact h.dropIdle.tellOver.same

theorem Keeps.strike : Keeps o s.strike := by
  unfold State.strike
  split
  · exact h
  · dsimp only
    split <;> exact h.same

theorem Keeps.evict : Keeps o s.evict := by
  unfold State.evict
  split
  · exact h.evictSector
  · exact h

omit h in
/-- An effect concluded keeps what its state keeps. -/
theorem Keeps.conclude {e : Eff} (h : Keeps o e.state) {c : Ctx} : Keeps o (c.conclude e) := by
  unfold Ctx.conclude
  cases e with
  | next s => exact Keeps.settle (s := s.modFibres _ _ _) (Keeps.modFibres h)
  | jump s ts => exact Keeps.settle (s := s.modFibres _ _ _) (Keeps.modFibres h)
  | stay s => exact h
  | left s => exact Keeps.settle (s := s) h
  | raise s => exact Keeps.takeFault (s := s) h
  | deferred s => exact Keeps.takeFault (s := s) h
  | endLaunch s => exact Keeps.endLaunch (s := s) h

omit h in
/-- An effect whose loads are settled keeps what its state keeps. -/
theorem Keeps.used {e : Eff} (h : Keeps o e.state) {c : Ctx} {i : Instr} : Keeps o (e.used c i).state := by
  unfold Eff.used
  split
  · exact h
  · cases e with
    | next s => exact Keeps.useLate (s := s) h
    | jump s => exact Keeps.useLate (s := s) h
    | stay s => exact Keeps.useLate (s := s) h
    | left s => exact Keeps.useLate (s := s) h
    | raise => exact h
    | deferred => exact h
    | endLaunch => exact h

theorem Keeps.rejectWord {u w x e} : Keeps o (s.rejectWord u w x e) := by
  unfold State.rejectWord
  split
  · exact h
  · split
    · exact h
    · dsimp only
      split
      · exact h
      · split
        · exact h.stamped.raiseLoose
        · split
          · exact (h.stamped.tokenWait.of_eff ‹_›).conclude
          · exact h.stamped.stopAtDovetail.ite h.stamped.begin.raiseAll.conclude

theorem Keeps.fetchIssue {u} : Keeps o (s.fetchIssue u).1 := by
  unfold State.fetchIssue
  split
  · exact h.done.pair
  · dsimp only
    split
    · exact h.same.pair
    · split
      · exact (h.fetchL.ite h).done.pair
      · split
        · exact (h.fetchL.ite h).same.pair
        · exact (h.fetchL.ite h).rejectWord.done.pair

theorem Keeps.move : Keeps o s.move.1 := by
  unfold State.move
  dsimp only
  split
  · exact (h.ite h.pick.strike.evict).done.pair
  · split
    · split
      · exact h
      · exact h.pick.strike.evict.pair
    · exact (h.ite h.pick.strike.evict).done.pair
  · exact (h.ite h.pick.strike.evict).fetchIssue

/-- Each state that an outcome goes on to keeps what the state before keeps. -/
theorem Keeps.issue {i : Instr} {body : Ctx → State → Eff} (hb : ∀ c {t}, Keeps o t → Keeps o (body c t).state) {t : State}
    (e : issue i body s = .next t) : Keeps o t := by
  unfold Sys2Proof.Machine.issue at e
  split at e
  · split at e
    · cases e
    · dsimp only at e
      split at e
      · cases e; exact h.stamped.raiseLoose.done
      · split at e
        · cases e; exact (h.stamped.tokenWait.of_eff ‹_›).conclude.done
        · split at e
          · cases e; exact h.stamped.stopAtDovetail.done
          · split at e
            · cases e; exact h.stamped.done
            · split at e
              · cases e; exact (h.stamped.begin.check.of_eff ‹_›).conclude.done
              · cases e; exact (hb _ h.stamped.begin.serveRegs).fresh.used.conclude.done
  · cases e

theorem Keeps.onEvent {body : EvArg → State → State} (hb : ∀ a {t}, Keeps o t → Keeps o (body a t)) {t : State}
    (e : onEvent body s = .next t) : Keeps o t := by
  unfold Sys2Proof.Machine.onEvent at e
  split at e
  · cases e; exact (hb _ h).done
  · cases e

end

end Sys2Proof.Machine
end

section
/-!
What a step keeps (O46, O47).
-/
namespace Sys2Proof.Machine

-- One proof after another: so many short ones, elaborated at once, ask for more threads than the memory limit has room for.
set_option Elab.async false

section
variable {o s : State} (h : Keeps o s)
include h

/-! ## Every step (O46, O47) -/

/-- What an instruction or an event does keeps the canonical forms. -/
theorem Keeps.exec {i : Instr} {t : State} (e : exec i s = .next t) : Keeps o t := by
  cases i with
  | moviD | moviL => exact h.issue (fun _ _ h => h.bodyMovi) e
  | movhiD | movhiL => exact h.issue (fun _ _ h => h.bodyMovhi) e
  | movD | movL => exact h.issue (fun _ _ h => h.bodyMov) e
  | sreadD | sreadL => exact h.issue (fun _ _ h => h.bodySread) e
  | swriteD | swriteL => exact h.issue (fun _ _ h => h.bodySwrite) e
  | repD | repL => exact h.issue (fun _ _ h => h.bodyRep) e
  | braD | callD | braL | callL => exact h.issue (fun _ _ h => h.bodyBra) e
  | brxD | brxL => exact h.issue (fun _ _ h => h.bodyBrx) e
  | retD | retL => exact h.issue (fun _ _ h => h.bodyRet) e
  | forkD | forkTryD | forkL | forkTryL => exact h.issue (fun _ _ h => h.bodyFork) e
  | trapD | syscD | trapL | syscL => exact h.issue (fun _ _ h => h.bodyTrap) e
  | iaddD | iaddL => exact h.issue (fun _ _ h => h.bodyAdd) e
  | isubD | isubL => exact h.issue (fun _ _ h => h.bodySub) e
  | imulD | imulL => exact h.issue (fun _ _ h => h.bodyMul) e
  | imadD | imadL => exact h.issue (fun _ _ h => h.bodyMad) e
  | idivD | iremD | iminD | imaxD | andD | orD | xorD | andnD | rotlD | bfxD | idivL | iremL | iminL | imaxL | andL | orL
    | xorL | andnL | rotlL | bfxL =>
    exact h.issue (fun _ _ h => h.bodyBin) e
  | shlD | shlL => exact h.issue (fun _ _ h => h.bodyShl) e
  | shrD | shrL => exact h.issue (fun _ _ h => h.bodyShr) e
  | iaddiD | andiD | oriD | xoriD | shliD | shriD | imuliD | iaddiL | andiL | oriL | xoriL | shliL | shriL | imuliL =>
    exact h.issue (fun _ _ h => h.bodyImm) e
  | leaD | leaL => exact h.issue (fun _ _ h => h.bodyLea) e
  | bfiD | bfiL => exact h.issue (fun _ _ h => h.bodyBfi) e
  | popcD | clzD | brevD | iabsD | popcL | clzL | brevL | iabsL => exact h.issue (fun _ _ h => h.bodyUn) e
  | selD | selL => exact h.issue (fun _ _ h => h.bodySel) e
  | icmpD | icmpuD | icmpL | icmpuL => exact h.issue (fun _ _ h => h.bodyCmp) e
  | faddD | fsubD | fmulD | faddL | fsubL | fmulL => exact h.issue (fun _ _ h => h.bodyFloat) e
  | ffmaD | ffmaL => exact h.issue (fun _ _ h => h.bodyFfma) e
  | fminD | fmaxD | fminL | fmaxL => exact h.issue (fun _ _ h => h.bodyFminmax) e
  | fcmpD | fcmpL => exact h.issue (fun _ _ h => h.bodyFcmp) e
  | fcmpxD | fcmpxL => exact h.issue (fun _ _ h => h.bodyFcmpx) e
  | fspfD | fspfL => exact h.issue (fun _ _ h => h.bodyFspf) e
  | fsgnD | fsgnL => exact h.issue (fun _ _ h => h.bodyFsgn) e
  | hadd2D | hmul2D | hfma2D | hadd2L | hmul2L | hfma2L => exact h.issue (fun _ _ h => h.bodyPacked) e
  | hmnx2D | hmnx2L => exact h.issue (fun _ _ h => h.bodyHmnx) e
  | cvtD | cvtL => exact h.issue (fun _ _ h => h.bodyCvt) e
  | pkbD | pkbL => exact h.issue (fun _ _ h => h.bodyPkb) e
  | shflD | shflL => exact h.issue (fun _ _ h => h.bodyShfl) e
  | vanyD | vallD | vanyL | vallL => exact h.issue (fun _ _ h => h.bodyVote) e
  | vbalD | vbalL => exact h.issue (fun _ _ h => h.bodyVbal) e
  | redlD | redlL => exact h.issue (fun _ _ h => h.bodyRedl) e
  | setpartD | setpartL => exact h.issue (fun _ _ h => h.bodySetpart) e
  | pandD | porD | pxorD | pandnD | pandL | porL | pxorL | pandnL => exact h.issue (fun _ _ h => h.bodyPred) e
  | prdD | prdL => exact h.issue (fun _ _ h => h.bodyPrd) e
  | pwrD | pwrL => exact h.issue (fun _ _ h => h.bodyPwr) e
  | stkrdD | stkrdL => exact h.issue (fun _ _ h => h.bodyStkrd) e
  | stksetD | stksetL => exact h.issue (fun _ _ h => h.bodyStkset) e
  | ldD | ldL => exact h.issue (fun _ _ h => h.bodyLd) e
  | stD | stL => exact h.issue (fun _ _ h => h.bodySt) e
  | ldsD | ldsL => exact h.issue (fun _ _ h => h.bodyLds) e
  | stsD | stsL => exact h.issue (fun _ _ h => h.bodySts) e
  | ldaqD | ldaqL => exact h.issue (fun _ _ h => h.bodyLdaq) e
  | strlD | strlL => exact h.issue (fun _ _ h => h.bodyStrl) e
  | atomD | atomL => exact h.issue (fun _ _ h => h.bodyAtom) e
  | atomsD | atomsL => exact h.issue (fun _ _ h => h.bodyAtoms) e
  | fenceD | fenceL => exact h.issue (fun _ _ h => h.bodyFence) e
  | prefD | prefL => exact h.issue (fun _ _ h => h.bodyPref) e
  | iprefD | iprefL => exact h.issue (fun _ _ h => h.bodyIpref) e
  | xlqD | xlqL => exact h.issue (fun _ _ h => h.bodyXlq) e
  | stxD | stxL => exact h.issue (fun _ _ h => h.bodyStx) e
  | ldxD | ldxL => exact h.issue (fun _ _ h => h.bodyLdx) e
  | stcD | stcL => exact h.issue (fun _ _ h => h.bodyStc) e
  | cpaD | cpaL => exact h.issue (fun _ _ h => h.bodyCpa) e
  | waittD | waittL => exact h.issue (fun _ _ h => h.bodyWaitt) e
  | tokqD | tokqL => exact h.issue (fun _ _ h => h.bodyTokq) e
  | mmaf8aD | mmaf8bD | mmak8D | mmab16D | mmah16D | mmai8D | mmaf8aL | mmaf8bL | mmak8L | mmab16L | mmah16L | mmai8L =>
    exact h.issue (fun _ _ h => h.bodyMma) e
  | accrdD | accrdL => exact h.issue (fun _ _ h => h.bodyAccrd) e
  | accwrD | accwrL => exact h.issue (fun _ _ h => h.bodyAccwr) e
  | acczD | acczL => exact h.issue (fun _ _ h => h.bodyAccz) e
  | accstD | accstL => exact h.issue (fun _ _ h => h.bodyAccst) e
  | pliD | plfD | pliL | plfL => exact h.issue (fun _ _ h => h.bodyPl) e
  | plredD | plredL => exact h.issue (fun _ _ h => h.bodyPlred) e
  | regacqWaitD | regacqTryD | regacqWaitL | regacqTryL => exact h.issue (fun _ _ h => h.bodyRegacq) e
  | regrelD | regrelL => exact h.issue (fun _ _ h => h.bodyRegrel) e
  | migrD | migrL => exact h.issue (fun _ _ h => h.bodyMigr) e
  | barD | barL => exact h.issue (fun _ _ h => h.bodyBar) e
  | arvD | arvL => exact h.issue (fun _ _ h => h.bodyArv) e
  | awtD | awtL => exact h.issue (fun _ _ h => h.bodyAwt) e
  | brdD | brdL => exact h.issue (fun _ _ h => h.bodyBrd) e
  | bwrD | bwrL => exact h.issue (fun _ _ h => h.bodyBwr) e
  | batomD | batomL => exact h.issue (fun _ _ h => h.bodyBatom) e
  | featqD | featqL => exact h.issue (fun _ _ h => h.bodyFeatq) e
  | chunkD | chunkL => exact h.issue (fun _ _ h => h.bodyChunk) e
  | dvtL => exact h.issue (fun _ _ h => h.bodyDvt) e
  | nopD | nopL => exact h.issue (fun _ _ h => h.bodyNop) e
  | endD | endL => exact h.issue (fun _ _ h => h.bodyEnd) e
  | ifenceD | ifenceL => exact h.issue (fun _ _ h => h.bodyIfence) e
  | genbumpD | genbumpL => exact h.issue (fun _ _ h => h.bodyGenbump) e
  | ckptD | ckptL => exact h.issue (fun _ _ h => h.bodyCkpt) e
  | haltD | haltL => exact h.issue (fun _ _ h => h.bodyHalt) e
  | clauseEntry => exact h.onEvent (fun _ _ h => h.evClauseEntry) e
  | tokenWaitResume => exact h.onEvent (fun _ _ h => h.evTokenWaitResume) e
  | registerGrant => exact h.onEvent (fun _ _ h => h.evRegisterGrant) e
  | regDeadlock => exact h.onEvent (fun _ _ h => h.evRegDeadlock) e
  | binAgeExpiry => exact h.onEvent (fun _ _ h => h.evBinAgeExpiry) e
  | binIssue => exact h.onEvent (fun _ _ h => h.evBinIssue) e
  | gangSlotSwap => exact h.onEvent (fun _ _ h => h.evGangSlotSwap) e
  | engineLineWrite => exact h.onEvent (fun _ _ h => h.evEngineLineWrite) e
  | scratchGranuleLanding => exact h.onEvent (fun _ _ h => h.evScratchGranuleLanding) e
  | copyComplete => exact h.onEvent (fun _ _ h => h.evCopyComplete) e
  | deferredCopyFault => exact h.onEvent (fun _ _ h => h.evDeferredFault) e
  | mmaBlockAdd => exact h.onEvent (fun _ _ h => h.evMmaBlockAdd) e
  | accstRowWrite => exact h.onEvent (fun _ _ h => h.evAccstRowWrite) e
  | homeAccessArrival => exact h.onEvent (fun _ _ h => h.evHomeAccessArrival) e
  | placedPartExecute => exact h.onEvent (fun _ _ h => h.evPlacedPartExecute) e
  | reduceStateMerge => exact h.onEvent (fun _ _ h => h.evReduceStateMerge) e
  | genbumpComplete => exact h.onEvent (fun _ _ h => h.evGenbumpComplete) e
  | portWriteArrival => exact h.onEvent (fun _ _ h => h.evPortWriteArrival) e
  | portReadArrival => exact h.onEvent (fun _ _ h => h.evPortReadArrival) e
  | peerAtomArrival => exact h.onEvent (fun _ _ h => h.evPeerAtomArrival) e
  | faultDelivery => exact h.onEvent (fun _ _ h => h.evFaultDelivery) e
  | launchEndWithCause => exact h.onEvent (fun _ _ h => h.evLaunchEndWithCause) e
  | preemption => exact h.onEvent (fun _ _ h => h.evPreemption) e
  | crewRestore => exact h.onEvent (fun _ _ h => h.evCrewRestore) e
  | firmwareCheckpoint => exact h.onEvent (fun _ _ h => h.evFirmwareCheckpoint) e
  | migration => exact h.onEvent (fun _ _ h => h.evMigration) e
  | returnTrap => exact h.onEvent (fun _ _ h => h.evReturnTrap) e
  | crewPlacement => exact h.onEvent (fun _ _ h => h.evCrewPlacement) e
  | carveOutChange => exact h.onEvent (fun _ _ h => h.evCarveOutChange) e
  | notify => exact h.onEvent (fun _ _ h => h.evNotify) e
  | packetTake => exact h.onEvent (fun _ _ h => h.evPacketTake) e
  | launch => exact h.onEvent (fun _ _ h => h.evLaunch) e
  | cmdblock => exact h.onEvent (fun _ _ h => h.evCmdblock) e
  | copy => exact h.onEvent (fun _ _ h => h.evCopy) e
  | fill => exact h.onEvent (fun _ _ h => h.evFill) e
  | signal => exact h.onEvent (fun _ _ h => h.evSignal) e
  | waitsig => exact h.onEvent (fun _ _ h => h.evWaitsig) e
  | waitsigReevaluate => exact h.onEvent (fun _ _ h => h.evWaitsigReevaluate) e
  | nopPacket => exact h.onEvent (fun _ _ h => h.evNopPacket) e
  | launchCompletionSignal => exact h.onEvent (fun _ _ h => h.evLaunchCompletionSignal) e
  | thaw => exact h.onEvent (fun _ _ h => h.evThaw) e
  | abandon => exact h.onEvent (fun _ _ h => h.evAbandon) e
  | graphKick => exact h.onEvent (fun _ _ h => h.evGraphKick) e
  | graphNodeCompletion => exact h.onEvent (fun _ _ h => h.evGraphNodeCompletion) e
  | pairComparison => exact h.onEvent (fun _ _ h => h.evPairComparison) e
  | protectedRollback => exact h.onEvent (fun _ _ h => h.evProtectedRollback) e
  | unitSelfTest => exact h.onEvent (fun _ _ h => h.evUnitSelfTest) e
  | islandClockChange => exact h.onEvent (fun _ _ h => h.evIslandClockChange) e
  | powerCapSet => exact h.onEvent (fun _ _ h => h.evPowerCapSet) e
  | thermalLimit => exact h.onEvent (fun _ _ h => h.evThermalLimit) e
  | attestationReport => exact h.onEvent (fun _ _ h => h.evAttestationReport) e
  | asidKeyInit => exact h.onEvent (fun _ _ h => h.evAsidKeyInit) e
  | baseRegisterWrite => exact h.onEvent (fun _ _ h => h.evBaseRegisterWrite) e
  | registerWrite => exact h.onEvent (fun _ _ h => h.evRegisterWrite) e
  | moduleReset => exact h.onEvent (fun _ _ h => h.evModuleReset) e
  | bringUp => exact h.onEvent (fun _ _ h => h.evBringUp) e
  | dieCooled => exact h.onEvent (fun _ _ h => h.evDieCooled) e
  | hostAcknowledgement => exact h.onEvent (fun _ _ h => h.evHostAcknowledgement) e
  | graphRegistration => exact h.onEvent (fun _ _ h => h.evGraphRegistration) e

/-- A step keeps the canonical forms. -/
theorem Keeps.step {t : State} (e : step s = .next t) : Keeps o t := by
  unfold Sys2Proof.Machine.step at e
  have hm := h.move
  split at e
  · exact Keeps.exec (hm.of_fst ‹_›) e
  · cases e; exact hm.of_fst ‹_›

end

end Sys2Proof.Machine
end

section
open Sys2Proof Sys2Proof.Machine

/-- Settles O46: every operation keeps the canonical form of memory, and so does a step, which is made of them. -/
theorem memoryStaysCanonical : Obligations.MemoryStaysCanonical := by
  unfold Obligations.MemoryStaysCanonical
  intro s t hs e
  exact ((Keeps.refl s).step e).mem hs

/-- Settles O47: every operation keeps the canonical form of the other sparse parts, and so does a step, which is made of them. -/
theorem listsStayCanonical : Obligations.ListsStayCanonical := by
  unfold Obligations.ListsStayCanonical
  intro s t hs e
  exact ((Keeps.refl s).step e).lists hs

end

section
/-!
A write at its home where nothing is pending there: what it leaves (R114, R129, R150).
-/
namespace Sys2Proof.Machine

/-! ## With nothing pending (R114, R129, R132, R318) -/

/-- With no partial pending and no error, sectors that leave change the slice alone. -/
theorem evictSectors_quiet : ∀ (ls : List Nat) (s : State), s.partials = [] → s.rel.poison = [] →
    ∃ x n, ls.foldl State.evictSector s = { s with l2 := x, l2Next := n }
  | [], s, _, _ => ⟨s.l2, s.l2Next, rfl⟩
  | l :: ls, s, hp, hq => by
    have h1 : ∃ x n, s.evictSector l = { s with l2 := x, l2Next := n } := by
      unfold State.evictSector
      rw [mergeLine_none hp]
      dsimp only
      split
      · exact ⟨s.l2, s.l2Next, rfl⟩
      · refine ⟨sset none l none s.l2, s.l2Next.filter (· != l), ?_⟩
        have hr : ({ s.rel with poison := [] } : Reliability) = s.rel := by rw [← hq]
        rw [hq, List.filter_nil, hr, ite_self]
    obtain ⟨x, n, e⟩ := h1
    rw [List.foldl_cons, e]
    exact evictSectors_quiet ls { s with l2 := x, l2Next := n } hp hq

/-- With no partial pending and no error, an access changes the slice alone. -/
theorem touchSector_quiet {s : State} (hp : s.partials = []) (hq : s.rel.poison = []) (mtype line : Nat) (write whole : Bool) :
    ∃ x n, s.touchSector mtype line write whole = { s with l2 := x, l2Next := n } := by
  unfold State.touchSector
  split
  · exact ⟨s.l2, s.l2Next, rfl⟩
  · split
    · split
      · exact ⟨_, s.l2Next, rfl⟩
      · exact ⟨s.l2, s.l2Next, rfl⟩
    · obtain ⟨x, n, e⟩ := evictSectors_quiet (s.crowdedOut line) s hp hq
      rw [e]
      simp only [hq, List.any_nil, Bool.and_false, Bool.false_eq_true, if_false]
      exact ⟨_, n, rfl⟩

/-- Where no WAITSIG watches, a write tells none. -/
theorem tellSignals_quiet {s : State} (hw : s.noWatch) (pa n : Nat) : s.tellSignals pa n = s := by
  unfold State.tellSignals
  have h : s.queues.filter (fun q => q.2.packets.any fun p =>
      { p with watched := p.watched.map (s.evaluated pa n p.words) } != p) = [] := by
    refine List.filter_eq_nil_iff.2 fun q hq => ?_
    rw [List.any_eq_true]
    rintro ⟨p, hm, hne⟩
    have hp := hw q hq p hm
    obtain ⟨words, started, completed, next, launch, stalled, watched, rejected⟩ := p
    cases hp
    simp at hne
  dsimp only
  rw [h]
  rfl

/-- A write that meets no load which may return a later one leaves these alone. -/
theorem reach_quiet {s : State} {pa n : Nat} (he : ∀ e ∈ s.sync.early, e.scratch = false → meetsRange pa n e.place e.len = false)
    (who : Option FibreId) (now : State → Early → Option (List Byte)) : s.reach who none pa n now = s := by
  unfold State.reach
  refine if_pos (List.all_eq_true.2 fun e hm => ?_)
  cases hs : e.scratch
  · simp [hs, he e hm hs]
  · simp [hs]

/-- Outside the tables of the device no byte is its own. -/
theorem deviceOwned_outside {s : State} {x : Nat} (h : s.outsideTables x) : s.deviceOwned x = false := by
  obtain ⟨h0, h2⟩ := h
  unfold State.deviceOwned
  split <;> split <;> simp_all

/-- Bytes outside the tables of the device are written as they are. -/
theorem softBytes_outside {s : State} {pa : Nat} {bs : List Byte} (h : ∀ x, pa ≤ x → x < pa + bs.length → s.outsideTables x) :
    s.softBytes pa bs = bs := by
  unfold State.softBytes
  refine if_neg fun ha => ?_
  obtain ⟨i, hi, ho⟩ := List.any_eq_true.1 ha
  have := List.mem_range.1 hi
  rw [deviceOwned_outside (h (pa + i) (by omega) (by omega))] at ho
  cases ho

theorem cleanSectors_quiet {s : State} (hq : s.rel.poison = []) (pa n : Nat) : s.cleanSectors pa n = s := by
  unfold State.cleanSectors; simp [hq]

/-! ## A write at its home -/

/-- A write at its home is to be seen as it is: no partial is pending, no error stands, no WAITSIG watches, no load may return it, and it
lies outside the tables of the device. -/
structure State.Plain (s : State) (pa n : Nat) : Prop where
  partials : s.partials = []
  poison : s.rel.poison = []
  noWatch : s.noWatch
  early : ∀ e ∈ s.sync.early, e.scratch = false → meetsRange pa n e.place e.len = false
  outside : ∀ x, pa ≤ x → x < pa + n → s.outsideTables x

/-- Neither a load nor a WAITSIG hears of such a write. -/
theorem State.Plain.unheard {s t : State} {pa n : Nat} {who : Option FibreId} {now : State → Early → Option (List Byte)}
    (h : s.Plain pa n) (hs : t.sync = s.sync := by rfl) (hq : t.queues = s.queues := by rfl) : (t.reach who none pa n now).tellSignals pa n = t := by
  have hy := h.early
  have hw := h.noWatch
  unfold State.noWatch at hw
  rw [← hs] at hy
  rw [← hq] at hw
  rw [reach_quiet hy, tellSignals_quiet hw]

/-- Bytes stored in memory, but for what caches, the slice and the record of what was overwritten then hold. -/
def StoresAt (s t : State) (pa : Nat) (bs : List Byte) : Prop :=
  ∃ cs x n ps, t = { s with mem := (s.store pa bs).mem, cores := cs, l2 := x, l2Next := n, past := ps }

/-- A store that is no fibre's changes memory, and the record of what it has overwritten. -/
theorem storeAs_mem (s : State) {m : Mark} (hm : m.who = none) (pa : Nat) (bs : List Byte) :
    ∃ ps, s.storeAs m pa bs = { s with mem := (s.store pa bs).mem, past := ps } := ⟨_, storeAs_anonymous s m hm pa bs⟩

/-- A write at its home, of a page neither encrypted nor snapshot, stores its bytes. -/
theorem storesAt_homeWrite {s : State} {pa : Nat} {bs : List Byte} (h : s.Plain pa bs.length) (c core asid : Nat) {m : Mark} (hm : m.who = none)
    {tr : Translation} (hs : tr.snapshot = false) (he : tr.enc = false) : StoresAt s (s.homeWrite c core asid m tr pa 0 bs) pa bs := by
  have hp := h.partials
  have hq := h.poison
  unfold State.homeWrite State.snapshotFirst State.takeKey State.markNext
  simp only [hs, he, Bool.false_eq_true, false_and, if_false, mergeLine_none hp, Nat.zero_ne_one]
  obtain ⟨x, n, e⟩ := touchSector_quiet hp hq tr.mtype (pa / 64) true (decide (pa % 64 = 0) && decide (bs.length = 64))
  obtain ⟨ps, e'⟩ := storeAs_mem { s with l2 := x, l2Next := n } (m := { m with fixed := decide (2 ≤ tr.mtype) }) hm pa bs
  rw [e, softBytes_outside (s := { s with l2 := x, l2Next := n }) h.outside, e',
    cleanSectors_quiet (s := { s with mem := _, l2 := x, l2Next := n, past := ps }) hq]
  split
  · exact ⟨_, x, n, ps, h.unheard⟩
  · exact ⟨_, x, n, ps, h.unheard⟩

end Sys2Proof.Machine
end

section
/-!
Traffic that arrives through ports (O54): when an arrival is taken at its home, and what it leaves.
-/
namespace Sys2Proof.Machine

/-! ## What inbound traffic may name (R150, R151, R354) -/

theorem portOpen_iff {s : State} {port : Nat} : s.portOpen port = true ↔ port < 2 ∨ (port < 18 ∧ (port - 2) ∈ s.aon.peers) := by
  simp [State.portOpen]

theorem inMmio_of_inDram {pa : Nat} (h : inDram pa = true) : inMmio pa = false := by
  simp only [inDram, Bool.and_eq_true, decide_eq_true_eq] at h
  simp only [inMmio, Bool.and_eq_false_iff, decide_eq_false_iff_not]
  omega

theorem apertureOf_below {pa : Nat} (h : pa < 0x9000000000000) : apertureOf pa = none := by
  unfold apertureOf
  rw [if_neg (by omega), if_neg (by omega)]

theorem apertureOf_of_inDram {pa : Nat} (h : inDram pa = true) : apertureOf pa = none := by
  simp only [inDram, Bool.and_eq_true, decide_eq_true_eq] at h
  exact apertureOf_below (by omega)

/-- Bytes of one line of memory may be named from without, once bring-up has begun. -/
theorem inboundOk_dram {s : State} {port pa n : Nat} (hb : 1 ≤ s.aon.bringUp) (hd : inDram pa = true) (hn : 0 < n)
    (hl : pa % 64 + n ≤ 64) : s.inboundOk port pa n = true := by
  have hline : pa / 64 = (pa + n - 1) / 64 := by omega
  simp [State.inboundOk, State.broughtTo, State.frameOk, hb, hd, apertureOf_of_inDram hd, ← hline]

/-- An access that spans lines may not be made from without (log 54). -/
theorem inboundOk_spans {s : State} {port pa n : Nat} (h : pa / 64 ≠ (pa + n - 1) / 64) : s.inboundOk port pa n = false := by
  simp [State.inboundOk, h]

/-- An expander's memory may not be named from without (R151). -/
theorem inboundOk_cxl {s : State} {port pa n : Nat} (h : inCxl pa = true) : s.inboundOk port pa n = false := by
  simp only [inCxl, Bool.and_eq_true, decide_eq_true_eq] at h
  have hd : inDram pa = false := by simp only [inDram, Bool.and_eq_false_iff, decide_eq_false_iff_not]; omega
  have hm : inMmio pa = false := by simp only [inMmio, Bool.and_eq_false_iff, decide_eq_false_iff_not]; omega
  simp [State.inboundOk, hd, hm]

/-! ## Reads at a home -/

/-- Where no error stands a device's access meets none. -/
theorem devMeets_quiet {s : State} (hq : s.rel.poison = []) (hc : s.rel.correctable = []) (asid pa n : Nat) : s.devMeets asid pa n = s := by
  have he : s.eccAt pa n = none := by simp [State.eccAt, hq]
  unfold State.devMeets
  simp only [hc, List.any_nil, Bool.false_eq_true, if_false, he]

/-- A read of a page that is not encrypted gives the bytes that stand there, and changes the slice alone. -/
theorem homeRead_quiet {s : State} (hp : s.partials = []) (hq : s.rel.poison = []) {tr : Translation} (he : tr.enc = false) (asid pa n : Nat) :
    ∃ x l, s.homeRead asid tr pa n = ({ s with l2 := x, l2Next := l }, s.bytes pa n) := by
  obtain ⟨x, l, e⟩ := touchSector_quiet hp hq tr.mtype (pa / 64) false false
  refine ⟨x, l, ?_⟩
  unfold State.homeRead State.decrypt
  simp only [mergeLine_none hp, e, he, Bool.false_eq_true, false_and, if_false]
  rfl

/-! ## Arrivals -/

section
variable {s : State} {a : EvArg}

/-- Traffic of a port that is not open is refused. -/
theorem arrival_refused (h : ¬ (a.n < 2 ∨ (a.n < 18 ∧ (a.n - 2) ∈ s.aon.peers))) :
    evPortWriteArrival a s = s.refuseAt a.n a.v.toNat ∧ evPortReadArrival a s = s.refuseAt a.n a.v.toNat
      ∧ evPeerAtomArrival a s = s.refuseAt a.n a.v.toNat :=
  have hf : ¬ s.portOpen a.n := fun hp => h (portOpen_iff.1 hp)
  ⟨if_pos hf, if_pos hf, if_pos hf⟩

section
variable (hp : s.portOpen a.n = true)
include hp

/-- A write that may not be made, or whose line is owned, changes nothing. -/
theorem portWrite_none (h : s.inboundOk a.n a.v.toNat a.bytes.length = false ∨ s.owned (a.v.toNat / 64) = true) :
    evPortWriteArrival a s = s := by
  unfold evPortWriteArrival State.arrivalHeld
  rw [if_neg (by simp [hp]), if_pos (by simpa using h)]

theorem portRead_none (h : s.inboundOk a.n a.v.toNat a.m = false) : evPortReadArrival a s = s := by
  unfold evPortReadArrival
  rw [if_neg (by simp [hp]), if_pos (by simp [h])]

variable (hb : 1 ≤ s.aon.bringUp) (hd : inDram a.v.toNat = true) (ho : s.owned (a.v.toNat / 64) = false)
include hb hd ho

theorem portWrite_taken (hn : 0 < a.bytes.length) (hl : a.v.toNat % 64 + a.bytes.length ≤ 64) :
    evPortWriteArrival a s = s.homeWrite nobody nobody 0 {} (plainTr a.v.toNat) a.v.toNat 0 a.bytes := by
  unfold evPortWriteArrival State.arrivalHeld
  rw [if_neg (by simp [hp]), if_neg (by simp [inboundOk_dram hb hd hn hl, ho]), if_neg (by simp [inMmio_of_inDram hd])]

theorem portRead_taken (hpart : s.partials = []) (hq : s.rel.poison = []) (hc : s.rel.correctable = []) (hn : 0 < a.m)
    (hl : a.v.toNat % 64 + a.m ≤ 64) :
    ∃ x l, evPortReadArrival a s = ({ s with l2 := x, l2Next := l } : State).answer a.n a.v.toNat (s.bytes a.v.toNat a.m) := by
  obtain ⟨x, l, e⟩ := homeRead_quiet hpart hq (tr := plainTr a.v.toNat) rfl 0 a.v.toNat a.m
  refine ⟨x, l, ?_⟩
  unfold evPortReadArrival State.arrivalHeld
  rw [if_neg (by simp [hp]), if_neg (by simp [inboundOk_dram hb hd hn hl, ho]), if_neg (by simp [inMmio_of_inDram hd]),
    devMeets_quiet hq hc, e]

theorem peerAtom_taken (hpart : s.partials = []) (hq : s.rel.poison = []) (hc : s.rel.correctable = []) (hal : a.v.toNat % 4 = 0) :
    evPeerAtomArrival a s =
      (let old := leWord (s.bytes a.v.toNat 4)
       let t := s.answer a.n a.v.toNat (s.bytes a.v.toNat 4)
       let x := leWord (a.bytes.take 4)
       let y := leWord ((a.bytes.drop 4).take 4)
       if atomWrites a.m old y then
         t.homeWrite nobody nobody 0 { rmw := true } (plainTr a.v.toNat) a.v.toNat 0 (leBytes 4 (atomNew a.m old x y).toNat)
       else t) := by
  unfold evPeerAtomArrival State.arrivalHeld
  rw [if_neg (by simp [hp]), if_neg (by simp [inboundOk_dram hb hd (by omega : 0 < 4) (by omega), ho, hal, inMmio_of_inDram hd]),
    devMeets_quiet hq hc, mergeLine_none hpart]

end

/-- What the operation of an atomic makes of a word (R170). -/
theorem atomNew_eq_atomicResult {op : Nat} (h : op < 8) (old b cmp : Word) : atomNew op old b cmp = atomicResult op old b cmp := by
  have hlt : ∀ x y : Word, (x.slt y = true) ↔ x.toInt < y.toInt := fun x y => by simp [BitVec.slt]
  have hmin : imin true old b = if b.slt old = true then b else old := by
    unfold imin
    by_cases hx : b.toInt < old.toInt
    · rw [if_pos rfl, if_neg (by omega), if_pos ((hlt _ _).2 hx)]
    · rw [if_pos rfl, if_pos (by omega), if_neg (mt (hlt _ _).1 hx)]
  have hmax : imax true old b = if old.slt b = true then b else old := by
    unfold imax
    by_cases hx : old.toInt < b.toInt
    · rw [if_pos rfl, if_pos (by omega), if_pos ((hlt _ _).2 hx)]
    · rw [if_pos rfl, if_neg (mt (hlt _ _).1 hx)]
      split
      · exact BitVec.eq_of_toInt_eq (by omega)
      · rfl
  match op, h with
  | 0, _ | 3, _ | 4, _ | 5, _ | 6, _ | 7, _ => rfl
  | 1, _ => exact hmin
  | 2, _ => exact hmax

/-- A host's write of 8 bytes to a notify page is posted as that queue's notify (R311). -/
theorem portWrite_notify {q : Nat} (hn : a.n < 2) (hb : 1 ≤ s.aon.bringUp) (hlen : a.bytes.length = 8) (hq : q < 4096)
    (hv : a.v.toNat = 0x8100000000000 + 0x20000 * q) (ho : s.owned (a.v.toNat / 64) = false) :
    evPortWriteArrival a s = { s with inbox := s.inbox ++ [(.notify, { n := (a.v.toNat - 0x8100000000000) / 0x20000, v := leDWord a.bytes })] } := by
  have hp : s.portOpen a.n = true := portOpen_iff.2 (.inl hn)
  have hm : inMmio a.v.toNat = true := by simp only [inMmio, Bool.and_eq_true, decide_eq_true_eq]; omega
  have hap : apertureOf a.v.toNat = none := apertureOf_below (by omega)
  have hline : a.v.toNat / 64 = (a.v.toNat + 8 - 1) / 64 := by omega
  have hin : s.inboundOk a.n a.v.toNat a.bytes.length = true := by
    have hk : kickBase ≤ a.v.toNat := by unfold kickBase; omega
    simp only [State.inboundOk, State.broughtTo, State.frameOk, hb, hn, hm, hap, hlen, hk, ← hline]
    simp
  have h8 : a.v.toNat % 8 = 0 := by omega
  have hreg : byRegister a.v.toNat a.bytes = [(a.v.toNat, a.bytes)] := by
    simp [byRegister, h8, hlen, List.take_of_length_le]
  unfold evPortWriteArrival State.arrivalHeld
  rw [if_neg (by simp [hp]), if_neg (by simp [hin, ho]), if_pos hm]
  unfold State.mmioWrite
  rw [hap, hreg]
  simp only [Option.isSome_none, Bool.false_eq_true, if_false, List.foldl_cons, List.foldl_nil]
  unfold State.registerStore
  dsimp only
  rw [if_neg (by unfold mmioBase; omega), if_pos (by unfold notifyBase; omega), if_pos (by unfold notifyBase; omega), h8]
  rfl

end

end Sys2Proof.Machine
end

section
open Sys2Proof Sys2Proof.Machine

/-- Settles O54: each arrival is taken at its home, refused or left, as its port and its address have it. -/
theorem portTraffic : Obligations.PortTraffic := by
  unfold Obligations.PortTraffic
  refine ⟨?_, ?_, ?_, ?_, ?_, ?_, ?_, ?_, ?_, ?_⟩
  · rintro a s ht hcan ⟨hopen, hb, hw, hy, hd, hn, hl, ho, hpart, hq, -, hout⟩
    obtain ⟨cs, x, l, ps, e⟩ := storesAt_homeWrite (tr := plainTr a.v.toNat) (m := {}) ⟨hpart, hq, hw, hy, hout⟩ nobody nobody 0 rfl rfl rfl
    rw [← portWrite_taken (portOpen_iff.2 hopen) hb hd ho hn hl] at e
    refine ⟨_, onEvent_next _ ht, by rw [e]; rfl, fun y hy => ?_, by rw [e]; rfl⟩
    rw [e]
    exact (s.byte_store a.v.toNat a.bytes y hcan.1).trans (if_neg hy)
  · refine event_of (fun _ => rfl) fun a s ⟨hopen, h⟩ => portWrite_none (portOpen_iff.2 hopen) ?_
    exact h.imp_left inboundOk_cxl
  · intro a s h
    simp [State.takable, State.arrivalHeld, h]
  · rintro i (rfl | rfl | rfl)
    · exact event_of (fun _ => rfl) fun a s h => (arrival_refused h).1
    · exact event_of (fun _ => rfl) fun a s h => (arrival_refused h).2.1
    · exact event_of (fun _ => rfl) fun a s h => (arrival_refused h).2.2
  · exact event_of (fun _ => rfl) fun a s ⟨hopen, h⟩ => portWrite_none (portOpen_iff.2 hopen) (.inl (inboundOk_spans h))
  · exact event_of (fun _ => rfl) fun a s ⟨hn, hb, hlen, ⟨q, hq, hv⟩, ho⟩ => portWrite_notify hn hb hlen hq hv ho
  · rintro a s ht ⟨hopen, hb, -, -, hd, hn, hl, ho, hpart, hq, hc, -⟩
    obtain ⟨x, l, e⟩ := portRead_taken (portOpen_iff.2 hopen) hb hd ho hpart hq hc hn hl
    exact ⟨_, onEvent_next _ ht, by rw [e]; rfl, by rw [e]; rfl⟩
  · exact event_of (fun _ => rfl) fun a s ⟨hopen, h⟩ => portRead_none (portOpen_iff.2 hopen) (inboundOk_spans h)
  · rintro a s ht hcan ⟨hopen, hb, hw, hy, hd, hn, hl, ho, hpart, hq, hc, hout⟩ hal hop
    have e := peerAtom_taken (portOpen_iff.2 hopen) hb hd ho hpart hq hc hal
    refine ⟨_, onEvent_next _ ht, ?_⟩
    rw [e]
    dsimp only
    split
    · rename_i h
      have hnot : ¬ (a.m = 7 ∧ leWord (s.bytes a.v.toNat 4) ≠ leWord ((a.bytes.drop 4).take 4)) := fun ⟨h7, hne⟩ => by
        simp [atomWrites, h7, hne] at h
      obtain ⟨cs, x, l, ps, e'⟩ := storesAt_homeWrite (s := s.answer a.n a.v.toNat (s.bytes a.v.toNat 4)) (pa := a.v.toNat)
        (bs := leBytes 4 (atomNew a.m (leWord (s.bytes a.v.toNat 4)) (leWord (a.bytes.take 4)) (leWord ((a.bytes.drop 4).take 4))).toNat)
        (m := { rmw := true }) (tr := plainTr a.v.toNat) ⟨hpart, hq, hw, hy, hout⟩ nobody nobody 0 rfl rfl rfl
      rw [e', if_neg hnot, ← atomNew_eq_atomicResult hop]
      exact ⟨rfl, rfl, rfl⟩
    · rename_i h
      have hold : a.m = 7 ∧ leWord (s.bytes a.v.toNat 4) ≠ leWord ((a.bytes.drop 4).take 4) := by
        simp only [atomWrites, Bool.or_eq_true, decide_eq_true_eq, beq_iff_eq, not_or] at h
        exact ⟨by omega, h.2⟩
      rw [if_pos hold]
      exact ⟨rfl, rfl, rfl⟩
  · exact event_of (fun _ => rfl) fun _ _ _ => rfl

end

section
/-!
Translations (R94 to R105): what a walk, the fill of a core's cached translations and a write through one leave of the state.
-/
namespace Sys2Proof.Machine

/-! ## Which WAITSIG a write tells (R318) -/

/-- Where no WAITSIG watches, no queue and no event of one changes. -/
def Untold (s t : State) : Prop := s.noWatch → t.queues = s.queues ∧ t.wakes = s.wakes

theorem Untold.of_eq {s t : State} (hq : t.queues = s.queues := by rfl) (hw : t.wakes = s.wakes := by rfl) : Untold s t := fun _ => ⟨hq, hw⟩

theorem Untold.trans {s t r : State} (h : Untold s t) (h' : Untold t r) : Untold s r := fun hw => by
  obtain ⟨hq, hk⟩ := h hw
  obtain ⟨hq', hk'⟩ := h' (by unfold State.noWatch at hw ⊢; rwa [hq])
  exact ⟨hq'.trans hq, hk'.trans hk⟩

theorem Untold.foldl {α : Type} {f : State → α → State} (h : ∀ s a, Untold s (f s a)) : ∀ (l : List α) (s : State), Untold s (l.foldl f s)
  | [], _ => .of_eq
  | a :: l, s => (h s a).trans (Untold.foldl h l (f s a))

theorem untold_tellSignals (s : State) (pa n : Nat) : Untold s (s.tellSignals pa n) := fun hw => by
  rw [tellSignals_quiet hw]; exact ⟨rfl, rfl⟩

theorem untold_takeKey (s : State) (asid : Nat) (enc : Bool) (pa : Nat) : Untold s (s.takeKey asid enc pa) := by
  unfold State.takeKey
  split
  · dsimp only; split <;> exact .of_eq
  · exact .of_eq

theorem untold_mergeElement (s : State) (p : Partial) : Untold s (s.mergeElement p) := by
  unfold State.mergeElement
  refine (untold_takeKey s p.asid p.enc p.pa).trans (Untold.trans ?_ (untold_tellSignals _ _ _))
  rw [storeAs_anonymous _ _ rfl]
  exact .of_eq

theorem untold_put (s : State) (pa : Nat) (bs : List Byte) : Untold s (s.put pa bs) := by
  have hm : Untold s (s.mergeLines pa bs.length) := by
    unfold State.mergeLines State.mergeLine
    split
    · exact .of_eq
    · exact .foldl (fun t _ => .foldl (fun t p => (Untold.of_eq (t := { t with partials := _ })).trans (untold_mergeElement _ p)) _ t) _ s
  exact (hm.trans (t := s.mergeLines pa bs.length) (.of_eq (t := State.store _ _ _))).trans (untold_tellSignals _ _ _)

/-! ## What walks leave -/

/-- What a walk changes: what merging partials changes, the count of free values, and the errors that it meets and their log. -/
structure Walking (s t : State) : Prop where
  rest : { t.unmerged s with draws := s.draws, rel := s.rel, aon := s.aon } = s
  untold : Untold s t

theorem Walking.refl (s : State) : Walking s s := ⟨rfl, .of_eq⟩

theorem Walking.trans {s t r : State} (h : Walking s t) (h' : Walking t r) : Walking s r :=
  ⟨(congrArg (fun x : State => { x.unmerged s with draws := s.draws, rel := s.rel, aon := s.aon }) h'.rest : _ = _).trans h.rest,
    h.untold.trans h'.untold⟩

theorem Walking.foldl {α : Type} {f : State → α → State} (h : ∀ s a, Walking s (f s a)) : ∀ (l : List α) (s : State), Walking s (l.foldl f s)
  | [], s => .refl s
  | a :: l, s => (h s a).trans (Walking.foldl h l (f s a))

theorem Merges.walking {s t : State} (h : Merges s t) (hu : Untold s t) : Walking s t :=
  ⟨congrArg (fun x : State => { x with draws := s.draws, rel := s.rel, aon := s.aon }) h, hu⟩

theorem untold_orBit (s : State) (at_ b : Nat) : Untold s (s.orBit at_ b) := by
  unfold State.orBit
  dsimp only
  split
  · exact .of_eq
  · exact untold_put _ _ _

theorem untold_logDirty (s : State) (asid stage addr size : Nat) : Untold s (s.logDirty asid stage addr size) := by
  unfold State.logDirty
  split
  · dsimp only
    split
    · exact .of_eq
    · split
      · exact untold_put _ _ _
      · exact (untold_put _ _ _).trans (untold_put _ _ _)
  · exact .of_eq

theorem untold_setDirty (s : State) (asid stage at_ addr size : Nat) : Untold s (s.setDirty asid stage at_ addr size) := by
  unfold State.setDirty
  split
  · exact .of_eq
  · exact (untold_logDirty _ _ _ _ _).trans (untold_orBit _ _ _)

theorem untold_setLeaves (s : State) (asid va leaf1 size1 : Nat) (leaf2 : Option (Nat × Nat × Nat)) :
    Untold s (s.setLeaves asid va leaf1 size1 leaf2) := by
  unfold State.setLeaves
  split
  · exact (untold_setDirty _ _ _ _ _ _).trans (untold_setDirty _ _ _ _ _ _)
  · exact untold_setDirty _ _ _ _ _ _

theorem untold_stage2A (s : State) (asid va : Nat) (need : Need) : Untold s (s.stage2A asid va need) :=
  .foldl (fun t e => untold_orBit t e 9) _ s

theorem untold_applyWalk (s : State) (asid va : Nat) (write : Bool) (w : Walk) : Untold s (s.applyWalk asid va write w) := by
  have h : Untold s (w.used.foldl (fun t e => State.orBit t e 9) s) := .foldl (fun t e => untold_orBit t e 9) _ s
  unfold State.applyWalk
  dsimp only
  split
  · exact h.trans (untold_setLeaves _ _ _ _ _ _)
  · exact h

theorem walking_logEntry (s : State) (kind unit loc asid queue tag addr : Nat) : Walking s (s.logEntry kind unit loc asid queue tag addr) := by
  have h : ∀ bs, Walking s (s.ringEntry bs) := fun bs => by
    unfold State.ringEntry
    split
    · exact .refl s
    · exact (merges_put _ _ _).walking (untold_put _ _ _)
  unfold State.logEntry
  exact (h _).trans ⟨rfl, .of_eq⟩

theorem walking_mendWalk (s : State) (core asid va : Nat) : Walking s (s.mendWalk core asid va) := by
  have hr : ∀ r : Reliability, Walking s { s with rel := r } := fun r => ⟨rfl, .of_eq⟩
  unfold State.mendWalk
  split
  · exact .refl s
  · refine (hr _).trans (Walking.foldl (fun t p => ?_) _ _)
    split
    · exact walking_logEntry _ _ _ _ _ _ _ _
    · exact walking_logEntry _ _ _ _ _ _ _ _
    · exact .refl t

/-- With no single-bit error in storage a walk corrects none. -/
theorem mendWalk_none {s : State} (h : s.rel.correctable = []) (core asid va : Nat) : s.mendWalk core asid va = s := by
  unfold State.mendWalk; simp [h]

/-! ## The two ways a translation is filled and used -/

/-- The cached translations of a core replaced. -/
def State.withTlb (s : State) (core : Nat) (es : List TlbEntry) : State := s.modCore core fun c => { c with tlb := es }

/-- The walk that fills ends in a cause, having used stage-2 entries, or in a translation. -/
theorem fillTlb_cases (s : State) (core asid va : Nat) (need : Need) :
    (∃ c, s.fillTlb core asid va need = ((s.mendWalk core asid va).stage2A asid va need, .error c))
      ∨ ∃ w es, (s.mendWalk core asid va).walk asid va need = .ok w
          ∧ s.fillTlb core asid va need = (((s.mendWalk core asid va).applyWalk asid va need.write w).withTlb core es, .ok w.tr) := by
  unfold State.fillTlb
  dsimp only
  split
  · exact .inl ⟨_, rfl⟩
  · exact .inr ⟨_, _, ‹_›, rfl⟩

/-- A translation leaves all as it is, or fills the cached translations, or writes through one and sets the dirty bits of its leaves. -/
theorem translate_cases (s : State) (core asid va : Nat) (need : Need) : ∃ d, (d = s ∨ d = s.draw) ∧
    ((s.translate core asid va need).1 = d ∨ s.translate core asid va need = d.fillTlb core asid va need
      ∨ need.write = true ∧ ∃ (e : TlbEntry) (es : List TlbEntry),
          s.translate core asid va need = ((d.setLeaves asid va e.leaf1 e.size1 e.leaf2).withTlb core es, .ok e.tr)) := by
  have through : ∀ (d : State) (e : TlbEntry) (r : State × Except Nat Translation), r = (match e.tr.allows need with
      | some c => (d, .error c)
      | none => if need.write ∧ ¬ e.dirty then d.dirtyThrough core asid va need e else (d, .ok e.tr)) →
      r.1 = d ∨ r = d.fillTlb core asid va need ∨ need.write = true ∧ ∃ (e : TlbEntry) (es : List TlbEntry),
          r = ((d.setLeaves asid va e.leaf1 e.size1 e.leaf2).withTlb core es, .ok e.tr) := fun d e r hr => by
    subst hr
    split
    · exact .inl rfl
    · split
      · rename_i hw
        unfold State.dirtyThrough
        split
        · exact .inr (.inr ⟨hw.1, e, _, rfl⟩)
        · exact .inr (.inl rfl)
      · exact .inl rfl
  unfold State.translate
  split
  · exact ⟨s, .inl rfl, .inr (.inl rfl)⟩
  · rename_i e _
    dsimp only
    split
    · exact ⟨s, .inl rfl, through s e _ rfl⟩
    · split
      · exact ⟨s.draw, .inr rfl, .inr (.inl rfl)⟩
      · exact ⟨s.draw, .inr rfl, through s.draw e _ rfl⟩

/-! ## Its frame -/

/-- What a translation changes: what walks change, and the core's cached translations. -/
def Translated (core : Nat) (s t : State) : Prop := ∃ m, Walking s m ∧ (t = m ∨ ∃ es, t = m.withTlb core es)

theorem walking_drawn {s d : State} (h : d = s ∨ d = s.draw) : Walking s d := by
  obtain rfl | rfl := h
  · exact .refl d
  · exact ⟨rfl, .of_eq⟩

theorem translated_translate (s : State) (core asid va : Nat) (need : Need) : Translated core s (s.translate core asid va need).1 := by
  obtain ⟨d, hd, h⟩ := translate_cases s core asid va need
  have hd := walking_drawn hd
  obtain h | h | ⟨-, e, es, h⟩ := h
  · exact ⟨d, hd, .inl h⟩
  · have hm := hd.trans (walking_mendWalk d core asid va)
    obtain ⟨c, hf⟩ | ⟨w, es, -, hf⟩ := fillTlb_cases d core asid va need <;> rw [h, hf]
    · exact ⟨_, hm.trans ((merges_stage2A _ _ _ _).walking (untold_stage2A _ _ _ _)), .inl rfl⟩
    · exact ⟨_, hm.trans ((merges_applyWalk _ _ _ _ _).walking (untold_applyWalk _ _ _ _ _)), .inr ⟨es, rfl⟩⟩
  · exact ⟨_, hd.trans ((merges_setLeaves _ _ _ _ _ _).walking (untold_setLeaves _ _ _ _ _ _)), .inr ⟨es, by rw [h]⟩⟩

theorem Walking.cores {s t : State} (h : Walking s t) : t.cores = s.cores := (congrArg State.cores h.rest : _)

theorem Translated.rest {core : Nat} {s t : State} (h : Translated core s t) :
    { t.walked s with queues := s.queues, wakes := s.wakes, rel := s.rel, aon := s.aon } = s := by
  obtain ⟨m, hm, rfl | ⟨es, rfl⟩⟩ := h <;> exact (congrArg (fun x : State => { x with cores := s.cores }) hm.rest : _)

theorem Translated.untold {core : Nat} {s t : State} (h : Translated core s t) : Untold s t := by
  obtain ⟨m, hm, rfl | ⟨es, rfl⟩⟩ := h
  · exact hm.untold
  · exact hm.untold.trans .of_eq

theorem Translated.coreAt {core : Nat} {s t : State} (h : Translated core s t) (hs : s.Canonical) : (∀ k, k ≠ core → t.coreAt k = s.coreAt k)
    ∧ { t.coreAt core with tlb := [] } = { s.coreAt core with tlb := [] } := by
  obtain ⟨m, hm, hw⟩ := h
  have hc : ∀ k, m.coreAt k = s.coreAt k := fun k => by unfold State.coreAt; rw [hm.cores]
  obtain rfl | ⟨es, rfl⟩ := hw
  · exact ⟨fun k _ => hc k, by rw [hc]⟩
  · have ht : ∀ k, (m.withTlb core es).coreAt k = (s.withTlb core es).coreAt k := fun k => by
      unfold State.withTlb State.modCore
      rw [hc, hm.cores]
      rfl
    refine ⟨fun k hk => (ht k).trans (coreAt_modCore_ne hs hk _), ?_⟩
    rw [ht]
    unfold State.withTlb
    rw [coreAt_modCore hs]

/-- With no single-bit error in storage a translation logs nothing. -/
theorem errors_translate {s : State} (h : s.rel.correctable = []) (core asid va : Nat) (need : Need) :
    (s.translate core asid va need).1.rel = s.rel ∧ (s.translate core asid va need).1.aon = s.aon := by
  obtain ⟨d, hd, hr⟩ := translate_cases s core asid va need
  have hds : d.rel = s.rel ∧ d.aon = s.aon := by obtain rfl | rfl := hd <;> exact ⟨rfl, rfl⟩
  have hM : ∀ {t : State}, Merges d t → t.rel = s.rel ∧ t.aon = s.aon := fun hm =>
    ⟨hm.rel.trans hds.1, (congrArg State.aon hm : _).trans hds.2⟩
  obtain hr | hr | ⟨-, e, es, hr⟩ := hr
  · rwa [hr]
  · obtain ⟨c, hf⟩ | ⟨w, es, -, hf⟩ := fillTlb_cases d core asid va need <;> rw [hr, hf, mendWalk_none (hds.1 ▸ h)]
    · exact hM (merges_stage2A d asid va need)
    · have hm := hM (merges_applyWalk d asid va need.write w)
      exact hm
  · rw [hr]
    have hm := hM (merges_setLeaves d asid va e.leaf1 e.size1 e.leaf2)
    exact hm

/-! ## The bytes it leaves -/

/-- Memory is in its canonical form and no partial is pending. -/
structure State.Settled (s : State) : Prop where
  canonical : s.MemoryCanonical
  partials : s.partials = []

theorem State.Settled.put {s : State} (h : s.Settled) (pa : Nat) (bs : List Byte) :
    (s.put pa bs).Settled ∧ ∀ b, ¬ (pa ≤ b ∧ b < pa + bs.length) → (s.put pa bs).byte b = s.byte b := by
  have hp : s.put pa bs = (s.store pa bs).tellSignals pa bs.length := by
    unfold State.put State.mergeLines
    rw [if_pos (by simp [h.partials])]
  refine ⟨⟨canonical_put s pa bs h.canonical, by rw [hp, partials_tellSignals]; exact h.partials⟩, fun b hb => ?_⟩
  have hbyte : (s.put pa bs).byte b = (s.store pa bs).byte b := by
    unfold State.byte State.masked State.blankAt
    rw [(merges_put s pa bs).rel, hp, mem_tellSignals]
    rfl
  rw [hbyte, State.byte_store _ _ _ _ h.canonical, if_neg hb]

theorem State.Settled.orBit {s : State} (h : s.Settled) (at_ n : Nat) :
    (s.orBit at_ n).Settled ∧ ∀ b, ¬ (at_ ≤ b ∧ b < at_ + 8) → (s.orBit at_ n).byte b = s.byte b := by
  unfold State.orBit
  dsimp only
  split
  · exact ⟨h, fun _ _ => rfl⟩
  · have e := h.put at_ (leBytes 8 (s.word64 at_ + 2 ^ n))
    rwa [length_leBytes] at e

/-- The A bits of entries set change bytes of these alone. -/
theorem State.Settled.byte_orBits : ∀ (es : List Nat) {s : State}, s.Settled →
    ∀ b, (∀ e ∈ es, ¬ (e ≤ b ∧ b < e + 8)) → (es.foldl (fun t e => t.orBit e 9) s).byte b = s.byte b
  | [], _, _, _, _ => rfl
  | e :: es, _, h, b, hb =>
    ((h.orBit e 9).1.byte_orBits es b fun x hx => hb x (List.mem_cons_of_mem _ hx)).trans ((h.orBit e 9).2 b (hb e List.mem_cons_self))

section
variable {s t : State} (h : SameTables s t)
include h

theorem used1_same (need : Need) (r va : Nat) : ∀ fuel level table, s.used1 need r va fuel level table = t.used1 need r va fuel level table
  | 0, _, _ => rfl
  | fuel + 1, level, table => by
    simp only [State.used1, h.word64, through2_same h, stage2_same h, used1_same need r va fuel]

theorem stage2Used_same (asid va : Nat) (need : Need) : s.stage2Used asid va need = t.stage2Used asid va need := by
  unfold State.stage2Used
  simp only [space?_same h, used1_same h]

end

theorem sameTables_drawn {s d : State} (h : d = s ∨ d = s.draw) : SameTables d s := by
  obtain rfl | rfl := h <;> exact ⟨fun _ => rfl, fun _ => rfl, rfl, rfl⟩

section
variable {s : State} (hs : s.Settled) (hc : s.rel.correctable = []) (core asid va : Nat) (need : Need)
include hs hc

/-- A fill that fails changes bytes of the stage-2 entries that its walk used alone; one for a read, of these and of the leaves. -/
theorem byte_fillTlb (a : Nat) (h2 : ∀ x ∈ s.stage2Used asid va need, ¬ (x ≤ a ∧ a < x + 8))
    (hu : (∃ e, (s.fillTlb core asid va need).2 = .error e)
      ∨ need.write = false ∧ ∀ w, s.walk asid va need = .ok w → ∀ e ∈ w.used, ¬ (e ≤ a ∧ a < e + 8)) :
    (s.fillTlb core asid va need).1.byte a = s.byte a := by
  have hf := fillTlb_cases s core asid va need
  rw [mendWalk_none hc] at hf
  obtain ⟨c, hf⟩ | ⟨w, es, hw, hf⟩ := hf
  · rw [hf]
    exact hs.byte_orBits _ a h2
  · obtain ⟨e, he⟩ | ⟨hread, hu⟩ := hu
    · rw [hf] at he
      cases he
    · rw [hf]
      unfold State.applyWalk
      simp only [hread, Bool.false_eq_true, if_false]
      exact hs.byte_orBits w.used a (hu w hw)

/-- A translation that fails changes bytes of the stage-2 entries that its walk used alone; one for a read, of these and of the leaves. -/
theorem byte_translate (a : Nat) (h2 : ∀ x ∈ s.stage2Used asid va need, ¬ (x ≤ a ∧ a < x + 8))
    (hu : (∃ e, (s.translate core asid va need).2 = .error e)
      ∨ need.write = false ∧ ∀ w, s.walk asid va need = .ok w → ∀ e ∈ w.used, ¬ (e ≤ a ∧ a < e + 8)) :
    (s.translate core asid va need).1.byte a = s.byte a := by
  obtain ⟨d, hd, h⟩ := translate_cases s core asid va need
  have hb : d.byte a = s.byte a := by obtain rfl | rfl := hd <;> rfl
  obtain h | h | ⟨hw, e, es, h⟩ := h
  · rw [h, hb]
  · rw [h] at hu ⊢
    have hds : d.Settled := by obtain rfl | rfl := hd <;> exact ⟨hs.canonical, hs.partials⟩
    have hdc : d.rel.correctable = [] := by obtain rfl | rfl := hd <;> exact hc
    rw [← stage2Used_same (sameTables_drawn hd)] at h2
    rw [← walk_same (sameTables_drawn hd)] at hu
    exact (byte_fillTlb hds hdc core asid va need a h2 hu).trans hb
  · obtain ⟨c, hc⟩ | ⟨hr, -⟩ := hu
    · rw [h] at hc
      cases hc
    · rw [hr] at hw
      cases hw

end

end Sys2Proof.Machine
end

section
open Sys2Proof Sys2Proof.Machine

/-- Settles O44, by what a translation can do: nothing, a walk and a fill, or a write through a cached translation. -/
theorem translationLeavesMemoryAlone : Obligations.TranslationLeavesMemoryAlone := by
  unfold Obligations.TranslationLeavesMemoryAlone
  intro s core asid va need hs
  have ht := translated_translate s core asid va need
  obtain ⟨hother, hown⟩ := ht.coreAt hs
  exact ⟨ht.rest, fun hc => errors_translate hc core asid va need, ht.untold, hother, hown,
    fun hp hc e he a h2 => byte_translate ⟨hs.1, hp⟩ hc core asid va need a h2 (.inl ⟨e, he⟩),
    fun hp hc hr a h2 hu => byte_translate ⟨hs.1, hp⟩ hc core asid va need a h2 (.inr ⟨hr, hu⟩), fun t _ => rfl⟩
end

section
/-!
Parts at their home (O53): a unit that goes on, a part accepted, replayed and computed, a partial merged (R105, R107, R112 to R114).
-/
namespace Sys2Proof.Machine

/-! ## Units that go on -/

theorem wait_advance (kind : Kind) (f : Fibre) : (f.advance kind).wait = .none := by
  unfold Fibre.advance
  dsimp only
  split
  · split
    · rfl
    · split <;> rfl
  · split <;> rfl

theorem wait_enterBin (k : Crew) (now i p : Nat) (h : (k.fibre p).wait = .none) : ((k.enterBin now i).fibre p).wait = .none := by
  unfold Crew.enterBin
  cases hp : k.fibres[p]? with
  | none =>
    have hlen : k.fibres.length ≤ p := List.getElem?_eq_none_iff.1 hp
    split <;> simp [Crew.fibre, List.getD, modAt, hlen, Fibre.empty]
  | some f =>
    have hf : f.wait = .none := by simpa [Crew.fibre, List.getD, hp] using h
    split
    · simp only [Crew.fibre, List.getD, List.getElem?_mapIdx, hp, Option.map_some, Option.getD_some]
      split <;> split
      · rfl
      · exact hf
      · rfl
      · exact hf
    · simp only [Crew.fibre, List.getD, modAt, List.getElem?_mapIdx, hp, Option.map_some, Option.getD_some]
      split <;> exact hf

theorem wait_rebin (k : Crew) (now b p : Nat) (h : (k.fibre p).wait = .none) : ((k.rebin now b).fibre p).wait = .none := by
  have hfold : ∀ (ms : List Nat) (k : Crew), (k.fibre p).wait = .none →
      ((ms.foldl (fun k i => if (k.fibre i).handler then k else k.enterBin now i) k).fibre p).wait = .none := by
    intro ms
    induction ms with
    | nil => exact fun _ h => h
    | cons m ms ih =>
      refine fun k h => ih _ ?_
      dsimp only
      split
      · exact h
      · exact wait_enterBin k now m p h
  refine hfold _ _ ?_
  cases hp : k.fibres[p]? with
  | none => simp [Crew.fibre, List.getD, modAt, hp, Fibre.empty]
  | some f =>
    have hf : f.wait = .none := by simpa [Crew.fibre, List.getD, hp] using h
    simp only [Crew.fibre, List.getD, modAt, List.getElem?_mapIdx, hp, Option.map_some, Option.getD_some]
    split
    · split <;> exact hf
    · exact hf

/-- A fibre that waits on nothing waits on nothing when its unit is formed anew. -/
theorem wait_settle {y : State} {u : UnitId} {k : Crew} (hy : y.crews[u.crew]? = some k) {p : Nat} (h : (k.fibre p).wait = .none) :
    ((y.settle u).fibreAt u.crew p).wait = .none := by
  have hk : (y.settle u).crews[u.crew]? = some (match u.kind with
      | .gang g _ => k.regroup g
      | .bin b => if k.binTogether b then k else k.rebin y.now b) := crews_modify hy _
  rw [fibreAt_of_crew hk]
  split
  · exact wait_regroup k _ p h
  · split
    · exact h
    · exact wait_rebin k y.now _ p h

/-- Fibres that go on, and their unit formed anew, as a step ends. -/
theorem settle_advance {y : State} {u : UnitId} {k : Crew} (hy : y.crews[u.crew]? = some k) (is : List Nat) {p : Nat} (hp : p ∈ is)
    (hlt : p < k.fibres.length) :
    (((y.modFibres u.crew is fun _ f => f.advance k.kind).settle u).done.fibreAt u.crew p).pc = nextPcOf k.kind (k.fibre p)
      ∧ (((y.modFibres u.crew is fun _ f => f.advance k.kind).settle u).done.fibreAt u.crew p).wait = .none := by
  refine ⟨((settle_done hy is _ fun _ f => face_advance k.kind f).2 p hp hlt).trans (pc_advance _ _), ?_⟩
  refine wait_settle (crews_modify hy _) ?_
  rw [Crew.fibre_modFibres k is _ p hlt, if_pos hp]
  exact wait_advance _ _

/-! ## Arrivals (R112, R113) -/

/-- A part accepted in a step. -/
def Part.acceptedAt (p : Part) (order : Nat) : Part := { p with accepted := true, order := order }

/-- The parts that are left or accepted once the home takes a part, whose line the core drops from its L1. -/
def State.partTaken (s : State) (core : Nat) (p : Part) (ps : List Part) : State :=
  ({ s with parts := ps }.dropL1 core (p.pd / 64)).markAccepted p

section
variable {s : State} {a : EvArg} {p : Part} {k : Crew}

theorem heldBack_eq_false (h : ∀ q ∈ s.parts, p.sibling q = true → q.lane < p.lane → q.accepted = false → p.meets q = false) :
    s.heldBack p = false := by
  unfold State.heldBack
  rw [List.any_eq_false]
  intro q hq hm
  simp only [Bool.and_eq_true, decide_eq_true_eq, Bool.not_eq_true'] at hm
  obtain ⟨⟨⟨hs, hl⟩, ha⟩, hm⟩ := hm
  rw [h q hq hs hl ha] at hm
  cases hm

theorem current_iff : s.current p = true ↔ p.gen = s.genAt p.asid (genDie p.pd) := beq_iff_eq

/-- With no error in storage no line that a part reads has one. -/
theorem partErrors_quiet (hq : s.rel.poison = []) (p : Part) : s.partErrors p = [] := by
  unfold State.partErrors
  refine List.filterMap_eq_nil_iff.2 fun l _ => ?_
  simp [State.eccAt, hq]

/-- A part whose tag is current arrives where no lower lane's holds it back, and no engine owns the element of a contribution. -/
theorem arrives_of_current (ha : p.accepted = false) (hb : s.heldBack p = false) (hg : s.current p = true) (he : s.partErrors p = [])
    (ho : p.major ≠ majorPlred ∨ s.owned (p.pd / 64) = false) : s.arrives p = true := by
  unfold State.arrives
  obtain ho | ho := ho <;> simp [ha, hb, hg, he, ho]

/-- One whose tag is not current arrives where none of the replay's translations is held and its fault need not wait. -/
theorem arrives_of_stale (hk : s.crews[p.crew]? = some k) (ha : p.accepted = false) (hb : s.heldBack p = false) (hg : s.current p = false)
    (hw : s.replayWaits k.core p = false) (hl : s.linesHeld k.core p.asid p.major p.s p.lines = false) : s.arrives p = true := by
  unfold State.arrives
  simp [ha, hb, hg, hk, hw, hl]

variable (hp : s.parts[a.n]? = some p) (hk : s.crews[p.crew]? = some k)
include hp hk

/-- A line part that arrives under a current tag is accepted. -/
theorem homeAccess_accepts (ha : s.arrives p = true) (hg : s.current p = true) (he : s.partErrors p = []) (hm : p.major ≠ majorPlred) :
    evHomeAccessArrival a s = (s.partTaken k.core p (s.parts.set a.n (p.acceptedAt s.tick))).retirePlaced (p.acceptedAt s.tick) := by
  unfold evHomeAccessArrival
  simp only [hp, hk, ha, hg, he, hm, not_true_eq_false, if_false, List.isEmpty_nil]
  rfl

/-- One that arrives under an old tag is translated again under the current generation, and stays to arrive. -/
theorem homeAccess_replays (ha : s.arrives p = true) (hg : s.current p = false) {s1 : State} {tr : Translation × Translation × Translation}
    (hl : s.lineTr k.core p.asid p.priv p.major p.s p.lines = (s1, .ok tr)) (hsp : splitPlace p.major p.s tr = false)
    (he : s.linesError k.core p.asid p.major p.s p.lines = none) :
    evHomeAccessArrival a s = { s1 with parts := s1.parts.set a.n { p with
      gen := s1.gen p.asid, td := tr.1, ta := tr.2.1, tb := tr.2.2, pd := tr.1.pa (va48 p.d), pa := tr.2.1.pa (va48 p.a),
      pb := tr.2.2.pa (va48 p.b) } } := by
  have hr : s.retranslate k.core p = (s1, .ok tr) := by
    unfold State.retranslate
    simp only [he, hl, hsp, Bool.false_eq_true, if_false]
  unfold evHomeAccessArrival State.replayPart
  simp only [hp, hk, ha, hg, hr, not_true_eq_false, if_false, Bool.false_eq_true, not_false_eq_true, if_true]

/-- A contribution of an unpaired crew becomes a partial of its element. -/
theorem homeAccess_contributes (ha : s.arrives p = true) (hg : s.current p = true) (hm : p.major = majorPlred) (hpair : k.pair = none)
    (hs : p.td.snapshot = false) (hpart : s.partials = []) (hq : s.rel.poison = []) :
    ∃ x l, evHomeAccessArrival a s = ({ s.partTaken k.core p (s.parts.eraseIdx a.n) with l2 := x, l2Next := l, partials := [{ pa := p.pd, op := p.s, value := p.value, nan := s.partNan p, tags := p.tags, asid := p.asid, enc := p.td.enc }] } : State).retirePlaced p := by
  have hnone : (s.partTaken k.core p (s.parts.eraseIdx a.n)).partials = [] := hpart
  obtain ⟨x, l, e⟩ := touchSector_quiet (s := s.partTaken k.core p (s.parts.eraseIdx a.n)) hpart hq 0 (p.pd / 64) true false
  refine ⟨x, l, ?_⟩
  unfold State.partTaken at hnone e ⊢
  unfold evHomeAccessArrival State.snapshotFirst State.contribute
  simp only [hp, hk, ha, hg, partErrors_quiet hq, hm, hpair, hs, e, hnone, not_true_eq_false, if_false, if_true, List.isEmpty_nil,
    Option.isSome_none, Bool.false_eq_true, false_and, List.any_nil, List.find?_nil, List.nil_append]

end

/-! ## The instruction's last part -/

/-- Marks of acceptance change one crew alone. -/
theorem retirePlaced_frame (y : State) (p : Part) : { y.retirePlaced p with crews := y.crews } = y
    ∧ ∀ c, c ≠ p.crew → (y.retirePlaced p).crews[c]? = y.crews[c]? := by
  unfold State.retirePlaced
  split
  · exact ⟨rfl, fun _ _ => rfl⟩
  · split
    · exact ⟨rfl, fun _ _ => rfl⟩
    · exact ⟨rfl, fun c hc => (settle_ne _ _ hc).trans (crews_modify_ne y hc _)⟩

theorem retirePlaced_parts (y : State) (p : Part) : (y.retirePlaced p).parts = y.parts :=
  (congrArg State.parts (retirePlaced_frame y p).1 : _)

/-- While a part of the issue is still to be accepted the unit waits. -/
theorem retirePlaced_waits {y : State} {p : Part} (h : y.unaccepted p ≠ []) : y.retirePlaced p = y := by
  unfold State.retirePlaced
  rw [if_pos (by simpa using h)]

/-- Once none is, the fibres that wait for their parts go on at Next. -/
theorem retirePlaced_last {y : State} {p : Part} {k : Crew} (hk : y.crews[p.crew]? = some k) (h : y.unaccepted p = []) {i : Nat}
    (hi : i ∈ k.members (k.fibre p.fibre).unit) (hw : (k.fibre i).wait = .parts) :
    ((y.retirePlaced p).done.fibreAt p.crew i).pc = nextPcOf k.kind (k.fibre i) ∧ ((y.retirePlaced p).done.fibreAt p.crew i).wait = .none := by
  unfold State.retirePlaced
  simp only [h, List.isEmpty_nil, not_true_eq_false, if_false, hk]
  refine settle_advance (u := { crew := p.crew, kind := (k.fibre p.fibre).unit }) hk _ (List.mem_filter.2 ⟨hi, ?_⟩) (members_lt hi)
  rw [hw]
  rfl

section
variable {y : State} {p : Part} {ps : List Part} {m x : Nat} (hy : y.parts = ps.set m (p.acceptedAt x))
include hy

/-- Another part of the issue is still to be accepted. -/
theorem unaccepted_ne_nil {n : Nat} {q : Part} (hn : n ≠ m) (hq : ps[n]? = some q) (hc : q.crew = p.crew) (hi : q.issue = p.issue)
    (ha : q.accepted = false) : y.unaccepted (p.acceptedAt x) ≠ [] := by
  refine List.ne_nil_of_mem (a := q) (List.mem_filter.2 ⟨List.mem_of_getElem? (i := n) ?_, by simp [Part.acceptedAt, hc, hi, ha]⟩)
  rw [hy, List.getElem?_set_ne (Ne.symm hn), hq]

/-- The other parts of the issue have been accepted. -/
theorem unaccepted_eq_nil (hp : ps[m]? = some p) (hall : ∀ n q, n ≠ m → ps[n]? = some q → q.crew = p.crew → q.issue = p.issue → q.accepted = true) :
    y.unaccepted (p.acceptedAt x) = [] := by
  refine List.filter_eq_nil_iff.2 fun q hq hu => ?_
  simp only [Bool.and_eq_true, beq_iff_eq, Bool.not_eq_true'] at hu
  obtain ⟨⟨hc, hi⟩, ha⟩ := hu
  obtain ⟨n, hn⟩ := List.mem_iff_getElem?.1 hq
  rw [hy] at hn
  have hacc : q.accepted = true := by
    by_cases hnm : n = m
    · subst hnm
      rw [List.getElem?_set_self (List.getElem?_eq_some_iff.1 hp).1] at hn
      cases hn
      rfl
    · rw [List.getElem?_set_ne (Ne.symm hnm)] at hn
      exact hall n q hnm hn hc hi
  rw [hacc] at ha
  cases ha

end

/-! ## The bytes of a line -/

theorem getElem?_getBytes : ∀ (n : Nat) (m : List Host.Cell) (pa i : Nat), i < n → (getBytes m pa n)[i]? = some (getByte m (pa + i))
  | n + 1, m, pa, 0, _ => rfl
  | n + 1, m, pa, i + 1, h => by
    rw [getBytes, List.getElem?_cons_succ, getElem?_getBytes n m (pa + 1) i (by omega), Nat.add_right_comm, Nat.add_assoc]

theorem getElem?_bytes (s : State) (pa : Nat) {n i : Nat} (h : i < n) : (s.bytes pa n)[i]? = some (s.byte (pa + i)) := by
  unfold State.bytes State.byte State.masked
  split
  · exact getElem?_getBytes n s.mem pa i h
  · rw [List.getElem?_mapIdx, getElem?_getBytes n s.mem pa i h]
    rfl

theorem length_bytes (s : State) (pa n : Nat) : (s.bytes pa n).length = n := by
  unfold State.bytes
  rw [State.length_masked, length_getBytes]

/-- Bytes within bytes. -/
theorem take_drop_bytes (s : State) (pa : Nat) {n i m : Nat} (h : i + m ≤ n) : ((s.bytes pa n).drop i).take m = s.bytes (pa + i) m := by
  refine List.ext_getElem? fun j => ?_
  rw [List.getElem?_take]
  split
  · rw [List.getElem?_drop, getElem?_bytes s pa (by omega), getElem?_bytes s (pa + i) (by omega), Nat.add_assoc]
  · rw [List.getElem?_eq_none (by rw [length_bytes]; omega)]

/-! ## Execution (R112) -/

/-- The words of a line of memory. -/
def State.lineWords (s : State) (pa : Nat) : List Word := (List.range 16).map fun e => leWord (s.bytes (pa + 4 * e) 4)

theorem getD_lineWords (s : State) (pa : Nat) {e : Nat} (h : e < 16) : (s.lineWords pa).getD e 0 = leWord (s.bytes (pa + 4 * e) 4) := by
  simp [State.lineWords, List.getD, h]

/-- Nothing is pending and no error stands: a read of a line changes the slice alone. -/
structure State.Quiet (s : State) : Prop where
  partials : s.partials = []
  poison : s.rel.poison = []
  correctable : s.rel.correctable = []

/-- A part of an unpaired crew reads a line of a page that is not encrypted as it stands. -/
theorem partLine_quiet {s : State} (h : s.Quiet) {k : Crew} (hpair : k.pair = none) {tr : Translation} (he : tr.enc = false) (p : Part) (pa : Nat) :
    ∃ x l, s.partLine p k tr pa = ({ s with l2 := x, l2Next := l }, s.lineWords pa) := by
  have hc : s.correctAt p.crew pa 64 = s := by unfold State.correctAt; simp [h.correctable]
  obtain ⟨x, l, e⟩ := homeRead_quiet h.partials h.poison he p.asid pa 64
  refine ⟨x, l, ?_⟩
  unfold State.partLine State.overlaid
  rw [hc, e]
  simp only [hpair, Prod.mk.injEq, true_and]
  refine List.map_congr_left fun i hi => ?_
  rw [take_drop_bytes s pa (by have := List.mem_range.1 hi; omega)]

/-- A line that a part reads only where its operation has that operand. -/
theorem partLine_if {s : State} (h : s.Quiet) {k : Crew} (hpair : k.pair = none) {tr : Translation} (he : tr.enc = false) (p : Part) (pa : Nat) (b : Bool) :
    ∃ x l, (if b = true then s.partLine p k tr pa else (s, [])) = ({ s with l2 := x, l2Next := l }, if b = true then s.lineWords pa else []) := by
  cases b
  · exact ⟨s.l2, s.l2Next, rfl⟩
  · exact partLine_quiet h hpair he p pa

/-- The words of an operand that an operation reads, or zeros. -/
theorem getD_ite_lineWords (s : State) (pa : Nat) (b : Bool) {e : Nat} (h : e < 16) :
    (if b = true then s.lineWords pa else []).getD e 0 = if b = true then leWord (s.bytes (pa + 4 * e) 4) else 0 := by
  cases b
  · rfl
  · exact getD_lineWords s pa h

/-- The bytes of the destination line that a part writes. -/
def State.partResult (s : State) (p : Part) : List Byte :=
  (List.range 16).flatMap fun e => leBytes 4 (lineElem p.major p.s (s.partNan p) (leWord (s.bytes (p.pd + 4 * e) 4))
    (if readsA p.major p.s then leWord (s.bytes (p.pa + 4 * e) 4) else 0) (if readsB p.major p.s then leWord (s.bytes (p.pb + 4 * e) 4) else 0) p.value).toNat

theorem length_partResult (s : State) (p : Part) : (s.partResult p).length = 64 := by
  simp [State.partResult, List.length_flatMap, length_leBytes]

theorem flatMap_congr_mem {α β : Type} {f g : α → List β} : ∀ {l : List α}, (∀ x ∈ l, f x = g x) → l.flatMap f = l.flatMap g
  | [], _ => rfl
  | x :: l, h => by
    rw [List.flatMap_cons, List.flatMap_cons, h x List.mem_cons_self, flatMap_congr_mem fun y hy => h y (List.mem_cons_of_mem _ hy)]

/-- A part computed from its lines, where nothing is pending. -/
theorem computePart_quiet {s : State} (h : s.Quiet) {p : Part} {k : Crew} (hpair : k.pair = none) (hd : p.td.enc = false) (ha : p.ta.enc = false)
    (hb : p.tb.enc = false) (n : Nat) : ∃ x l, s.computePart n p k =
      ({ s with l2 := x, l2Next := l, parts := s.parts.eraseIdx n } : State).gwrite p.crew { tags := p.tags } p.td p.d.toNat 0 (s.partResult p) := by
  obtain ⟨x1, l1, e1⟩ := partLine_quiet h hpair hd p p.pd
  have h1 : ({ s with l2 := x1, l2Next := l1 } : State).Quiet := ⟨h.1, h.2, h.3⟩
  obtain ⟨x2, l2, e2⟩ := partLine_if h1 hpair ha p p.pa (readsA p.major p.s)
  have h2 : ({ s with l2 := x2, l2Next := l2 } : State).Quiet := ⟨h.1, h.2, h.3⟩
  obtain ⟨x3, l3, e3⟩ := partLine_if h2 hpair hb p p.pb (readsB p.major p.s)
  refine ⟨x3, l3, ?_⟩
  unfold State.computePart
  rw [e1]
  dsimp only
  rw [e2]
  dsimp only
  rw [e3]
  dsimp only
  rw [hpair, if_neg (by simp), List.flatMap_map]
  congr 1
  refine flatMap_congr_mem fun e he => ?_
  have he := List.mem_range.1 he
  rw [getD_lineWords s p.pd he, getD_ite_lineWords _ p.pa _ he, getD_ite_lineWords _ p.pb _ he]
  rfl

/-! ## Merges (R114) -/

/-- A partial of a page that is not encrypted, outside the tables of the device, merged where no WAITSIG watches. -/
theorem mergeElement_quiet {s : State} (hw : s.noWatch) {p : Partial} (he : p.enc = false)
    (ho : ∀ x, p.pa ≤ x → x < p.pa + 4 → s.outsideTables x) :
    ∃ ps, s.mergeElement p = { s with mem := (s.store p.pa (leBytes 4 (plredWith p.nan p.op (leWord (s.bytes p.pa 4)) p.value).toNat)).mem, past := ps } := by
  have hkey : s.takeKey p.asid p.enc p.pa = s := by unfold State.takeKey; simp [he]
  obtain ⟨ps, e⟩ := storeAs_mem s (m := { tags := p.tags }) rfl p.pa (leBytes 4 (plredWith p.nan p.op (leWord (s.bytes p.pa 4)) p.value).toNat)
  refine ⟨ps, ?_⟩
  unfold State.mergeElement
  rw [hkey]
  dsimp only
  rw [softBytes_outside (by rw [length_leBytes]; exact ho), e]
  exact tellSignals_quiet (s := { s with mem := _, past := ps }) hw _ _

/-! ## PLI's elements (R112) -/

theorem toInt_imin (a b : Word) : (imin true a b).toInt = min a.toInt b.toInt := by
  simp only [imin, if_true, Int.min_def]
  split <;> rfl

theorem toInt_imax (a b : Word) : (imax true a b).toInt = max a.toInt b.toInt := by
  simp only [imax, if_true, Int.max_def]
  split <;> rfl

end Sys2Proof.Machine
end

section
namespace Sys2Proof.Machine

/-! ## The events -/

/-- The crew once a part of its is taken: its fibre has the mark of an accepted part. -/
theorem crews_partTaken {s : State} {p : Part} {k : Crew} (hk : s.crews[p.crew]? = some k) (ps : List Part) :
    (s.partTaken k.core p ps).crews[p.crew]? = some (k.modFibres [p.fibre] fun _ f => { f with accepted := some p.issue }) :=
  crews_modify (s := { s with parts := ps }.dropL1 k.core (p.pd / 64)) hk _

/-- The mark of an accepted part changes no fibre's unit, wait, nor where it goes on. -/
theorem fibre_accepted (k : Crew) (is : List Nat) (n : Nat) (i : Nat) :
    ∃ x, (k.modFibres is fun _ f => { f with accepted := some n }).fibre i = { k.fibre i with accepted := x } := by
  simp only [Crew.modFibres, Crew.fibre, modAt, List.getD, List.getElem?_mapIdx]
  cases k.fibres[i]? with
  | none => exact ⟨none, rfl⟩
  | some f =>
    simp only [Option.map_some, Option.getD_some]
    split
    · exact ⟨_, rfl⟩
    · exact ⟨f.accepted, rfl⟩

theorem members_accepted (k : Crew) (is : List Nat) (n : Nat) (u : UnitKind) :
    (k.modFibres is fun _ f => { f with accepted := some n }).members u = k.members u :=
  members_modFibres k is _ u fun _ _ => ⟨by cases u <;> rfl, rfl⟩

section
variable {a : EvArg} {s : State} {p : Part} {k : Crew} (ht : s.turn = some (.event .homeAccessArrival a)) (hp : s.parts[a.n]? = some p)
  (hk : s.crews[p.crew]? = some k) (ha : p.accepted = false)
  (hb : ∀ q ∈ s.parts, p.sibling q = true → q.lane < p.lane → q.accepted = false → p.meets q = false)
include ht hp hk ha hb

/-- A line part accepted: its mark, the line dropped from the core's L1, and the unit that goes on where it was the last. -/
theorem exec_accepts (hm : p.major ≠ majorPlred) (hg : p.gen = s.genAt p.asid (genDie p.pd)) (he : s.partErrors p = []) :
    ∃ t, exec .homeAccessArrival s = .next t ∧ t.parts = s.parts.set a.n { p with accepted := true, order := 8192 * s.now }
      ∧ (∀ c, c ≠ p.crew → t.crews[c]? = s.crews[c]?)
      ∧ { t with crews := s.crews, cores := s.cores, parts := s.parts, now := s.now, turn := s.turn } = s
      ∧ ((∃ n q, n ≠ a.n ∧ s.parts[n]? = some q ∧ q.crew = p.crew ∧ q.issue = p.issue ∧ q.accepted = false) →
          ∀ i ∈ k.members (k.fibre p.fibre).unit, (t.fibreAt p.crew i).pc = (k.fibre i).pc ∧ (t.fibreAt p.crew i).wait = (k.fibre i).wait)
      ∧ ((∀ n q, n ≠ a.n → s.parts[n]? = some q → q.crew = p.crew → q.issue = p.issue → q.accepted = true) →
          ∀ i ∈ k.members (k.fibre p.fibre).unit, (k.fibre i).wait = .parts →
            (t.fibreAt p.crew i).pc = nextPcOf k.kind (k.fibre i) ∧ (t.fibreAt p.crew i).wait = .none) := by
  have hcur := current_iff.2 hg
  have hev := homeAccess_accepts hp hk (arrives_of_current ha (heldBack_eq_false hb) hcur he (.inl hm)) hcur he hm
  have hy := crews_partTaken hk (s.parts.set a.n (p.acceptedAt s.tick))
  have hps : (s.partTaken k.core p (s.parts.set a.n (p.acceptedAt s.tick))).parts = s.parts.set a.n (p.acceptedAt s.tick) := rfl
  obtain ⟨hframe, hcrews⟩ := retirePlaced_frame (s.partTaken k.core p (s.parts.set a.n (p.acceptedAt s.tick))) (p.acceptedAt s.tick)
  refine ⟨_, (onEvent_next evHomeAccessArrival ht).trans (congrArg (fun x : State => Host.Outcome.next x.done) hev), retirePlaced_parts _ _,
    fun c hc => (hcrews c hc).trans (crews_modify_ne _ hc _), ?_, ?_, fun hall i hi hw => ?_⟩
  · exact (congrArg (fun x : State => { x with crews := s.crews, cores := s.cores, parts := s.parts, now := s.now, turn := s.turn }) hframe : _)
  · rintro ⟨n, q, hn, hq, hc, hi, hqa⟩ i -
    obtain ⟨x, hx⟩ := fibre_accepted k [p.fibre] p.issue i
    have hf := fibreAt_of_crew (p := i) (t := (s.partTaken k.core p (s.parts.set a.n (p.acceptedAt s.tick))).done) hy
    rw [← retirePlaced_waits (unaccepted_ne_nil hps hn hq hc hi hqa), hx] at hf
    exact ⟨(congrArg Fibre.pc hf : _), (congrArg Fibre.wait hf : _)⟩
  · obtain ⟨x, hx⟩ := fibre_accepted k [p.fibre] p.issue i
    obtain ⟨z, hz⟩ := fibre_accepted k [p.fibre] p.issue p.fibre
    have h := retirePlaced_last (i := i) (p := p.acceptedAt s.tick) hy (unaccepted_eq_nil hps hp hall)
      (by rw [members_accepted]; exact hz ▸ hi) (by rw [hx]; exact hw)
    rw [hx] at h
    exact h

/-- A contribution of an unpaired crew combined as a partial. -/
theorem exec_contributes (hm : p.major = majorPlred) (hpair : k.pair = none) (hg : p.gen = s.genAt p.asid (genDie p.pd))
    (ho : s.owned (p.pd / 64) = false) (hs : p.td.snapshot = false) (hpart : s.partials = []) (hq : s.rel.poison = []) :
    ∃ t, exec .homeAccessArrival s = .next t ∧ t.parts = s.parts.eraseIdx a.n
      ∧ t.partials = [{ pa := p.pd, op := p.s, value := p.value, nan := s.partNan p, tags := p.tags, asid := p.asid, enc := p.td.enc }]
      ∧ (∀ c, c ≠ p.crew → t.crews[c]? = s.crews[c]?)
      ∧ { t with crews := s.crews, cores := s.cores, parts := s.parts, partials := s.partials, l2 := s.l2, l2Next := s.l2Next, now := s.now, turn := s.turn } = s := by
  have hcur := current_iff.2 hg
  have harr := arrives_of_current ha (heldBack_eq_false hb) hcur (partErrors_quiet hq p) (.inr ho)
  obtain ⟨x, l, hev⟩ := homeAccess_contributes hp hk harr hcur hm hpair hs hpart hq
  refine ⟨_, (onEvent_next evHomeAccessArrival ht).trans (congrArg (fun x : State => Host.Outcome.next x.done) hev), retirePlaced_parts _ _, ?_, ?_, ?_⟩
  · exact (congrArg State.partials (retirePlaced_frame _ p).1 : _)
  · exact fun c hc => ((retirePlaced_frame _ p).2 c hc).trans (crews_modify_ne _ hc _)
  · exact (congrArg (fun x : State => { x with
      crews := s.crews, cores := s.cores, parts := s.parts, partials := s.partials, l2 := s.l2, l2Next := s.l2Next, now := s.now, turn := s.turn }) (retirePlaced_frame _ p).1 : _)

/-- A part under an old tag translated again. -/
theorem exec_replays {s1 : State} {tr : Translation × Translation × Translation} (hg : p.gen ≠ s.genAt p.asid (genDie p.pd))
    (hl : s.lineTr k.core p.asid p.priv p.major p.s p.lines = (s1, .ok tr)) (hsp : splitPlace p.major p.s tr = false)
    (hw : s.replayWaits k.core p = false) (hh : s.linesHeld k.core p.asid p.major p.s p.lines = false)
    (he : s.linesError k.core p.asid p.major p.s p.lines = none) :
    exec .homeAccessArrival s = .next ({ s1 with parts := s1.parts.set a.n { p with
      gen := s1.gen p.asid, td := tr.1, ta := tr.2.1, tb := tr.2.2, pd := tr.1.pa (va48 p.d), pa := tr.2.1.pa (va48 p.a),
      pb := tr.2.2.pa (va48 p.b) } } : State).done := by
  have hcur : s.current p = false := Bool.eq_false_iff.2 fun h => hg (current_iff.1 h)
  have harr := arrives_of_stale hk ha (heldBack_eq_false hb) hcur hw hh
  exact (onEvent_next evHomeAccessArrival ht).trans (congrArg (fun x : State => Host.Outcome.next x.done) (homeAccess_replays hp hk harr hcur hl hsp he))

end

/-- A line part of an unpaired crew computed and its line written. -/
theorem exec_partExecutes {a : EvArg} {s : State} {p : Part} {k : Crew} (ht : s.turn = some (.event .placedPartExecute a))
    (hp : s.parts[a.n]? = some p) (hk : s.crews[p.crew]? = some k) (hpair : k.pair = none) (hc : s.computable p = true) (h : s.Quiet)
    (hm : inMmio p.pd = false) (hpd : p.pd = p.td.pa (p.d.toNat % 2 ^ 48)) (hd : p.td.enc = false) (hs : p.td.snapshot = false)
    (hta : p.ta.enc = false) (htb : p.tb.enc = false) (ho : ∀ x, p.pd ≤ x → x < p.pd + 64 → s.outsideTables x) (hw : s.noWatch)
    (hy : ∀ e ∈ s.sync.early, e.scratch = false → meetsRange p.pd 64 e.place e.len = false) :
    ∃ t, exec .placedPartExecute s = .next t ∧ t.parts = s.parts.eraseIdx a.n ∧ t.crews = s.crews
      ∧ t.mem = (s.store p.pd (s.partResult p)).mem
      ∧ { t with mem := s.mem, cores := s.cores, parts := s.parts, rel := s.rel, l2 := s.l2, l2Next := s.l2Next, past := s.past, now := s.now, turn := s.turn } = s := by
  obtain ⟨x, l, e⟩ := computePart_quiet h hpair hd hta htb a.n
  have hplain : ({ s with l2 := x, l2Next := l, parts := s.parts.eraseIdx a.n } : State).Plain p.pd (s.partResult p).length := by
    rw [length_partResult]
    exact ⟨h.partials, h.poison, hw, hy, ho⟩
  obtain ⟨cs, x', l', ps, e'⟩ := storesAt_homeWrite hplain p.crew k.core k.desc.asid (m := { tags := p.tags }) rfl hs hd
  have hev : evPlacedPartExecute a s = ({ s with parts := s.parts.eraseIdx a.n, mem := (s.store p.pd (s.partResult p)).mem, cores := cs, l2 := x', l2Next := l', past := ps } : State) := by
    unfold evPlacedPartExecute
    simp only [hp, hk, hc, partErrors_quiet h.poison, not_true_eq_false, if_false]
    rw [e]
    unfold State.gwrite
    simp only [hk, hpair, Option.isSome_none, Bool.false_eq_true, if_false, ← hpd, hm]
    exact e'
  exact ⟨_, (onEvent_next evPlacedPartExecute ht).trans (congrArg (fun x : State => Host.Outcome.next x.done) hev), rfl, rfl, rfl, rfl⟩

/-- A partial merged into its element. -/
theorem exec_merges {a : EvArg} {s : State} {p : Partial} (ht : s.turn = some (.event .reduceStateMerge a)) (hp : s.partials[a.n]? = some p)
    (hm : a.m ≠ 1) (he : p.enc = false) (hw : s.noWatch) (ho : ∀ x, p.pa ≤ x → x < p.pa + 4 → s.outsideTables x) :
    ∃ t, exec .reduceStateMerge s = .next t ∧ t.partials = s.partials.eraseIdx a.n
      ∧ t.mem = (s.store p.pa (leBytes 4 (plredWith p.nan p.op (leWord (s.bytes p.pa 4)) p.value).toNat)).mem
      ∧ { t with partials := s.partials, mem := s.mem, past := s.past, now := s.now, turn := s.turn } = s := by
  obtain ⟨ps, e⟩ := mergeElement_quiet (s := { s with partials := s.partials.eraseIdx a.n }) hw he ho
  have hev : evReduceStateMerge a s = ({ s with partials := s.partials.eraseIdx a.n } : State).mergeElement p := by
    unfold evReduceStateMerge
    simp only [hp, hm, if_false]
  exact ⟨_, (onEvent_next evReduceStateMerge ht).trans (congrArg (fun x : State => Host.Outcome.next x.done) (hev.trans e)), rfl, rfl, rfl⟩

/-- The wait of a GENBUMP over, once no access accepted under an older generation is left. -/
theorem exec_bumpCompletes {a : EvArg} {s : State} {b : Bump} {k : Crew} (ht : s.turn = some (.event .genbumpComplete a)) (hb : s.bumps[a.n]? = some b)
    (hk : s.crews[b.unit.crew]? = some k) (hd : ∀ p ∈ s.parts, p.asid = b.asid → p.accepted = true → p.gen = s.gen b.asid) :
    ∃ t, exec .genbumpComplete s = .next t ∧ Only { s with bumps := s.bumps.eraseIdx a.n } t b.unit.crew (fun _ f => f)
      ∧ ∀ i ∈ k.members b.unit.kind, (k.fibre i).wait = .genbump →
          (t.fibreAt b.unit.crew i).pc = nextPcOf k.kind (k.fibre i) ∧ (t.fibreAt b.unit.crew i).wait = .none := by
  have hdrained : s.drained b.asid = true := by
    refine List.all_eq_true.2 fun p hp => ?_
    by_cases h : p.asid = b.asid ∧ p.accepted = true
    · simp [hd p hp h.1 h.2]
    · simp only [not_and, Bool.not_eq_true] at h
      by_cases hpa : p.asid = b.asid <;> simp [hpa, h]
  have hev : evGenbumpComplete a s = (({ s with bumps := s.bumps.eraseIdx a.n } : State).modFibres b.unit.crew
      ((k.members b.unit.kind).filter fun i => (k.fibre i).wait == .genbump) fun _ f => f.advance k.kind).settle b.unit := by
    unfold evGenbumpComplete
    simp only [hb, hk, hdrained, not_true_eq_false, if_false]
  have hy : ({ s with bumps := s.bumps.eraseIdx a.n } : State).crews[b.unit.crew]? = some k := hk
  refine ⟨_, (onEvent_next evGenbumpComplete ht).trans (congrArg (fun x : State => Host.Outcome.next x.done) hev),
    (settle_done hy _ _ fun _ f => face_advance k.kind f).1, fun i hi hw => ?_⟩
  exact settle_advance hy _ (List.mem_filter.2 ⟨hi, by rw [hw]; rfl⟩) (members_lt hi)

end Sys2Proof.Machine
end

section
open Sys2Proof Sys2Proof.Machine

/-- Settles O53, event by event: an arrival is accepted, replayed or combined, a part is computed, a partial merged, a bump completes. -/
theorem placedPartsAreAcceptedAndExecuted : Obligations.PlacedPartsAreAcceptedAndExecuted := by
  unfold Obligations.PlacedPartsAreAcceptedAndExecuted
  refine ⟨?_, ?_, ?_, ?_, ?_, ?_, ?_⟩
  · exact fun a s p k ht hp hk ha hm hb hg he => exec_accepts ht hp hk ha hb hm hg he
  · exact fun a s p k s1 tr ht hp hk ha hb hg hl hsp hw hh he => exec_replays ht hp hk ha hb hg hl hsp hw hh he
  · exact fun a s p k ht hp hk hpair hc h1 h2 h3 hm hpd hd hs hta htb ho hw hy =>
      exec_partExecutes ht hp hk hpair hc ⟨h1, h2, h3⟩ hm hpd hd hs hta htb ho hw hy
  · exact fun a s p k ht hp hk ha hm hpair hb hg ho hs hpart hq => exec_contributes ht hp hk ha hb hm hpair hg ho hs hpart hq
  · exact fun d a b v nan => ⟨rfl, rfl, rfl, rfl, toInt_imin a b, toInt_imax a b, rfl, rfl⟩
  · exact fun a s p ht hp hm he hw ho => exec_merges ht hp hm he hw ho
  · exact fun a s b k ht hb hk hd => exec_bumpCompletes ht hb hk hd
end

section
/-!
Placed instructions issued (O40): what the checks of R111 pass, the parts that leave, and what GENBUMP changes.
-/
namespace Sys2Proof.Machine

/-! ## The checks of R111 -/

theorem memorySide_lineTr (s : State) (core asid : Nat) (priv : Bool) (major sv : Nat) (l : Lines) :
    MemorySide s (s.lineTr core asid priv major sv l).1 := by
  have ht : ∀ (t : State) (va : Nat) (need : Need) {t' : State} {r : Except Nat Translation}, t.translate core asid va need = (t', r) → MemorySide t t' :=
    fun t va need t' r e => by have h := memorySide_translate t core asid va need; rwa [e] at h
  have hr : ∀ (b : Bool) (t : State) (va : Nat) (need : Need) (d : Translation) {t' : State} {r : Except Nat Translation},
      (if b = true then t.translate core asid va need else (t, .ok d)) = (t', r) → MemorySide t t' := fun b t va need d t' r e => by
    cases b
    · cases e; exact .refl t
    · exact ht t va need e
  unfold State.lineTr
  split
  · exact ht _ _ _ ‹_›
  · rename_i s1 td e1
    split
    · exact (ht _ _ _ e1).trans (hr _ _ _ _ _ ‹_›)
    · rename_i s2 ta e2
      have h2 := (ht _ _ _ e1).trans (hr _ _ _ _ _ e2)
      split
      · exact h2.trans (hr _ _ _ _ _ ‹_›)
      · exact h2.trans (hr _ _ _ _ _ ‹_›)

/-- The lanes are translated in their order, and change the memory side alone. -/
theorem lineTrs_spec (core asid : Nat) (priv : Bool) (major sv : Nat) : ∀ (ls : List Lines) (s : State),
    MemorySide s (lineTrs core asid priv major sv ls s).1 ∧ (lineTrs core asid priv major sv ls s).2.map Prod.fst = ls
  | [], s => ⟨.refl s, rfl⟩
  | l :: ls, s => by
    obtain ⟨h1, h2⟩ := lineTrs_spec core asid priv major sv ls (s.lineTr core asid priv major sv l).1
    exact ⟨(memorySide_lineTr s core asid priv major sv l).trans h1, congrArg (l :: ·) h2⟩

/-- What a lane's translations give, where they succeed. -/
def lineGood (r : Lines × Except (DWord × Nat × Bool) (Translation × Translation × Translation)) : Option (Lines × Translation × Translation × Translation) :=
  match r.2 with
  | .error _ => none
  | .ok t => some (r.1, t)

/-- Where no lane fails, those that succeed are the lanes in their order. -/
theorem filterMap_lineGood {rs : List (Lines × Except (DWord × Nat × Bool) (Translation × Translation × Translation))}
    (h : ∀ r ∈ rs, ∃ t, r.2 = .ok t) : (rs.filterMap lineGood).map Prod.fst = rs.map Prod.fst := by
  induction rs with
  | nil => rfl
  | cons r rs ih =>
    obtain ⟨t, ht⟩ := h r List.mem_cons_self
    have hr : lineGood r = some (r.1, t) := by unfold lineGood; rw [ht]
    rw [List.filterMap_cons_some hr, List.map_cons, List.map_cons, ih fun x hx => h x (List.mem_cons_of_mem _ hx)]

/-- Where the checks pass, each lane is translated, in order, and the memory side alone has changed. -/
theorem checkLines_ok {c : Ctx} {major sv : Nat} {ls : List Lines} {s s' : State} {good : List (Lines × Translation × Translation × Translation)}
    (h : c.checkLines major sv ls s = .ok (s', good)) : MemorySide s s' ∧ good.map Prod.fst = ls := by
  unfold Ctx.checkLines at h
  split at h
  · cases h
  dsimp only at h
  split at h
  · cases h
  generalize herrs : (ls.filterMap fun l => (s.linesError c.core c.asid major sv l).map fun e => (l.lane, e)) = errs at h
  split at h
  · cases h
  rename_i hfailed
  split at h
  · cases h
  split at h
  · cases h
  rename_i hecc
  cases h
  have herr : errs = [] := by
    cases errs with
    | nil => rfl
    | cons e es => cases hecc
  subst herr
  obtain ⟨hm, hl⟩ := lineTrs_spec c.core c.asid c.priv major sv (ls.filter fun l => ([] : List (Nat × Nat × Nat)).all fun e => e.1 != l.lane) s
  refine ⟨hm, (filterMap_lineGood fun r hr => ?_).trans (hl.trans (List.filter_eq_self.2 fun _ _ => rfl))⟩
  have hr' := List.filterMap_eq_nil_iff.1 hfailed r hr
  cases hx : r.2 with
  | ok t => exact ⟨t, rfl⟩
  | error e => simp [hx] at hr'

end Sys2Proof.Machine
end

section
namespace Sys2Proof.Machine

/-! ## Units that wait -/

section
variable {i : Instr} {s x : State} {u : UnitId} {pf : Prefix} {c : Ctx} {body : Ctx → State → Eff}
  (he : ∀ s, exec i s = issue i body s) (h : Ready i s u pf c)
include he h

/-- A ready instruction whose effect leaves a state in which the unit waits: the fibres' marks change beside. -/
theorem waits_at {w : Wait} {ka : Crew} (hx : x.crews[u.crew]? = some ka)
    (hpc : ∀ p ∈ c.all, p < ka.fibres.length ∧ (ka.fibre p).pc = (c.fibre p).pc) (hb : body c (c.start pf s) = c.waitFor w x) :
    ∃ t, exec i s = .next t ∧ WaitsFor t c w ∧ Only x t u.crew (fun _ f => f) := by
  obtain ⟨rfl, -, -, -⟩ := ctx_spec h.2.1
  have hfib : ∀ p, p < ka.fibres.length →
      (ka.modFibres c.all fun _ f => { f with wait := w }).fibre p = if p ∈ c.all then { ka.fibre p with wait := w } else ka.fibre p :=
    fun p hp => Crew.fibre_modFibres _ _ _ _ hp
  obtain ⟨t, ht, -, hwait, honly⟩ := stays_at he h (x := x) hx (kx := ka.modFibres c.all fun _ f => { f with wait := w }) rfl (by simp)
    (hb.trans (congrArg Eff.stay (modCrew_eq_set hx _)))
  refine ⟨t, ht, fun p hp => ?_, honly _ fun p hp => ?_⟩
  · obtain ⟨hlt, hpc⟩ := hpc p hp
    obtain ⟨h1, h2⟩ := hwait p hlt
    rw [h1, h2, hfib p hlt, if_pos hp]
    exact ⟨rfl, hpc⟩
  · rw [hfib p hp]
    split <;> rfl

end

/-- The fibres of the unit stand in a crew whose marks alone may have changed where they stood. -/
theorem Crew.Marked.pc {k k' : Crew} (h : k.Marked k') {u : UnitKind} {p : Nat} (hp : p ∈ k.members u) :
    p < k'.fibres.length ∧ (k'.fibre p).pc = (k.fibre p).pc := by
  obtain ⟨-, hl, hf⟩ := h
  obtain ⟨w, ps, di, dc, ia, e⟩ := hf p
  exact ⟨hl ▸ members_lt hp, by rw [e]; rfl⟩

/-! ## Parts that leave (R112) -/

/-- The operand lines of an active lane. -/
def Ctx.placedLine (c : Ctx) (d a b p : Nat) : Lines :=
  { lane := c.lane p, fibre := p, d := (c.fibre p).pair d, a := (c.fibre p).pair a, b := (c.fibre p).pair b, value := (c.fibre p).val a }

/-- The issue that parts of the unit belong to: that of its accepted parts, or a new one. -/
def Ctx.issueOf (c : Ctx) (s : State) : Nat := (c.all.findSome? fun i => (c.fibre i).accepted).getD s.tick

/-- The part of a lane whose lines are translated. -/
def Ctx.partOf (c : Ctx) (major sv : Nat) (s : State) (g : Lines × Translation × Translation × Translation) : Part :=
  { crew := c.u.crew, unit := c.u.kind, fibre := g.1.fibre, lane := g.1.lane, asid := c.asid, priv := c.priv,
    major := major, s := sv, pc := c.pc, d := g.1.d, a := g.1.a, b := g.1.b, value := g.1.value,
    gen := s.gen c.asid, td := g.2.1, ta := g.2.2.1, tb := g.2.2.2, pd := g.2.1.pa (va48 g.1.d),
    pa := g.2.2.1.pa (va48 g.1.a), pb := g.2.2.2.pa (va48 g.1.b), accepted := false, issue := c.issueOf s,
    order := s.tick, tags := s.carries (c.u.crew, g.1.fibre) }

theorem bodyPlaced_inactive {c : Ctx} (h : c.act = []) (major sv d a b : Nat) (s : State) : bodyPlaced major sv d a b c s = .next s := by
  unfold bodyPlaced
  simp [h]

/-- Where the checks pass and no pair's buffer is full, the parts of the active lanes leave. -/
theorem bodyPlaced_issues {c : Ctx} {major sv d a b : Nat} {s s' : State} {good : List (Lines × Translation × Translation × Translation)}
    (hact : c.act ≠ []) (hacc : ∀ p ∈ c.act, (c.fibre p).accepted = none) (hfull : ∀ n, s.bufferFull c.u.crew n = false)
    (hok : c.checkLines major sv (c.act.map (c.placedLine d a b)) s = .ok (s', good)) :
    bodyPlaced major sv d a b c s = c.waitFor .parts { s' with parts := s'.parts ++ good.map (c.partOf major sv s) } := by
  have hlanes : (c.act.filter fun i => (c.fibre i).accepted.isNone) = c.act := List.filter_eq_self.2 fun p hp => by rw [hacc p hp]; rfl
  unfold bodyPlaced
  rw [hlanes]
  dsimp only
  rw [if_neg (by simpa using hact)]
  change (match c.checkLines major sv (c.act.map (c.placedLine d a b)) s with
    | .error e => e
    | .ok (s', good) => _) = _
  rw [hok]
  dsimp only
  rw [if_neg (by rw [hfull]; exact Bool.false_ne_true)]
  rfl

/-- A crew without a pair has no buffer that could be full. -/
theorem bufferFull_unpaired {s : State} {c : Nat} {k : Crew} (hk : s.crews[c]? = some k) (h : k.pair = none) (n : Nat) : s.bufferFull c n = false := by
  unfold State.bufferFull
  rw [hk, Option.bind_some, h]

theorem MemorySide.parts {s t : State} (h : MemorySide s t) : t.parts = s.parts := (congrArg State.parts h : _)

/-- A placed instruction whose checks pass sends its parts, and its unit waits for them. -/
theorem placed_issues {i : Instr} {major sv : Nat} {d a b : Ctx → Nat} (he : ∀ s, exec i s = issue i (fun c => bodyPlaced major sv (d c) (a c) (b c) c) s)
    {s : State} {u : UnitId} {pf : Prefix} {c : Ctx} (h : Ready i s u pf c) (hact : c.act ≠ []) (hpair : c.crew.pair = none)
    (hacc : ∀ p ∈ c.act, (c.fibre p).accepted = none) {s' : State} {good : List (Lines × Translation × Translation × Translation)}
    (hok : c.checkLines major sv (c.act.map (c.placedLine (d c) (a c) (b c))) (c.start pf s) = .ok (s', good)) :
    ∃ t, exec i s = .next t ∧ WaitsFor t c .parts
      ∧ Only { s' with parts := s.parts ++ good.map (c.partOf major sv (c.start pf s)) } t u.crew (fun _ f => f) := by
  obtain ⟨hu, -, hall, -⟩ := ctx_spec h.2.1
  obtain ⟨k0, hm, e, hk0⟩ := start_marked h.2.1
  obtain ⟨hside, -⟩ := checkLines_ok hok
  have hparts : s'.parts = s.parts := by rw [hside.parts, e]
  have hpair0 : k0.pair = none := by rw [← hpair]; exact (congrArg Crew.pair hm.1 : _)
  refine waits_at he h (x := { s' with parts := s.parts ++ _ }) (ka := k0) ?_ (fun p hp => hm.pc (hall ▸ hp)) ?_
  · exact (congrArg (·[u.crew]?) hside.crews).trans hk0
  · rw [← hparts]
    exact bodyPlaced_issues hact hacc (bufferFull_unpaired (hu ▸ hk0) hpair0) hok

end Sys2Proof.Machine
end

section
namespace Sys2Proof.Machine

/-! ## The generation raised (R105, R107) -/

/-- The generations of an address space at the first `n` dies set. -/
def State.raised (s : State) (asid g n : Nat) : State :=
  (List.range n).foldl (fun t d => { t with gens := sset 0 (16 * asid + d) g t.gens }) s

/-- Its generation raised, the descriptor written and latched. -/
def State.relatched (s : State) (asid : Nat) : State :=
  let g := (s.gen asid + 1) % 2 ^ 16
  (match (s.raised asid g 9).spaceAt? asid with
    | some d => (s.raised asid g 9).put32 (d + 0x10) g
    | none => s.raised asid g 9).latchSpace asid

/-- What an older use of a generation had tagged dropped from the cores' caches. -/
def State.untagged (s : State) (asid g : Nat) : State :=
  s.cores.foldl (fun t x => t.modCore x.1 fun k =>
    { k with tlb := k.tlb.filter fun e => e.asid != asid || e.gen != g, l1 := k.l1.filter fun l => l.asid != asid || l.gen != g }) s

theorem bumpGen_eq (s : State) (asid : Nat) :
    s.bumpGen asid = ((s.relatched asid).untagged asid ((s.gen asid + 1) % 2 ^ 16)).retakeLines asid := rfl

theorem raised_spec (s : State) (asid g : Nat) : ∀ n, ∃ gs, s.raised asid g n = { s with gens := gs }
  | 0 => ⟨s.gens, rfl⟩
  | n + 1 => by
    obtain ⟨gs, e⟩ := raised_spec s asid g n
    unfold State.raised at e ⊢
    rw [List.range_succ, List.foldl_append, e]
    exact ⟨_, rfl⟩

theorem swf_raised {s : State} (h : swf 0 s.gens = true) (asid g : Nat) : ∀ n, swf 0 (s.raised asid g n).gens = true
  | 0 => h
  | n + 1 => by
    have ih := swf_raised h asid g n
    unfold State.raised at ih ⊢
    rw [List.range_succ, List.foldl_append]
    exact swf_sset 0 _ g ih

/-- The generations that a die holds once those of an address space are raised. -/
theorem genAt_raised {s : State} (h : swf 0 s.gens = true) (asid g x : Nat) {die : Nat} (hd : die < 16) :
    ∀ n, n ≤ 16 → (s.raised asid g n).genAt x die = if x = asid ∧ die < n then g else s.genAt x die
  | 0, _ => by rw [if_neg (by omega)]; rfl
  | n + 1, hn => by
    have ih := genAt_raised h asid g x hd n (by omega)
    have hw := swf_raised h asid g n
    unfold State.genAt State.raised at ih hw ⊢
    rw [List.range_succ, List.foldl_append]
    refine (sget_sset 0 (16 * asid + n) g (16 * x + die) hw).trans ?_
    rw [ih]
    by_cases he : 16 * x + die = 16 * asid + n
    · rw [if_pos he, if_pos (by omega)]
    · rw [if_neg he]
      exact if_congr (by omega) rfl rfl

/-! ## The engine operations' lines taken anew (R153, R158) -/

/-- A crew whose engine operations own other lines: none where it is of another address space. -/
structure Crew.Retaken (asid : Nat) (k k' : Crew) : Prop where
  copies : k'.copies.map (fun x => { x with line := none }) = k.copies.map fun x => { x with line := none }
  stores : k'.stores.map (fun x => { x with lines := [] }) = k.stores.map fun x => { x with lines := [] }
  rest : { k' with copies := k.copies, stores := k.stores } = k
  other : k.desc.asid ≠ asid → k' = k

theorem Crew.Retaken.refl (asid : Nat) (k : Crew) : Crew.Retaken asid k k := ⟨rfl, rfl, rfl, fun _ => rfl⟩

/-- A copy's line is taken anew; the rest of it stays. -/
theorem copy_retaken (s : State) (core asid : Nat) (j : LaneCopy) :
    ({ (if j.fault.isSome then j else { j.retake s core asid with bytes := j.bytes }) with line := none } : LaneCopy) = { j with line := none } := by
  by_cases hf : j.fault.isSome = true
  · rw [if_pos hf]
  · rw [if_neg hf]
    simp [LaneCopy.retake, Option.not_isSome_iff_eq_none.1 hf]

theorem store_retaken (s : State) (core asid : Nat) (j : StoreJob) :
    ({ (if j.fault.isSome then j else j.retake s core asid) with lines := [] } : StoreJob) = { j with lines := [] } := by
  by_cases hf : j.fault.isSome = true
  · rw [if_pos hf]
  · rw [if_neg hf]
    simp [StoreJob.retake, Option.not_isSome_iff_eq_none.1 hf]

/-- Crews change in the lines of the address space's engine operations alone. -/
theorem retakeLines_crews (s : State) (asid : Nat) : ∀ (j : Nat) (k : Crew), s.crews[j]? = some k →
    ∃ k', (s.retakeLines asid).crews[j]? = some k' ∧ Crew.Retaken asid k k' := by
  unfold State.retakeLines
  refine List.foldlRecOn (motive := fun t : State => ∀ (j : Nat) (k : Crew), s.crews[j]? = some k → ∃ k', t.crews[j]? = some k' ∧ Crew.Retaken asid k k') _ _
    (fun j k hk => ⟨k, hk, .refl asid k⟩) ?_
  rintro t ih ⟨k0, i⟩ hx j k hk
  obtain ⟨k', hk', hr⟩ := ih j k hk
  dsimp only
  split
  · exact ⟨k', hk', hr⟩
  rename_i hc
  by_cases hj : j = i
  · subst hj
    obtain rfl : k0 = k := Option.some.inj ((List.mem_zipIdx_iff_getElem?.1 hx).symm.trans hk)
    refine ⟨_, crews_modify (s := State.dropLines t _ _) hk' _, ?_, ?_, (congrArg (fun x : Crew => { x with copies := k0.copies, stores := k0.stores }) hr.rest :),
      fun ha => absurd (.inl ha) hc⟩
    · simp only [List.map_map]
      exact List.map_congr_left fun x _ => copy_retaken t k0.core asid x
    · simp only [List.map_map]
      exact List.map_congr_left fun x _ => store_retaken t k0.core asid x
  · exact ⟨k', (crews_modify_ne _ hj _).trans hk', hr⟩

/-! ## What GENBUMP leaves -/

/-- `t` with the fields that GENBUMP may change taken from `s`. -/
def State.bumpOf (t s : State) : State :=
  { t.unmerged s with gens := s.gens, spaces := s.spaces, traps := s.traps, cores := s.cores, crews := s.crews }

/-- `t` differs from `s` by what GENBUMP may change alone. -/
def BumpSide (s t : State) : Prop := t.bumpOf s = s

/-- The generation raised and written to the descriptor: the crews and the cores stay. -/
theorem relatched_spec (s : State) (asid : Nat) : BumpSide s (s.relatched asid) ∧ (s.relatched asid).crews = s.crews
    ∧ (s.relatched asid).gens = (s.raised asid ((s.gen asid + 1) % 2 ^ 16) 9).gens ∧ Untold s (s.relatched asid)
    ∧ ∀ d, s.spaceAt? asid = some d → s.partials = [] → (s.relatched asid).mem = (s.store (d + 0x10) (leBytes 4 ((s.gen asid + 1) % 2 ^ 16))).mem := by
  obtain ⟨gs, e⟩ := raised_spec s asid ((s.gen asid + 1) % 2 ^ 16) 9
  have hat : (s.raised asid ((s.gen asid + 1) % 2 ^ 16) 9).spaceAt? asid = s.spaceAt? asid := by rw [e]; rfl
  unfold State.relatched
  dsimp only
  rw [hat, e]
  cases s.spaceAt? asid with
  | none => exact ⟨rfl, rfl, rfl, .of_eq, fun d hd => by cases hd⟩
  | some d =>
    have hm := merges_put { s with gens := gs } (d + 0x10) (leBytes 4 ((s.gen asid + 1) % 2 ^ 16))
    refine ⟨?_, (congrArg State.crews hm :), (congrArg State.gens hm :), ?_, ?_⟩
    · exact (congrArg (State.bumpOf · s) hm :)
    · exact (Untold.of_eq (s := s) (t := { s with gens := gs })).trans ((untold_put _ _ _).trans .of_eq)
    · rintro _ ⟨⟩ hp
      have hl : ({ s with gens := gs } : State).mergeLines (d + 0x10) (leBytes 4 ((s.gen asid + 1) % 2 ^ 16)).length = { s with gens := gs } := by
        unfold State.mergeLines
        exact if_pos (by simp [hp])
      refine (mem_tellSignals _ _ _).trans ?_
      rw [hl]
      rfl

/-- A fold of changes of cores changes the cores alone. -/
theorem untagged_spec (s : State) (asid g : Nat) : ∃ cs, s.untagged asid g = { s with cores := cs } := by
  unfold State.untagged
  exact List.foldlRecOn (motive := fun t : State => ∃ cs, t = { s with cores := cs }) _ _ ⟨s.cores, rfl⟩
    fun t ⟨cs, e⟩ x _ => by subst e; exact ⟨_, rfl⟩

/-- Lines taken anew change the cores' L1 and the crews alone. -/
theorem retakeLines_spec (s : State) (asid : Nat) : ∃ cs ks, s.retakeLines asid = { s with cores := cs, crews := ks } := by
  unfold State.retakeLines
  refine List.foldlRecOn (motive := fun t : State => ∃ cs ks, t = { s with cores := cs, crews := ks }) _ _ ⟨s.cores, s.crews, rfl⟩
    fun t ⟨cs, ks, e⟩ x _ => ?_
  subst e
  dsimp only
  split
  · exact ⟨cs, ks, rfl⟩
  · exact ⟨_, _, rfl⟩

/-- GENBUMP's effect on the state, as the parts that follow one another leave it. -/
theorem bumpGen_spec (s : State) (asid : Nat) : (∃ cs ks, s.bumpGen asid = { s.relatched asid with cores := cs, crews := ks })
    ∧ ∀ (j : Nat) (k : Crew), s.crews[j]? = some k → ∃ k', (s.bumpGen asid).crews[j]? = some k' ∧ Crew.Retaken asid k k' := by
  obtain ⟨cs, e⟩ := untagged_spec (s.relatched asid) asid ((s.gen asid + 1) % 2 ^ 16)
  rw [bumpGen_eq, e]
  obtain ⟨cs', ks, e'⟩ := retakeLines_spec { s.relatched asid with cores := cs } asid
  refine ⟨⟨cs', ks, e'⟩, fun j k hk => retakeLines_crews { s.relatched asid with cores := cs } asid j k ?_⟩
  exact (congrArg (·[j]?) (relatched_spec s asid).2.1).trans hk

end Sys2Proof.Machine
end

section
namespace Sys2Proof.Machine

/-- What an issuing unit begins in owns the lines that stood owned. -/
theorem spaceHeld_start (c : Ctx) (pf : Prefix) (s : State) (asid : Nat) : (c.start pf s).spaceHeld asid = s.spaceHeld asid := by
  obtain ⟨h, -, e⟩ := start_spec c pf s
  have ho : SameOwners (c.start pf s) s := by rw [e]; exact sameOwners_modCrew s _ _ fun _ => rfl
  unfold State.spaceHeld
  rw [spaceAt?_same ho.toSameTables]
  simp only [owned_same ho]

theorem bodyGenbump_inactive {c : Ctx} (h : c.act = []) (s : State) : bodyGenbump c s = .next s := by
  unfold bodyGenbump
  simp [h]

theorem bodyGenbump_held {c : Ctx} (hact : c.act ≠ []) {s : State} (h : s.spaceHeld c.asid = true) : bodyGenbump c s = c.waitFor .held s := by
  unfold bodyGenbump
  rw [if_neg (by simpa using hact), if_pos h]

theorem bodyGenbump_bumps {c : Ctx} (hact : c.act ≠ []) {s : State} (h : s.spaceHeld c.asid = false) :
    bodyGenbump c s = c.waitFor .genbump { s.bumpGen c.asid with bumps := (s.bumpGen c.asid).bumps ++ [{ asid := c.asid, unit := c.u }] } := by
  unfold bodyGenbump
  rw [if_neg (by simpa using hact), if_neg (by simp [h])]

section
variable {i : Instr} {s : State} {u : UnitId} {pf : Prefix} {c : Ctx} (he : ∀ s, exec i s = issue i bodyGenbump s) (h : Ready i s u pf c)
  (hact : c.act ≠ [])
include he h hact

/-- GENBUMP waits for an owned descriptor, and nothing changes. -/
theorem genbump_held (hheld : s.spaceHeld c.asid = true) :
    ∃ t, exec i s = .next t ∧ Only s t u.crew (fun _ f => f) ∧ WaitsFor t c .held := by
  obtain ⟨-, hcrew, hall, -⟩ := ctx_spec h.2.1
  obtain ⟨k0, hm, e, hk0⟩ := start_marked h.2.1
  obtain ⟨t, ht, hw, ho⟩ := waits_at he h hk0 (fun p hp => hm.pc (hall ▸ hp)) (bodyGenbump_held hact ((spaceHeld_start c pf s c.asid).trans hheld))
  refine ⟨t, ht, ho.after hcrew e (congrArg (fun k : Crew => { k with bins := c.crew.bins }) hm.1 :) hm.2.1 fun p _ => ?_, hw⟩
  obtain ⟨w, ps, di, dc, ia, ep⟩ := hm.2.2 p
  rw [ep, Fibre.face_marked]

/-- GENBUMP raises the generation, and its unit waits; the state beside is that in which it did so. -/
theorem genbump_bumps (hheld : s.spaceHeld c.asid = false) :
    ∃ t, exec i s = .next t ∧ WaitsFor t c .genbump ∧ Only { (c.start pf s).bumpGen c.asid with
      bumps := ((c.start pf s).bumpGen c.asid).bumps ++ [{ asid := c.asid, unit := u }] } t u.crew (fun _ f => f) := by
  obtain ⟨rfl, -, hall, -⟩ := ctx_spec h.2.1
  obtain ⟨k0, hm, -, hk0⟩ := start_marked h.2.1
  obtain ⟨ka, hka, hr⟩ := (bumpGen_spec (c.start pf s) c.asid).2 _ _ hk0
  have hfib : ka.fibres = k0.fibres := (congrArg Crew.fibres hr.rest :)
  refine waits_at he h (x := { (c.start pf s).bumpGen c.asid with bumps := _ }) hka (fun p hp => ?_)
    (bodyGenbump_bumps hact ((spaceHeld_start c pf s c.asid).trans hheld))
  unfold Crew.fibre
  rw [hfib]
  exact hm.pc (hall ▸ hp)

end

section
variable {s t : State} {u : UnitId} {pf : Prefix} {c : Ctx} (hc : s.ctx? u pf = some c)
  (ho : Only { (c.start pf s).bumpGen c.asid with bumps := ((c.start pf s).bumpGen c.asid).bumps ++ [{ asid := c.asid, unit := u }] } t u.crew (fun _ f => f))
include hc ho

/-- What GENBUMP leaves of the rest of the state. -/
theorem genbump_frame : Only { s.walked t with
    gens := t.gens, spaces := t.spaces, traps := t.traps, draws := s.draws, queues := t.queues, wakes := t.wakes,
    bumps := s.bumps ++ [{ asid := c.asid, unit := u }], crews := ((c.start pf s).bumpGen c.asid).crews } t u.crew (fun _ f => f) := by
  obtain ⟨k0, -, e, -⟩ := start_marked hc
  obtain ⟨⟨cs, ks, ex⟩, -⟩ := bumpGen_spec (c.start pf s) c.asid
  obtain ⟨-, -, hrest, -⟩ := id ho
  rw [ex] at ho hrest ⊢
  generalize hr : (c.start pf s).relatched c.asid = r at ho hrest
  have hside : r.bumpOf (c.start pf s) = c.start pf s := hr ▸ (relatched_spec (c.start pf s) c.asid).1
  have ht := congrArg (β := State) (fun x => { s.walked x with
    gens := x.gens, spaces := x.spaces, traps := x.traps, draws := s.draws, queues := x.queues, wakes := x.wakes,
    bumps := s.bumps ++ [{ asid := c.asid, unit := u }], crews := ks }) hrest
  have hs := congrArg (β := State) (fun x => { x with
    mem := r.mem, past := r.past, partials := r.partials, encOwner := r.encOwner, queues := r.queues, wakes := r.wakes, gens := r.gens,
    spaces := r.spaces, traps := r.traps, cores := cs, crews := ks, bumps := x.bumps ++ [{ asid := c.asid, unit := u }] }) (hside.trans e)
  exact (ht.trans hs.symm) ▸ ho

/-- GENBUMP tells no queue where no WAITSIG watches. -/
theorem genbump_untold (hw : s.noWatch) : t.queues = s.queues ∧ t.wakes = s.wakes := by
  obtain ⟨k0, -, e, -⟩ := start_marked hc
  obtain ⟨⟨cs, ks, ex⟩, -⟩ := bumpGen_spec (c.start pf s) c.asid
  obtain ⟨-, -, hrest, -⟩ := ho
  rw [ex] at hrest
  obtain ⟨-, -, -, hu, -⟩ := relatched_spec (c.start pf s) c.asid
  have hs : Untold s (c.start pf s) := e ▸ .of_eq
  obtain ⟨hq, hk⟩ := hs.trans hu hw
  exact ⟨(congrArg State.queues hrest).trans hq, (congrArg State.wakes hrest).trans hk⟩

/-- GENBUMP changes of the crews the lines that engine operations own, and the fibres of its own. -/
theorem genbump_crews (j : Nat) (k : Crew) (hk : s.crews[j]? = some k) : ∃ k', t.crews[j]? = some k'
    ∧ k'.copies.map (fun x => { x with line := none }) = k.copies.map (fun x => { x with line := none })
    ∧ k'.stores.map (fun x => { x with lines := [] }) = k.stores.map (fun x => { x with lines := [] })
    ∧ (j ≠ u.crew → { k' with copies := k.copies, stores := k.stores } = k)
    ∧ (j ≠ u.crew → k.desc.asid ≠ c.asid → k' = k) := by
  obtain ⟨-, hcrew, -, -⟩ := ctx_spec hc
  obtain ⟨k0, hm, e, hk0⟩ := start_marked hc
  have hbump := (bumpGen_spec (c.start pf s) c.asid).2
  obtain ⟨-, -, -, -, hother, ka, kt, hka, hkt, hsame, -⟩ := ho
  by_cases hj : j = u.crew
  · subst hj
    obtain rfl := Option.some.inj (hcrew.symm.trans hk)
    obtain ⟨kb, hkb, hr⟩ := hbump _ _ hk0
    obtain rfl : ka = kb := Option.some.inj (hka.symm.trans hkb)
    have hcopies : kt.copies = ka.copies ∧ k0.copies = c.crew.copies := ⟨(congrArg Crew.copies hsame :), (congrArg Crew.copies hm.1 :)⟩
    have hstores : kt.stores = ka.stores ∧ k0.stores = c.crew.stores := ⟨(congrArg Crew.stores hsame :), (congrArg Crew.stores hm.1 :)⟩
    exact ⟨kt, hkt, by rw [hcopies.1, hr.copies, hcopies.2], by rw [hstores.1, hr.stores, hstores.2], fun h => absurd rfl h, fun h => absurd rfl h⟩
  · have hk1 : (c.start pf s).crews[j]? = some k := by rw [e]; exact (List.getElem?_set_ne (Ne.symm hj)).trans hk
    obtain ⟨k', hk', hr⟩ := hbump j k hk1
    exact ⟨k', (hother j hj).trans hk', hr.copies, hr.stores, fun _ => hr.rest, fun _ => hr.other⟩

/-- The generations that GENBUMP leaves. -/
theorem genbump_genAt (hcan : s.Canonical) (x : Nat) {die : Nat} (hd : die < 9) :
    t.genAt x die = if x = c.asid then (s.gen c.asid + 1) % 2 ^ 16 else s.genAt x die := by
  obtain ⟨k0, -, e, -⟩ := start_marked hc
  obtain ⟨⟨cs, ks, ex⟩, -⟩ := bumpGen_spec (c.start pf s) c.asid
  obtain ⟨-, -, hrest, -⟩ := ho
  rw [ex] at hrest
  obtain ⟨-, -, hg, -⟩ := relatched_spec (c.start pf s) c.asid
  have hgens : (c.start pf s).gens = s.gens := by rw [e]
  obtain ⟨-, -, -, -, hsw, -⟩ := hcan
  have ht : t.genAt x die = ((c.start pf s).raised c.asid (((c.start pf s).gen c.asid + 1) % 2 ^ 16) 9).genAt x die := by
    unfold State.genAt
    rw [← hg]
    exact congrArg (sget 0 · (16 * x + die)) (congrArg State.gens hrest :)
  have hgen : ∀ y d, (c.start pf s).genAt y d = s.genAt y d := fun y d => by unfold State.genAt; rw [hgens]
  rw [ht, genAt_raised (hgens.symm ▸ hsw) _ _ _ (by omega) 9 (by omega), hgen]
  unfold State.gen
  rw [hgen]
  exact if_congr (by simp [hd]) rfl rfl

/-- GENBUMP writes the descriptor's generation, where no partial is pending. -/
theorem genbump_mem {d : Nat} (hd : s.spaceAt? c.asid = some d) (hp : s.partials = []) :
    t.mem = (s.store (d + 0x10) (leBytes 4 ((s.gen c.asid + 1) % 2 ^ 16))).mem := by
  obtain ⟨k0, -, e, -⟩ := start_marked hc
  obtain ⟨⟨cs, ks, ex⟩, -⟩ := bumpGen_spec (c.start pf s) c.asid
  obtain ⟨-, -, hrest, -⟩ := ho
  rw [ex] at hrest
  obtain ⟨-, -, -, -, hmem⟩ := relatched_spec (c.start pf s) c.asid
  refine (congrArg State.mem hrest).trans ((hmem d ?_ ?_).trans ?_)
  · rw [e]; exact hd
  · rw [e]; exact hp
  · rw [e]; rfl

end

end Sys2Proof.Machine
end

section
namespace Sys2Proof.Machine

/-- What the parts of the active lanes hold, in the order of the lanes. -/
theorem partsOf_spec {c : Ctx} {major sv d a b : Nat} {s s' : State} {good : List (Lines × Translation × Translation × Translation)}
    (hok : c.checkLines major sv (c.act.map (c.placedLine d a b)) s = .ok (s', good)) :
    (good.map (c.partOf major sv s)).length = c.act.length
      ∧ ∀ (j p : Nat), c.act[j]? = some p → ∃ g : Lines × Translation × Translation × Translation, good[j]? = some g
          ∧ g.1 = c.placedLine d a b p ∧ (good.map (c.partOf major sv s))[j]? = some (c.partOf major sv s g) := by
  obtain ⟨-, hl⟩ := checkLines_ok hok
  have hlen : good.length = c.act.length := by simpa using congrArg List.length hl
  refine ⟨by rw [List.length_map, hlen], fun j p hp => ?_⟩
  have hg : (good[j]?).map Prod.fst = some (c.placedLine d a b p) := by rw [← List.getElem?_map, hl, List.getElem?_map, hp]; rfl
  obtain ⟨g, hg, he⟩ := Option.map_eq_some_iff.1 hg
  exact ⟨g, hg, he, by rw [List.getElem?_map, hg]; rfl⟩

/-- A part that leaves where no part of the unit has been accepted belongs to a new issue. -/
theorem issueOf_new {c : Ctx} (h : ∀ q ∈ c.all, (c.fibre q).accepted = none) (s : State) : c.issueOf s = s.tick := by
  unfold Ctx.issueOf
  rw [List.findSome?_eq_none_iff.2 h, Option.getD_none]

/-- The instructions whose effect is that of a placed operation, with its major opcode, its form and its registers. -/
def Placed (i : Instr) (major sv : Nat) (d a b : Ctx → Nat) : Prop :=
  ∀ s, exec i s = issue i (fun c => bodyPlaced major sv (d c) (a c) (b c) c) s

end Sys2Proof.Machine
end

section
open Sys2Proof Sys2Proof.Machine

/-- Settles O40: the lanes that pass the checks send their parts in order, and GENBUMP changes the crews, generations and the descriptor
as its parts one after another leave them. -/
theorem placedInstructionsIssueTheirParts : Obligations.PlacedInstructionsIssueTheirParts := by
  unfold Obligations.PlacedInstructionsIssueTheirParts
  refine ⟨fun i major sv d a b hi s u pf c h => ?_, fun i hi s u pf c h hcan => ?_⟩
  · have he : Placed i major sv d a b := by
      obtain ⟨x, y, z, o, rfl, rfl, rfl, rfl, ⟨rfl, rfl⟩ | ⟨rfl, rfl⟩⟩ | ⟨x, y, z, o, rfl, rfl, rfl, rfl, ⟨rfl, rfl⟩ | ⟨rfl, rfl⟩⟩
        | ⟨x, y, o, rfl, rfl, rfl, rfl, rfl, rfl⟩ | ⟨x, y, o, rfl, rfl, rfl, rfl, rfl, rfl⟩ := hi <;> exact fun _ => rfl
    refine ⟨fun hact => completes_nothing he h (bodyPlaced_inactive hact _ _ _ _ _ _), fun hact hpair hacc s' good hok => ?_⟩
    obtain ⟨t, ht, hw, ho⟩ := placed_issues he h hact hpair hacc hok
    obtain ⟨hlen, hparts⟩ := partsOf_spec hok
    obtain ⟨hu, -, -, -⟩ := ctx_spec h.2.1
    obtain ⟨k0, -, hstart, -⟩ := start_marked h.2.1
    have htick : (c.start pf s).tick = s.tick := by rw [hstart]; rfl
    have hgen : (c.start pf s).gen c.asid = s.gen c.asid := by rw [hstart]; rfl
    refine ⟨t, _, ht, hw, ho, hlen, fun j p hp => ?_⟩
    obtain ⟨g, hg, hline, hx⟩ := hparts j p hp
    refine ⟨_, g, hx, hg, by rw [hline]; rfl, rfl, rfl, rfl, rfl, rfl, rfl, htick, fun hq => (issueOf_new hq _).trans htick, rfl,
      congrArg UnitId.crew hu, congrArg UnitId.kind hu, ?_, ?_, rfl, rfl, rfl, ?_, ?_, ?_, ?_, hgen, rfl⟩ <;>
      (unfold Ctx.partOf; rw [hline]; rfl)
  · have he : ∀ s, exec i s = issue i bodyGenbump s := by
      obtain rfl | rfl : i = .genbumpD ∨ i = .genbumpL := by simpa using hi
      all_goals exact fun _ => rfl
    refine ⟨fun hact => completes_nothing he h (bodyGenbump_inactive hact _), fun hact hheld => genbump_held he h hact hheld, fun hact hheld => ?_⟩
    obtain ⟨t, ht, hw, ho⟩ := genbump_bumps he h hact hheld
    have hc := h.2.1
    exact ⟨t, ht, hw, genbump_untold hc ho, genbump_frame hc ho, genbump_crews hc ho,
      fun die hd => (genbump_genAt hc ho hcan c.asid hd).trans (if_pos rfl),
      fun x die hx hd => (genbump_genAt hc ho hcan x hd).trans (if_neg hx), fun d hd hp => genbump_mem hc ho hd hp⟩
end
